-- ==== Sys2Proof/Word.lean ====
section
/-!
DEFINITION. The word types of the Ndofowa 768 and the plain-data containers the model is built from.
-/
namespace Sys2Proof

/-- One byte of memory (R6). -/
abbrev Byte := BitVec 8

/-- A 32-bit instruction word, vector lane or tile element (R34, R11). -/
abbrev Word := BitVec 32

/-- A 64-bit scalar register value (R56). -/
abbrev X64 := BitVec 64

/-- A vector register: 64 lanes of 32 bits (R122). -/
abbrev VReg := Vector Word 64

/-- Sparse data by key, in ascending key order: an unlisted key holds a default that the reader names.
`Host.Cell` lists are the case of bytes. -/
abbrev Tab (α : Type) := List (Nat × α)

/-- The five slot classes (R37) and the pier class P of R392. -/
inductive SlotClass where
  | C | S | V | W | E | P
  deriving DecidableEq, Repr

/-- The slot's number in TINFO (R341); a pier word has no slot. -/
def SlotClass.number : SlotClass → Nat
  | .C => 0 | .S => 1 | .V => 2 | .W => 3 | .E => 4 | .P => 7

/-- The rounding modes of R107. -/
inductive Rm where
  | rne | rtz | rup | rdn
  deriving DecidableEq, Repr

/-- The three parts of the matrix unit (R211). -/
inductive MatrixPart where
  | load | array | drain
  deriving DecidableEq, Repr

/-- A register of a stopped context that the supervisor writes (R348). A ranked list is written whole: the value written is
the header of its image, and the entries are given beside it (R148). -/
inductive StopReg where
  | x (n : BitVec 6) | p (n : BitVec 4) | m (n : BitVec 3)
  | lane (v : BitVec 5) (l : BitVec 6) | k (n : BitVec 3) (entries : List (BitVec 64)) | control (crn : BitVec 8)
  deriving DecidableEq, Repr

/-- A place of the device-memory window as a host access names it: its link (R367) and its byte offset (R376). -/
structure WindowPlace where
  link : Bool
  off : BitVec 40
  deriving DecidableEq, Repr

end Sys2Proof
end

