-- ==== Sys2Proof/Machine/Table.lean ====
section
/-!
DEFINITION. Operations on the sparse tables `Tab` and on bytes in little-endian order (R6).
-/
namespace Sys2Proof

/-- The value listed for a key. -/
def Tab.get {α : Type} : Tab α → Nat → Option α
  | [], _ => none
  | (k, v) :: t, n => if k = n then some v else Tab.get t n

/-- The table without a key. -/
def Tab.del {α : Type} : Tab α → Nat → Tab α
  | [], _ => []
  | (k, v) :: t, n => if k = n then Tab.del t n else (k, v) :: Tab.del t n

/-- The table with a key placed before the first larger one. -/
def Tab.insert {α : Type} : Tab α → Nat → α → Tab α
  | [], n, w => [(n, w)]
  | (k, v) :: t, n, w => if n < k then (n, w) :: (k, v) :: t else (k, v) :: Tab.insert t n w

/-- The table with a key's value replaced. -/
def Tab.put {α : Type} (t : Tab α) (n : Nat) (w : α) : Tab α := (t.del n).insert n w

/-- The value of a key, an unlisted key holding `dflt`. -/
def Tab.read {α : Type} (t : Tab α) (dflt : α) (n : Nat) : α := (t.get n).getD dflt

/-- The table after a write: writing what an unlisted key holds removes the entry. -/
def Tab.write {α : Type} [DecidableEq α] (t : Tab α) (dflt : α) (n : Nat) (w : α) : Tab α :=
  if w = dflt then t.del n else t.put n w

/-- The keys rise strictly. -/
def Tab.sorted {α : Type} : Tab α → Bool
  | [] => true
  | [_] => true
  | (k, _) :: (l, w) :: t => decide (k < l) && Tab.sorted ((l, w) :: t)

/-- The canonical form: keys rise strictly and no entry equals the default. -/
def Tab.wf {α : Type} [DecidableEq α] (t : Tab α) (dflt : α) : Bool :=
  Tab.sorted t && t.all (fun e => decide (e.2 ≠ dflt))

/-- The bytes of a little-endian number, `n` of them (R6). -/
def leBytes : Nat → Nat → List Byte
  | 0, _ => []
  | n + 1, v => BitVec.ofNat 8 v :: leBytes n (v / 256)

/-- The number a list of bytes holds, the first byte lowest (R6). -/
def leNat : List Byte → Nat
  | [] => 0
  | b :: r => b.toNat + 256 * leNat r

/-- Bits hi..lo of a number. -/
def bitsOf (w hi lo : Nat) : Nat := w / 2 ^ lo % 2 ^ (hi + 1 - lo)

/-- A number's bit as a Bool. -/
def bitOf (w n : Nat) : Bool := w / 2 ^ n % 2 == 1

/-- A number of `n` bits read as two's complement. -/
def sextNat (n w : Nat) : Int := if w % 2 ^ n < 2 ^ (n - 1) then (w % 2 ^ n : Nat) else ((w % 2 ^ n : Nat) : Int) - (2 ^ n : Nat)

/-- Consecutive numbers from `a`, `n` of them. -/
def countFrom : Nat → Nat → List Nat
  | _, 0 => []
  | a, n + 1 => a :: countFrom (a + 1) n

/-- Consecutive bytes read through a byte reader. -/
def readBytes (rd : Nat → Byte) (a n : Nat) : List Byte := (countFrom a n).map rd

/-- Consecutive bytes written into a table of bytes whose unlisted keys read 0. -/
def Tab.writeBytes (t : Tab Byte) (a : Nat) : List Byte → Tab Byte
  | [] => t
  | b :: r => Tab.writeBytes (t.write 0 a b) (a + 1) r

/-- A vector register from a function of its lane number. -/
def lanesOf (f : Nat → Word) : VReg := ⟨⟨(List.range 64).map f⟩, by simp⟩

/-- Lane i of a vector register (R124). -/
def VReg.lane (v : VReg) (i : Nat) : Word := v.toList.getD i 0

/-- The number of the lowest index of a list that satisfies a test. -/
def firstIdx {α : Type} (p : α → Bool) : List α → Option Nat
  | [] => none
  | a :: r => if p a then some 0 else (firstIdx p r).map (· + 1)

/-- The list with the element at an index changed. -/
def modIdx {α : Type} (f : α → α) : List α → Nat → List α
  | [], _ => []
  | a :: r, 0 => f a :: r
  | a :: r, n + 1 => a :: modIdx f r n

/-- The number of set bits. -/
def popcount (w : Nat) (v : BitVec w) : Nat := (List.range w).foldl (fun n i => n + (v.getLsbD i).toNat) 0

end Sys2Proof
end

