-- ==== Sys2Proof/Machine/Float.lean ====
section
/-!
DEFINITION. Floating-point formats and one-rounding arithmetic on exact values (R102, R103, R107 to R110).
-/
namespace Sys2Proof

/-- A binary format: exponent width, fraction width and whether it has infinities (R102, R103). -/
structure Fmt where
  eBits : Nat
  fBits : Nat
  hasInf : Bool
  deriving DecidableEq, Repr

def f32 : Fmt := ⟨8, 23, true⟩
def f16 : Fmt := ⟨5, 10, true⟩
def bf16 : Fmt := ⟨8, 7, true⟩
def e4m3 : Fmt := ⟨4, 3, false⟩
def e5m2 : Fmt := ⟨5, 2, true⟩

/-- The exponent bias (R102). -/
def Fmt.bias (f : Fmt) : Int := ((2 ^ (f.eBits - 1) - 1 : Nat) : Int)
/-- The position of the sign bit. -/
def Fmt.signBit (f : Fmt) : Nat := f.eBits + f.fBits
/-- The exponent of the subnormal grid's step. -/
def Fmt.qmin (f : Fmt) : Int := 1 - f.bias - f.fBits
/-- The bits with a sign. -/
def Fmt.withSign (f : Fmt) (neg : Bool) (w : Nat) : Nat := if neg then w + 2 ^ f.signBit else w
/-- The largest finite magnitude (R102). -/
def Fmt.maxFinite (f : Fmt) : Nat := if f.hasInf then (2 ^ f.eBits - 1) * 2 ^ f.fBits - 1 else 2 ^ f.signBit - 2
/-- The canonical NaN (R102). -/
def Fmt.nan (f : Fmt) : Nat := if f.hasInf then (2 ^ f.eBits - 1) * 2 ^ f.fBits + 2 ^ (f.fBits - 1) else 2 ^ f.signBit - 1
/-- Infinity, or NaN where the format has none (R108). -/
def Fmt.inf (f : Fmt) (neg : Bool) : Nat :=
  if f.hasInf then f.withSign neg ((2 ^ f.eBits - 1) * 2 ^ f.fBits) else f.nan

/-- An exact value: NaN, an infinity, or (-1)^neg * m * 2^e. -/
inductive Val where
  | nan
  | inf (neg : Bool)
  | fin (neg : Bool) (m : Nat) (e : Int)
  deriving DecidableEq, Repr

/-- The value a code stands for (R102, R103). -/
def Fmt.unpack (f : Fmt) (w : Nat) : Val :=
  let neg := bitOf w f.signBit
  let ex := bitsOf w (f.signBit - 1) f.fBits
  let fr := w % 2 ^ f.fBits
  if ex = 2 ^ f.eBits - 1 ∧ f.hasInf then (if fr = 0 then .inf neg else .nan)
  else if ex = 2 ^ f.eBits - 1 ∧ fr = 2 ^ f.fBits - 1 then .nan
  else if ex = 0 then .fin neg fr f.qmin
  else .fin neg (2 ^ f.fBits + fr) ((ex : Int) - f.bias - f.fBits)

/-- A subnormal code. -/
def Fmt.isSub (f : Fmt) (w : Nat) : Bool :=
  bitsOf w (f.signBit - 1) f.fBits == 0 && w % 2 ^ f.fBits != 0

/-- A NaN code. -/
def Fmt.isNan (f : Fmt) (w : Nat) : Bool := f.unpack w == .nan

/-- A subnormal code made a zero of its sign (R110). -/
def Fmt.flush (f : Fmt) (exposed : Bool) (w : Nat) : Nat :=
  if exposed && f.isSub w then f.withSign (bitOf w f.signBit) 0 else w

/-- m / 2^k rounded to an integer; `sticky` says that the value lies above m by less than one (R107). -/
def roundShift (rm : Rm) (neg : Bool) (m : Nat) (k : Int) (sticky : Bool) : Nat :=
  if k ≤ 0 then m * 2 ^ k.natAbs + (if sticky && (rm == .rup && !neg || rm == .rdn && neg) then 1 else 0)
  else
    let d := 2 ^ k.natAbs
    let q := m / d
    let r := m % d
    let inexact := r != 0 || sticky
    let inc := match rm with
      | .rne => decide (2 * r > d) || (2 * r == d && (sticky || q % 2 == 1))
      | .rtz => false
      | .rup => inexact && !neg
      | .rdn => inexact && neg
    if inc then q + 1 else q

/-- Which result an overflow gives: the largest finite value rather than infinity (R108). -/
def overflowToMax (rm : Rm) (neg : Bool) : Bool :=
  match rm with
  | .rne => false
  | .rtz => true
  | .rup => neg
  | .rdn => !neg

/-- An exact magnitude m * 2^e (with a sticky excess) rounded into a format (R107, R108). -/
def Fmt.round (f : Fmt) (rm : Rm) (sat : Bool) (neg : Bool) (m : Nat) (e : Int) (sticky : Bool) : Nat :=
  if m = 0 ∧ !sticky then f.withSign neg 0
  else
    let m1 := if m = 0 then 1 else m
    let e1 := if m = 0 then e - 2 else e
    let q0 : Int := (Nat.log2 m1 : Int) + e1 - f.fBits
    let r0 := roundShift rm neg m1 (q0 - e1) sticky
    let carry := decide (r0 = 2 ^ (f.fBits + 1))
    let r := if carry then r0 / 2 else r0
    let q := if carry then q0 + 1 else q0
    if q < f.qmin then
      f.withSign neg (roundShift rm neg m1 (f.qmin - e1) sticky)
    else
      let w := (q - f.qmin + 1).natAbs * 2 ^ f.fBits + (r - 2 ^ f.fBits)
      if w > f.maxFinite then
        (if sat || overflowToMax rm neg then f.withSign neg f.maxFinite else f.inf neg)
      else f.withSign neg w

/-- A value rounded into a format. -/
def Fmt.pack (f : Fmt) (rm : Rm) (sat : Bool) : Val → Nat
  | .nan => f.nan
  | .inf neg => if sat then f.withSign neg f.maxFinite else f.inf neg
  | .fin neg m e => f.round rm sat neg m e false

/-- The exact sum of two finite values, as a signed mantissa over the lower exponent. -/
def sumExact (n1 : Bool) (m1 : Nat) (e1 : Int) (n2 : Bool) (m2 : Nat) (e2 : Int) : Int × Int :=
  let e := if e1 ≤ e2 then e1 else e2
  let a : Int := (m1 * 2 ^ (e1 - e).natAbs : Nat)
  let b : Int := (m2 * 2 ^ (e2 - e).natAbs : Nat)
  ((if n1 then -a else a) + (if n2 then -b else b), e)

/-- Exact addition, with the sign IEEE 754 gives a zero sum (R103). -/
def Val.add (rm : Rm) (x y : Val) : Val :=
  match x, y with
  | .nan, _ => .nan
  | _, .nan => .nan
  | .inf a, .inf b => if a = b then .inf a else .nan
  | .inf a, .fin _ _ _ => .inf a
  | .fin _ _ _, .inf b => .inf b
  | .fin n1 m1 e1, .fin n2 m2 e2 =>
    let s := sumExact n1 m1 e1 n2 m2 e2
    if s.1 = 0 then .fin (if n1 = n2 ∧ m1 = 0 ∧ m2 = 0 then n1 else decide (rm = .rdn)) 0 s.2
    else .fin (decide (s.1 < 0)) s.1.natAbs s.2

/-- The value with its sign flipped. -/
def Val.neg : Val → Val
  | .nan => .nan
  | .inf a => .inf (!a)
  | .fin n m e => .fin (!n) m e

/-- Exact multiplication. -/
def Val.mul (x y : Val) : Val :=
  match x, y with
  | .nan, _ => .nan
  | _, .nan => .nan
  | .inf a, .inf b => .inf (a != b)
  | .inf a, .fin n m _ => if m = 0 then .nan else .inf (a != n)
  | .fin n m _, .inf b => if m = 0 then .nan else .inf (n != b)
  | .fin n1 m1 e1, .fin n2 m2 e2 => .fin (n1 != n2) (m1 * m2) (e1 + e2)

/-- The operands of an operation are read flushed in exposed mode, its result written flushed (R110). -/
def Fmt.binop (f : Fmt) (rm : Rm) (exposed : Bool) (op : Val → Val → Val) (a b : Nat) : Nat :=
  f.flush exposed (f.pack rm false (op (f.unpack (f.flush exposed a)) (f.unpack (f.flush exposed b))))

def Fmt.add (f : Fmt) (rm : Rm) (exposed : Bool) (a b : Nat) : Nat := f.binop rm exposed (Val.add rm) a b
def Fmt.sub (f : Fmt) (rm : Rm) (exposed : Bool) (a b : Nat) : Nat :=
  f.binop rm exposed (fun x y => x.add rm y.neg) a b
def Fmt.mul (f : Fmt) (rm : Rm) (exposed : Bool) (a b : Nat) : Nat := f.binop rm exposed Val.mul a b
/-- a * b + c with one rounding (R127). -/
def Fmt.fma (f : Fmt) (rm : Rm) (exposed : Bool) (a b c : Nat) : Nat :=
  f.binop rm exposed (fun x y => (x.mul y).add rm (f.unpack (f.flush exposed c))) a b

/-- a / b with one rounding (R127). -/
def Fmt.div (f : Fmt) (rm : Rm) (exposed : Bool) (a b : Nat) : Nat :=
  f.flush exposed <|
  match f.unpack (f.flush exposed a), f.unpack (f.flush exposed b) with
  | .nan, _ => f.nan
  | _, .nan => f.nan
  | .inf _, .inf _ => f.nan
  | .inf n, .fin k _ _ => f.inf (n != k)
  | .fin n _ _, .inf k => f.withSign (n != k) 0
  | .fin n m1 e1, .fin k m2 e2 =>
    if m2 = 0 then (if m1 = 0 then f.nan else f.inf (n != k))
    else
      let sh := f.fBits + 4 + Nat.log2 m2 + 1
      let num := m1 * 2 ^ sh
      f.round rm false (n != k) (num / m2) (e1 - e2 - sh) (num % m2 != 0)

/-- Newton steps toward the integer square root, from above. -/
def isqrtStep : Nat → Nat → Nat → Nat
  | 0, _, x => x
  | k + 1, n, x => let y := (x + n / x) / 2; if y < x then isqrtStep k n y else x

/-- The integer square root, rounded down. -/
def isqrt (n : Nat) : Nat := if n = 0 then 0 else isqrtStep 64 n (2 ^ (Nat.log2 n / 2 + 1))

/-- The square root (R127, R129). -/
def Fmt.sqrt (f : Fmt) (rm : Rm) (exposed : Bool) (a : Nat) : Nat :=
  f.flush exposed <|
  match f.unpack (f.flush exposed a) with
  | .nan => f.nan
  | .inf n => if n then f.nan else f.inf false
  | .fin n m e =>
    if m = 0 then f.withSign n 0
    else if n then f.nan
    else
      let sh := 2 * (f.fBits + 4) + (e % 2).natAbs
      let v := m * 2 ^ sh
      let r := isqrt v
      f.round rm false false r ((e - sh) / 2) (r * r != v)

/-- 1 / sqrt a (R127, R129). -/
def Fmt.rsqrt (f : Fmt) (rm : Rm) (exposed : Bool) (a : Nat) : Nat :=
  f.flush exposed <|
  match f.unpack (f.flush exposed a) with
  | .nan => f.nan
  | .inf n => if n then f.nan else f.withSign false 0
  | .fin n m e =>
    if m = 0 then f.inf n
    else if n then f.nan
    else
      let m' := if e % 2 = 0 then m else 2 * m
      let h := if e % 2 = 0 then e / 2 else (e - 1) / 2
      let k := f.fBits + 4 + Nat.log2 m' + 1
      let r := isqrt (2 ^ (2 * k) / m')
      f.round rm false false r (-h - k) (r * r * m' != 2 ^ (2 * k))

/-- Numerical order of two values that are no NaN; -0 equals +0. -/
def Val.lt (x y : Val) : Bool :=
  match x, y with
  | .nan, _ => false
  | _, .nan => false
  | .inf a, .inf b => a && !b
  | .inf a, .fin _ _ _ => a
  | .fin _ _ _, .inf b => !b
  | .fin n1 m1 e1, .fin n2 m2 e2 => decide ((sumExact n1 m1 e1 (!n2) m2 e2).1 < 0)

/-- Equality of two values that are no NaN; -0 equals +0. -/
def Val.eqv (x y : Val) : Bool := x != .nan && y != .nan && !x.lt y && !y.lt x

/-- a ordered before b, with -0 below +0 (R79). -/
def Fmt.below (f : Fmt) (a b : Nat) : Bool :=
  (f.unpack a).lt (f.unpack b) ||
    ((f.unpack a).eqv (f.unpack b) && bitOf a f.signBit && !bitOf b f.signBit)

/-- The smaller operand; a NaN yields to the other operand (R79). -/
def Fmt.min (f : Fmt) (exposed : Bool) (a b : Nat) : Nat :=
  let a := f.flush exposed a
  let b := f.flush exposed b
  if f.isNan a then (if f.isNan b then f.nan else b)
  else if f.isNan b then a else if f.below b a then b else a

/-- The larger operand; a NaN yields to the other operand (R79). -/
def Fmt.max (f : Fmt) (exposed : Bool) (a b : Nat) : Nat :=
  let a := f.flush exposed a
  let b := f.flush exposed b
  if f.isNan a then (if f.isNan b then f.nan else b)
  else if f.isNan b then a else if f.below a b then b else a

/-- An exact value rounded to an integer and clamped (R109). -/
def Val.toInt (rm : Rm) (lo hi : Int) : Val → Int
  | .nan => 0
  | .inf n => if n then lo else hi
  | .fin n m e =>
    let r : Int := (roundShift rm n m (-e) false : Nat)
    let v := if n then -r else r
    if v < lo then lo else if v > hi then hi else v

/-- An integer as an exact value. -/
def Val.ofInt (v : Int) : Val := .fin (decide (v < 0)) v.natAbs 0

end Sys2Proof
end

