-- ==== Sys2Proof/Machine/Formats.lean ====
section
/-!
DEFINITION. The element types of R47, the conversions of R81, R109, R116 to R118, the nib family (R104, R105, R121)
and the block sums of the matrix unit and the piers (R111 to R114).
-/
namespace Sys2Proof

/-- An element type of a vector lane (R47). -/
inductive Elem where
  | i32 | n32 | f32 | bf16 | f16 | i16 | i8 | n8
  deriving DecidableEq, Repr

/-- The type a code names (R47). -/
def Elem.ofCode (t : BitVec 3) : Elem :=
  match t.toNat with
  | 0 => .i32 | 1 => .n32 | 2 => .f32 | 3 => .bf16 | 4 => .f16 | 5 => .i16 | 6 => .i8 | _ => .n8

/-- The width of an element in bits. -/
def Elem.width : Elem → Nat
  | .i32 | .n32 | .f32 => 32
  | .bf16 | .f16 | .i16 => 16
  | .i8 | .n8 => 8

/-- The elements a lane holds (R124). -/
def Elem.perLane (t : Elem) : Nat := 32 / t.width

/-- The floating-point format of a type. -/
def Elem.fmt : Elem → Option Fmt
  | .f32 => some Sys2Proof.f32
  | .bf16 => some Sys2Proof.bf16
  | .f16 => some Sys2Proof.f16
  | _ => none

/-- Whether an integer type is signed. -/
def Elem.signed : Elem → Bool
  | .i32 | .i16 | .i8 => true
  | _ => false

/-- The range of an integer type (R101). -/
def Elem.range (t : Elem) : Int × Int :=
  if t.signed then (-((2 ^ (t.width - 1) : Nat) : Int), ((2 ^ (t.width - 1) : Nat) : Int) - 1)
  else (0, ((2 ^ t.width : Nat) : Int) - 1)

/-- The integer an element's bits stand for. -/
def Elem.toInt (t : Elem) (w : Nat) : Int := if t.signed then sextNat t.width w else (w % 2 ^ t.width : Nat)

/-- Element h of a lane (R124). -/
def Elem.get (t : Elem) (lane : Word) (h : Nat) : Nat := lane.toNat / 2 ^ (t.width * h) % 2 ^ t.width

/-- A lane from its elements, element 0 lowest. -/
def Elem.join (t : Elem) : List Nat → Nat
  | [] => 0
  | w :: r => w % 2 ^ t.width + 2 ^ t.width * Elem.join t r

/-- A lane whose element h is a function of h. -/
def Elem.lane (t : Elem) (f : Nat → Nat) : Word := BitVec.ofNat 32 (t.join ((List.range t.perLane).map f))

/-- An integer's bits in n bits. -/
def bitsOfInt (n : Nat) (v : Int) : Nat := (v % ((2 ^ n : Nat) : Int)).toNat

/-- An integer clamped to a range. -/
def clampInt (r : Int × Int) (v : Int) : Int := if v < r.1 then r.1 else if v > r.2 then r.2 else v

/-- The rounding mode a code names (R107). -/
def rmOf (r : BitVec 2) : Rm :=
  match r.toNat with
  | 0 => .rne | 1 => .rtz | 2 => .rup | _ => .rdn

/-- VCVT of one element (R109, R116). -/
def convertElem (src dst : Elem) (rm : Rm) (exposed : Bool) (w : Nat) : Nat :=
  match src.fmt, dst.fmt with
  | some a, some b => b.flush exposed (b.pack rm false (a.unpack (a.flush exposed w)))
  | some a, none => bitsOfInt dst.width ((a.unpack (a.flush exposed w)).toInt rm dst.range.1 dst.range.2)
  | none, some b => b.flush exposed (b.pack rm false (Val.ofInt (src.toInt w)))
  | none, none => bitsOfInt dst.width (clampInt dst.range (src.toInt w))

/-- FCVT by its kind (R81); kinds 5 and 7 are exact. -/
def fcvt (kind : Nat) (rm : Rm) (exposed : Bool) (x : X64) : X64 :=
  let w := x.toNat % 2 ^ 32
  let h := x.toNat % 2 ^ 16
  match kind with
  | 0 => BitVec.ofInt 64 ((f32.unpack (f32.flush exposed w)).toInt rm (-(2 ^ 31)) (2 ^ 31 - 1))
  | 1 => BitVec.ofInt 64 ((f32.unpack (f32.flush exposed w)).toInt rm 0 (2 ^ 32 - 1))
  | 2 => BitVec.ofNat 64 (f32.pack rm false (Val.ofInt (sextNat 32 w)))
  | 3 => BitVec.ofNat 64 (f32.pack rm false (Val.ofInt x.toInt))
  | 4 => BitVec.ofNat 64 (convertElem .f32 .bf16 rm exposed w)
  | 5 => BitVec.ofNat 64 (convertElem .bf16 .f32 rm exposed h)
  | 6 => BitVec.ofNat 64 (convertElem .f32 .f16 rm exposed w)
  | _ => BitVec.ofNat 64 (convertElem .f16 .f32 rm exposed h)

/-- Wide to FP8: FP8 subnormals are produced in both modes (R110, R117). -/
def toFp8 (wide fp8 : Fmt) (ovf : Bool) (rm : Rm) (exposed : Bool) (w : Nat) : Nat :=
  fp8.pack rm (!ovf) (wide.unpack (wide.flush exposed w))

/-- FP8 to wide, exact but for the flush of an f16 subnormal (R118). -/
def fromFp8 (wide fp8 : Fmt) (exposed : Bool) (w : Nat) : Nat :=
  wide.flush exposed (wide.pack .rne false (fp8.unpack w))

/-- The magnitudes of e2m1 and of the power-of-two type in halves, by code bits [2:0] (R105). -/
def nibHalves (e2m1 : Bool) (c : Nat) : Nat :=
  if e2m1 then [0, 1, 2, 3, 4, 6, 8, 12].getD c 0 else [0, 2, 4, 8, 16, 32, 64, 128].getD c 0

/-- decode_nib of R105; `ct` is the code table. -/
def decodeNib (ct : List (BitVec 8)) (type c : Nat) : Val :=
  match type with
  | 0 => Val.ofInt (sextNat 4 c)
  | 1 => .fin (bitOf c 3) (nibHalves true (c % 8)) (-1)
  | 2 => .fin (bitOf c 3) (nibHalves false (c % 8)) (-1)
  | _ => Val.ofInt (ct.getD c 0).toInt

/-- The value scaled by a power of two. -/
def Val.scale (v : Val) (k : Int) : Val :=
  match v with
  | .fin n m e => .fin n m (e + k)
  | w => w

/-- The value of a code under a scale byte (R104, R105). -/
def nibValue (ct : List (BitVec 8)) (scaleByte : Nat) (c : Nat) : Val :=
  (decodeNib ct (bitsOf scaleByte 7 6) c).scale ((bitsOf scaleByte 5 0 : Nat) - 32)

/-- The code whose key is nearest to q, both over 2^-1 or finer; a tie takes the earlier code of the list (R121). -/
def nearestCode (neg : Bool) (m : Nat) (e : Int) (cands : List (Nat × Int)) : Nat :=
  let u : Int := if e ≤ -1 then e else -1
  let q : Int := (m * 2 ^ (e - u).natAbs : Nat)
  let q := if neg then -q else q
  let dist := fun (c : Int) => (q - c * ((2 ^ (-1 - u).natAbs : Nat) : Int)).natAbs
  (cands.foldl (fun (b : Option (Nat × Nat)) c =>
    match b with
    | none => some (c.1, dist c.2)
    | some (k, d) => if dist c.2 < d then some (c.1, dist c.2) else some (k, d)) none).elim 0 (·.1)

/-- Magnitude codes with the even ones first, so that a tie takes the even code (R121). -/
def evenFirst : List Nat := [0, 2, 4, 6, 1, 3, 5, 7]

/-- The largest finite stand-in of an infinity for a nearest search. -/
def Val.finite : Val → Option (Bool × Nat × Int)
  | .nan => none
  | .inf n => some (n, 1, 200)
  | .fin n m e => some (n, m, e)

/-- The code VENC4 chooses (R121). -/
def encodeNib (ct : List (BitVec 8)) (scaleByte : Nat) (v : Val) : Nat :=
  match (v.scale (32 - (bitsOf scaleByte 5 0 : Nat))).finite with
  | none => 0
  | some (n, m, e) =>
    match bitsOf scaleByte 7 6 with
    | 0 => bitsOfInt 4 (clampInt (-8, 7) (Val.toInt .rne (-8) 7 (.fin n m e)))
    | 1 => nearestCode false m e (evenFirst.map fun c => (c, (nibHalves true c : Int))) + (if n then 8 else 0)
    | 2 => nearestCode false m e (evenFirst.map fun c => (c, (nibHalves false c : Int))) + (if n then 8 else 0)
    | _ => nearestCode n m e ((List.range 16).map fun c => (c, 2 * (ct.getD c 0).toInt))

/-- A matrix format (R47, fmt). -/
inductive MFmt where
  | bf16 | f16 | i8 | e4m3 | e5m2 | nib | n8
  deriving DecidableEq, Repr

def MFmt.ofCode (f : BitVec 3) : MFmt :=
  match f.toNat with
  | 0 => .bf16 | 1 => .f16 | 2 => .i8 | 3 => .e4m3 | 4 => .e5m2 | 5 => .nib | _ => .n8

/-- The bits of one value. -/
def MFmt.width : MFmt → Nat
  | .bf16 | .f16 => 16
  | .i8 | .e4m3 | .e5m2 | .n8 => 8
  | .nib => 4

/-- A format of the integer path (R114). -/
def MFmt.isInt : MFmt → Bool
  | .i8 | .n8 => true
  | _ => false

/-- The exact value of a code in a format other than nib; subnormals are honoured (R110). -/
def MFmt.value : MFmt → Nat → Val
  | .bf16, w => Sys2Proof.bf16.unpack w
  | .f16, w => Sys2Proof.f16.unpack w
  | .i8, w => Val.ofInt (sextNat 8 w)
  | .n8, w => Val.ofInt (w % 256 : Nat)
  | .e4m3, w => Sys2Proof.e4m3.unpack w
  | .e5m2, w => Sys2Proof.e5m2.unpack w
  | .nib, _ => .fin false 0 0

/-- The running exact sum of a block: the finite part, the infinities met, a NaN, and whether every product was -0. -/
structure BlockSum where
  m : Int
  e : Int
  posInf : Bool
  negInf : Bool
  nan : Bool
  allNegZero : Bool
  deriving DecidableEq, Repr

/-- The empty sum. -/
def BlockSum.zero : BlockSum := ⟨0, 0, false, false, false, true⟩

/-- A product added exactly (R112). -/
def BlockSum.push (s : BlockSum) (p : Val) : BlockSum :=
  match p with
  | .nan => { s with nan := true }
  | .inf n => if n then { s with negInf := true, allNegZero := false } else { s with posInf := true, allNegZero := false }
  | .fin n m e =>
    if m = 0 then { s with allNegZero := s.allNegZero && n }
    else
      let t := sumExact (decide (s.m < 0)) s.m.natAbs s.e n m e
      { s with m := t.1, e := t.2, allNegZero := false }

/-- The block's sum as a value. -/
def BlockSum.val (s : BlockSum) : Val :=
  if s.nan || s.posInf && s.negInf then .nan
  else if s.posInf then .inf false
  else if s.negInf then .inf true
  else if s.m = 0 then .fin s.allNegZero 0 0
  else .fin (decide (s.m < 0)) s.m.natAbs s.e

/-- A pair's product, NaN operands included (R112). -/
def blockDot (ws xs : List Val) : Val := ((ws.zip xs).foldl (fun s p => s.push (p.1.mul p.2)) BlockSum.zero).val

/-- The floating path of R112 over blocks of (weights, activations, scale exponent). -/
def dotBlocks (acc : Option Nat) : List (List Val × List Val × Int) → Nat
  | [] => acc.getD 0
  | (ws, xs, k) :: r =>
    let t := f32.pack .rne false ((blockDot ws xs).scale k)
    let a := match acc with
      | none => t
      | some a => f32.add .rne false a t
    dotBlocks (some a) r

/-- The integer path of R114: one exact sum wrapped to 32 bits gives what the block order gives. -/
def dotInts (acc : Int) (ws xs : List Int) : Nat :=
  bitsOfInt 32 ((ws.zip xs).foldl (fun s p => s + p.1 * p.2) acc)

end Sys2Proof
end

