-- ==== Sys2Proof/Machine/Elements.lean ====
section
/-!
DEFINITION. Operations on elements of vector lanes (R124, R127, R128, R135) and division at any width (R73).
-/
namespace Sys2Proof

/-- Element-wise application to one lane. -/
def Elem.map1 (t : Elem) (f : Nat → Nat) (x : Word) : Word := t.lane fun h => f (t.get x h)

/-- Element-wise application to two lanes. -/
def Elem.map2 (t : Elem) (f : Nat → Nat → Nat) (x y : Word) : Word := t.lane fun h => f (t.get x h) (t.get y h)

/-- The quotient of R73 at a width w. -/
def divide {w : Nat} (unsigned : Bool) (x y : BitVec w) : BitVec w :=
  if y = 0 then BitVec.allOnes w
  else if unsigned then BitVec.ofNat w (x.toNat / y.toNat) else BitVec.ofInt w (x.toInt.tdiv y.toInt)

/-- The remainder of R73 at a width w. -/
def remainder {w : Nat} (unsigned : Bool) (x y : BitVec w) : BitVec w :=
  if y = 0 then x
  else if unsigned then BitVec.ofNat w (x.toNat % y.toNat) else BitVec.ofInt w (x.toInt.tmod y.toInt)

/-- x is below y, signed or unsigned. -/
def below {w : Nat} (unsigned : Bool) (x y : BitVec w) : Bool :=
  if unsigned then decide (x.toNat < y.toNat) else decide (x.toInt < y.toInt)

/-- The latency of arithmetic in a type: 2 for integers, 4 for floating types (R126). -/
def Elem.lat (t : Elem) : Nat := if t.fmt.isSome then 4 else 2

/-- Two elements combined: a floating function of the format, or an integer function of the width (R127). -/
def Elem.combine (t : Elem) (ff : Fmt → Nat → Nat → Nat) (fi : BitVec t.width → BitVec t.width → BitVec t.width)
    (a b : Nat) : Nat :=
  match t.fmt with
  | some f => ff f a b
  | none => (fi (BitVec.ofNat _ a) (BitVec.ofNat _ b)).toNat

/-- An element computed from one: a floating or an integer function. -/
def Elem.apply (t : Elem) (ff : Fmt → Nat → Nat) (fi : BitVec t.width → BitVec t.width) (a : Nat) : Nat :=
  match t.fmt with
  | some f => ff f a
  | none => (fi (BitVec.ofNat _ a)).toNat

/-- The smaller of two integers by the type's sign. -/
def Elem.imin (t : Elem) (x y : BitVec t.width) : BitVec t.width := if below (!t.signed) y x then y else x
def Elem.imax (t : Elem) (x y : BitVec t.width) : BitVec t.width := if below (!t.signed) x y then y else x

/-- One element of VFMA (R127). -/
def Elem.fma (t : Elem) (rm : Rm) (exposed : Bool) (a b d : Nat) : Nat :=
  match t.fmt with
  | some f => f.fma rm exposed a b d
  | none => (BitVec.ofNat t.width a * BitVec.ofNat t.width b + BitVec.ofNat t.width d).toNat

/-- A floating element with its sign bit cleared or flipped; a NaN gives the canonical NaN (R127, R110). -/
def Fmt.signOp (f : Fmt) (exposed : Bool) (op : Bool → Bool) (a : Nat) : Nat :=
  if f.isNan a then f.nan
  else
    let w := f.flush exposed a
    f.withSign (op (bitOf w f.signBit)) (w % 2 ^ f.signBit)

/-- An element shifted by b mod w (R127). -/
def Elem.shift (t : Elem) (f : BitVec t.width → Nat → BitVec t.width) (a b : Nat) : Nat :=
  (f (BitVec.ofNat _ a) (b % t.width)).toNat

/-- 1 / a: the format's 1 has the bias as exponent. -/
def Fmt.one (f : Fmt) : Nat := f.bias.toNat * 2 ^ f.fBits

/-- The identity of a reduction in a type (R135). -/
def Elem.identity (t : Elem) (op : Nat) : Nat :=
  match op, t.fmt with
  | 0, some f => f.withSign true 0
  | 1, some f => f.inf false
  | 2, some f => f.inf true
  | 0, none => 0
  | 1, none => bitsOfInt t.width t.range.2
  | 2, none => bitsOfInt t.width t.range.1
  | 3, _ => 2 ^ t.width - 1
  | _, _ => 0

/-- One combining step (R135). -/
def Elem.reduce (t : Elem) (op : Nat) (rm : Rm) (exposed : Bool) (a b : Nat) : Nat :=
  match op with
  | 0 => t.combine (fun f => f.add rm exposed) (fun x y => x + y) a b
  | 1 => t.combine (fun f => f.min exposed) t.imin a b
  | 2 => t.combine (fun f => f.max exposed) t.imax a b
  | 3 => a &&& b
  | 4 => a ||| b
  | _ => a ^^^ b

/-- The elements in the order of R124, those of unselected lanes replaced by the identity. -/
def Elem.leaves (t : Elem) (op : Nat) (k : BitVec 64) (v : VReg) : List Nat :=
  (List.range 64).flatMap fun i => (List.range t.perLane).map fun h =>
    if k.getLsbD i then t.get (v.lane i) h else t.identity op

/-- A reduction's result as a scalar: integers extended by their sign (R135). -/
def Elem.toX (t : Elem) (w : Nat) : X64 :=
  match t.fmt with
  | some _ => BitVec.ofNat 64 w
  | none => BitVec.ofInt 64 (t.toInt w)

end Sys2Proof
end

