-- ==== Sys2Proof/Config.lean ====
section
/-!
DEFINITION. What an implementation fixes and the free values the spec leaves open. An `opaque` constant has no body:
nothing can be proved of its value.
-/
namespace Sys2Proof.Config

/-- A fresh free value for each count (log 15): sensors at a snapshot, evicted cache lines. -/
opaque freeValue : Nat → BitVec 64

/-- TINFO's VALUE where the spec names a value the cause does not have (log 15): by case, 0 a pipe with no segment, 1 a
space-1 descriptor's core. -/
opaque openValue : Nat → BitVec 48

/-- A unit the configuration record fuses off: a core by 64 * die + core (R4; log 13). -/
opaque fusedOff : List Byte → Nat → Bool

/-- Whether a partition spans a package of the pod (R379; log 8). -/
opaque spans : Nat → Nat → Bool

/-- The detail code of a mailbox reply where the spec gives none, by the request's place in the machine's history (log 15). -/
opaque replyDetail : Nat → BitVec 16

/-- Whether a fetch takes a word of a bank as it stood before a ferry packet wrote it (R198; log 5): by the context's bundle
count, the address and the age of the write. -/
opaque fetchOld : Nat → Nat → Nat → Bool

/-- The answers of SPDM and MCTP whose contents the spec leaves to those protocols, by request code (log 13). -/
opaque protocolAnswer : Nat → List Byte

/-- SHA-256 of a byte string (R383, R385); the spec names the function and does not define it (log 13). -/
opaque sha256 : List Byte → BitVec 256

/-- The boot ROM's check of an image's signature (R383; log 13). -/
opaque signatureOk : List Byte → Bool

/-- An image's security version (R383; log 13). -/
opaque securityVersion : List Byte → Nat

/-- The lowest security version a configuration record admits (R383; log 13). -/
opaque minimumVersion : List Byte → Nat

/-- A signature by the device identity key (R385; log 13). -/
opaque sign : List Byte → List Byte

/-- The certificate chain of slot 0 (R385; log 13). -/
opaque certificateChain : List Byte

/-- The firmware's privileged routines, word by word (R161; log 13). -/
opaque firmwareRoutine : Nat → Word

/-- The firmware and configuration images the module is made with, by kind (R384; log 13). -/
opaque factoryImage : Nat → List Byte

end Sys2Proof.Config
end

