-- ==== Sys2Proof/Machine/KList.lean ====
section
/-!
DEFINITION. Ranked lists: order, the one rule of entry, thresholds, updates and the memory image (R138 to R150).
-/
namespace Sys2Proof

/-- The type of a list's values (R138). -/
inductive KType where
  | f32 | i32 | n32
  deriving DecidableEq, Repr

/-- A list entry (R138). -/
structure KEntry where
  value : Word
  index : Word
  deriving DecidableEq, Repr

/-- A ranked accumulator (R138). -/
structure KList where
  cap : Nat
  smallest : Bool
  type : KType
  nanDropped : Bool
  entries : List KEntry
  deriving DecidableEq, Repr

/-- The list at launch (R123). -/
def KList.launch : KList := ⟨64, false, .f32, false, []⟩

/-- The type a code names (R52, R148). -/
def KType.ofCode : Nat → Option KType
  | 0 => some .f32
  | 1 => some .i32
  | 2 => some .n32
  | _ => none

def KType.code : KType → Nat
  | .f32 => 0 | .i32 => 1 | .n32 => 2

/-- A number whose order is the order of the values (R139). -/
def KType.key (t : KType) (v : Word) : Int :=
  match t with
  | .i32 => v.toInt
  | .n32 => v.toNat
  | .f32 => if v.msb then -((v.toNat - 2 ^ 31 : Nat) : Int) else v.toNat

/-- Entry a precedes entry b (R139). -/
def KList.precedes (k : KList) (a b : KEntry) : Bool :=
  let x := k.type.key a.value
  let y := k.type.key b.value
  if x = y then decide (a.index.toNat < b.index.toNat)
  else if k.smallest then decide (x < y) else decide (y < x)

/-- A value as it enters: none for a NaN, +0 for a zero or a flushed subnormal (R139). -/
def KType.enter (t : KType) (exposed : Bool) (v : Word) : Option Word :=
  match t with
  | .f32 =>
    if Sys2Proof.f32.isNan v.toNat then none
    else
      let w := Sys2Proof.f32.flush exposed v.toNat
      some (if w = 2 ^ 31 then 0 else BitVec.ofNat 32 w)
  | _ => some v

/-- An entry put at its place; the same entry is kept once (R140). -/
def KList.place (k : KList) (e : KEntry) : List KEntry → List KEntry
  | [] => [e]
  | x :: r => if x = e then x :: r else if k.precedes e x then e :: x :: r else x :: KList.place k e r

/-- The rule of R140: the first c members of the union, NaNs dropped with the flag set. -/
def KList.offer (k : KList) (exposed : Bool) (cands : List KEntry) : KList :=
  let kept := cands.filterMap fun c => (k.type.enter exposed c.value).map fun v => KEntry.mk v c.index
  { k with
    entries := (kept.foldl (fun l e => k.place e l) k.entries).take k.cap
    nanDropped := k.nanDropped || cands.any fun c => (k.type.enter exposed c.value).isNone }

/-- The worst value of a type (R141). -/
def KType.worst (t : KType) (smallest : Bool) : Word :=
  match t with
  | .f32 => if smallest then 0x7F800000#32 else 0xFF800000#32
  | .i32 => if smallest then 0x7FFFFFFF#32 else 0x80000000#32
  | .n32 => if smallest then 0xFFFFFFFF#32 else 0#32

/-- The threshold (R141). -/
def KList.threshold (k : KList) : Word :=
  if k.entries.length = k.cap then (k.entries.getLast?.map (·.value)).getD (k.type.worst k.smallest)
  else k.type.worst k.smallest

/-- An update of a K register, applied to the list it meets at landing (R142). -/
inductive KUpdate where
  /-- KINIT (R144). -/
  | init (cap : Nat) (smallest : Bool) (type : KType)
  /-- KCLR (R144). -/
  | clear
  /-- KINS, KINSI: P7 is written at the same landing (R145). -/
  | insert (exposed : Bool) (cands : List KEntry)
  /-- KMRG, KMRGS (R146, R150). -/
  | merge (exposed : Bool) (cands : List KEntry) (nanDropped : Bool)
  /-- KLOAD (R150). -/
  | load (exposed : Bool) (cap : Nat) (smallest : Bool) (type : KType) (cands : List KEntry) (nanDropped : Bool)
  deriving DecidableEq, Repr

/-- The list after an update. -/
def KUpdate.apply (u : KUpdate) (k : KList) : KList :=
  match u with
  | .init c d t => ⟨c, d, t, false, []⟩
  | .clear => { k with entries := [], nanDropped := false }
  | .insert ex cs => k.offer ex cs
  | .merge ex cs nd => let k' := k.offer ex cs; { k' with nanDropped := k'.nanDropped || nd }
  | .load ex c d t cs nd =>
    let k' := KList.offer ⟨c, d, t, false, []⟩ ex cs
    { k' with nanDropped := k'.nanDropped || nd }

/-- P7 after a KINS or KINSI: a candidate entered (R145). -/
def KList.entered (old new : KList) : Bool := new.entries.any fun e => !old.entries.contains e

/-- The 520-byte image (R148). -/
def KList.image (k : KList) : List Byte :=
  leBytes 8 (k.cap + 2 ^ 8 * k.entries.length + 2 ^ 16 * k.smallest.toNat + 2 ^ 24 * k.type.code
      + 2 ^ 32 * k.nanDropped.toNat)
    ++ ((List.range 64).flatMap fun e => match k.entries[e]? with
      | some x => leBytes 4 x.value.toNat ++ leBytes 4 x.index.toNat
      | none => leBytes 8 0)

/-- The header fields of an image (R148). -/
structure KHeader where
  cap : Nat
  len : Nat
  dir : Nat
  type : Nat
  nanDropped : Bool
  deriving DecidableEq, Repr

def KHeader.ofBytes (b : List Byte) : KHeader :=
  let w := leNat (b.take 8)
  ⟨bitsOf w 7 0, bitsOf w 15 8, bitsOf w 23 16, bitsOf w 31 24, bitOf w 32⟩

/-- The entries 0 to n-1 of an image (R148). -/
def imageEntries (b : List Byte) (n : Nat) : List KEntry :=
  (List.range n).map fun e =>
    let c := (b.drop (8 + 8 * e)).take 8
    ⟨BitVec.ofNat 32 (leNat (c.take 4)), BitVec.ofNat 32 (leNat (c.drop 4))⟩

end Sys2Proof
end

