-- ==== Sys2Proof/Syntax.lean ====
section
/-!
DEFINITION. The syntax of the machine's steps: one constructor for each row of spec/opcode_table.json.
The constructors of rows with an encoding hold the fields of their word as the opcode table names them:
g is the guard [31:28] (R38), the other letters stand where R46 puts the row's fields.
The rows without an encoding are steps of engines, supervisor, host and management; their fields name the
instance: c = 64 * die + core, k the context of the core, q = 16 * die + quad, u = 64 * site + channel,
d the die.
-/
namespace Sys2Proof

/-- One step of the opcode table. -/
inductive Instr where
  /-- ADD (R71). -/
  | add (g : BitVec 4) (d : BitVec 6) (a : BitVec 6) (b : BitVec 6)
  /-- SUB (R71). -/
  | sub (g : BitVec 4) (d : BitVec 6) (a : BitVec 6) (b : BitVec 6)
  /-- AND (R71). -/
  | and (g : BitVec 4) (d : BitVec 6) (a : BitVec 6) (b : BitVec 6)
  /-- OR (R71). -/
  | or (g : BitVec 4) (d : BitVec 6) (a : BitVec 6) (b : BitVec 6)
  /-- XOR (R71). -/
  | xor (g : BitVec 4) (d : BitVec 6) (a : BitVec 6) (b : BitVec 6)
  /-- SHL (R71). -/
  | shl (g : BitVec 4) (d : BitVec 6) (a : BitVec 6) (b : BitVec 6)
  /-- SHR (R71). -/
  | shr (g : BitVec 4) (d : BitVec 6) (a : BitVec 6) (b : BitVec 6)
  /-- SRA (R71). -/
  | sra (g : BitVec 4) (d : BitVec 6) (a : BitVec 6) (b : BitVec 6)
  /-- MUL (R72). -/
  | mul (g : BitVec 4) (d : BitVec 6) (a : BitVec 6) (b : BitVec 6)
  /-- MULH (R72). -/
  | mulh (g : BitVec 4) (d : BitVec 6) (a : BitVec 6) (b : BitVec 6) (s : BitVec 3)
  /-- DIV (R73). -/
  | div (g : BitVec 4) (d : BitVec 6) (a : BitVec 6) (b : BitVec 6) (u : BitVec 1)
  /-- REM (R73). -/
  | rem (g : BitVec 4) (d : BitVec 6) (a : BitVec 6) (b : BitVec 6) (u : BitVec 1)
  /-- MIN (R71). -/
  | min (g : BitVec 4) (d : BitVec 6) (a : BitVec 6) (b : BitVec 6) (u : BitVec 1)
  /-- MAX (R71). -/
  | max (g : BitVec 4) (d : BitVec 6) (a : BitVec 6) (b : BitVec 6) (u : BitVec 1)
  /-- CLZ (R71). -/
  | clz (g : BitVec 4) (d : BitVec 6) (a : BitVec 6)
  /-- CTZ (R71). -/
  | ctz (g : BitVec 4) (d : BitVec 6) (a : BitVec 6)
  /-- POPC (R71). -/
  | popc (g : BitVec 4) (d : BitVec 6) (a : BitVec 6)
  /-- BREV (R71). -/
  | brev (g : BitVec 4) (d : BitVec 6) (a : BitVec 6)
  /-- SEXT (R71). -/
  | sext (g : BitVec 4) (d : BitVec 6) (a : BitVec 6) (s : BitVec 3)
  /-- SHADD (R71). -/
  | shadd (g : BitVec 4) (d : BitVec 6) (a : BitVec 6) (b : BitVec 6) (s : BitVec 3)
  /-- ADDI (R71). -/
  | addi (g : BitVec 4) (d : BitVec 6) (a : BitVec 6) (i : BitVec 9)
  /-- ANDI (R71). -/
  | andi (g : BitVec 4) (d : BitVec 6) (a : BitVec 6) (i : BitVec 9)
  /-- ORI (R71). -/
  | ori (g : BitVec 4) (d : BitVec 6) (a : BitVec 6) (i : BitVec 9)
  /-- XORI (R71). -/
  | xori (g : BitVec 4) (d : BitVec 6) (a : BitVec 6) (i : BitVec 9)
  /-- SHLI (R71). -/
  | shli (g : BitVec 4) (d : BitVec 6) (a : BitVec 6) (i : BitVec 9)
  /-- SHRI (R71). -/
  | shri (g : BitVec 4) (d : BitVec 6) (a : BitVec 6) (i : BitVec 9)
  /-- SRAI (R71). -/
  | srai (g : BitVec 4) (d : BitVec 6) (a : BitVec 6) (i : BitVec 9)
  /-- MOVI (R71). -/
  | movi (g : BitVec 4) (d : BitVec 6) (i : BitVec 15)
  /-- CMP (R74). -/
  | cmp (g : BitVec 4) (p : BitVec 6) (a : BitVec 6) (b : BitVec 6) (c : BitVec 3)
  /-- CMPEQI (R74). -/
  | cmpeqi (g : BitVec 4) (p : BitVec 6) (a : BitVec 6) (i : BitVec 9)
  /-- CMPLTI (R74). -/
  | cmplti (g : BitVec 4) (p : BitVec 6) (a : BitVec 6) (i : BitVec 9)
  /-- PLOG (R75). -/
  | plog (g : BitVec 4) (d : BitVec 4) (a : BitVec 4) (b : BitVec 4) (t : BitVec 4)
  /-- PMOVX (R76). -/
  | pmovx (g : BitVec 4) (d : BitVec 6)
  /-- XMOVP (R76). -/
  | xmovp (g : BitVec 4) (a : BitVec 6)
  /-- SEL (R77). -/
  | sel (g : BitVec 4) (d : BitVec 6) (a : BitVec 6) (b : BitVec 6)
  /-- FADD (R79). -/
  | fadd (g : BitVec 4) (d : BitVec 6) (a : BitVec 6) (b : BitVec 6) (r : BitVec 2)
  /-- FSUB (R79). -/
  | fsub (g : BitVec 4) (d : BitVec 6) (a : BitVec 6) (b : BitVec 6) (r : BitVec 2)
  /-- FMUL (R79). -/
  | fmul (g : BitVec 4) (d : BitVec 6) (a : BitVec 6) (b : BitVec 6) (r : BitVec 2)
  /-- FMIN (R79). -/
  | fmin (g : BitVec 4) (d : BitVec 6) (a : BitVec 6) (b : BitVec 6) (r : BitVec 2)
  /-- FMAX (R79). -/
  | fmax (g : BitVec 4) (d : BitVec 6) (a : BitVec 6) (b : BitVec 6) (r : BitVec 2)
  /-- FCMP (R80). -/
  | fcmp (g : BitVec 4) (p : BitVec 6) (a : BitVec 6) (b : BitVec 6) (c : BitVec 3)
  /-- FCVT (R81). -/
  | fcvt (g : BitVec 4) (d : BitVec 6) (a : BitVec 6) (k : BitVec 4) (r : BitVec 2)
  /-- NOP (R391). -/
  | nop (g : BitVec 4)
  /-- BR (R83). -/
  | br (g : BitVec 4) (o : BitVec 21)
  /-- CALL (R83). -/
  | call (g : BitVec 4) (o : BitVec 21)
  /-- JR (R83). -/
  | jr (g : BitVec 4) (a : BitVec 6) (i : BitVec 9)
  /-- JALR (R83). -/
  | jalr (g : BitVec 4) (d : BitVec 6) (a : BitVec 6) (i : BitVec 9)
  /-- RET (R83). -/
  | ret (g : BitVec 4)
  /-- LOOP (R86). -/
  | loop (g : BitVec 4) (c : BitVec 6) (e : BitVec 4) (r : BitVec 1) (n : BitVec 10)
  /-- LOOPI (R86). -/
  | loopi (g : BitVec 4) (c : BitVec 10) (r : BitVec 1) (n : BitVec 10)
  /-- MODE (R89). -/
  | mode (g : BitVec 4) (i : BitVec 8)
  /-- YIELD (R276). -/
  | yield (g : BitVec 4)
  /-- HALT (R91). -/
  | halt (g : BitVec 4)
  /-- BKPT (R350). -/
  | bkpt (g : BitVec 4) (i : BitVec 8)
  /-- TRAP (R350). -/
  | trap (g : BitVec 4) (i : BitVec 8)
  /-- SYSC (R350). -/
  | sysc (g : BitVec 4) (i : BitVec 8)
  /-- ERET (R349). -/
  | eret (g : BitVec 4)
  /-- CRD (R90). -/
  | crd (g : BitVec 4) (c : BitVec 8) (d : BitVec 6)
  /-- CWR (R90). -/
  | cwr (g : BitVec 4) (c : BitVec 8) (a : BitVec 6)
  /-- IFENCE (R98). -/
  | ifence (g : BitVec 4)
  /-- ISUM (R99). -/
  | isum (g : BitVec 4) (d : BitVec 6) (a : BitVec 6) (k : BitVec 1)
  /-- BANKSW (R100). -/
  | banksw (g : BitVec 4) (a : BitVec 6) (b : BitVec 6)
  /-- NPRB (R357). -/
  | nprb (g : BitVec 4)
  /-- NPRE (R357). -/
  | npre (g : BitVec 4)
  /-- BAR (R94). -/
  | bar (g : BitVec 4) (s : BitVec 3) (i : BitVec 6)
  /-- EFENCE (R93). -/
  | efence (g : BitVec 4)
  /-- WAITS (R315). -/
  | waits (g : BitVec 4) (s : BitVec 8) (x : BitVec 6)
  /-- SIGS (R315). -/
  | sigs (g : BitVec 4) (s : BitVec 8) (x : BitVec 6)
  /-- SEMSET (R315). -/
  | semset (g : BitVec 4) (s : BitVec 8) (x : BitVec 6)
  /-- WAITW (R92). -/
  | waitw (g : BitVec 4) (a : BitVec 6) (b : BitVec 6)
  /-- PSTOP (R274). -/
  | pstop (g : BitVec 4) (a : BitVec 6)
  /-- TKWAIT (R267). -/
  | tkwait (g : BitVec 4)
  /-- TKNEXT (R266). -/
  | tknext (g : BitVec 4) (d : BitVec 6)
  /-- TKDONE (R267). -/
  | tkdone (g : BitVec 4)
  /-- TRET (R347). -/
  | tret (g : BitVec 4)
  /-- LD (R170). -/
  | ld (g : BitVec 4) (d : BitVec 6) (b : BitVec 6) (z : BitVec 3) (i : BitVec 6)
  /-- ST (R170). -/
  | st (g : BitVec 4) (s : BitVec 6) (b : BitVec 6) (z : BitVec 3) (i : BitVec 6)
  /-- LDS8 (R171). -/
  | lds8 (g : BitVec 4) (d : BitVec 6) (s : BitVec 8) (o : BitVec 6) (n : BitVec 1)
  /-- LDS4 (R171). -/
  | lds4 (g : BitVec 4) (d : BitVec 6) (s : BitVec 8) (o : BitVec 6) (n : BitVec 1)
  /-- STS8 (R171). -/
  | sts8 (g : BitVec 4) (x : BitVec 6) (s : BitVec 8) (o : BitVec 6) (n : BitVec 1)
  /-- STS4 (R171). -/
  | sts4 (g : BitVec 4) (x : BitVec 6) (s : BitVec 8) (o : BitVec 6) (n : BitVec 1)
  /-- AMO (R172). -/
  | amo (g : BitVec 4) (d : BitVec 6) (a : BitVec 6) (b : BitVec 6) (o : BitVec 3)
  /-- AMO4 (R172). -/
  | amo4 (g : BitVec 4) (d : BitVec 6) (a : BitVec 6) (b : BitVec 6) (o : BitVec 3)
  /-- CAS (R173). -/
  | cas (g : BitVec 4) (d : BitVec 6) (a : BitVec 6) (b : BitVec 6)
  /-- CAS4 (R173). -/
  | cas4 (g : BitVec 4) (d : BitVec 6) (a : BitVec 6) (b : BitVec 6)
  /-- PREF (R174). -/
  | pref (g : BitVec 4) (a : BitVec 6) (i : BitVec 9)
  /-- CTW (R303). -/
  | ctw (g : BitVec 4) (a : BitVec 6) (e : BitVec 9)
  /-- VNOP (R391). -/
  | vnop (g : BitVec 4)
  /-- VADD (R127). -/
  | vadd (g : BitVec 4) (d : BitVec 5) (a : BitVec 5) (b : BitVec 5) (m : BitVec 3) (t : BitVec 3)
  /-- VSUB (R127). -/
  | vsub (g : BitVec 4) (d : BitVec 5) (a : BitVec 5) (b : BitVec 5) (m : BitVec 3) (t : BitVec 3)
  /-- VMUL (R127). -/
  | vmul (g : BitVec 4) (d : BitVec 5) (a : BitVec 5) (b : BitVec 5) (m : BitVec 3) (t : BitVec 3)
  /-- VFMA (R127). -/
  | vfma (g : BitVec 4) (d : BitVec 5) (a : BitVec 5) (b : BitVec 5) (m : BitVec 3) (t : BitVec 3)
  /-- VMIN (R127). -/
  | vmin (g : BitVec 4) (d : BitVec 5) (a : BitVec 5) (b : BitVec 5) (m : BitVec 3) (t : BitVec 3)
  /-- VMAX (R127). -/
  | vmax (g : BitVec 4) (d : BitVec 5) (a : BitVec 5) (b : BitVec 5) (m : BitVec 3) (t : BitVec 3)
  /-- VABS (R127). -/
  | vabs (g : BitVec 4) (d : BitVec 5) (a : BitVec 5) (m : BitVec 3) (t : BitVec 3)
  /-- VNEG (R127). -/
  | vneg (g : BitVec 4) (d : BitVec 5) (a : BitVec 5) (m : BitVec 3) (t : BitVec 3)
  /-- VAND (R127). -/
  | vand (g : BitVec 4) (d : BitVec 5) (a : BitVec 5) (b : BitVec 5) (m : BitVec 3) (t : BitVec 3)
  /-- VOR (R127). -/
  | vor (g : BitVec 4) (d : BitVec 5) (a : BitVec 5) (b : BitVec 5) (m : BitVec 3) (t : BitVec 3)
  /-- VXOR (R127). -/
  | vxor (g : BitVec 4) (d : BitVec 5) (a : BitVec 5) (b : BitVec 5) (m : BitVec 3) (t : BitVec 3)
  /-- VSHL (R127). -/
  | vshl (g : BitVec 4) (d : BitVec 5) (a : BitVec 5) (b : BitVec 5) (m : BitVec 3) (t : BitVec 3)
  /-- VSHR (R127). -/
  | vshr (g : BitVec 4) (d : BitVec 5) (a : BitVec 5) (b : BitVec 5) (m : BitVec 3) (t : BitVec 3)
  /-- VSRA (R127). -/
  | vsra (g : BitVec 4) (d : BitVec 5) (a : BitVec 5) (b : BitVec 5) (m : BitVec 3) (t : BitVec 3)
  /-- VDIV (R128). -/
  | vdiv (g : BitVec 4) (d : BitVec 5) (a : BitVec 5) (b : BitVec 5) (m : BitVec 3) (t : BitVec 3)
  /-- VREM (R128). -/
  | vrem (g : BitVec 4) (d : BitVec 5) (a : BitVec 5) (b : BitVec 5) (m : BitVec 3) (t : BitVec 3)
  /-- VSQRT (R127). -/
  | vsqrt (g : BitVec 4) (d : BitVec 5) (a : BitVec 5) (m : BitVec 3) (t : BitVec 3)
  /-- VREC (R127). -/
  | vrec (g : BitVec 4) (d : BitVec 5) (a : BitVec 5) (m : BitVec 3) (t : BitVec 3)
  /-- VRSQ (R127). -/
  | vrsq (g : BitVec 4) (d : BitVec 5) (a : BitVec 5) (m : BitVec 3) (t : BitVec 3)
  /-- VEXP2 (R127). -/
  | vexp2 (g : BitVec 4) (d : BitVec 5) (a : BitVec 5) (m : BitVec 3) (t : BitVec 3)
  /-- VLOG2 (R127). -/
  | vlog2 (g : BitVec 4) (d : BitVec 5) (a : BitVec 5) (m : BitVec 3) (t : BitVec 3)
  /-- VCMP (R130). -/
  | vcmp (g : BitVec 4) (m : BitVec 3) (a : BitVec 5) (b : BitVec 5) (c : BitVec 3) (t : BitVec 3)
  /-- VSEL (R131). -/
  | vsel (g : BitVec 4) (d : BitVec 5) (a : BitVec 5) (b : BitVec 5) (m : BitVec 3) (t : BitVec 3)
  /-- VMOV (R131). -/
  | vmov (g : BitVec 4) (d : BitVec 5) (a : BitVec 5) (m : BitVec 3) (t : BitVec 3)
  /-- VBCAST (R132). -/
  | vbcast (g : BitVec 4) (v : BitVec 5) (x : BitVec 6) (m : BitVec 3)
  /-- VIOTA (R132). -/
  | viota (g : BitVec 4) (d : BitVec 5) (m : BitVec 3) (t : BitVec 3)
  /-- VEXT (R132). -/
  | vext (g : BitVec 4) (v : BitVec 5) (x : BitVec 6) (l : BitVec 6) (s : BitVec 1)
  /-- VINS (R132). -/
  | vins (g : BitVec 4) (v : BitVec 5) (x : BitVec 6) (l : BitVec 6)
  /-- VRED (R135). -/
  | vred (g : BitVec 4) (d : BitVec 6) (a : BitVec 5) (o : BitVec 3) (m : BitVec 3) (t : BitVec 3)
  /-- VSCAN (R136). -/
  | vscan (g : BitVec 4) (d : BitVec 5) (a : BitVec 5) (o : BitVec 3) (m : BitVec 3) (t : BitVec 3)
  /-- VPERM (R133). -/
  | vperm (g : BitVec 4) (d : BitVec 5) (a : BitVec 5) (b : BitVec 5) (m : BitVec 3) (t : BitVec 3)
  /-- VPART (R134). -/
  | vpart (g : BitVec 4) (d : BitVec 5) (a : BitVec 5) (m : BitVec 3)
  /-- VCVT (R116). -/
  | vcvt (g : BitVec 4) (d : BitVec 5) (a : BitVec 5) (f : BitVec 3) (t : BitVec 3) (r : BitVec 2) (m : BitVec 3)
  /-- VCV8 (R117). -/
  | vcv8 (g : BitVec 4) (d : BitVec 5) (a : BitVec 5) (e : BitVec 1) (w : BitVec 2) (p : BitVec 2) (o : BitVec 1) (r : BitVec 2) (m : BitVec 3)
  /-- VUN8 (R118). -/
  | vun8 (g : BitVec 4) (d : BitVec 5) (a : BitVec 5) (e : BitVec 1) (w : BitVec 2) (p : BitVec 2) (m : BitVec 3)
  /-- VDEC4 (R119). -/
  | vdec4 (g : BitVec 4) (d : BitVec 5) (a : BitVec 5) (b : BitVec 5) (p : BitVec 3) (t : BitVec 3)
  /-- VENC4 (R120). -/
  | venc4 (g : BitVec 4) (d : BitVec 5) (a : BitVec 5) (x : BitVec 6) (p : BitVec 3) (f : BitVec 2)
  /-- MLOG (R137). -/
  | mlog (g : BitVec 4) (d : BitVec 3) (a : BitVec 3) (b : BitVec 3) (t : BitVec 4)
  /-- MPOP (R137). -/
  | mpop (g : BitVec 4) (x : BitVec 6) (m : BitVec 3)
  /-- MFROMX (R137). -/
  | mfromx (g : BitVec 4) (d : BitVec 3) (x : BitVec 6)
  /-- MTOX (R137). -/
  | mtox (g : BitVec 4) (x : BitVec 6) (m : BitVec 3)
  /-- KINIT (R144). -/
  | kinit (g : BitVec 4) (k : BitVec 3) (c : BitVec 6) (d : BitVec 1) (t : BitVec 2)
  /-- KINS (R145). -/
  | kins (g : BitVec 4) (k : BitVec 3) (a : BitVec 5) (b : BitVec 5) (m : BitVec 3)
  /-- KINSI (R145). -/
  | kinsi (g : BitVec 4) (k : BitVec 3) (a : BitVec 5) (x : BitVec 6) (m : BitVec 3)
  /-- KMRG (R146). -/
  | kmrg (g : BitVec 4) (k : BitVec 3) (a : BitVec 3)
  /-- KOUT (R147). -/
  | kout (g : BitVec 4) (k : BitVec 3) (d : BitVec 5)
  /-- KLEN (R147). -/
  | klen (g : BitVec 4) (k : BitVec 3) (d : BitVec 6)
  /-- KTH (R147). -/
  | kth (g : BitVec 4) (k : BitVec 3)
  /-- KCLR (R144). -/
  | kclr (g : BitVec 4) (k : BitVec 3)
  /-- BARX (R151). -/
  | barx (g : BitVec 4) (s : BitVec 3) (i : BitVec 6) (o : BitVec 3) (v : BitVec 5)
  /-- WNOP (R391). -/
  | wnop (g : BitVec 4)
  /-- VLDS (R177). -/
  | vlds (g : BitVec 4) (v : BitVec 5) (s : BitVec 8) (o : BitVec 6) (m : BitVec 2)
  /-- VSTS (R177). -/
  | vsts (g : BitVec 4) (v : BitVec 5) (s : BitVec 8) (o : BitVec 6) (m : BitVec 2)
  /-- VLDG (R178). -/
  | vldg (g : BitVec 4) (v : BitVec 5) (x : BitVec 6) (m : BitVec 3)
  /-- VSTG (R178). -/
  | vstg (g : BitVec 4) (v : BitVec 5) (x : BitVec 6) (m : BitVec 3)
  /-- VGTS (R179). -/
  | vgts (g : BitVec 4) (v : BitVec 5) (s : BitVec 8) (i : BitVec 5) (m : BitVec 3)
  /-- VSCS (R179). -/
  | vscs (g : BitVec 4) (v : BitVec 5) (s : BitVec 8) (i : BitVec 5) (m : BitVec 3)
  /-- VGTG (R180). -/
  | vgtg (g : BitVec 4) (v : BitVec 5) (x : BitVec 6) (i : BitVec 5) (m : BitVec 3)
  /-- VSCG (R180). -/
  | vscg (g : BitVec 4) (v : BitVec 5) (x : BitVec 6) (i : BitVec 5) (m : BitVec 3)
  /-- KSAVE (R149). -/
  | ksave (g : BitVec 4) (k : BitVec 3) (s : BitVec 8) (o : BitVec 6)
  /-- KLOAD (R150). -/
  | kload (g : BitVec 4) (k : BitVec 3) (s : BitVec 8) (o : BitVec 6)
  /-- KMRGS (R150). -/
  | kmrgs (g : BitVec 4) (k : BitVec 3) (s : BitVec 8) (o : BitVec 6)
  /-- PGET (R181). -/
  | pget (g : BitVec 4) (v : BitVec 5) (p : BitVec 3)
  /-- PPUT (R181). -/
  | pput (g : BitVec 4) (v : BitVec 5) (p : BitVec 3)
  /-- ENOP (R391). -/
  | enop (g : BitVec 4)
  /-- MWLD (R214). -/
  | mwld (g : BitVec 4) (s : BitVec 8) (o : BitVec 6) (p : BitVec 1) (f : BitVec 3)
  /-- MSCL (R216). -/
  | mscl (g : BitVec 4) (x : BitVec 6) (h : BitVec 1)
  /-- MSTR (R215). -/
  | mstr (g : BitVec 4) (s : BitVec 8) (o : BitVec 6) (t : BitVec 2) (a : BitVec 1) (p : BitVec 1) (f : BitVec 3)
  /-- MRANK (R218). -/
  | mrank (g : BitVec 4) (s : BitVec 8) (o : BitVec 6) (t : BitVec 2) (f : BitVec 3)
  /-- MOUT (R219). -/
  | mout (g : BitVec 4) (s : BitVec 8) (o : BitVec 6) (t : BitVec 2) (c : BitVec 3) (r : BitVec 2)
  /-- MZERO (R220). -/
  | mzero (g : BitVec 4) (t : BitVec 2)
  /-- FCMD (R244). -/
  | fcmd (g : BitVec 4) (s : BitVec 8) (o : BitVec 6)
  /-- PCMD (R251). -/
  | pcmd (g : BitVec 4) (s : BitVec 8) (o : BitVec 6)
  /-- PLOAD (R252). -/
  | pload (g : BitVec 4) (s : BitVec 8) (o : BitVec 6)
  /-- SGDEF (R293). -/
  | sgdef (g : BitVec 4) (s : BitVec 8) (o : BitVec 6)
  /-- SGDROP (R294). -/
  | sgdrop (g : BitVec 4) (s : BitVec 8)
  /-- SGPIN (R295). -/
  | sgpin (g : BitVec 4) (s : BitVec 8)
  /-- SGUNPIN (R295). -/
  | sgunpin (g : BitVec 4) (s : BitVec 8)
  /-- SGPUSH (R296). -/
  | sgpush (g : BitVec 4) (s : BitVec 8)
  /-- SGPULL (R296). -/
  | sgpull (g : BitVec 4) (s : BitVec 8)
  /-- SGSTAT (R297). -/
  | sgstat (g : BitVec 4) (s : BitVec 8) (d : BitVec 6)
  /-- SGSPLIT (R298). -/
  | sgsplit (g : BitVec 4) (a : BitVec 6)
  /-- TKPOST (R264). -/
  | tkpost (g : BitVec 4) (s : BitVec 8) (o : BitVec 6)
  /-- LDARM (R322). -/
  | ldarm (g : BitVec 4) (s : BitVec 8) (o : BitVec 6)
  /-- LDREAD (R324). -/
  | ldread (g : BitVec 4) (d : BitVec 6) (a : BitVec 6)
  /-- LDDIS (R325). -/
  | lddis (g : BitVec 4) (a : BitVec 6)
  /-- PNOP (R256). -/
  | pnop
  /-- PEND (R256). -/
  | pend
  /-- PLOOP_IMM (R256). -/
  | ploopImm (n : BitVec 13) (l : BitVec 8)
  /-- PLOOP_REG (R256). -/
  | ploopReg (a : BitVec 3) (l : BitVec 8)
  /-- PARG (R256). -/
  | parg (d : BitVec 3) (n : BitVec 3) (h : BitVec 1)
  /-- PADD (R256). -/
  | padd (d : BitVec 3) (a : BitVec 3) (i : BitVec 20)
  /-- PSETK (R255). -/
  | psetk (k : BitVec 12) (t : BitVec 1) (f : BitVec 2) (x : BitVec 1) (s : BitVec 10)
  /-- PLDX (R256). -/
  | pldx (a : BitVec 3)
  /-- PZER (R256). -/
  | pzer (i : BitVec 4) (n : BitVec 5)
  /-- PROW (R257). -/
  | prow (i : BitVec 4) (a : BitVec 3)
  /-- PROWN (R257). -/
  | prown (i : BitVec 4) (n : BitVec 5) (a : BitVec 3)
  /-- PSTO (R256). -/
  | psto (i : BitVec 4) (n : BitVec 5) (a : BitVec 3)
  /-- PSTOB (R256). -/
  | pstob (i : BitVec 4) (n : BitVec 5) (a : BitVec 3)
  /-- PWAIT (R256). -/
  | pwait
  /-- PCVT (R256). -/
  | pcvt (i : BitVec 4) (n : BitVec 5) (k : BitVec 2)
  /-- PSIG (R256). -/
  | psig (s : BitVec 8) (i : BitVec 8)
  /-- PMOV (R256). -/
  | pmov (k : BitVec 2) (x : BitVec 4) (y : BitVec 4)
  /-- WAITW_REREAD (R92). -/
  | waitwReread (c : BitVec 9) (k : BitVec 2)
  /-- SUPERVISOR_RESUME (R348). -/
  | supervisorResume (c : BitVec 9) (k : BitVec 2)
  /-- RESUME_PRIVILEGED (R348). -/
  | resumePrivileged (c : BitVec 9) (k : BitVec 2) (entry : BitVec 17)
  /-- PREEMPT_CONTEXT (R32). -/
  | preemptContext (c : BitVec 9) (k : BitVec 2)
  /-- FIXED_LATENCY_LANDING (R68). -/
  | fixedLatencyLanding (c : BitVec 9) (k : BitVec 2)
  /-- GLOBAL_LOAD_ARRIVAL (R67). -/
  | globalLoadArrival (c : BitVec 9) (k : BitVec 2) (id : Nat) (bad : Bool)
  /-- ISUM_RESULT (R99). -/
  | isumResult (c : BitVec 9) (k : BitVec 2) (id : Nat)
  /-- TKNEXT_RESULT (R266). -/
  | tknextResult (c : BitVec 9) (k : BitVec 2) (id : Nat)
  /-- SGSTAT_RESULT (R297). -/
  | sgstatResult (c : BitVec 9) (k : BitVec 2) (id : Nat)
  /-- LDREAD_RESULT (R324). -/
  | ldreadResult (c : BitVec 9) (k : BitVec 2) (id : Nat)
  /-- BANKSW_DECISION (R100). -/
  | bankswDecision (c : BitVec 9) (k : BitVec 2)
  /-- ISSUE_RUN_LIMIT (R29). -/
  | issueRunLimit (c : BitVec 9)
  /-- WATCHDOG (R94). -/
  | watchdog (c : BitVec 9) (k : BitVec 2)
  /-- LONG_WAIT_EVENT (R62). -/
  | longWaitEvent (c : BitVec 9) (k : BitVec 2)
  /-- NPR_OVERRUN (R357). -/
  | nprOverrun (c : BitVec 9) (k : BitVec 2)
  /-- TASK_PROMOTION (R27). -/
  | taskPromotion (q : BitVec 7)
  /-- MONITOR_PUBLISH (R326). -/
  | monitorPublish (p : BitVec 8)
  /-- MATRIX_CMD_START (R211). -/
  | matrixCmdStart (c : BitVec 9)
  /-- MATRIX_CMD_RESUME (R222). -/
  | matrixCmdResume (c : BitVec 9) (part : MatrixPart)
  /-- MWLD_COMPLETE (R214). -/
  | mwldComplete (c : BitVec 9)
  /-- MSTR_COMPLETE (R212). -/
  | mstrComplete (c : BitVec 9)
  /-- MOUT_COMPLETE (R219). -/
  | moutComplete (c : BitVec 9)
  /-- MZERO_COMPLETE (R220). -/
  | mzeroComplete (c : BitVec 9)
  /-- FERRY_PACKET_START (R240). -/
  | ferryPacketStart (c : BitVec 9)
  /-- RING_PACKET_TAKE (R248). -/
  | ringPacketTake (c : BitVec 9) (ring : BitVec 2)
  /-- FERRY_RESUME (R242). -/
  | ferryResume (c : BitVec 9)
  /-- FERRY_REPLAY (R243). -/
  | ferryReplay (c : BitVec 9)
  /-- FERRY_PACKET_COMPLETE (R239). -/
  | ferryPacketComplete (c : BitVec 9) (id : Nat)
  /-- PIER_OUTBOX_DELIVER (R249). -/
  | pierOutboxDeliver (c : BitVec 9)
  /-- PIER_CMD_START (R254). -/
  | pierCmdStart (u : BitVec 10)
  /-- PIER_LOAD_APPLY (R252). -/
  | pierLoadApply (u : BitVec 10)
  /-- PIER_CMD_COMPLETE (R258). -/
  | pierCmdComplete (u : BitVec 10)
  /-- TICKET_SERVICE (R287). -/
  | ticketService (c : BitVec 9)
  /-- RECALL_END (R279). -/
  | recallEnd (c : BitVec 9)
  /-- PUSH_OUT_END (R279). -/
  | pushOutEnd (c : BitVec 9)
  /-- COMPACTION_MOVE_END (R282). -/
  | compactionMoveEnd (c : BitVec 9)
  /-- SGDROP_COMPLETE (R294). -/
  | sgdropComplete (c : BitVec 9)
  /-- SGPIN_COMPLETE (R295). -/
  | sgpinComplete (c : BitVec 9)
  /-- SGPUSH_COMPLETE (R296). -/
  | sgpushComplete (c : BitVec 9)
  /-- SGPULL_COMPLETE (R296). -/
  | sgpullComplete (c : BitVec 9)
  /-- SGSPLIT_COMPLETE (R291). -/
  | sgsplitComplete (c : BitVec 9)
  /-- TKPOST_COMPLETE (R264). -/
  | tkpostComplete (c : BitVec 9) (id : Nat)
  /-- OVERFLOW_REFILL (R263). -/
  | overflowRefill (q : BitVec 7)
  /-- DEFERRED_POST (R263). -/
  | deferredPost (q : BitVec 7)
  /-- TASK_RECEIPT (R265). -/
  | taskReceipt (c : BitVec 9) (k : BitVec 2)
  /-- GANG_START (R269). -/
  | gangStart (q : BitVec 7)
  /-- PIPE_ENLARGE (R273). -/
  | pipeEnlarge (c : BitVec 9)
  /-- COMPLETION_WRITE_RETRY (R268). -/
  | completionWriteRetry (n : Nat)
  /-- LDARM_ARMED (R322). -/
  | ldarmArmed (c : BitVec 9) (k : BitVec 2)
  /-- LANDING_WRITE_DEFERRED (R321). -/
  | landingWriteDeferred (c : BitVec 9)
  /-- LAUNCH_COMMIT (R371). -/
  | launchCommit (c : BitVec 9) (word : BitVec 64)
  /-- CONTROL_WINDOW_WRITE (R368). -/
  | controlWindowWrite (off : BitVec 17) (data : List Byte)
  /-- FEAT_ACCEPT_WRITE (R370). -/
  | featAcceptWrite (v : BitVec 128)
  /-- NOTICE_ACK (R374). -/
  | noticeAck (nrd : BitVec 16)
  /-- MAILBOX_REPLY (R372). -/
  | mailboxReply
  /-- CREATE_PARTITION (R373). -/
  | createPartition
  /-- LOAD_PATTERN_IMAGE (R377). -/
  | loadPatternImage
  /-- BIND_APERTURE (R376). -/
  | bindAperture
  /-- UNBIND_APERTURE (R376). -/
  | unbindAperture
  /-- BIND_RING (R246). -/
  | bindRing
  /-- UNBIND_RING (R246). -/
  | unbindRing
  /-- SHOOTDOWN (R302). -/
  | shootdown
  /-- ASSIGN_LANDING_COUNTERS (R316). -/
  | assignLandingCounters
  /-- RELEASE_LANDING_COUNTERS (R316). -/
  | releaseLandingCounters
  /-- ASSIGN_PIERS (R251). -/
  | assignPiers
  /-- RELEASE_PIERS (R251). -/
  | releasePiers
  /-- PUBLISH_MONITORS (R326). -/
  | publishMonitors
  /-- FREEZE (R359). -/
  | freeze
  /-- UNFREEZE (R359). -/
  | unfreeze
  /-- SWAP_OUT (R354). -/
  | swapOut
  /-- SWAP_IN (R354). -/
  | swapIn
  /-- END_PARTITION (R356). -/
  | endPartition (p : BitVec 8)
  /-- CONFIGURE_POD (R379). -/
  | configurePod
  /-- STAGE_SUPERVISOR_FIRMWARE (R384). -/
  | stageSupervisorFirmware
  /-- STAGE_MANAGEMENT_FIRMWARE (R384). -/
  | stageManagementFirmware
  /-- STAGE_CONFIG_RECORD (R384). -/
  | stageConfigRecord
  /-- HOST_WINDOW_READ (R376). -/
  | hostWindowRead (place : WindowPlace) (len : BitVec 13)
  /-- HOST_WINDOW_WRITE (R376). -/
  | hostWindowWrite (place : WindowPlace) (data : List Byte)
  /-- ATOMIC_FETCHADD (R376). -/
  | atomicFetchadd (place : WindowPlace) (wide : Bool) (v : BitVec 64)
  /-- ATOMIC_SWAP (R376). -/
  | atomicSwap (place : WindowPlace) (wide : Bool) (v : BitVec 64)
  /-- ATOMIC_CAS (R376). -/
  | atomicCas (place : WindowPlace) (size : BitVec 2) (cmp : BitVec 64) (v : BitVec 64)
  /-- MODULE_RESET (R382). -/
  | moduleReset
  /-- HOT_RESET (R382). -/
  | hotReset (link : Bool)
  /-- FUNCTION_LEVEL_RESET (R382). -/
  | functionLevelReset (link : Bool)
  /-- MGMT_DIE_RESET (R382). -/
  | mgmtDieReset (d : BitVec 3)
  /-- MCTP_CONTROL (R380). -/
  | mctpControl (setEid : Option (BitVec 8))
  /-- PLDM_SENSOR_READ (R380). -/
  | pldmSensorRead (d : BitVec 3) (sensor : BitVec 8)
  /-- PLDM_FIRMWARE_UPDATE (R384). -/
  | pldmFirmwareUpdate (which : BitVec 2) (image : List Byte)
  /-- GET_VERSION (R385). -/
  | getVersion
  /-- GET_CAPABILITIES (R385). -/
  | getCapabilities
  /-- NEGOTIATE_ALGORITHMS (R385). -/
  | negotiateAlgorithms
  /-- GET_DIGESTS (R385). -/
  | getDigests
  /-- GET_CERTIFICATE (R385). -/
  | getCertificate (slot : BitVec 3)
  /-- CHALLENGE (R385). -/
  | challenge (nonce : BitVec 256)
  /-- GET_MEASUREMENTS (R385). -/
  | getMeasurements (index : BitVec 8)
  /-- ERROR_LOG_READ (R380). -/
  | errorLogRead
  /-- ERROR_LOG_CLEAR (R380). -/
  | errorLogClear
  /-- SET_POWER_LIMIT (R381). -/
  | setPowerLimit (mw : BitVec 32)
  /-- CLOCK_STRETCH_BEGIN (R358). -/
  | clockStretchBegin (d : BitVec 3)
  /-- CLOCK_STRETCH_END (R358). -/
  | clockStretchEnd (d : BitVec 3)
  /-- OVERTEMP_POWER_OFF (R381). -/
  | overtempPowerOff (d : BitVec 3)
  /-- FLIT_RETRY (R378). -/
  | flitRetry (port : BitVec 4)
  /-- PORT_FAILURE (R379). -/
  | portFailure (port : BitVec 4)
  /-- PACKAGE_UNREACHABLE (R379). -/
  | packageUnreachable (pkg : BitVec 6)
  /-- MEMORY_SIDE_CACHE_FLUSH (R164). -/
  | memorySideCacheFlush (site : BitVec 4)
  /-- PAGE_MIGRATION (R168). -/
  | pageMigration (entry : BitVec 52) (newPa : BitVec 52)
  /-- PAGE_MIGRATION_END (R168). -/
  | pageMigrationEnd
  /-- STOPPED_CONTEXT_WRITE (R348). -/
  | stoppedContextWrite (c : BitVec 9) (k : BitVec 2) (r : StopReg) (v : BitVec 64)
  /-- RESIZABLE_BAR_WRITE (R367). -/
  | resizableBarWrite (log2 : BitVec 6)
  deriving DecidableEq, Repr

end Sys2Proof
end

