-- ==== Sys2Proof/Machine/State.lean ====
section
/-!
DEFINITION. The machine's state as plain data: contexts, cores, quads, dies, sites, piers, memory and the outside
(R11, R13, R20, R56, R57, R122, R154, R207, R227, R259, R277, R312), and the state after module reset (R58, R382).
-/
namespace Sys2Proof.Machine

/-- A physical register a result is bound to (R60). -/
inductive Reg where
  | x (n : Nat) | p (n : Nat) | v (n : Nat) | m (n : Nat) | k (n : Nat) | kth (n : Nat)
  deriving DecidableEq, Repr

/-- The value of a pending result. -/
inductive RegVal where
  | x (w : X64)
  | p (b : Bool)
  /-- The selected lanes take the new values at landing (R125). -/
  | v (mask : BitVec 64) (lanes : VReg)
  | m (w : BitVec 64)
  /-- An update of a ranked list, applied at landing (R142). -/
  | k (u : KUpdate)
  | kth (w : Word)
  deriving DecidableEq, Repr

/-- A flight-record entry (R68). -/
structure FlightEntry where
  reg : Reg
  val : RegVal
  /-- Bundles or cycles left. -/
  left : Nat
  /-- Counted in cycles (issued interlocked), not in bundles. -/
  cycles : Bool
  /-- Issue order within the context. -/
  seq : Nat
  deriving DecidableEq, Repr

/-- What delivers a result as a global load's (R67). -/
inductive LoadKind where
  | memory | isum | tknext | sgstat | ldread | segment
  deriving DecidableEq, Repr

/-- An outstanding result delivered as a global load's (R67, R175). -/
structure Load where
  id : Nat
  seq : Nat
  kind : LoadKind
  /-- The destinations still owed a value, with the values read at the access's place in the order. -/
  dests : List (Reg × RegVal)
  /-- ISUM: the cycle of delivery (R99); otherwise 0. -/
  due : Nat
  /-- The physical address and the bundle address an uncorrectable error reports (R175, R360). -/
  phys : Nat
  bundle : Nat
  /-- The data read hold an uncorrectable error; they have arrived with one: the destinations stay pending (R175). -/
  err : Bool
  bad : Bool
  deriving DecidableEq, Repr

/-- A hardware-loop level (R84, R86). -/
structure LoopLevel where
  start : Nat
  stop : Nat
  lc : BitVec 32
  ec : BitVec 4
  rot : Bool
  deriving DecidableEq, Repr

/-- One entry of the sticky-slot memory (R40, R41). -/
structure Sticky where
  word : Word
  bcast : X64
  n : Nat
  step : BitVec 32
  deriving DecidableEq, Repr

/-- The sticky-slot memory (R40). -/
structure StickySet where
  s : Sticky
  v : Sticky
  w : Sticky
  e : Sticky
  deriving DecidableEq, Repr

/-- A no-operation word stands in the entry (R40). -/
def Sticky.nop : Sticky := ⟨0, 0, 0, 0⟩
def StickySet.nop : StickySet := ⟨.nop, .nop, .nop, .nop⟩

/-- MODE (R63). -/
structure Mode where
  ilk : Bool
  vrm : BitVec 2
  priv : Bool
  deriving DecidableEq, Repr

/-- The rotation bases RRB (R61). -/
structure Rrb where
  xb : BitVec 4
  vb : BitVec 4
  pb : BitVec 3
  deriving DecidableEq, Repr

/-- The environment a handler or a privileged routine holds aside (R345, R348). -/
structure Held where
  /-- A privileged routine, not a user handler. -/
  priv : Bool
  mode : Mode
  loops : List LoopLevel
  sticky : StickySet
  frozen : List FlightEntry
  /-- The address written to TPC at entry, where it is the trapped or stopped bundle's (R347, R349): none after a SYSC,
  whose bundle has issued. -/
  entry : Option Nat
  /-- The crossing ticket of the blocked bundle that was stopped (R284). -/
  ticket : Option Nat
  deriving DecidableEq, Repr

/-- Why the supervisor holds a context (R32, R346, R348, R350). -/
inductive StopCause where
  | trap | nested | service | preempt
  deriving DecidableEq, Repr

/-- A supervisor stop: where a plain resume reissues (R346, R348). -/
structure Stop where
  cause : StopCause
  pc : Nat
  rep : Nat
  deriving DecidableEq, Repr

/-- Whether a context runs (R33, R58). -/
inductive Run where
  | halted | idle | running
  deriving DecidableEq, Repr

/-- A barrier of one scope instance and partition (R94). -/
structure BarKey where
  scope : Nat
  inst : Nat
  id : Nat
  part : Nat
  deriving DecidableEq, Repr

/-- An arrival a context has made and not seen released (R94, R151). -/
structure Arrival where
  key : BarKey
  /-- BARX: the op, the physical register the result goes to, and the lanes contributed. -/
  barx : Option (Nat × Nat × List Word)
  deriving DecidableEq, Repr

/-- Arrivals withdrawn by WATCHDOG: the level of handlers they were made at, the bundle and repetition that made them,
where the context goes on once they are released (R94). -/
structure Withdrawn where
  level : Nat
  pc : Nat
  rep : Nat
  contPc : Nat
  contRep : Nat
  arrivals : List Arrival
  deriving DecidableEq, Repr

/-- What a context waits for, with the cycles it has waited (R62, R275). -/
inductive WaitReason where
  | none | queueFull | sync | waits | barrier | load | banksw | segment | fence | pstop | arm
  /-- WAITW: the address and the value compared with (R92). -/
  | waitw (va : Nat) (cmp : X64)
  | pipeGet (p : Nat) | pipePut (p : Nat)
  deriving DecidableEq, Repr

/-- A BANKSW whose sum runs: its bundle, the values read at the start and the cycle of the decision (R100). -/
structure BankWait where
  pc : Nat
  rep : Nat
  sum : Word
  expect : Word
  due : Nat
  deriving DecidableEq, Repr

/-- A word of an instruction bank as it stood before a ferry packet wrote it: the bank, the word, its value, the core and the
identity of the packet, and whether the context has observed the packet's completion event (R191, R198). -/
structure StaleWord where
  bank : Bool
  word : Nat
  old : Word
  core : Nat
  id : Nat
  seen : Bool
  deriving DecidableEq, Repr

/-- Where the completion event of a packet has been announced (R191): to the context that issued it, in a semaphore of a
partition's core, in a word of memory, in a landing counter's count, at a barrier (`held`: for its next generation), by a
task. -/
inductive NewsAt where
  | issuer (core ctx : Nat)
  | sem (core part n : Nat)
  | word (loc : Nat)
  | counter (id core part : Nat)
  | barrier (key : BarKey) (held : Bool)
  | task (bits : BitVec 512) (part : Nat)
  deriving DecidableEq, Repr

/-- The completion event of a packet that has written in an instruction bank, where a context may observe it (R191, R198):
the packet's core and identity, and the cycle of the announcement. -/
structure News where
  core : Nat
  id : Nat
  cycle : Nat
  place : NewsAt
  deriving DecidableEq, Repr

/-- A context (R20, R56). -/
structure Ctx where
  run : Run
  pc : Nat
  rep : Nat
  x : Vector X64 48
  p : BitVec 16
  v : Vector VReg 32
  m : Vector (BitVec 64) 8
  k : Vector KList 8
  kth : Vector Word 8
  rrb : Rrb
  loops : List LoopLevel
  link : X64
  mode : Mode
  tvec : X64
  tpc : X64
  tcause : BitVec 8
  tinfo : X64
  tsave : X64
  wstep : BitVec 32
  bcount : X64
  tklo : X64
  tkhi : X64
  tkgrain : X64
  tkarg : X64
  tkid : X64
  nprlim : Nat
  barto : BitVec 32
  waitto : BitVec 32
  sticky : StickySet
  flight : List FlightEntry
  loads : List Load
  /-- Physical registers whose word holds an uncorrectable error (R360). -/
  flaws : List Reg
  /-- Issue order of the context's next result. -/
  seq : Nat
  held : List Held
  stop : Option Stop
  /-- A pre-emption that waits for a bundle boundary or NPRE (R32, R357). -/
  preempt : Bool
  frozen : Bool
  /-- A gang member parked by the stop token or by its end (R269, R274). -/
  parked : Bool
  /-- Stopped at a bundle boundary by the stop step of a swap under way (R354). -/
  swapStop : Bool
  /-- The bundle count of an open non-preemptible region (R357). -/
  region : Option Nat
  /-- The task of the part held (R265). -/
  task : Option Nat
  participant : Bool
  arrivals : List Arrival
  /-- Results of BARX whose generation was released while the partition did not run: registers and lanes (R353). -/
  owedBarx : List (Nat × List Word)
  /-- Arrivals withdrawn by WATCHDOG, innermost level first (R94). -/
  withdrawn : List Withdrawn
  /-- The bundle and repetition that made the arrivals awaited. -/
  barAt : Nat × Nat
  barCycles : Nat
  wait : WaitReason
  waitCycles : Nat
  waitCounted : Bool
  /-- A WAITW whose last read differed (R92). -/
  waitwEnded : Bool
  bank : Option BankWait
  /-- Words of the banks that a ferry has written and this context may still fetch as they were (R198). -/
  stale : List StaleWord
  /-- The attempt just made found that the bundle would issue past NPRLIM (R357). -/
  wouldIssue : Bool
  /-- An LDARM of a global counter whose counter has been armed at its home (R322). -/
  armed : Bool
  /-- The crossing ticket of a blocked bundle (R284). -/
  ticket : Option Nat
  /-- Commands issued and not completed (R93). -/
  inflight : List Nat
  /-- The volatile range of the kernel: XLO, XN, VLO, VN (R304). -/
  vol : Nat × Nat × Nat × Nat
  /-- The cycle of the last KINS or KINSI to each K (R142). -/
  kinsAt : Vector (Option Nat) 8
  /-- The cycle from which the context may issue (R95, R344, R347). -/
  readyAt : Nat
  deriving DecidableEq, Repr

/-- A segment's state (R278). -/
inductive SegState where
  | absent | resident | moving
  deriving DecidableEq, Repr

/-- A segment's role (R156, R278). -/
inductive Role where
  | data | pipe | landing | stack | instr
  deriving DecidableEq, Repr

/-- A defined segment: its descriptor (R278) and, while it is in the local store, its bytes. -/
structure Seg where
  name : Nat
  len : Nat
  state : SegState
  pinned : Bool
  role : Role
  dirty : Bool
  zf : Bool
  pipe : Nat
  base : Nat
  backing : Nat
  data : Tab Byte
  /-- SGDROP has taken the name away (R294). -/
  detached : Bool
  deriving DecidableEq, Repr

/-- An outstanding crossing ticket (R284 to R286). Members and pins are segment identities. -/
structure Ticket where
  num : Nat
  bundle : List Nat
  cmd : List Nat
  issued : Bool
  parked : Bool
  pins : List Nat
  /-- Drawn for another core's ferry packet, and asked to yield (R284, R287). -/
  far : Bool
  asked : Bool
  /-- Its command runs and pins every member that is RESIDENT (R286). -/
  on : Bool
  /-- Its command has been stopped for a move and resumes once its members are RESIDENT again (R282). -/
  paused : Bool
  /-- Granules of the segment that an SGDEF of a blocked bundle will define (R285, R292). -/
  extra : Nat
  deriving DecidableEq, Repr

/-- What a command's completion announces to its issuer: its identity, its context, its ticket and the AT = 1 signal. -/
structure CmdTag where
  id : Nat
  ctx : Nat
  ticket : Option Nat
  signal : Option (Nat × Nat)
  deriving DecidableEq, Repr

/-- A request in the segment-manager queue (R292). -/
inductive SmOp where
  | drop (seg : Nat) | pin (seg : Nat) | push (seg : Nat) | pull (seg : Nat) | split (kib : Nat)
  deriving DecidableEq, Repr

structure SmReq where
  tag : CmdTag
  op : SmOp
  /-- Tickets of the commands issued before an SGPUSH or SGDROP that hold the segment (R294, R296). -/
  before : List Nat
  /-- Segments that an SGSPLIT has moved or pushed out (R271, R291). -/
  moved : List Nat
  deriving DecidableEq, Repr

/-- The segment manager's move in progress (R279, R282): a compaction move of a segment that is still RESIDENT waits for the
commands that pin it to stop, and a write-back of a PINNED segment leaves it RESIDENT (R296). `told` says that a fault on the backing address has been
reported to the supervisor (R293). -/
inductive SmMove where
  | recall (seg : Nat) (told : Bool)
  | push (seg : Nat) (told : Bool)
  | compact (seg : Nat) (base : Nat)
  deriving DecidableEq, Repr

/-- A matrix command (R209). Segments are named by identity, their offsets fixed at issue. -/
inductive MOp where
  | mwld (plane : Nat) (fmt : MFmt) (seg off : Nat) (ct : List (BitVec 8))
  | mstr (tile plane : Nat) (acc : Bool) (fmt : MFmt) (seg off count stride row0 delay : Nat) (ct : List (BitVec 8))
  | mrank (tile : Nat) (fmt : MFmt) (seg off count stride row0 delay ecnt : Nat)
  | mout (tile seg off first count stride cvt : Nat) (rm : Rm)
  | mzero (tile : Nat)
  deriving DecidableEq, Repr

structure MCmd where
  tag : CmdTag
  issued : Nat
  op : MOp
  deriving DecidableEq, Repr

/-- A matrix command that has started (R211): its next row or granule (the row-progress register), the first cycle in which
that may go on, and the granules a load has read. `held`: it stays parked until the supervisor resumes it (R223). `kept`: the
bytes of its segment that a later drain has overwritten, as this command, earlier in the queue, still reads them (R210). -/
structure MRun where
  cmd : MCmd
  next : Nat
  due : Nat
  image : Tab Byte
  parked : Bool
  yield : Bool
  held : Bool
  kept : List (Nat × Byte)
  deriving DecidableEq, Repr

/-- Rows that have entered the array and not landed: tile, row, values, kind, landing cycle (R215). -/
structure MRow where
  tile : Nat
  row : Nat
  vals : List Word
  int : Bool
  lands : Nat
  /-- The command's last row. -/
  final : Option CmdTag
  deriving DecidableEq, Repr

/-- A weight plane: format, image bytes and the code table it was decoded with (R106, R213). -/
structure Plane where
  fmt : MFmt
  image : Tab Byte
  ct : List (BitVec 8)
  deriving DecidableEq, Repr

/-- A tile: elements by 128 * row + column, and the rows of kind i32 (R208). -/
structure Tile where
  elems : Tab Word
  intRows : Tab Bool
  deriving DecidableEq, Repr

/-- Where a ferry packet came from (R31, R248): FCMD's segment and offset, or a ring with the address of the packet's
record, 0 where the ring has none. -/
inductive FSource where
  | fcmd (seg off : Nat)
  | ring (rec : Nat)
  deriving DecidableEq, Repr

/-- A ferry packet with its 64 bytes (R228) and the identities of the segments of its own core that it names. -/
structure FPacket where
  tag : CmdTag
  src : FSource
  bits : BitVec 512
  srcSeg : Option Nat
  dstSeg : Option Nat
  deriving DecidableEq, Repr

/-- The channel's condition (R240, R242, R243). -/
inductive FState where
  | running | parked | waiting | abandoned (cause : Nat) (addr : Nat)
  deriving DecidableEq, Repr

/-- The packet the channel runs: its next stream byte and the most it has reached, the bytes staged by COPY-REDUCE, the
identities and tickets of space-1 segments once reached (R284), WRITE-ENQUEUE's claim, and whether it is a replay. -/
structure FRun where
  pkt : FPacket
  pos : Nat
  reach : Nat
  state : FState
  yield : Bool
  /-- Cycles spent on the current granule. -/
  phase : Nat
  staged : Option (List Byte)
  srcFar : Option (Nat × Nat)
  dstFar : Option (Nat × Nat)
  claim : Option Nat
  replayed : Bool
  deriving DecidableEq, Repr

/-- A packet whose last write is issued and whose completion is owed (R240). -/
structure FDone where
  run : FRun
  status : Nat
  cause : Nat
  detail : Nat
  /-- The supervisor has been told that the record's address faults. -/
  told : Bool
  deriving DecidableEq, Repr

/-- A bound ring (R246). -/
structure Ring where
  header : Nat
  slots : Nat
  cmpla : Nat
  log2n : Nat
  ridx : Nat
  /-- The supervisor has been told that the next slot or the header cannot be reached (R351). -/
  told : Bool
  deriving DecidableEq, Repr

/-- A pier command or load (R249 to R252). -/
inductive PierOp where
  | cmd (entry : Nat) (args : List Word) (landing : Option Nat) (cr : Option (Nat × Nat)) (seq : Nat)
  | load (first : Nat) (words : List Word) (pct : Option (List (BitVec 8)))
  deriving DecidableEq, Repr

/-- A command with the core that issued it and its partition (R251). -/
structure PierCmd where
  tag : CmdTag
  core : Nat
  part : Nat
  op : PierOp
  deriving DecidableEq, Repr

/-- An outbox entry and the piers it has still to reach (R249). -/
structure OutEntry where
  cmd : PierCmd
  piers : List Nat
  deriving DecidableEq, Repr

/-- A pipe (R272). -/
structure Pipe where
  seg : Option Nat
  cap : Nat
  /-- Elements and token marks, oldest first; `none` is a token. -/
  elems : List (Option VReg)
  writer : Option Nat
  extra : Nat
  deriving DecidableEq, Repr

/-- The resident gang (R259, R269, R274). -/
structure Gang where
  task : Nat
  /-- Members that have not ended their part. -/
  live : List Nat
  /-- A PSTOP drains it: the members that have parked. -/
  stopping : Bool
  stopped : List Nat
  /-- The loader has issued a PPUT since the PSTOP (R274). -/
  put : Bool
  deriving DecidableEq, Repr

/-- A word of a core's SRAM that holds an uncorrectable error (R360): a 4-byte word of a resident segment by identity, a
word of the resident region (0) or of a bank (1, 2), a row of a tile, a weight plane. -/
inductive Flaw where
  | seg (id word : Nat)
  | code (region word : Nat)
  | tile (t row : Nat)
  | plane (p : Nat)
  deriving DecidableEq, Repr

/-- A soft error that strikes (R360): corrected in an SRAM array of a die or in the DRAM of a site, or uncorrectable in a
register, in another word of a core's running partition, in its shadow image, or in an 8-byte word of DRAM. -/
inductive Strike where
  | sram (die : Nat)
  | dram (site : Nat)
  | reg (core k : Nat) (r : Reg)
  | core (core : Nat) (f : Flaw)
  | shadow (core : Nat) (f : Flaw)
  | word (w : Nat)
  deriving DecidableEq, Repr

/-- A landing counter's state (R318). -/
inductive LState where
  | idle | armed | fired
  deriving DecidableEq, Repr

/-- A landing counter (R317, R318). -/
structure Landing where
  bits : BitVec 256
  count : Nat
  state : LState
  overshoot : Bool
  afail : Bool
  rearm : Bool
  gen : BitVec 8
  /-- The core that executed the LDARM, its partition and the identity of a core range's segment. -/
  core : Nat
  part : Nat
  seg : Nat
  /-- A global range's pages as translated at arming: virtual address, length, physical address (R322). -/
  pages : List (Nat × Nat × Nat)
  deriving DecidableEq, Repr

/-- A core's monitor counts (R327). -/
structure Monitors where
  issued : X64
  stalled : X64
  noneReady : X64
  longWait : X64
  mrows : X64
  fbytes : X64
  recalls : X64
  pushouts : X64
  yields : X64
  l1hit : X64
  l1miss : X64
  deriving DecidableEq, Repr

/-- An effect held until its target's partition runs (R321), or one that a write has brought about and that is
made before anything else happens. -/
inductive Action where
  /-- A semaphore increment at a core (R193). -/
  | signal (core : Nat) (part : Option Nat) (sem inc : Nat)
  /-- A landing counter has fired `n` times with the descriptor it had then; id as R316 codes it. -/
  | fire (id n : Nat) (l : Landing)
  /-- A landing WRITE into a segment of a core, which waits for it under a ticket where it is not resident, or for its
  partition to run (R321). -/
  | segWrite (core id seg : Nat) (off : Int) (v : X64) (ticket : Option Nat)
  deriving DecidableEq, Repr

/-- A post that waits for room (R263). -/
structure WaitingPost where
  quad : Nat
  part : Nat
  bits : BitVec 512
  /-- The TKPOST command to complete, with its core. -/
  tag : Option (Nat × CmdTag)
  deriving DecidableEq, Repr

/-- A translation (R301). -/
structure TlbEntry where
  asid : Nat
  vbase : Nat
  size : Nat
  pa : Nat
  writable : Bool
  deriving DecidableEq, Repr

/-- A first-level cache line (R163, R164). -/
structure L1Line where
  asid : Nat
  line : Nat
  loc : Nat
  writable : Bool
  deriving DecidableEq, Repr

/-- The state of a core that belongs to the partition running on it (R16, R57, R355). -/
structure CoreState where
  part : Option Nat
  ctxs : Vector Ctx 4
  sems : Tab (BitVec 16)
  /-- Increments of completion events of this cycle: semaphore and increment (R314). -/
  incs : List (Nat × Nat)
  ct : Vector (BitVec 8) 16
  /-- Resident region and banks, by byte offset (R161). -/
  resident : Tab Byte
  bank0 : Tab Byte
  bank1 : Tab Byte
  active : Bool
  kernels : List X64
  /-- Launch segments of the image: section fields and backing address (R306, R377). -/
  launchSegs : List (Nat × Nat × Role × Nat × Nat)
  poolLen : Nat
  segs : Tab Seg
  nextSeg : Nat
  tickets : List Ticket
  smq : List SmReq
  move : Option SmMove
  /-- A compaction is under way, of every unpinned segment or of the pinned ones too (R282, R291). -/
  compacting : Option Bool
  mq : List MCmd
  planes : Vector Plane 2
  latches : Vector (BitVec 8) 16
  /-- Latch writes not yet read by rows: cycle and bytes by latch (R216). -/
  latchWrites : List (Nat × Nat × BitVec 64)
  tiles : Vector Tile 4
  load : Option MRun
  array : Option MRun
  drain : Option MRun
  rows : List MRow
  /-- The ferry queue and the channel: the packet it runs, the packets whose completion is owed, its window registers and the
  next source of the round robin (R240). -/
  fq : List FPacket
  ferry : Option FRun
  ferryDone : List FDone
  fwpos : Nat
  fwseq : BitVec 16
  fwrun : Bool
  rr : Nat
  rings : Vector (Option Ring) 4
  outbox : List OutEntry
  pipes : Vector Pipe 8
  poolFree : Nat
  gang : Option Gang
  lastIssuer : Nat
  runCount : Nat
  yielded : Bool
  /-- The last issuer has stopped being ready, or reached the run limit, since it issued (R29). -/
  runOver : Bool
  /-- The last cycle in which the core issues nothing because results land at a trap entry (R344). -/
  stallTo : Nat
  landing : Tab Landing
  quota : Nat
  ovfptr : X64
  asid : BitVec 16
  ptbase : X64
  mon : Monitors
  /-- Actions held while the partition does not run (R321). -/
  heldActions : List Action
  /-- Words that hold an uncorrectable error (R360). -/
  flaws : List Flaw
  deriving DecidableEq, Repr

/-- A core: the running partition's state, a partition in shadow storage (R16) and what no partition owns. -/
structure Core where
  cur : CoreState
  shadow : Option CoreState
  cacheKiB : Nat
  nextTicket : Nat
  l1 : List L1Line
  tlb : List TlbEntry
  deriving DecidableEq, Repr

/-- A record in a quad queue or ring: the task, its post cycle and the priority it has reached (R27, R263). -/
structure QueueRec where
  bits : BitVec 512
  part : Nat
  posted : Nat
  prio : Nat
  raised : Nat
  deriving DecidableEq, Repr

/-- A quad (R17). -/
structure Quad where
  queue : List QueueRec
  /-- Overflow rings by partition. -/
  rings : Tab (List QueueRec)
  ringCap : Nat
  /-- Orphaned parts: task, lo, hi; oldest first (R267). -/
  orphans : List (Nat × X64 × X64)
  posts : List WaitingPost
  tlb : List TlbEntry
  deriving DecidableEq, Repr

/-- A task with parts that have not ended (R268). -/
structure Task where
  bits : BitVec 512
  part : Nat
  parts : Nat
  deriving DecidableEq, Repr

/-- A die (R18, R328). -/
structure Die where
  lines : List Nat
  softcor : X64
  stretch : X64
  stretching : Bool
  deriving DecidableEq, Repr

/-- A DRAM site (R19, R328). -/
structure Site where
  landing : Tab Landing
  lines : List (Nat × Bool)
  hits : X64
  misses : X64
  flushes : X64
  pierCmds : X64
  dramCor : X64
  deriving DecidableEq, Repr

/-- A pier command under way (R254, R256). -/
structure PierRun where
  cmd : PierCmd
  pc : Nat
  /-- The loop body: first word and the word after it. -/
  body : Option (Nat × Nat)
  sigs : List (Nat × Nat)
  /-- The bytes stored, by DRAM location: each word of memory is written once, at the command's end (R190, R258). -/
  stored : Tab Byte
  deriving DecidableEq, Repr

/-- A pier command that has ended and whose completion is owed (R254, R258). -/
structure PierDone where
  cmd : PierCmd
  cause : Nat
  sigs : List (Nat × Nat)
  /-- DRAM locations stored to, each once. -/
  stored : List Nat
  deriving DecidableEq, Repr

/-- A pier (R227, R253). -/
structure Pier where
  queue : List PierCmd
  words : Tab Word
  ct : Vector (BitVec 8) 16
  q : Vector X64 8
  pa : Vector Word 16
  pv : Tab Byte
  k : Nat
  ts : Bool
  ftype : Nat
  xf : Bool
  stride : Nat
  pl : Nat
  run : Option PierRun
  done : List PierDone
  /-- The pier's previous command where that is a load, by the core, the partition and the identity of its PLOAD (R256). -/
  loaded : Option (Nat × Nat × Nat)
  /-- Partitions whose commands or loads the pier has run (R356). -/
  users : List Nat
  deriving DecidableEq, Repr

/-- A generation of a barrier that gathers arrivals (R94, R152). -/
structure Barrier where
  key : BarKey
  /-- Arrivals by context number (64 * 4 * die + 4 * core + context), with BARX contributions. -/
  arrivals : List (Nat × Option (List Word))
  op : Option Nat
  /-- Landing counters that have arrived: counter id and core. -/
  landings : List (Nat × Nat)
  /-- Landing arrivals held for the next generation (R321). -/
  heldLandings : List (Nat × Nat)
  deriving DecidableEq, Repr

/-- A partition (R372, R373). -/
structure Partition where
  asid : BitVec 16
  ptbase : X64
  quota : Nat
  cores : List Nat
  feats : BitVec 128
  /-- The counter area, with site and die records included or not (R326). -/
  monitors : Option (Nat × Bool × Bool)
  monSeq : X64
  /-- Packages the partition spans (R379). -/
  spans : List Nat
  /-- Announced finished since it last ran (R33). -/
  finished : Bool
  deriving DecidableEq, Repr

/-- A value returned to the host (R376). -/
inductive HostReply where
  | data (bytes : List Byte) | unsupported | abort | done
  deriving DecidableEq, Repr

/-- The host side: control window, notices, apertures (R367 to R376). -/
structure HostSide where
  ready : Bool
  recov : Bool
  busy : Bool
  featAccept : BitVec 128
  doorbell : BitVec 64
  nwr : BitVec 16
  nrd : BitVec 16
  /-- Request area, reply area, notice ring, MSI-X table and launch vectors, by window offset. -/
  window : Tab Byte
  /-- Notices held while the ring is full. -/
  heldNotices : List (List Byte)
  /-- MSI-X messages sent, by vector, and the pending bits of masked vectors (R367, R368; log 46). -/
  msix : List Nat
  pending : BitVec 32
  /-- The reply owed: STATUS and detail code. -/
  reply : Option (Nat × Nat)
  apertures : Tab (Nat × Nat)
  windowLog2 : Nat
  replies : List HostReply
  deriving DecidableEq, Repr

/-- The pod as request 0x0A configures it (R379). -/
structure Pod where
  pkgid : Nat
  packages : Nat
  routes : List (BitVec 16)
  inForce : Bool
  failedPorts : List Nat
  unreachable : List Nat
  deriving DecidableEq, Repr

/-- Side-band management (R380 to R385). -/
structure Mgmt where
  /-- Active and inactive copies of supervisor firmware, management firmware and configuration record. -/
  active : Vector (List Byte) 3
  inactive : Vector (List Byte) 3
  staged : Vector Bool 3
  errorLog : List (Nat × Nat)
  powerLimit : Nat
  powered : Bool
  eid : BitVec 8
  replies : List (List Byte)
  flitRetries : Nat
  deriving DecidableEq, Repr

/-- Why an issue ended without its effects. -/
inductive Halt where
  /-- The bundle is blocked under R28. -/
  | blocked (r : WaitReason)
  /-- The context stalls under R66. -/
  | stalled
  /-- The bundle traps: cause code, detail code, slot and value (R341 to R343). -/
  | trap (cause dcode slot : Nat) (value : Nat)
  deriving DecidableEq, Repr

/-- An effect of the issuing bundle that follows its slots (R90, R91, R267, R347, R350). -/
inductive After where
  | cwr (crn : Nat) (v : X64)
  | mode (ilk : Bool) (vrm : BitVec 2)
  | loopEntry
  | halt | tkdone | tkwait
  | trap (imm : Nat) | service (imm : Nat)
  | tret | eret
  deriving DecidableEq, Repr

/-- What a bundle starts that does not issue yet: a BANKSW's sum (R100), a PSTOP of a core's gang (R274). -/
inductive Start where
  | banksw (w : BankWait)
  | pstop (core : Nat)
  deriving DecidableEq, Repr

/-- The issue in progress (R36, R37). -/
structure Issue where
  core : Nat
  ctx : Nat
  slot : SlotClass
  /-- The bundle's address, the address of the word after it, its repetition. -/
  pc : Nat
  next : Nat
  rep : Nat
  lastRep : Bool
  bcast : X64
  /-- The byte step of the slot (R41). -/
  step : X64
  /-- RRB, MODE and BCOUNT at issue (R9, R59, R62). -/
  rrb : Rrb
  mode : Mode
  /-- The results pending when the bundle issues: what its slots' reads meet (R9, R66, R67). -/
  pendFlight : List FlightEntry
  pendLoads : List Load
  /-- Where the context continues, and whether a transfer was taken (R83, R87). -/
  npc : Nat
  taken : Bool
  /-- The sync pair's AT = 1 signal for the E-slot command. -/
  signal : Option (Nat × Nat)
  /-- An E-slot command was issued. -/
  issuedCmd : Bool
  /-- The segments the bundle and its command may touch, by identity (R285). -/
  bundleSet : List Nat
  cmdSet : List Nat
  /-- Granules of the segment that the bundle's SGDEF defines (R285, R292). -/
  defined : Nat
  /-- A segment the bundle reads is not resident (R159). -/
  absent : Bool
  /-- The ticket has been drawn by the bundle's command. -/
  drawn : Bool
  /-- The number the bundle's ticket has or will have (R284). -/
  ticket : Nat
  after : List After
  verdict : Option Halt
  start : Option Start
  /-- The pier whose instruction runs, for a pier instruction. -/
  pier : Nat
  deriving DecidableEq, Repr

/-- One turn of a cycle (log 2): results and data that are due, a core's issue, a pier's instruction, everything that
engines and supervisor do by themselves, and the end of the cycle. -/
inductive Turn where
  | arrivals
  | issue (core : Nat)
  | pier (u : Nat)
  | engines
  | tick
  deriving DecidableEq, Repr

/-- Global memory: bytes by location, rising, no entry 0 (R166, R184). -/
abbrev Memory := List Host.Cell

/-- The machine (R11). -/
structure State where
  /-- Cycles since module reset (R62). -/
  cycle : X64
  /-- Cores by 64 * die + core; an unlisted core stands as after module reset. -/
  cores : Tab Core
  quads : Tab Quad
  dies : Tab Die
  sites : Tab Site
  piers : Tab Pier
  /-- DRAM by package, site, channel and offset (R166); an unlisted byte reads 0 (R184). -/
  mem : Memory
  /-- 8-byte words of DRAM, by location / 8, that hold an uncorrectable error (R175, R360). -/
  flaws : List Nat
  /-- The soft errors to come, each with the cycle at whose end it strikes: chosen from outside, as the agenda (log 43). -/
  strikes : List (Nat × Strike)
  barriers : List Barrier
  partitions : Tab Partition
  tasks : Tab Task
  nextTask : Nat
  /-- Global landing counters (1,024 * site + counter) and piers (64 * site + channel) by partition (R251, R316). -/
  landingOwner : Tab Nat
  pierOwner : Tab Nat
  /-- Pages being migrated: entry address and new placement (R168). -/
  migrating : List (Nat × Nat)
  host : HostSide
  pod : Pod
  mgmt : Mgmt
  /-- Completion WRITEs and landing WRITEs that failed and may be retried (R268, R321): landing id or task, address, value. -/
  failedWrites : List (Nat × Nat × X64 × Option (Nat × Nat))
  /-- Effects a write has brought about and that are made before the next turn. -/
  actions : List Action
  /-- Completion events that contexts may observe, of packets that have written in an instruction bank (R191, R198). -/
  news : List News
  /-- Identity of the next command. -/
  nextId : Nat
  issue : Issue
  /-- Steps chosen from outside, taken first; then the turns of the current cycle (log 2). -/
  agenda : List Instr
  todo : List Turn
  /-- The model's count of free values drawn (log 15). -/
  fresh : Nat
  deriving DecidableEq, Repr

/-- Reasons the machine stops with a fault. -/
inductive Fault where
  /-- A step of a machine whose compute stacks have no power (R381): raised by no instruction's own effect. Safe: the
  spec gives no further step until a module reset. -/
  | unpowered
  deriving DecidableEq, Repr

/-- Reasons a step has no meaning. -/
inductive Refusal where
  /-- An instruction whose meaning is not written: raised by exec's arm of that instruction. Safe: it stops. -/
  | notModelled (mnemonic : String)
  deriving DecidableEq, Repr

/-- A context after module reset (R58, R62, R63, R123; log 1). -/
def Ctx.reset : Ctx where
  run := .halted
  pc := 0
  rep := 0
  x := .replicate 48 0
  p := 1
  v := .replicate 32 (.replicate 64 0)
  m := (Vector.replicate 8 0).set 0 (BitVec.allOnes 64)
  k := .replicate 8 .launch
  kth := .replicate 8 0
  rrb := ⟨0, 0, 0⟩
  loops := []
  link := 0
  mode := ⟨true, 0, false⟩
  tvec := 0
  tpc := 0
  tcause := 0
  tinfo := 0
  tsave := 0
  wstep := 0
  bcount := 0
  tklo := 0
  tkhi := 0
  tkgrain := 0
  tkarg := 0
  tkid := 0
  nprlim := 65536
  barto := 0
  waitto := 0
  sticky := .nop
  flight := []
  loads := []
  flaws := []
  seq := 0
  held := []
  stop := none
  preempt := false
  frozen := false
  parked := false
  swapStop := false
  region := none
  task := none
  participant := false
  arrivals := []
  owedBarx := []
  withdrawn := []
  barAt := (0, 0)
  barCycles := 0
  wait := .none
  waitCycles := 0
  waitCounted := false
  waitwEnded := false
  bank := none
  stale := []
  wouldIssue := false
  armed := false
  ticket := none
  inflight := []
  vol := (0, 0, 0, 0)
  kinsAt := .replicate 8 none
  readyAt := 0

def Pipe.unbound : Pipe := ⟨none, 0, [], none, 0⟩
def Landing.idle : Landing := ⟨0, 0, .idle, false, false, false, 0, 0, 0, 0, []⟩
def Monitors.zero : Monitors := ⟨0, 0, 0, 0, 0, 0, 0, 0, 0, 0, 0⟩

/-- The per-partition state of a core after module reset (R57, R208, R227, R272, R278, R313, R318; log 1). -/
def CoreState.reset : CoreState where
  part := none
  ctxs := .replicate 4 .reset
  sems := []
  incs := []
  ct := .replicate 16 0
  resident := []
  bank0 := []
  bank1 := []
  active := false
  kernels := []
  launchSegs := []
  poolLen := 0
  segs := []
  nextSeg := 0
  tickets := []
  smq := []
  move := none
  compacting := none
  mq := []
  planes := .replicate 2 ⟨.i8, [], []⟩
  latches := .replicate 16 0x20
  latchWrites := []
  tiles := .replicate 4 ⟨[], []⟩
  load := none
  array := none
  drain := none
  rows := []
  fq := []
  ferry := none
  ferryDone := []
  fwpos := 0
  fwseq := 0
  fwrun := false
  rr := 0
  rings := .replicate 4 none
  outbox := []
  pipes := .replicate 8 .unbound
  poolFree := 0
  gang := none
  lastIssuer := 3
  runCount := 0
  yielded := false
  runOver := false
  stallTo := 0
  landing := []
  quota := 0
  ovfptr := 0
  asid := 0
  ptbase := 0
  mon := .zero
  heldActions := []
  flaws := []

/-- A core after module reset: the cache part is 256 KiB (R15). -/
def Core.reset : Core := ⟨.reset, none, 256, 0, [], []⟩
/-- A quad after module reset (log 1: ring capacity). -/
def Quad.reset : Quad := ⟨[], [], 4096, [], [], []⟩
def Die.reset : Die := ⟨[], 0, 0, false⟩
def Site.reset : Site := ⟨[], [], 0, 0, 0, 0, 0⟩
/-- A pier after module reset (R253). -/
def Pier.reset : Pier :=
  ⟨[], [], .replicate 16 0, .replicate 8 0, .replicate 16 0, [], 32, false, 0, false, 1, 0, none, [], none, []⟩

/-- The host side after module reset and boot verification (R367 to R374). -/
def HostSide.reset : HostSide where
  ready := false
  recov := false
  busy := false
  featAccept := 0
  doorbell := 0
  nwr := 0
  nrd := 0
  -- every vector of the MSI-X table masked (log 46)
  window := (List.range 32).map fun n => (0x400C + 16 * n, 1)
  heldNotices := []
  msix := []
  pending := 0
  reply := none
  apertures := []
  windowLog2 := 36
  replies := []

/-- The pod before it is configured (R379). -/
def Pod.reset : Pod := ⟨0, 1, [], false, [], []⟩

/-- Management after module reset (R384; log 1). -/
def Mgmt.reset : Mgmt where
  active := ⟨#[Config.factoryImage 0, Config.factoryImage 1, Config.factoryImage 2], rfl⟩
  inactive := ⟨#[Config.factoryImage 0, Config.factoryImage 1, Config.factoryImage 2], rfl⟩
  staged := .replicate 3 false
  errorLog := []
  powerLimit := 3600000
  powered := true
  eid := 0
  replies := []
  flitRetries := 0

/-- No issue in progress. -/
def Issue.none : Issue where
  core := 0
  ctx := 0
  slot := .C
  pc := 0
  next := 0
  rep := 0
  lastRep := true
  bcast := 0
  step := 0
  rrb := ⟨0, 0, 0⟩
  mode := ⟨true, 0, false⟩
  pendFlight := []
  pendLoads := []
  npc := 0
  taken := false
  signal := Option.none
  issuedCmd := false
  bundleSet := []
  cmdSet := []
  defined := 0
  absent := false
  drawn := false
  ticket := 0
  after := []
  verdict := Option.none
  start := Option.none
  pier := 0

/-- The machine right after module reset (R58, R382). -/
def State.reset : State where
  cycle := 0
  cores := []
  quads := []
  dies := []
  sites := []
  piers := []
  mem := []
  flaws := []
  strikes := []
  barriers := []
  partitions := []
  tasks := []
  nextTask := 0
  landingOwner := []
  pierOwner := []
  migrating := []
  host := .reset
  pod := .reset
  mgmt := .reset
  failedWrites := []
  actions := []
  news := []
  nextId := 0
  issue := .none
  agenda := []
  todo := []
  fresh := 0

end Sys2Proof.Machine
end

