-- ==== Sys2Proof/Machine/Ops.lean ====
section
/-!
DEFINITION. The named operations every meaning is written with: access to cores and contexts, registers with their
hazards and the flight record (R59, R60, R64 to R68), notices (R374), taking an exception and returning from one
(R344 to R349), and the frame of a slot's execution (R38).
-/
namespace Sys2Proof.Machine

/-! ### Cores and contexts -/

def State.core (s : State) (c : Nat) : Core := s.cores.read Core.reset c
def State.setCore (s : State) (c : Nat) (v : Core) : State := { s with cores := s.cores.put c v }
def State.modCore (s : State) (c : Nat) (f : Core → Core) : State := s.setCore c (f (s.core c))

/-- The running partition's state of a core. -/
def State.cs (s : State) (c : Nat) : CoreState := (s.core c).cur
def State.modCS (s : State) (c : Nat) (f : CoreState → CoreState) : State :=
  s.modCore c fun v => { v with cur := f v.cur }

def CoreState.ctx (v : CoreState) (k : Nat) : Ctx := v.ctxs[k]?.getD Ctx.reset
def CoreState.setCtx (v : CoreState) (k : Nat) (c : Ctx) : CoreState := { v with ctxs := v.ctxs.setIfInBounds k c }

def State.ctx (s : State) (c k : Nat) : Ctx := (s.cs c).ctx k
def State.modCtx (s : State) (c k : Nat) (f : Ctx → Ctx) : State := s.modCS c fun v => v.setCtx k (f (v.ctx k))

/-- The core and the context whose bundle issues. -/
def State.icore (s : State) : Nat := s.issue.core
def State.ictx (s : State) : Nat := s.issue.ctx
/-- The issuing context. -/
def State.cx (s : State) : Ctx := s.ctx s.issue.core s.issue.ctx
def State.modCx (s : State) (f : Ctx → Ctx) : State := s.modCtx s.issue.core s.issue.ctx f
/-- The issuing core's running state. -/
def State.ccs (s : State) : CoreState := s.cs s.issue.core
def State.modCcs (s : State) (f : CoreState → CoreState) : State := s.modCS s.issue.core f
def State.modIssue (s : State) (f : Issue → Issue) : State := { s with issue := f s.issue }

def State.quad (s : State) (q : Nat) : Quad := s.quads.read Quad.reset q
def State.modQuad (s : State) (q : Nat) (f : Quad → Quad) : State := { s with quads := s.quads.put q (f (s.quad q)) }
def State.die (s : State) (d : Nat) : Die := s.dies.read Die.reset d
def State.modDie (s : State) (d : Nat) (f : Die → Die) : State := { s with dies := s.dies.put d (f (s.die d)) }
def State.site (s : State) (n : Nat) : Site := s.sites.read Site.reset n
def State.modSite (s : State) (n : Nat) (f : Site → Site) : State := { s with sites := s.sites.put n (f (s.site n)) }
def State.pier (s : State) (u : Nat) : Pier := s.piers.read Pier.reset u
def State.modPier (s : State) (u : Nat) (f : Pier → Pier) : State := { s with piers := s.piers.put u (f (s.pier u)) }

/-- The quad of a core, by 16 * die + quad: core numbers are 64 * die + core (R12). -/
def quadOf (c : Nat) : Nat := c / 4
/-- The die of a core. -/
def dieOf (c : Nat) : Nat := c / 64

/-- The cores listed, in ascending number. -/
def State.coreNums (s : State) : List Nat := s.cores.map (·.1)

/-! ### Rotating names (R59) -/

def physX (r : Rrb) (n : Nat) : Nat := if n < 32 then n else 32 + (n - 32 + r.xb.toNat) % 16
def physV (r : Rrb) (n : Nat) : Nat := if n < 16 then n else 16 + (n - 16 + r.vb.toNat) % 16
def physP (r : Rrb) (n : Nat) : Nat := if n < 8 then n else 8 + (n - 8 + r.pb.toNat) % 8
/-- One rotation. -/
def Rrb.rotate (r : Rrb) : Rrb := ⟨r.xb - 1, r.vb - 1, r.pb - 1⟩

/-! ### Register files -/

/-- A physical X register; X0 reads as zero (R56). -/
def Ctx.getX (c : Ctx) (n : Nat) : X64 := if n = 0 then 0 else c.x[n]?.getD 0
def Ctx.setX (c : Ctx) (n : Nat) (v : X64) : Ctx := if n = 0 then c else { c with x := c.x.setIfInBounds n v }
/-- A physical predicate; P0 reads as 1 (R56). -/
def Ctx.getP (c : Ctx) (n : Nat) : Bool := n == 0 || c.p.getLsbD n
def Ctx.setP (c : Ctx) (n : Nat) (b : Bool) : Ctx :=
  if n = 0 then c
  else { c with p := if b then c.p ||| BitVec.twoPow 16 n else c.p &&& ~~~(BitVec.twoPow 16 n) }
def Ctx.getV (c : Ctx) (n : Nat) : VReg := c.v[n]?.getD (.replicate 64 0)
/-- M0 is all ones (R122). -/
def Ctx.getM (c : Ctx) (n : Nat) : BitVec 64 := if n = 0 then BitVec.allOnes 64 else c.m[n]?.getD 0
def Ctx.setM (c : Ctx) (n : Nat) (v : BitVec 64) : Ctx := if n = 0 then c else { c with m := c.m.setIfInBounds n v }
def Ctx.getK (c : Ctx) (n : Nat) : KList := c.k[n]?.getD .launch
def Ctx.setK (c : Ctx) (n : Nat) (v : KList) : Ctx := { c with k := c.k.setIfInBounds n v }

/-- The lanes a mask selects take the new values (R125). -/
def mergeLanes (mask : BitVec 64) (new old : VReg) : VReg :=
  lanesOf fun i => if mask.getLsbD i then new.lane i else old.lane i

/-- A value that replaces a whole register leaves no error in it (R360). -/
def Ctx.mended (c : Ctx) (r : Reg) (v : RegVal) : Ctx :=
  let whole := match v with
    | .v mask _ => decide (mask = BitVec.allOnes 64)
    | _ => true
  { c with flaws := c.flaws.filter fun f => !(whole && decide (f = r)) }

/-- A result lands in its physical register (R60, R125, R142). -/
def Ctx.land (c : Ctx) (r : Reg) (v : RegVal) : Ctx :=
  let c := c.mended r v
  match r, v with
  | .x n, .x w => c.setX n w
  | .p n, .p b => c.setP n b
  | .v n, .v mask l => { c with v := c.v.setIfInBounds n (mergeLanes mask l (c.getV n)) }
  | .m n, .m w => c.setM n w
  | .k n, .k u => c.setK n (u.apply (c.getK n))
  | .kth n, .kth w => { c with kth := c.kth.setIfInBounds n w }
  | _, _ => c

/-- Entries land one after another; a KINS gives its companion entry the value of P7 (R145). -/
def Ctx.landList (c : Ctx) : List FlightEntry → Ctx
  | [] => c
  | e :: r =>
    match e.reg, e.val with
    | .k n, .k (.insert ex cs) =>
      let old := c.getK n
      let ent := old.entered ((KUpdate.insert ex cs).apply old)
      let c' := c.land e.reg e.val
      -- the companion is the entry of P7 issued next after the update
      match r with
      | [] => c'
      | f :: r' => if f.reg = .p 7 ∧ f.seq = e.seq + 1 then Ctx.landList (c'.land f.reg (.p ent)) r' else Ctx.landList c' (f :: r')
    | _, _ => Ctx.landList (c.land e.reg e.val) r

/-! ### The flight record (R64 to R69) -/

/-- One bundle of the context counts: its exposed entries step, and those that run out land in issue order (R64). -/
def Ctx.stepBundles (c : Ctx) : Ctx :=
  let fl := c.flight.map fun e => if e.cycles then e else { e with left := e.left - 1 }
  let due := fl.filter fun e => !e.cycles && e.left == 0
  Ctx.landList { c with flight := fl.filter fun e => e.cycles || e.left != 0 } due

/-- One cycle counts for the entries counted in cycles (R68). -/
def Ctx.stepCycle (c : Ctx) : Ctx :=
  { c with flight := c.flight.map fun e => if e.cycles then { e with left := e.left - 1 } else e }

/-- The entries counted in cycles that have run out land, in issue order (R66, R68). -/
def Ctx.landDue (c : Ctx) : Ctx :=
  Ctx.landList { c with flight := c.flight.filter fun e => !(e.cycles && e.left == 0) }
    (c.flight.filter fun e => e.cycles && e.left == 0)

/-- An entry put after those that land no later. -/
def insertLanding (e : FlightEntry) : List FlightEntry → List FlightEntry
  | [] => [e]
  | f :: r => if e.left < f.left then e :: f :: r else f :: insertLanding e r

/-- Entries in the order of their landings, and in issue order within one landing (R65). -/
def byLanding (l : List FlightEntry) : List FlightEntry := l.foldl (fun acc e => insertLanding e acc) []

/-- Every entry counted in cycles lands (R68, R69, R344). -/
def Ctx.landCycles (c : Ctx) : Ctx :=
  Ctx.landList { c with flight := c.flight.filter fun e => !e.cycles } (byLanding (c.flight.filter fun e => e.cycles))

/-- Every entry counted in bundles lands, in the order of R65 (R69, R347). -/
def Ctx.landBundles (c : Ctx) : Ctx :=
  Ctx.landList { c with flight := c.flight.filter fun e => e.cycles } (byLanding (c.flight.filter fun e => !e.cycles))

/-- Whether a result may be superseded: updates of ranked lists are all applied (R142). -/
def Reg.supersedes : Reg → Bool
  | .k _ => false
  | _ => true

/-- A fixed-latency result enters the record: a load to the register is superseded, and in interlocked mode an earlier
result that would land after it is discarded (R65). -/
def Ctx.enter (c : Ctx) (ilk : Bool) (r : Reg) (v : RegVal) (lat : Nat) : Ctx :=
  let kept := c.flight.filter fun e => !(ilk && r.supersedes && decide (e.reg = r) && decide (lat < e.left))
  { c with
    flight := kept ++ [⟨r, v, lat, ilk, c.seq⟩]
    loads := if r.supersedes then c.loads.map fun l => { l with dests := l.dests.filter fun d => decide (d.1 ≠ r) } else c.loads
    seq := c.seq + 1 }

/-- Outstanding results of a load enter: earlier loads to the same registers are superseded (R65, R67). -/
def Ctx.enterLoad (c : Ctx) (kind : LoadKind) (dests : List (Reg × RegVal)) (id due phys bundle : Nat) (err : Bool) : Ctx :=
  let regs := dests.map (·.1)
  { c with
    loads := (c.loads.map fun l => { l with dests := l.dests.filter fun d => !regs.contains d.1 })
      ++ [⟨id, c.seq, kind, dests, due, phys, bundle, err, false⟩]
    seq := c.seq + 1 }

/-- A load keeps its register against results issued before it: those still pending, in the record or frozen by a trap, are
discarded (R65). -/
def Load.outlasts (l : Load) (e : FlightEntry) : Bool := l.dests.any (fun d => decide (d.1 = e.reg)) && decide (e.seq < l.seq)

/-- Pending results that a load outlasts are discarded, those that stand frozen among them (R65, R344). -/
def Ctx.dropOutlasted (c : Ctx) (l : Load) : Ctx :=
  { c with
    flight := c.flight.filter fun e => !l.outlasts e
    held := c.held.map fun h => { h with frozen := h.frozen.filter fun e => !l.outlasts e } }

/-- The data of a load arrive: its registers take the values, and results issued before it that would land later are
discarded (R65, R67). -/
def Ctx.arrive (c : Ctx) (id : Nat) : Ctx :=
  match c.loads.find? fun l => l.id == id with
  | none => c
  | some l => l.dests.foldl (fun c d => c.land d.1 d.2)
    ({ c with loads := c.loads.filter fun m => m.id != id }.dropOutlasted l)

/-- Every outstanding load lands, in issue order (R91, R353); one that met an uncorrectable error stays (R175). -/
def Ctx.arriveAll (c : Ctx) : Ctx :=
  c.loads.foldl (fun c l =>
    if l.bad then c
    else if l.err then { c with loads := c.loads.map fun m => if m.id = l.id then { m with bad := true } else m }
    else c.arrive l.id) c

/-! ### Reading operands at issue (R9, R66, R67) -/

/-- A trap of the issuing slot. -/
def State.trapHere (s : State) (cause dcode value : Nat) : Halt := .trap cause dcode s.issue.slot.number value

/-- MEM_UNCORRECTABLE (R343). -/
def memUncorrectable : Nat := 0x0B

/-- VALUE for global data: the bundle's address bits and the 1 MiB physical granule (R360). Above bit 47, where TINFO ends,
stands the line within the granule, for the supervisor's notice. -/
def memErrorValue (bundle phys : Nat) : Nat :=
  bundle / 4 % 2 ^ 15 + 2 ^ 15 * (bitsOf phys 51 20) + 2 ^ 48 * (bitsOf phys 19 6)

/-- The exact 64-byte line that VALUE for global data tells of (R360). -/
def memErrorLine (value : Nat) : Nat := 2 ^ 20 * bitsOf value 46 15 + 64 * (value / 2 ^ 48)

/-- A read of a register file, segment store or scratchpad word meets an uncorrectable error: DCODE sram (R342, R360); no
rule gives VALUE. -/
def State.sramTrap (s : State) : Halt := s.trapHere memUncorrectable 15 (Config.openValue 2).toNat

/-- What stands in the way of reading a register: a pending load blocks, one that met an uncorrectable error traps
(R175, R360), a pending result stalls in interlocked mode (R66), an uncorrectable error in the register traps (R360). -/
def State.hazard (s : State) (r : Reg) : Except Halt Unit :=
  match s.issue.pendLoads.find? fun l => l.dests.any fun d => decide (d.1 = r) with
  | some l =>
    if l.bad then .error (s.trapHere memUncorrectable 0 (memErrorValue l.bundle l.phys))
    else .error (.blocked .load)
  | none =>
    if s.issue.mode.ilk && s.issue.pendFlight.any fun e => decide (e.reg = r) then .error .stalled
    else if s.cx.flaws.contains r then .error s.sramTrap
    else .ok ()

/-- A scalar source: code 63 is the broadcast value, codes 48 to 62 are reserved (R43, R47). -/
def State.readX (s : State) (code : BitVec 6) : Except Halt X64 :=
  let n := code.toNat
  if n = 63 then .ok s.issue.bcast
  else if 48 ≤ n then .error (s.trapHere 3 0 n)
  else
    let r := physX s.issue.rrb n
    match s.hazard (.x r) with
    | .error h => .error h
    | .ok _ => .ok (s.cx.getX r)

/-- A predicate source. -/
def State.readP (s : State) (n : Nat) : Except Halt Bool :=
  let r := physP s.issue.rrb n
  match s.hazard (.p r) with
  | .error h => .error h
  | .ok _ => .ok (s.cx.getP r)

def State.readV (s : State) (n : BitVec 5) : Except Halt VReg :=
  let r := physV s.issue.rrb n.toNat
  match s.hazard (.v r) with
  | .error h => .error h
  | .ok _ => .ok (s.cx.getV r)

def State.readM (s : State) (n : BitVec 3) : Except Halt (BitVec 64) :=
  match s.hazard (.m n.toNat) with
  | .error h => .error h
  | .ok _ => .ok (s.cx.getM n.toNat)

/-- A ranked list as it stands, after the pending updates in interlocked mode (R142). -/
def State.readK (s : State) (n : BitVec 3) : Except Halt KList :=
  match s.hazard (.k n.toNat) with
  | .error h => .error h
  | .ok _ => .ok (s.cx.getK n.toNat)

/-! ### Writing results -/

/-- A result of the issuing bundle with latency `lat` (R64, R70). -/
def State.result (s : State) (r : Reg) (v : RegVal) (lat : Nat) : State :=
  s.modCx fun c => c.enter s.issue.mode.ilk r v lat

/-- X[d] := v; X0 discards (R56). -/
def State.writeX (s : State) (d : BitVec 6) (v : X64) (lat : Nat) : State :=
  if d = 0 then s else s.result (.x (physX s.issue.rrb d.toNat)) (.x v) lat

/-- P[n] := b; P0 discards (R56). -/
def State.writeP (s : State) (n : Nat) (b : Bool) (lat : Nat) : State :=
  if n = 0 then s else s.result (.p (physP s.issue.rrb n)) (.p b) lat

/-- The selected lanes of V[n] (R125). -/
def State.writeV (s : State) (n : BitVec 5) (mask : BitVec 64) (v : VReg) (lat : Nat) : State :=
  s.result (.v (physV s.issue.rrb n.toNat)) (.v mask v) lat

def State.writeM (s : State) (n : BitVec 3) (v : BitVec 64) (lat : Nat) : State :=
  if n = 0 then s else s.result (.m n.toNat) (.m v) lat

/-- An update of K[n]; in interlocked mode it waits for a pending one (R142). -/
def State.updateK (s : State) (n : BitVec 3) (u : KUpdate) (lat : Nat) : State := s.result (.k n.toNat) (.k u) lat

/-- A result delivered as a global load's (R67), its data with or without an uncorrectable error (R175); destinations X0
are discarded. -/
def State.loadEnters (s : State) (kind : LoadKind) (dests : List (Reg × RegVal)) (due phys : Nat) (err : Bool) : State :=
  if dests.isEmpty then s
  else
    let s1 := s.modCx fun c => c.enterLoad kind dests s.nextId due phys s.issue.pc err
    { s1 with nextId := s.nextId + 1 }

/-- A result delivered as a global load's (R67). -/
def State.loadResult (s : State) (kind : LoadKind) (dests : List (Reg × RegVal)) (due phys : Nat) : State :=
  s.loadEnters kind dests due phys false

/-- A scalar destination of a load: none for X0. -/
def State.xDest (s : State) (d : BitVec 6) (v : X64) : List (Reg × RegVal) :=
  if d = 0 then [] else [(.x (physX s.issue.rrb d.toNat), .x v)]

/-! ### Notices (R374, R375) -/

/-- The three physical addresses of a location, one for each window (R166). -/
def pasOfLoc (loc : Nat) : List Nat :=
  let pkg := loc / 2 ^ 40 * 2 ^ 46
  let site := loc / 2 ^ 36 % 16
  let chan := loc / 2 ^ 30 % 64
  let off := loc % 2 ^ 30
  [pkg + ((off / 4096 * 1024 + chan * 16 + site) * 4096 + off % 4096),
    pkg + 2 ^ 44 + site * 2 ^ 36 + ((off / 1024 * 64 + chan) * 1024 + off % 1024),
    pkg + 2 ^ 45 + site * 2 ^ 36 + chan * 2 ^ 30 + off]

/-- A notice's 64 bytes. -/
def noticeBytes (kind part core : Nat) (body : List (Nat × List Byte)) : List Byte :=
  let t : Tab Byte := body.foldl (fun t e => t.writeBytes e.1 e.2) []
  leBytes 2 kind ++ leBytes 2 part ++ leBytes 4 core ++ readBytes (fun a => t.read 0 a) 8 56

/-- An MSI-X vector is raised: its message is sent, or its pending bit is set while the table masks it (R367, R368; log 46). -/
def HostSide.raise (h : HostSide) (n : Nat) : HostSide :=
  if ((h.window.read 0 (0x400C + 16 * n)).getLsbD 0) then { h with pending := h.pending ||| BitVec.ofNat 32 (2 ^ n) }
  else { h with msix := h.msix ++ [n] }

/-- A notice written to the ring, with vector 1 raised; held while the ring is full (R374). -/
def State.postBytes (s : State) (b : List Byte) : State :=
  let h := s.host
  if (h.nwr - h.nrd).toNat = 64 then { s with host := { h with heldNotices := h.heldNotices ++ [b] } }
  else
    { s with host := HostSide.raise { h with
      window := h.window.writeBytes (0x3000 + 64 * (h.nwr.toNat % 64)) b
      nwr := h.nwr + 1 } 1 }

/-- A notice of the supervisor: the core field is (die, core) as 64 * die + core. -/
def State.notice (s : State) (kind part core : Nat) (body : List (Nat × List Byte)) : State :=
  s.postBytes (noticeBytes kind part core body)

/-! ### Taking an exception (R344 to R348) -/

/-- The causes that go to the supervisor (R343). -/
def supervisorCause (cause : Nat) : Bool := [0x04, 0x09, 0x0A, 0x0B, 0x0F].contains cause

/-- TINFO (R341). -/
def tinfoOf (value slot rep dcode : Nat) : X64 :=
  BitVec.ofNat 64 (value % 2 ^ 48 + 2 ^ 48 * slot + 2 ^ 51 * rep + 2 ^ 54 * dcode)

/-- Cycles until the last entry counted in cycles lands. -/
def Ctx.lastLanding (c : Ctx) : Nat := c.flight.foldl (fun n e => if e.cycles then Nat.max n e.left else n) 0

/-- A context is in a user handler (R346). -/
def Ctx.inHandler (c : Ctx) : Bool := c.held.any fun h => !h.priv

/-- The fresh environment of a handler or a privileged routine; the interrupted one is held aside (R345, R348). -/
def Ctx.enterEnv (c : Ctx) (priv : Bool) (entry : Option Nat) (target : Nat) : Ctx :=
  { c with
    held := ⟨priv, c.mode, c.loops, c.sticky, c.flight.filter (fun e => !e.cycles), entry, c.ticket⟩ :: c.held
    mode := ⟨true, 0, priv || c.mode.priv⟩
    loops := []
    sticky := .nop
    flight := []
    ticket := none
    pc := target
    rep := 0 }

/-- The particulars of a notice of kind 3 for a supervisor cause. DESIGN CHOICE (log 43): R360 has it carry the exact line of
an error in global data, R375 names no place, and it stands in bytes 48 to 55. -/
def stopBody (k cause dcode value pc : Nat) (info : X64) : List (Nat × List Byte) :=
  [(8, leBytes 1 k), (9, leBytes 1 cause), (16, leBytes 8 pc), (24, leBytes 8 info.toNat)]
    ++ (if cause = memUncorrectable ∧ dcode = 0 then [(48, leBytes 8 (memErrorLine value))] else [])

/-- A trap of a context (R344, R346): `pc` and `rep` are what TPC and TINFO.REP name. -/
def State.takeTrap (s : State) (core k cause dcode slot value pc rep : Nat) : State :=
  let c0 := s.ctx core k
  let wait := c0.lastLanding
  let ready := s.cycle.toNat + 4 + wait
  let c1 : Ctx := { c0.landCycles with
    bank := none
    waitwEnded := false
    armed := false
    ticket := none
    wait := WaitReason.none
    waitCycles := 0
    waitCounted := false }
  let user := !supervisorCause cause
  let part := (s.cs core).part.getD 0
  -- a bundle that was blocked ends its ticket (R284); the landing of step 2 stalls the core (R344)
  let s := s.modCS core fun v =>
    { v with
      tickets := v.tickets.filter fun t => decide (c0.ticket ≠ some t.num)
      stallTo := Nat.max v.stallTo (s.cycle.toNat + wait) }
  if user ∧ c1.inHandler ∧ ¬ c1.mode.priv then
    -- nested: the trap registers keep the first trap's values (R346)
    let s1 := s.modCtx core k fun _ => { c1 with stop := some ⟨.nested, pc, rep⟩ }
    s1.notice 3 part core [(8, leBytes 1 k), (9, leBytes 1 c1.tcause.toNat), (10, leBytes 1 cause),
      (16, leBytes 8 c1.tpc.toNat), (24, leBytes 8 c1.tinfo.toNat),
      (32, leBytes 8 (tinfoOf value slot rep 12).toNat), (40, leBytes 8 pc)]
  else
    let noHandler := user ∧ c1.tvec = 0 ∧ ¬ c1.mode.priv
    let info := tinfoOf value slot rep (if noHandler then 16 else dcode)
    let c2 : Ctx := { c1 with tcause := BitVec.ofNat 8 cause, tpc := BitVec.ofNat 64 pc, tinfo := info }
    if user ∧ ¬ noHandler ∧ ¬ c1.mode.priv then
      s.modCtx core k fun _ => { c2.enterEnv false (some pc) c2.tvec.toNat with readyAt := ready }
    else
      let s1 := s.modCtx core k fun _ => { c2 with stop := some ⟨.trap, pc, rep⟩ }
      s1.notice 3 part core (stopBody k cause dcode value pc info)

/-- The environment held innermost is restored: results of the routine land, its own environment is discarded, the
frozen entries unfreeze (R347, R349). The context goes on at TPC, at repetition TINFO.REP and with the ticket of the blocked
bundle (R284) only where TPC still names the bundle recorded at entry. -/
def Ctx.leaveEnv (c : Ctx) : Ctx :=
  match c.held with
  | [] => c
  | h :: rest =>
    let c1 := c.landCycles.landBundles
    { c1 with
      held := rest
      mode := h.mode
      loops := h.loops
      sticky := h.sticky
      flight := h.frozen
      ticket := if h.entry = some c1.tpc.toNat then h.ticket else none
      pc := c1.tpc.toNat
      rep := if h.entry = some c1.tpc.toNat then bitsOf c1.tinfo.toNat 53 51 else 0 }

/-- The ticket of a blocked bundle that a return leaves behind (R284). -/
def Ctx.leftTicket (c : Ctx) : Option Nat :=
  match c.held with
  | [] => none
  | h :: _ => if h.entry = some c.tpc.toNat then none else h.ticket

/-! ### The frame of a slot's execution -/

/-- The outcome of a slot that did not act: its trap is taken; a block or a stall changes nothing but the note of it. -/
def State.halt (s : State) (h : Halt) : State :=
  match h with
  | .trap cause dcode slot value =>
    (s.takeTrap s.issue.core s.issue.ctx cause dcode slot value s.issue.pc s.issue.rep).modIssue
      fun i => { i with verdict := some h }
  | _ => s.modIssue fun i => { i with verdict := some h }

/-- An effect that may end in a halt, as an outcome. -/
def finish (s : State) (r : Except Halt State) : Host.Outcome State Fault Refusal :=
  match r with
  | .ok t => .next t
  | .error h => .next (s.halt h)

/-- A slot acts when its guard holds and does nothing when it is false (R38). -/
def slotOp (g : BitVec 4) (s : State) (body : Except Halt State) : Host.Outcome State Fault Refusal :=
  finish s <|
    match s.readP g.toNat with
    | .error h => .error h
    | .ok false => .ok s
    | .ok true => body

/-! ### Words of a bank that may still be fetched as they were (R191, R198) -/

/-- Completion events are announced at a place. -/
def State.announce (s : State) (place : NewsAt) (packets : List (Nat × Nat)) : State :=
  { s with news := s.news ++ packets.map fun p => ⟨p.1, p.2, s.cycle.toNat, place⟩ }

/-- The packets whose completion events are announced at the places that a test holds of. -/
def State.newsAt (s : State) (p : NewsAt → Bool) : List (Nat × Nat) :=
  (s.news.filter fun w => p w.place).map fun w => (w.core, w.id)

/-- Where a landing counter's count announces: a global counter's place names no core. -/
def counterPlace (id core part : Nat) : NewsAt := .counter id (if 0x8000 ≤ id then core else 0) part

/-- Words of memory written by an action announce what its counter has counted (R191, R200). -/
def State.announceWords (s : State) (ls : List Nat) (packets : List (Nat × Nat)) : State :=
  ls.foldl (fun t l => t.announce (.word l) packets) s

/-- A context has observed completion events of packets. -/
def Ctx.observe (c : Ctx) (packets : List (Nat × Nat)) : Ctx :=
  { c with stale := c.stale.map fun w => { w with seen := w.seen || packets.contains (w.core, w.id) } }

/-- The completion events that a satisfied wait on a semaphore observes: those whose increments its count includes; an
increment of a completion event is made at the end of its cycle (R191, R314). -/
def State.semNews (s : State) (core n : Nat) : List (Nat × Nat) :=
  let part := (s.cs core).part.getD 0
  (s.news.filter fun w => decide (w.place = .sem core part n) && decide (w.cycle < s.cycle.toNat)).map fun w => (w.core, w.id)

/-- A semaphore whose count includes no increment made so far. -/
def State.forgetSem (s : State) (core n : Nat) : State :=
  let part := (s.cs core).part.getD 0
  { s with news := s.news.filter fun w => !(decide (w.place = .sem core part n) && decide (w.cycle < s.cycle.toNat)) }

/-- A context reads words of memory: it observes the completion events that they announce (R191). -/
def State.observeWords (s : State) (core k : Nat) (ls : List Nat) : State :=
  s.modCtx core k fun c => c.observe (s.newsAt fun p => match p with
    | .word l => ls.contains l
    | _ => false)

/-- Bundles fetched ahead are discarded, by IFENCE or a swap of the banks: words of packets whose completion the context has
observed are fetched as they stand (R98, R100, R198; log 5). -/
def State.refetch (s : State) : State := s.modCx fun c => { c with stale := c.stale.filter fun w => !w.seen }

end Sys2Proof.Machine
end

