-- ==== Sys2Proof/Machine/Mem.lean ====
section
/-!
DEFINITION. Global memory: locations (R166, R167), the walk (R162, R168, R300), translation through TLBs and
first-level lines (R163, R301), caches as lists of lines (R164) and the bytes themselves (R169, R184).
-/
namespace Sys2Proof.Machine

/-! ### Bytes by location -/

def Memory.read (m : Memory) (loc : Nat) : Byte := Tab.read m 0 loc
def Memory.write (m : Memory) (loc : Nat) (b : Byte) : Memory := Tab.write m 0 loc b
/-- The canonical form: locations rise strictly and no entry is 0, what an unlisted byte reads as (R184). -/
def Memory.wf (m : Memory) : Bool := Tab.wf m 0
/-- Bytes written one by one at a list of locations. -/
def Memory.writeAll (m : Memory) : List Nat → List Byte → Memory
  | l :: ls, b :: bs => Memory.writeAll (m.write l b) ls bs
  | _, _ => m

/-- A byte's location from its parts: package, site, channel, offset (R166). -/
def locOf (pkg site chan off : Nat) : Nat := pkg * 2 ^ 40 + site * 2 ^ 36 + chan * 2 ^ 30 + off

/-- The location a physical address decodes to; `none` outside its window (R167). -/
def locOfPa (pa : Nat) : Option Nat :=
  let pkg := bitsOf pa 51 46
  let w := pa % 2 ^ 44
  match bitsOf pa 45 44 with
  | 0 =>
    if w < 0xC000000000 then
      let g := w / 4096
      some (locOf pkg (g % 16) (g / 16 % 64) (g / 1024 * 4096 + w % 4096))
    else none
  | 1 =>
    if w / 2 ^ 40 = 0 ∧ w % 2 ^ 36 < 0xC00000000 then
      let t := w % 2 ^ 36
      let h := t / 1024
      some (locOf pkg (w / 2 ^ 36 % 16) (h % 64) (h / 64 * 1024 + t % 1024))
    else none
  | 2 =>
    if w / 2 ^ 40 = 0 ∧ w % 2 ^ 30 < 0x30000000 then
      some (locOf pkg (w / 2 ^ 36 % 16) (w / 2 ^ 30 % 64) (w % 2 ^ 30))
    else none
  | _ => none

/-- The site of a location on its package. -/
def siteOfLoc (loc : Nat) : Nat := loc / 2 ^ 36 % 16

/-! ### The walk (R162, R300) -/

/-- A translation: the physical address of the byte, the page size and the write permission. -/
structure Leaf where
  pa : Nat
  size : Nat
  writable : Bool
  deriving DecidableEq, Repr

/-- An 8-byte word at a physical address. -/
def State.readPhys (s : State) (pa : Nat) : Nat :=
  leNat ((countFrom pa 8).map fun a => match locOfPa a with
    | some l => Memory.read s.mem l
    | none => 0)

/-- The 8-byte word at a physical address holds an uncorrectable error (R360). -/
def State.entryFlaw (s : State) (pa : Nat) : Bool := (locOfPa pa).any fun l => s.flaws.contains (l / 8)

/-- PAGE_FAULT and PROTECTION (R343). -/
def pageFault : Nat := 0x09
def protection : Nat := 0x0A

/-- A package the walk may name (R379). -/
def State.packageOk (s : State) (pa : Nat) : Bool :=
  let p := bitsOf pa 51 46
  p == s.pod.pkgid || (s.pod.inForce && decide (p < 64) && (s.pod.routes.getD p 0 != 0))

/-- The checks every valid entry must pass (R300, R379). -/
def State.entryOk (s : State) (e : Nat) : Bool :=
  bitsOf e 15 3 == 0 && bitsOf e 63 52 == 0 && bitsOf e 45 44 != 3 && s.packageOk (bitsOf e 51 16 * 2 ^ 16)

/-- A leaf's page lies in its window (R168). -/
def leafOk (e size : Nat) : Bool :=
  let pa := bitsOf e 51 16 * 2 ^ 16
  (locOfPa pa).isSome && (locOfPa (pa + size - 1)).isSome && (size == 2 ^ 16 || bitsOf e 45 44 != 2)

/-- The walk from a root; a cause where it fails. An entry that holds an uncorrectable error fails the access that reads it
(R360, log 43). -/
def State.walk (s : State) (root va : Nat) : Except Nat Leaf :=
  let a1 := root + 8 * bitsOf va 54 42
  let e1 := s.readPhys a1
  let a2 := bitsOf e1 51 16 * 2 ^ 16 + 8 * bitsOf va 41 29
  let e2 := s.readPhys a2
  if s.entryFlaw a1 then .error memUncorrectable
  else if !bitOf e1 0 then .error pageFault
  else if !s.entryOk e1 || bitOf e1 1 then .error protection
  else if s.entryFlaw a2 then .error memUncorrectable
  else
    if !bitOf e2 0 then .error pageFault
    else if !s.entryOk e2 then .error protection
    else if bitOf e2 1 then
      if bitsOf e2 28 16 ≠ 0 ∨ !leafOk e2 (2 ^ 29) then .error protection
      else .ok ⟨bitsOf e2 51 29 * 2 ^ 29 + va % 2 ^ 29, 2 ^ 29, bitOf e2 2⟩
    else
      let a3 := bitsOf e2 51 16 * 2 ^ 16 + 8 * bitsOf va 28 16
      let e3 := s.readPhys a3
      if s.entryFlaw a3 then .error memUncorrectable
      else if !bitOf e3 0 then .error pageFault
      else if !s.entryOk e3 || !bitOf e3 1 || !leafOk e3 (2 ^ 16) then .error protection
      else .ok ⟨bitsOf e3 51 16 * 2 ^ 16 + va % 2 ^ 16, 2 ^ 16, bitOf e3 2⟩

/-- The physical address of the entry of a walk that holds an uncorrectable error. -/
def State.walkFlaw (s : State) (root va : Nat) : Nat :=
  let a1 := root + 8 * bitsOf va 54 42
  let a2 := bitsOf (s.readPhys a1) 51 16 * 2 ^ 16 + 8 * bitsOf va 41 29
  let a3 := bitsOf (s.readPhys a2) 51 16 * 2 ^ 16 + 8 * bitsOf va 28 16
  if s.entryFlaw a1 then a1 else if s.entryFlaw a2 then a2 else a3

/-! ### Translation (R163, R301) -/

/-- A TLB's translation of an address. -/
def tlbFind (l : List TlbEntry) (asid va : Nat) : Option TlbEntry :=
  l.find? fun e => e.asid == asid && e.vbase == va / e.size * e.size

/-- A byte's leaf for an address space: through a core's TLBs where a core is named, else by the walk alone. -/
def State.leaf (s : State) (core : Option Nat) (asid root va : Nat) : Except Nat Leaf :=
  let hit := match core with
    | none => none
    | some c => (tlbFind (s.core c).tlb asid va).orElse fun _ => tlbFind (s.quad (quadOf c)).tlb asid va
  match hit with
  | some e => .ok ⟨e.pa + va % e.size, e.size, e.writable⟩
  | none => s.walk root va

/-- The physical address an address reaches in the space of a core's partition, for a report (R175, R351): that of the entry
where a walk ends at an uncorrectable error. -/
def State.physAt (s : State) (core va : Nat) : Nat :=
  let v := s.cs core
  match s.leaf (some core) v.asid.toNat v.ptbase.toNat va with
  | .ok f => f.pa
  | .error c => if c = memUncorrectable then s.walkFlaw v.ptbase.toNat va else 0

/-- The location an access of one byte reaches, or its cause (R162, R163). -/
def State.xlate (s : State) (core : Option Nat) (asid root va : Nat) (write : Bool) : Except Nat Nat :=
  if 2 ^ 55 ≤ va then .error protection
  else
    let line : Option L1Line := match core with
      | none => none
      | some c => (s.core c).l1.find? fun l => l.asid == asid && l.line == va / 64 && (!write || l.writable)
    match line with
    | some l => .ok (l.loc * 64 + va % 64)
    | none =>
      match s.leaf core asid root va with
      | .error c => .error c
      | .ok f =>
        if write && !f.writable then .error protection
        else match locOfPa f.pa with
          | some l => .ok l
          | none => .error protection

/-- The locations of consecutive bytes; the first byte that fails gives the cause and its address. -/
def State.xlateAll (s : State) (core : Option Nat) (asid root : Nat) (write : Bool) : List Nat → Except (Nat × Nat) (List Nat)
  | [] => .ok []
  | a :: r =>
    match s.xlate core asid root a write with
    | .error c => .error (c, a)
    | .ok l =>
      match State.xlateAll s core asid root write r with
      | .error e => .error e
      | .ok ls => .ok (l :: ls)

/-- The locations of n bytes from an address, in the address space of a core's running partition. -/
def State.locs (s : State) (core va n : Nat) (write : Bool) : Except (Nat × Nat) (List Nat) :=
  let v := s.cs core
  s.xlateAll (some core) v.asid.toNat v.ptbase.toNat write (countFrom va n)

/-- The bytes at locations. -/
def State.bytesAt (s : State) (ls : List Nat) : List Byte := ls.map fun l => Memory.read s.mem l

/-- The first of the locations whose word holds an uncorrectable error (R175, R360). -/
def State.soiled (s : State) (ls : List Nat) : Option Nat := ls.find? fun l => s.flaws.contains (l / 8)

/-- A core's read meets an error in a dirty line of a memory-side cache, which is reported (R360, R374). -/
def State.lineReport (s : State) (core : Nat) (loc : Nat) : State :=
  if (s.site (siteOfLoc loc)).lines.contains (loc / 64, true) then
    s.notice 10 ((s.cs core).part.getD 0) core [(8, leBytes 1 0), (16, leBytes 8 (((pasOfLoc loc).headD 0) / 64 * 64))]
  else s

/-! ### Caches: what is present, not the bytes (R164, log 6) -/

/-- A list kept within a size: one entry, chosen by a free value, leaves. -/
def evict {α : Type} (cap fresh : Nat) (l : List α) : List α :=
  if l.length ≤ cap then l else l.eraseIdx (1 + (Config.freeValue fresh).toNat % (l.length - 1))

/-- The memory-side cache of the location's site counts a hit or a miss (R328); another package's sites are its own. -/
def State.siteTouch (s : State) (loc : Nat) (write : Bool) : State :=
  let line := loc / 64
  let st := s.site (siteOfLoc loc)
  if loc / 2 ^ 40 ≠ s.pod.pkgid then s
  else if st.lines.any fun l => l.1 == line then
    s.modSite (siteOfLoc loc) fun v => { v with hits := v.hits + 1
                                                lines := v.lines.map fun l => if l.1 = line then (line, l.2 || write) else l }
  else
    let s1 := s.modSite (siteOfLoc loc) fun v => { v with misses := v.misses + 1
                                                          lines := evict (2 ^ 21) s.fresh ((line, write) :: v.lines) }
    { s1 with fresh := s1.fresh + 1 }

/-- The die cache of a die is asked for a line; a miss goes to the site (R164). -/
def State.dieTouch (s : State) (die loc : Nat) (write : Bool) : State :=
  let line := loc / 64
  if (s.die die).lines.contains line then s
  else
    let s1 := s.modDie die fun v => { v with lines := evict (2 ^ 20) s.fresh (line :: v.lines) }
    { s1 with fresh := s1.fresh + 1 }.siteTouch loc write

/-- A party writes in a line: the copies of the first-level caches, but of a writing core's own, and of the die caches, but
of the die it writes through, are given up (R154, R187, log 6). -/
def State.spoil (s : State) (core die : Option Nat) (line : Nat) : State :=
  { s with
    cores := s.cores.map fun e =>
      (e.1, if core = some e.1 then e.2 else { e.2 with l1 := e.2.l1.filter fun l => l.loc != line })
    dies := s.dies.map fun e =>
      (e.1, if die = some e.1 then e.2 else { e.2 with lines := e.2.lines.filter fun l => l != line }) }

/-- A party that reaches memory through no die's cache, a pier, the host, an action or the supervisor, reads or writes bytes:
one access of the site for each line (R154, log 6). -/
def State.siteLines (s : State) (ls : List Nat) (write : Bool) : State :=
  (ls.map (· / 64)).eraseDups.foldl (fun t l => t.siteTouch (64 * l) write) s

/-- Bytes written by such a party. -/
def State.spoilAll (s : State) (ls : List Nat) : State :=
  ((ls.map (· / 64)).eraseDups.foldl (fun t l => t.spoil none none l) s).siteLines ls true

/-- A core holds a first-level line for an access at an address. -/
def Core.holdsLine (v : Core) (write : Bool) (va : Nat) : Bool :=
  v.l1.any fun l => l.asid == v.cur.asid.toNat && l.line == va / 64 && (!write || l.writable)

/-- A die keeps no first-level copy of a location under the same ASID and another address (R164). -/
def State.dropSynonyms (s : State) (die : Nat) (e : L1Line) : State :=
  { s with cores := s.cores.map fun c =>
      (c.1, if dieOf c.1 = die then
          { c.2 with l1 := c.2.l1.filter fun l => !(l.asid == e.asid && l.loc == e.loc && l.line != e.line) }
        else c.2) }

/-- A first-level line filled by a core. -/
def State.fillLine (s : State) (core : Nat) (e : L1Line) : State :=
  (s.dropSynonyms (dieOf core) e).modCore core fun w =>
    { w with l1 := evict (w.cacheKiB * 16) (s.fresh + 1) (e :: w.l1.filter fun l => !(l.asid == e.asid && l.line == e.line)) }

/-- A translation kept in the core's and the quad's TLB (R301). -/
def State.fillTlb (s : State) (core : Nat) (e : TlbEntry) : State :=
  (s.modCore core fun w => { w with tlb := if w.tlb.contains e then w.tlb else evict 128 s.fresh (e :: w.tlb) }).modQuad
    (quadOf core) fun q => { q with tlb := if q.tlb.contains e then q.tlb else evict 4096 (s.fresh + 2) (e :: q.tlb) }

/-- An access for which the core holds no line: its translation is kept, and a load fills the line. -/
def State.missLine (s : State) (core va loc : Nat) (write : Bool) : State :=
  let v := s.core core
  let asid := v.cur.asid.toNat
  let s1 := match s.leaf (some core) asid v.cur.ptbase.toNat va with
    | .error _ => s
    | .ok f =>
      let s2 := s.fillTlb core ⟨asid, va / f.size * f.size, f.size, f.pa - va % f.size, f.writable⟩
      if write || v.cacheKiB == 0 then s2 else s2.fillLine core ⟨asid, va / 64, loc / 64, f.writable⟩
  { s1 with fresh := s1.fresh + 3 }.dieTouch (dieOf core) loc write

/-- One line of a core's global access: the translation and the line are kept, and a write makes other copies stale. -/
def State.touchLine (s : State) (core va loc : Nat) (write : Bool) : State :=
  let s1 :=
    if (s.core core).holdsLine write va then (if write then s.dieTouch (dieOf core) loc true else s)
    else s.missLine core va loc write
  if write then s1.spoil (some core) (some (dieOf core)) (loc / 64) else s1

/-- One global access of a core, by the lines it reaches: a hit where the first-level cache holds them all, else a miss
(R327, log 6). -/
def State.touch (s : State) (core : Nat) (lines : List (Nat × Nat)) (write : Bool) : State :=
  let hit := lines.all fun p => (s.core core).holdsLine write p.1
  let s1 := s.modCS core fun w => { w with mon :=
    if hit then { w.mon with l1hit := w.mon.l1hit + 1 } else { w.mon with l1miss := w.mon.l1miss + 1 } }
  lines.foldl (fun t p => t.touchLine core p.1 p.2 write) s1

/-- The caches after an access whose bytes lie at the locations: aligned, it is one access of its lines, else one of each
byte (R169). -/
def State.touchAll (s : State) (core va n : Nat) (ls : List Nat) (write : Bool) : State :=
  if va % n = 0 then
    s.touch core ((List.range ((n + 63) / 64)).map fun i => (va + 64 * i, ls.getD (64 * i) 0)) write
  else ((countFrom va n).zip ls).foldl (fun t p => t.touch core [p] write) s

/-- Raw bytes written at locations; counting and coherence are the caller's. A word written whole holds no error (R175), and
what a word announced it announces no more (R191). -/
def State.writeLocs (s : State) (ls : List Nat) (bs : List Byte) : State :=
  { s with
    mem := Memory.writeAll s.mem ls bs
    news := s.news.filter fun w => match w.place with
      | .word l => !ls.contains l
      | _ => true
    flaws := s.flaws.filter fun w => !(List.range 8).all fun i => ls.contains (8 * w + i) }

/-! ### Faults of a global access -/

/-- The VALUE of PAGE_FAULT and PROTECTION (R343). -/
def faultValue (va lane : Nat) : Nat := bitsOf va 54 16 + 2 ^ 40 * lane

/-- The VALUE of a failed translation for a core's bundle: the page and the lane, or the entry that holds an uncorrectable
error (R343, R360). -/
def State.xlateValue (s : State) (core bundle cause va lane : Nat) : Nat :=
  if cause = memUncorrectable then memErrorValue bundle (s.walkFlaw (s.cs core).ptbase.toNat va) else faultValue va lane

/-- Translation failures as traps of the issuing slot. -/
def State.accessTrap {α : Type} (s : State) (lane : Nat) : Except (Nat × Nat) α → Except Halt α
  | .ok a => .ok a
  | .error (cause, va) => .error (s.trapHere cause 0 (s.xlateValue s.icore s.issue.pc cause va lane))

end Sys2Proof.Machine
end

