-- ==== Sys2Proof/Machine/Seg.lean ====
section
/-!
DEFINITION. Segments: names, roles, bounds (R155 to R158), their bytes (R159, R279), the sets of a crossing ticket
(R284, R285) and the frame of an instruction that names a segment.
-/
namespace Sys2Proof.Machine

/-- The cause codes of segment failures (R343). -/
def segUndefined : Nat := 0x06
def segBound : Nat := 0x07
def segSetOverflow : Nat := 0x08
def illegalOp : Nat := 0x02
def enginePacket : Nat := 0x11

/-- A reserved name (R155). -/
def segReserved (n : Nat) : Bool := (decide (0xF0 ≤ n) && decide (n ≤ 0xF7)) || (decide (0xFA ≤ n) && decide (n ≤ 0xFD))

/-- The segment a name reaches, with its identity. -/
def CoreState.segNamed (v : CoreState) (name : Nat) : Option (Nat × Seg) :=
  v.segs.find? fun e => e.2.name == name && !e.2.detached

/-- A segment by identity. -/
def CoreState.seg (v : CoreState) (id : Nat) : Option Seg := v.segs.get id
def CoreState.modSeg (v : CoreState) (id : Nat) (f : Seg → Seg) : CoreState :=
  match v.segs.get id with
  | none => v
  | some g => { v with segs := v.segs.put id (f g) }

/-- The length in bytes. -/
def Seg.bytes (g : Seg) : Nat := 256 * g.len

/-- The bytes of a segment: an instruction bank's lie in the scratchpad (R161). -/
def CoreState.segData (v : CoreState) (g : Seg) : Tab Byte :=
  if g.name = 0xFE then v.bank0 else if g.name = 0xFF then v.bank1 else g.data

/-- Consecutive bytes of a segment. -/
def CoreState.segRead (v : CoreState) (id off n : Nat) : List Byte :=
  match v.seg id with
  | none => List.replicate n 0
  | some g => readBytes (fun a => (v.segData g).read 0 a) off n

/-- A word of a segment's bytes [off, off + n) in the local store holds an uncorrectable error (R360). -/
def CoreState.flawedAt (v : CoreState) (id off n : Nat) : Bool :=
  ((v.seg id).any fun g => decide (g.state ≠ .absent)) && v.flaws.any fun f => match f with
    | .seg g w => g == id && decide (off < 4 * w + 4) && decide (4 * w < off + n)
    | _ => false

/-- No word of a segment holds an uncorrectable error (R360). -/
def CoreState.sound (v : CoreState) (id : Nat) : Bool :=
  v.flaws.all fun f => match f with
    | .seg g _ => g != id
    | _ => true

/-- The contents of a segment are gone or new: no word holds an error (R360). -/
def CoreState.mendAll (v : CoreState) (id : Nat) : CoreState :=
  { v with flaws := v.flaws.filter fun f => match f with
      | .seg g _ => g != id
      | _ => true }

/-- Words of a segment, a bank among them, that a write covers whole hold no error (R360). -/
def CoreState.mendSeg (v : CoreState) (id : Nat) (written : Nat → Bool) : CoreState :=
  let name := ((v.seg id).map (·.name)).getD 0
  let whole := fun (w : Nat) => written (4 * w) && written (4 * w + 1) && written (4 * w + 2) && written (4 * w + 3)
  { v with flaws := v.flaws.filter fun f => match f with
      | .seg g w => !(g == id && whole w)
      | .code r w => !(decide (1 ≤ r) && name == 0xFD + r && whole w)
      | _ => true }

/-- The instruction's read of a segment meets no error (R360). -/
def State.soundSeg (s : State) (id off n : Nat) : Except Halt Unit :=
  if s.ccs.flawedAt id off n && (s.ccs.seg id).any fun g => decide (g.state = .resident) then .error s.sramTrap else .ok ()

/-- Bytes put into a segment; the write sets DIRTY (R279). -/
def CoreState.segPut (v : CoreState) (id off : Nat) (bs : List Byte) : CoreState :=
  match v.seg id with
  | none => v
  | some g =>
    { v with
      bank0 := if g.name = 0xFE then v.bank0.writeBytes off bs else v.bank0
      bank1 := if g.name = 0xFF then v.bank1.writeBytes off bs else v.bank1
      segs := v.segs.put id { g with
        data := if g.name = 0xFE ∨ g.name = 0xFF then g.data else g.data.writeBytes off bs
        dirty := true } }

/-- Bytes written into a segment: words written whole hold no error. -/
def CoreState.segWrite (v : CoreState) (id off : Nat) (bs : List Byte) : CoreState :=
  (v.segPut id off bs).mendSeg id fun a => decide (off ≤ a) && decide (a < off + bs.length)

/-- Bytes written at places of a segment, in the order of the list: words written whole hold no error. -/
def CoreState.segWriteAt (v : CoreState) (id : Nat) (cells : List (Nat × Byte)) : CoreState :=
  (cells.foldl (fun v c => v.segPut id c.1 [c.2]) v).mendSeg id fun a => cells.any fun c => c.1 == a

/-- The access paths of R156. -/
inductive SegPath where
  | access | pipe | engine | ferryWrite
  deriving DecidableEq, Repr

/-- Which roles a path may reach (R156). -/
def SegPath.allows : SegPath → Role → Bool
  | .access, .data | .access, .landing | .access, .stack => true
  | .pipe, .pipe => true
  | .engine, .data | .engine, .landing | .engine, .stack => true
  | .ferryWrite, .data | .ferryWrite, .landing | .ferryWrite, .stack | .ferryWrite, .instr => true
  | _, _ => false

/-- The segment an instruction names: undefined and reserved names and forbidden roles raise SEG_UNDEFINED (R155, R156). -/
def State.findSeg (s : State) (name : Nat) (path : SegPath) : Except Halt (Nat × Seg) :=
  match s.ccs.segNamed name with
  | none => .error (s.trapHere segUndefined 0 name)
  | some (id, g) => if path.allows g.role then .ok (id, g) else .error (s.trapHere segUndefined 2 name)

/-- A number added to a set. -/
def addTo (l : List Nat) (n : Nat) : List Nat := if l.contains n then l else l ++ [n]

/-- The bundle touches a segment at its issue: it joins the bundle's part of the known set, and a segment that is not
resident blocks the bundle (R159, R285). -/
def State.useSeg (s : State) (id : Nat) (g : Seg) : State :=
  s.modIssue fun i => { i with bundleSet := addTo i.bundleSet id, absent := i.absent || decide (g.state ≠ .resident) }

/-- The command touches a segment after its issue (R285). -/
def State.useSegLater (s : State) (id : Nat) : State :=
  s.modIssue fun i => { i with cmdSet := addTo i.cmdSet id }

/-- Local-store segments count toward the known set; the instruction banks lie in the scratchpad (R280, R285). -/
def CoreState.setSum (v : CoreState) (ids : List Nat) : Nat :=
  ids.foldl (fun n id => match v.seg id with
    | some g => if g.role = .instr then n else n + g.len
    | none => n) 0

/-- The members of both parts, each once. -/
def Issue.knownSet (i : Issue) : List Nat := i.cmdSet.foldl addTo i.bundleSet

/-- The bundle or its command names a segment. -/
def Issue.named (i : Issue) : Bool := !i.knownSet.isEmpty || decide (i.defined ≠ 0)

/-- The sum of the bundle's known set, the segment that its SGDEF defines included (R285, R292). -/
def CoreState.issueSum (v : CoreState) (i : Issue) : Nat := v.setSum i.knownSet + i.defined

/-- A global address or a place in a segment (R158). -/
inductive SegPlace where
  | here (id off : Nat)
  | there (va : Nat)
  deriving DecidableEq, Repr

/-- The offset an instruction forms, its step added modulo 2^64 (R157). -/
def State.stepped (s : State) (base : X64) : Nat := (base + s.issue.step).toNat

/-- The lowest lane of a whole vector at an offset that a length does not hold (R176, R343); 0 for another access. -/
def boundLane (len off n : Nat) : Nat := if n = 256 then (len - off) / 4 else 0

/-- The place of an access of `n` bytes at an offset: bounds, and the overflow path of the stack segment where the
instruction has one (R157, R158). A segment that is not resident blocks the bundle before its bounds are looked at (R36,
R159). DESIGN CHOICE (log 61): an access on the overflow path counts the stack segment in its known set and waits while that
is not resident, and OVFPTR + (o - L) is taken modulo 2^64. -/
def State.segPlace (s : State) (name off n : Nat) (overflow : Bool) : Except Halt (SegPlace × State) :=
  match s.findSeg name .access with
  | .error h => .error h
  | .ok (id, g) =>
    if off + n ≤ g.bytes then .ok (.here id off, s.useSeg id g)
    else if overflow ∧ g.role = .stack ∧ g.bytes ≤ off then
      .ok (.there ((s.ccs.ovfptr + BitVec.ofNat 64 (off - g.bytes)).toNat), s.useSeg id g)
    else if g.state ≠ .resident then .ok (.here id off, s.useSeg id g)
    else .error (s.trapHere segBound 0 (name + 2 ^ 8 * boundLane g.bytes off n))

/-- The state in which an instruction waits for the segment that it names, where that may be accessed and is not resident: the
wait comes before every check of the instruction's own (R36, R159). -/
def State.absentPlace (s : State) (name off n : Nat) : Option State :=
  match s.segPlace name off n false with
  | .ok (.here id _, t) => if (s.ccs.seg id).any fun g => decide (g.state ≠ .resident) then some t else none
  | _ => none

/-- What follows the effects of an instruction that names segments: a known set above SGQUOTA raises SEG_SET_OVERFLOW
(R285), and a segment that is not resident blocks the bundle, of which nothing commits (R159). -/
def settle (s : State) (r : Except Halt State) : Host.Outcome State Fault Refusal :=
  match r with
  | .error h => .next (s.halt h)
  | .ok t =>
    let sum := t.ccs.issueSum t.issue
    if t.ccs.quota < sum ∧ t.issue.named then
      .next (({ s with issue := t.issue } : State).halt (s.trapHere segSetOverflow 0 sum))
    else if t.issue.absent then .next (({ s with issue := t.issue } : State).halt (.blocked .segment))
    else .next t

/-- A slot that names segments. -/
def segOp (g : BitVec 4) (s : State) (body : Except Halt State) : Host.Outcome State Fault Refusal :=
  settle s <|
    match s.readP g.toNat with
    | .error h => .error h
    | .ok false => .ok s
    | .ok true => body

end Sys2Proof.Machine
end

