-- ==== Sys2Proof/Machine/Operands.lean ====
section
/-!
DEFINITION. Operand forms shared by the families: immediates (R71), pairs of scalar sources, lanes under a mask
(R124, R125) and element-wise application (R127).
-/
namespace Sys2Proof.Machine

/-- An immediate sign-extended to 64 bits (R71). -/
def sext64 {w : Nat} (i : BitVec w) : X64 := i.signExtend 64

/-- The subnormal handling of R110: flushed in exposed mode. -/
def State.exposed (s : State) : Bool := !s.issue.mode.ilk

/-- The vector rounding mode (R63). -/
def State.vrm (s : State) : Rm := rmOf s.issue.mode.vrm

/-- A scalar operation of two registers. -/
def scalar2 (g : BitVec 4) (d a b : BitVec 6) (lat : Nat) (f : X64 → X64 → X64) (s : State) :
    Host.Outcome State Fault Refusal :=
  slotOp g s do
    let x ← s.readX a
    let y ← s.readX b
    .ok (s.writeX d (f x y) lat)

/-- A scalar operation of one register. -/
def scalar1 (g : BitVec 4) (d a : BitVec 6) (lat : Nat) (f : X64 → X64) (s : State) :
    Host.Outcome State Fault Refusal :=
  slotOp g s do
    let x ← s.readX a
    .ok (s.writeX d (f x) lat)

/-- A comparison of two registers into a predicate (R74). -/
def pred2 (g : BitVec 4) (p a b : BitVec 6) (lat : Nat) (f : X64 → X64 → Bool) (s : State) :
    Host.Outcome State Fault Refusal :=
  slotOp g s do
    let x ← s.readX a
    let y ← s.readX b
    .ok (s.writeP p.toNat (f x y) lat)

/-- A comparison of one register into a predicate (R74). -/
def pred1 (g : BitVec 4) (p a : BitVec 6) (lat : Nat) (f : X64 → Bool) (s : State) :
    Host.Outcome State Fault Refusal :=
  slotOp g s do
    let x ← s.readX a
    .ok (s.writeP p.toNat (f x) lat)

/-- A vector operation of one register, lane by lane under a mask (R124, R125). -/
def vector1 (g : BitVec 4) (d a : BitVec 5) (m : BitVec 3) (lat : Nat) (f : Word → Word) (s : State) :
    Host.Outcome State Fault Refusal :=
  slotOp g s do
    let k ← s.readM m
    let x ← s.readV a
    .ok (s.writeV d k (lanesOf fun i => f (x.lane i)) lat)

/-- A vector operation of two registers, lane by lane under a mask. -/
def vector2 (g : BitVec 4) (d a b : BitVec 5) (m : BitVec 3) (lat : Nat) (f : Word → Word → Word) (s : State) :
    Host.Outcome State Fault Refusal :=
  slotOp g s do
    let k ← s.readM m
    let x ← s.readV a
    let y ← s.readV b
    .ok (s.writeV d k (lanesOf fun i => f (x.lane i) (y.lane i)) lat)

end Sys2Proof.Machine
end

