-- ==== Sys2Proof/Machine/Barrier.lean ====
section
/-!
DEFINITION. Barriers: arrivals, expected arrivals, release and the reduction of BARX (R94, R95, R151 to R153, R321).
-/
namespace Sys2Proof.Machine

/-- The scope instance that contains a core (R94): in a pod of one, PKG and POD have one instance. -/
def scopeInst (scope core : Nat) : Nat :=
  match scope with
  | 0 => core
  | 1 => quadOf core
  | 2 => dieOf core
  | _ => 0

/-- The state of a core that belongs to a partition, running or in shadow storage (R16). -/
def State.partState (s : State) (core part : Nat) : Option CoreState :=
  let v := s.core core
  if v.cur.part = some part then some v.cur
  else match v.shadow with
    | some w => if w.part = some part then some w else none
    | none => none

/-- A change of it. -/
def State.modPart (s : State) (core part : Nat) (f : CoreState → CoreState) : State :=
  s.modCore core fun v =>
    if v.cur.part = some part then { v with cur := f v.cur }
    else { v with shadow := v.shadow.map fun w => if w.part = some part then f w else w }

/-- The partition running on a core. -/
def State.partOf (s : State) (core : Nat) : Nat := (s.cs core).part.getD 0

/-- The contexts of a partition on the cores of a scope instance, by context number (R94). -/
def State.partCtxs (s : State) (key : BarKey) : List (Nat × Ctx) :=
  (s.coreNums.filter fun c => scopeInst key.scope c == key.inst).flatMap fun c =>
    match s.partState c key.part with
    | none => []
    | some v => (List.range 4).map fun k => (4 * c + k, v.ctx k)

/-- A barrier that no arrival has reached. -/
def Barrier.fresh (key : BarKey) : Barrier := ⟨key, [], none, [], []⟩

def State.barrier (s : State) (key : BarKey) : Barrier :=
  (s.barriers.find? fun b => decide (b.key = key)).getD (.fresh key)

def State.putBarrier (s : State) (b : Barrier) : State :=
  { s with barriers := s.barriers.filter (fun c => decide (c.key ≠ b.key)) ++ [b] }

/-- A context arrives (R94, R151); what it waits for is noted in the context. -/
def State.arriveBar (s : State) (core k : Nat) (a : Arrival) : State :=
  let b := s.barrier a.key
  let s1 := s.putBarrier { b with
    arrivals := b.arrivals ++ [(4 * core + k, a.barx.map (·.2.2))]
    op := b.op.orElse fun _ => a.barx.map (·.1) }
  s1.modCtx core k fun c => { c with arrivals := c.arrivals ++ [a], barCycles := 0, wait := .barrier }

/-- A landing counter arrives; a second arrival before the release is held for the next generation (R321). -/
def State.arriveLanding (s : State) (key : BarKey) (id core : Nat) : State :=
  let b := s.barrier key
  if b.landings.contains (id, core) then s.putBarrier { b with heldLandings := b.heldLandings ++ [(id, core)] }
  else s.putBarrier { b with landings := b.landings ++ [(id, core)] }

/-! ### Landing counters as expected arrivals -/

/-- Descriptor fields (R317). -/
def Landing.base (l : Landing) : Nat := bitsOf l.bits.toNat 54 0
def Landing.sp (l : Landing) : Bool := bitOf l.bits.toNat 55
def Landing.len (l : Landing) : Nat := bitsOf l.bits.toNat 95 64
def Landing.total (l : Landing) : Nat := bitsOf l.bits.toNat 143 96
def Landing.act (l : Landing) : Nat := bitsOf l.bits.toNat 146 144
def Landing.aw (l : Landing) : Nat := bitsOf l.bits.toNat 191 160
def Landing.av (l : Landing) : X64 := BitVec.ofNat 64 (bitsOf l.bits.toNat 255 192)

/-- The barrier of a counter's ARRIVE (R321). -/
def Landing.barKey (l : Landing) : BarKey :=
  ⟨bitsOf l.aw 2 0, scopeInst (bitsOf l.aw 2 0) l.core, bitsOf l.aw 8 3, l.part⟩

/-- Every counter with its id (R316) and, for a core counter, its core. -/
def State.counters (s : State) : List (Nat × Nat × Landing) :=
  (s.sites.flatMap fun e => e.2.landing.map fun l => (1024 * e.1 + l.1, 0, l.2))
    ++ s.cores.flatMap fun e =>
      (e.2.cur.landing.map fun l => (0x8000 + l.1, e.1, l.2))
        ++ (match e.2.shadow with
          | some v => v.landing.map fun l => (0x8000 + l.1, e.1, l.2)
          | none => [])

/-- The ARMED counters that add an expected arrival to a barrier (R94, R321). -/
def State.expectedLandings (s : State) (key : BarKey) : List (Nat × Nat) :=
  (s.counters.filter fun c => decide (c.2.2.state = .armed) && c.2.2.act == 0 && decide (c.2.2.barKey = key)).map
    fun c => (c.1, c.2.1)

/-! ### Release -/

/-- The arrivals have reached the expected count (R94): every participant has arrived or halted, and every counter
armed with ARRIVE on the barrier has arrived. -/
def State.barrierMet (s : State) (b : Barrier) : Bool :=
  (!b.arrivals.isEmpty || !b.landings.isEmpty)
    && (s.partCtxs b.key).all (fun c => !c.2.participant || decide (c.2.run = .halted) || b.arrivals.any fun a => a.1 == c.1)
    && (s.expectedLandings b.key).all fun l => b.landings.contains l

/-- One combining step of BARX (R151, R152). -/
def barxStep (op : Nat) (a b : Word) : Word :=
  let x := a.toNat
  let y := b.toNat
  match op with
  | 0 => BitVec.ofNat 32 (f32.add .rne false x y)
  | 1 => a + b
  | 2 => if f32.isNan x || f32.isNan y then BitVec.ofNat 32 f32.nan else BitVec.ofNat 32 (f32.max false x y)
  | 3 => if f32.isNan x || f32.isNan y then BitVec.ofNat 32 f32.nan else BitVec.ofNat 32 (f32.min false x y)
  | 4 => if below false a b then b else a
  | 5 => if below false b a then b else a
  | 6 => a &&& b
  | _ => a ||| b

/-- A level of the tree: a last position without a partner passes up (R152). -/
def barxLevel (op : Nat) : List Word → List Word
  | a :: b :: r => barxStep op a b :: barxLevel op r
  | l => l

/-- The tree over at most 2^n leaves. -/
def barxTree (op : Nat) : Nat → List Word → List Word
  | 0, l => l
  | n + 1, l => barxTree op n (barxLevel op l)

/-- An arrival put at its place by context number (R12, R152). -/
def insertLeaf (e : Nat × List Word) : List (Nat × List Word) → List (Nat × List Word)
  | [] => [e]
  | f :: r => if e.1 < f.1 then e :: f :: r else f :: insertLeaf e r

/-- The contributions in the order of context numbers. -/
def Barrier.leaves (b : Barrier) : List (Nat × List Word) :=
  (b.arrivals.filterMap fun a => a.2.map fun l => (a.1, l)).foldl (fun acc e => insertLeaf e acc) []

/-- Lane i of the reduction; a generation has at most 2,048 participants. -/
def Barrier.result (b : Barrier) (i : Nat) : Word :=
  (barxTree (b.op.getD 0) 12 (b.leaves.map fun l => l.2.getD i 0)).headD 0

/-- Cycles from the last arrival to the first released bundle (R95, R153; log 16 for POD). -/
def releaseCycles (barx : Bool) (scope : Nat) : Nat :=
  if barx then [4, 10, 40, 200, 4000].getD scope 4000 else [2, 6, 24, 120, 2000].getD scope 2000

/-- A result of BARX in lanes 0 to 15 of a physical register (R151). -/
def Ctx.takeBarx (c : Ctx) (e : Nat × List Word) : Ctx :=
  { c with v := c.v.setIfInBounds e.1 (lanesOf fun i => if i < 16 then e.2.getD i 0 else (c.getV e.1).lane i) }

/-- A waiter sees the release of one of its arrivals: BARX delivers (R151), and when no arrival is left the context may issue
from the figure's cycle on. To a context whose partition does not run the result is owed (R353). -/
def Ctx.released (c : Ctx) (b : Barrier) (ready : Nat) (runs : Bool) : Ctx :=
  let mine := c.arrivals.filter fun a => decide (a.key = b.key)
  let left := c.arrivals.filter fun a => decide (a.key ≠ b.key)
  let results := mine.filterMap fun a => a.barx.map fun x => (x.2.1, (List.range 16).map b.result)
  let c1 := if runs then results.foldl Ctx.takeBarx c else { c with owedBarx := c.owedBarx ++ results }
  { c1 with
    arrivals := left
    readyAt := Nat.max c1.readyAt ready
    wait := if left.isEmpty then .none else .barrier
    waitCycles := 0 }

/-- The completion events that the release of a barrier lets its waiters observe, and what its next generation announces (R191). -/
def State.barrierNews (s : State) (key : BarKey) : List (Nat × Nat) := s.newsAt fun p => decide (p = .barrier key false)
def State.nextNews (s : State) (key : BarKey) : State :=
  { s with news := (s.news.filter fun w => decide (w.place ≠ .barrier key false)).map fun w =>
      if w.place = .barrier key true then { w with place := .barrier key false } else w }

/-- A release: every waiter is released and the next generation begins (R94, R321). -/
def State.release (s : State) (b : Barrier) : State :=
  let ready := s.cycle.toNat + releaseCycles b.op.isSome b.key.scope
  let s1 := b.arrivals.foldl (fun t a =>
    let runs := decide ((t.cs (a.1 / 4)).part = some b.key.part)
    t.modPart (a.1 / 4) b.key.part fun v => v.setCtx (a.1 % 4) (((v.ctx (a.1 % 4)).released b ready runs).observe (s.barrierNews b.key))) s
  let rest := { s1.nextNews b.key with barriers := s1.barriers.filter fun c => decide (c.key ≠ b.key) }
  -- held landing arrivals join the next generation, one of each counter
  b.heldLandings.foldl (fun t l => t.arriveLanding b.key l.1 l.2) rest

/-- Barriers whose arrivals are complete are released, one after another. -/
def State.releaseAll : Nat → State → State
  | 0, s => s
  | n + 1, s =>
    match s.barriers.find? fun b => s.barrierMet b with
    | none => s
    | some b => State.releaseAll n (s.release b)

/-! ### The instructions -/

/-- The barrier an instruction of the issuing context names. -/
def State.barKeyHere (s : State) (scope id : Nat) : BarKey :=
  ⟨scope, scopeInst scope s.icore, id, s.partOf s.icore⟩

/-- BAR (R94): a context that is no participant raises ILLEGAL_OP with DCODE 18. -/
def execBar (g : BitVec 4) (y : BitVec 3) (i : BitVec 6) (s : State) : Host.Outcome State Fault Refusal :=
  slotOp g s
    (if s.cx.participant then .ok (s.arriveBar s.icore s.ictx ⟨s.barKeyHere y.toNat i.toNat, none⟩)
    else .error (s.trapHere illegalOp 18 0))

/-- BARX (R151, R153): the contribution is lanes 0 to 15, read at issue; another op than the generation's does not
arrive. -/
def execBarx (g : BitVec 4) (y : BitVec 3) (i : BitVec 6) (o : BitVec 3) (v : BitVec 5) (s : State) :
    Host.Outcome State Fault Refusal :=
  slotOp g s do
    let x ← s.readV v
    if !s.cx.participant then .error (s.trapHere illegalOp 18 0)
    else
      let key := s.barKeyHere y.toNat i.toNat
      let op := (s.barrier key).op.getD o.toNat
      if op ≠ o.toNat then .error (s.trapHere illegalOp 5 0)
      else
        let lanes := (List.range 16).map x.lane
        .ok (s.arriveBar s.icore s.ictx ⟨key, some (o.toNat, physV s.issue.rrb v.toNat, lanes)⟩)

end Sys2Proof.Machine
end

