-- ==== Sys2Proof/Decode.lean ====
section
/-!
DEFINITION. The decoder of slot words and pier words (R38, R46, R48 to R54, R255) and, after it, the encoder.
Both read the same field layouts: most significant field first, a reserved field as a field that must hold 0.
-/
namespace Sys2Proof

/-- Why a word is no instruction of its class. -/
inductive Reject where
  /-- A reserved or unused field is not zero (R46). -/
  | reserved
  /-- The opcode is not assigned in the class (R48). -/
  | unassigned
  deriving DecidableEq, Repr

/-- The sum of field widths. -/
def widthSum : List Nat → Nat
  | [] => 0
  | w :: r => w + widthSum r

/-- The fields of a number, most significant first. -/
def unpackFields : List Nat → Nat → List Nat
  | [], _ => []
  | w :: r, v => v / 2 ^ widthSum r % 2 ^ w :: unpackFields r v

/-- The number made of (width, value) fields, most significant first. -/
def packFields : List (Nat × Nat) → Nat
  | [] => 0
  | (w, v) :: r => v % 2 ^ w * 2 ^ widthSum (r.map (·.1)) + packFields r

/-- A row of an opcode map: the widths of its fields and the instruction they build; `none` where a reserved field is not zero. -/
abbrev Row := List Nat × (List Nat → Option Instr)

/-- The scalar ALU of the C and the S class (R49). -/
def aluRow (g : BitVec 4) (op : Nat) : Option Row :=
  match op with
  | 0x40 => some ([6, 6, 6, 3], fun | [d, a, b, 0] => some (.add g (BitVec.ofNat 6 d) (BitVec.ofNat 6 a) (BitVec.ofNat 6 b)) | _ => none)
  | 0x41 => some ([6, 6, 6, 3], fun | [d, a, b, 0] => some (.sub g (BitVec.ofNat 6 d) (BitVec.ofNat 6 a) (BitVec.ofNat 6 b)) | _ => none)
  | 0x42 => some ([6, 6, 6, 3], fun | [d, a, b, 0] => some (.and g (BitVec.ofNat 6 d) (BitVec.ofNat 6 a) (BitVec.ofNat 6 b)) | _ => none)
  | 0x43 => some ([6, 6, 6, 3], fun | [d, a, b, 0] => some (.or g (BitVec.ofNat 6 d) (BitVec.ofNat 6 a) (BitVec.ofNat 6 b)) | _ => none)
  | 0x44 => some ([6, 6, 6, 3], fun | [d, a, b, 0] => some (.xor g (BitVec.ofNat 6 d) (BitVec.ofNat 6 a) (BitVec.ofNat 6 b)) | _ => none)
  | 0x45 => some ([6, 6, 6, 3], fun | [d, a, b, 0] => some (.shl g (BitVec.ofNat 6 d) (BitVec.ofNat 6 a) (BitVec.ofNat 6 b)) | _ => none)
  | 0x46 => some ([6, 6, 6, 3], fun | [d, a, b, 0] => some (.shr g (BitVec.ofNat 6 d) (BitVec.ofNat 6 a) (BitVec.ofNat 6 b)) | _ => none)
  | 0x47 => some ([6, 6, 6, 3], fun | [d, a, b, 0] => some (.sra g (BitVec.ofNat 6 d) (BitVec.ofNat 6 a) (BitVec.ofNat 6 b)) | _ => none)
  | 0x48 => some ([6, 6, 6, 3], fun | [d, a, b, 0] => some (.mul g (BitVec.ofNat 6 d) (BitVec.ofNat 6 a) (BitVec.ofNat 6 b)) | _ => none)
  | 0x49 => some ([6, 6, 6, 3], fun | [d, a, b, s] => some (.mulh g (BitVec.ofNat 6 d) (BitVec.ofNat 6 a) (BitVec.ofNat 6 b) (BitVec.ofNat 3 s)) | _ => none)
  | 0x4A => some ([6, 6, 6, 2, 1], fun | [d, a, b, 0, u] => some (.div g (BitVec.ofNat 6 d) (BitVec.ofNat 6 a) (BitVec.ofNat 6 b) (BitVec.ofNat 1 u)) | _ => none)
  | 0x4B => some ([6, 6, 6, 2, 1], fun | [d, a, b, 0, u] => some (.rem g (BitVec.ofNat 6 d) (BitVec.ofNat 6 a) (BitVec.ofNat 6 b) (BitVec.ofNat 1 u)) | _ => none)
  | 0x4C => some ([6, 6, 6, 2, 1], fun | [d, a, b, 0, u] => some (.min g (BitVec.ofNat 6 d) (BitVec.ofNat 6 a) (BitVec.ofNat 6 b) (BitVec.ofNat 1 u)) | _ => none)
  | 0x4D => some ([6, 6, 6, 2, 1], fun | [d, a, b, 0, u] => some (.max g (BitVec.ofNat 6 d) (BitVec.ofNat 6 a) (BitVec.ofNat 6 b) (BitVec.ofNat 1 u)) | _ => none)
  | 0x4E => some ([6, 6, 9], fun | [d, a, 0] => some (.clz g (BitVec.ofNat 6 d) (BitVec.ofNat 6 a)) | _ => none)
  | 0x4F => some ([6, 6, 9], fun | [d, a, 0] => some (.ctz g (BitVec.ofNat 6 d) (BitVec.ofNat 6 a)) | _ => none)
  | 0x50 => some ([6, 6, 9], fun | [d, a, 0] => some (.popc g (BitVec.ofNat 6 d) (BitVec.ofNat 6 a)) | _ => none)
  | 0x51 => some ([6, 6, 9], fun | [d, a, 0] => some (.brev g (BitVec.ofNat 6 d) (BitVec.ofNat 6 a)) | _ => none)
  | 0x52 => some ([6, 6, 6, 3], fun | [d, a, 0, s] => some (.sext g (BitVec.ofNat 6 d) (BitVec.ofNat 6 a) (BitVec.ofNat 3 s)) | _ => none)
  | 0x53 => some ([6, 6, 6, 3], fun | [d, a, b, s] => some (.shadd g (BitVec.ofNat 6 d) (BitVec.ofNat 6 a) (BitVec.ofNat 6 b) (BitVec.ofNat 3 s)) | _ => none)
  | 0x54 => some ([6, 6, 9], fun | [d, a, i] => some (.addi g (BitVec.ofNat 6 d) (BitVec.ofNat 6 a) (BitVec.ofNat 9 i)) | _ => none)
  | 0x55 => some ([6, 6, 9], fun | [d, a, i] => some (.andi g (BitVec.ofNat 6 d) (BitVec.ofNat 6 a) (BitVec.ofNat 9 i)) | _ => none)
  | 0x56 => some ([6, 6, 9], fun | [d, a, i] => some (.ori g (BitVec.ofNat 6 d) (BitVec.ofNat 6 a) (BitVec.ofNat 9 i)) | _ => none)
  | 0x57 => some ([6, 6, 9], fun | [d, a, i] => some (.xori g (BitVec.ofNat 6 d) (BitVec.ofNat 6 a) (BitVec.ofNat 9 i)) | _ => none)
  | 0x58 => some ([6, 6, 9], fun | [d, a, i] => some (.shli g (BitVec.ofNat 6 d) (BitVec.ofNat 6 a) (BitVec.ofNat 9 i)) | _ => none)
  | 0x59 => some ([6, 6, 9], fun | [d, a, i] => some (.shri g (BitVec.ofNat 6 d) (BitVec.ofNat 6 a) (BitVec.ofNat 9 i)) | _ => none)
  | 0x5A => some ([6, 6, 9], fun | [d, a, i] => some (.srai g (BitVec.ofNat 6 d) (BitVec.ofNat 6 a) (BitVec.ofNat 9 i)) | _ => none)
  | 0x5B => some ([6, 15], fun | [d, i] => some (.movi g (BitVec.ofNat 6 d) (BitVec.ofNat 15 i)) | _ => none)
  | 0x5C => some ([6, 6, 6, 3], fun | [p, a, b, c] => some (.cmp g (BitVec.ofNat 6 p) (BitVec.ofNat 6 a) (BitVec.ofNat 6 b) (BitVec.ofNat 3 c)) | _ => none)
  | 0x5D => some ([6, 6, 9], fun | [p, a, i] => some (.cmpeqi g (BitVec.ofNat 6 p) (BitVec.ofNat 6 a) (BitVec.ofNat 9 i)) | _ => none)
  | 0x5E => some ([6, 6, 9], fun | [p, a, i] => some (.cmplti g (BitVec.ofNat 6 p) (BitVec.ofNat 6 a) (BitVec.ofNat 9 i)) | _ => none)
  | 0x5F => some ([4, 4, 4, 4, 5], fun | [d, a, b, t, 0] => some (.plog g (BitVec.ofNat 4 d) (BitVec.ofNat 4 a) (BitVec.ofNat 4 b) (BitVec.ofNat 4 t)) | _ => none)
  | 0x60 => some ([6, 15], fun | [d, 0] => some (.pmovx g (BitVec.ofNat 6 d)) | _ => none)
  | 0x61 => some ([6, 6, 9], fun | [0, a, 0] => some (.xmovp g (BitVec.ofNat 6 a)) | _ => none)
  | 0x62 => some ([6, 6, 6, 3], fun | [d, a, b, 0] => some (.sel g (BitVec.ofNat 6 d) (BitVec.ofNat 6 a) (BitVec.ofNat 6 b)) | _ => none)
  | 0x63 => some ([6, 6, 6, 1, 2], fun | [d, a, b, 0, r] => some (.fadd g (BitVec.ofNat 6 d) (BitVec.ofNat 6 a) (BitVec.ofNat 6 b) (BitVec.ofNat 2 r)) | _ => none)
  | 0x64 => some ([6, 6, 6, 1, 2], fun | [d, a, b, 0, r] => some (.fsub g (BitVec.ofNat 6 d) (BitVec.ofNat 6 a) (BitVec.ofNat 6 b) (BitVec.ofNat 2 r)) | _ => none)
  | 0x65 => some ([6, 6, 6, 1, 2], fun | [d, a, b, 0, r] => some (.fmul g (BitVec.ofNat 6 d) (BitVec.ofNat 6 a) (BitVec.ofNat 6 b) (BitVec.ofNat 2 r)) | _ => none)
  | 0x66 => some ([6, 6, 6, 1, 2], fun | [d, a, b, 0, r] => some (.fmin g (BitVec.ofNat 6 d) (BitVec.ofNat 6 a) (BitVec.ofNat 6 b) (BitVec.ofNat 2 r)) | _ => none)
  | 0x67 => some ([6, 6, 6, 1, 2], fun | [d, a, b, 0, r] => some (.fmax g (BitVec.ofNat 6 d) (BitVec.ofNat 6 a) (BitVec.ofNat 6 b) (BitVec.ofNat 2 r)) | _ => none)
  | 0x68 => some ([6, 6, 6, 3], fun | [p, a, b, c] => some (.fcmp g (BitVec.ofNat 6 p) (BitVec.ofNat 6 a) (BitVec.ofNat 6 b) (BitVec.ofNat 3 c)) | _ => none)
  | 0x69 => some ([6, 6, 4, 2, 3], fun | [d, a, k, r, 0] => some (.fcvt g (BitVec.ofNat 6 d) (BitVec.ofNat 6 a) (BitVec.ofNat 4 k) (BitVec.ofNat 2 r)) | _ => none)
  | _ => none

/-- The C class (R50). -/
def cRow (g : BitVec 4) (op : Nat) : Option Row :=
  match op with
  | 0x00 => some ([21], fun | [0] => some (.nop g) | _ => none)
  | 0x01 => some ([21], fun | [o] => some (.br g (BitVec.ofNat 21 o)) | _ => none)
  | 0x02 => some ([21], fun | [o] => some (.call g (BitVec.ofNat 21 o)) | _ => none)
  | 0x03 => some ([6, 6, 9], fun | [0, a, i] => some (.jr g (BitVec.ofNat 6 a) (BitVec.ofNat 9 i)) | _ => none)
  | 0x04 => some ([6, 6, 9], fun | [d, a, i] => some (.jalr g (BitVec.ofNat 6 d) (BitVec.ofNat 6 a) (BitVec.ofNat 9 i)) | _ => none)
  | 0x05 => some ([21], fun | [0] => some (.ret g) | _ => none)
  | 0x06 => some ([6, 4, 1, 10], fun | [c, e, r, n] => some (.loop g (BitVec.ofNat 6 c) (BitVec.ofNat 4 e) (BitVec.ofNat 1 r) (BitVec.ofNat 10 n)) | _ => none)
  | 0x07 => some ([10, 1, 10], fun | [c, r, n] => some (.loopi g (BitVec.ofNat 10 c) (BitVec.ofNat 1 r) (BitVec.ofNat 10 n)) | _ => none)
  | 0x08 => some ([8, 6, 7], fun | [i, 0, 0] => some (.mode g (BitVec.ofNat 8 i)) | _ => none)
  | 0x09 => some ([21], fun | [0] => some (.yield g) | _ => none)
  | 0x0A => some ([21], fun | [0] => some (.halt g) | _ => none)
  | 0x0B => some ([8, 13], fun | [i, 0] => some (.bkpt g (BitVec.ofNat 8 i)) | _ => none)
  | 0x0C => some ([8, 13], fun | [i, 0] => some (.trap g (BitVec.ofNat 8 i)) | _ => none)
  | 0x0D => some ([8, 13], fun | [i, 0] => some (.sysc g (BitVec.ofNat 8 i)) | _ => none)
  | 0x0E => some ([21], fun | [0] => some (.eret g) | _ => none)
  | 0x0F => some ([8, 6, 7], fun | [c, d, 0] => some (.crd g (BitVec.ofNat 8 c) (BitVec.ofNat 6 d)) | _ => none)
  | 0x10 => some ([8, 6, 7], fun | [c, a, 0] => some (.cwr g (BitVec.ofNat 8 c) (BitVec.ofNat 6 a)) | _ => none)
  | 0x11 => some ([21], fun | [0] => some (.ifence g) | _ => none)
  | 0x12 => some ([6, 6, 8, 1], fun | [d, a, 0, k] => some (.isum g (BitVec.ofNat 6 d) (BitVec.ofNat 6 a) (BitVec.ofNat 1 k)) | _ => none)
  | 0x13 => some ([6, 6, 6, 3], fun | [0, a, b, 0] => some (.banksw g (BitVec.ofNat 6 a) (BitVec.ofNat 6 b)) | _ => none)
  | 0x14 => some ([21], fun | [0] => some (.nprb g) | _ => none)
  | 0x15 => some ([21], fun | [0] => some (.npre g) | _ => none)
  | 0x16 => some ([3, 6, 12], fun | [s, i, 0] => some (.bar g (BitVec.ofNat 3 s) (BitVec.ofNat 6 i)) | _ => none)
  | 0x17 => some ([21], fun | [0] => some (.efence g) | _ => none)
  | 0x18 => some ([8, 6, 7], fun | [s, x, 0] => some (.waits g (BitVec.ofNat 8 s) (BitVec.ofNat 6 x)) | _ => none)
  | 0x19 => some ([8, 6, 7], fun | [s, x, 0] => some (.sigs g (BitVec.ofNat 8 s) (BitVec.ofNat 6 x)) | _ => none)
  | 0x1A => some ([8, 6, 7], fun | [s, x, 0] => some (.semset g (BitVec.ofNat 8 s) (BitVec.ofNat 6 x)) | _ => none)
  | 0x1B => some ([6, 6, 6, 3], fun | [0, a, b, 0] => some (.waitw g (BitVec.ofNat 6 a) (BitVec.ofNat 6 b)) | _ => none)
  | 0x1C => some ([8, 6, 7], fun | [0, a, 0] => some (.pstop g (BitVec.ofNat 6 a)) | _ => none)
  | 0x1D => some ([21], fun | [0] => some (.tkwait g) | _ => none)
  | 0x1E => some ([6, 15], fun | [d, 0] => some (.tknext g (BitVec.ofNat 6 d)) | _ => none)
  | 0x1F => some ([21], fun | [0] => some (.tkdone g) | _ => none)
  | 0x20 => some ([21], fun | [0] => some (.tret g) | _ => none)
  | _ => aluRow g op

/-- The S class (R51). -/
def sRow (g : BitVec 4) (op : Nat) : Option Row :=
  match op with
  | 0x00 => some ([21], fun | [0] => some (.nop g) | _ => none)
  | 0x01 => some ([6, 6, 3, 6], fun | [d, b, z, i] => some (.ld g (BitVec.ofNat 6 d) (BitVec.ofNat 6 b) (BitVec.ofNat 3 z) (BitVec.ofNat 6 i)) | _ => none)
  | 0x02 => some ([6, 6, 3, 6], fun | [s, b, z, i] => some (.st g (BitVec.ofNat 6 s) (BitVec.ofNat 6 b) (BitVec.ofNat 3 z) (BitVec.ofNat 6 i)) | _ => none)
  | 0x03 => some ([6, 8, 6, 1], fun | [d, s, o, n] => some (.lds8 g (BitVec.ofNat 6 d) (BitVec.ofNat 8 s) (BitVec.ofNat 6 o) (BitVec.ofNat 1 n)) | _ => none)
  | 0x04 => some ([6, 8, 6, 1], fun | [d, s, o, n] => some (.lds4 g (BitVec.ofNat 6 d) (BitVec.ofNat 8 s) (BitVec.ofNat 6 o) (BitVec.ofNat 1 n)) | _ => none)
  | 0x05 => some ([6, 8, 6, 1], fun | [x, s, o, n] => some (.sts8 g (BitVec.ofNat 6 x) (BitVec.ofNat 8 s) (BitVec.ofNat 6 o) (BitVec.ofNat 1 n)) | _ => none)
  | 0x06 => some ([6, 8, 6, 1], fun | [x, s, o, n] => some (.sts4 g (BitVec.ofNat 6 x) (BitVec.ofNat 8 s) (BitVec.ofNat 6 o) (BitVec.ofNat 1 n)) | _ => none)
  | 0x07 => some ([6, 6, 6, 3], fun | [d, a, b, o] => some (.amo g (BitVec.ofNat 6 d) (BitVec.ofNat 6 a) (BitVec.ofNat 6 b) (BitVec.ofNat 3 o)) | _ => none)
  | 0x08 => some ([6, 6, 6, 3], fun | [d, a, b, o] => some (.amo4 g (BitVec.ofNat 6 d) (BitVec.ofNat 6 a) (BitVec.ofNat 6 b) (BitVec.ofNat 3 o)) | _ => none)
  | 0x09 => some ([6, 6, 6, 3], fun | [d, a, b, 0] => some (.cas g (BitVec.ofNat 6 d) (BitVec.ofNat 6 a) (BitVec.ofNat 6 b)) | _ => none)
  | 0x0A => some ([6, 6, 6, 3], fun | [d, a, b, 0] => some (.cas4 g (BitVec.ofNat 6 d) (BitVec.ofNat 6 a) (BitVec.ofNat 6 b)) | _ => none)
  | 0x0B => some ([6, 6, 9], fun | [0, a, i] => some (.pref g (BitVec.ofNat 6 a) (BitVec.ofNat 9 i)) | _ => none)
  | 0x0C => some ([6, 6, 9], fun | [0, a, e] => some (.ctw g (BitVec.ofNat 6 a) (BitVec.ofNat 9 e)) | _ => none)
  | _ => aluRow g op

/-- The V class (R52). -/
def vRow (g : BitVec 4) (op : Nat) : Option Row :=
  match op with
  | 0x00 => some ([21], fun | [0] => some (.vnop g) | _ => none)
  | 0x01 => some ([5, 5, 5, 3, 3], fun | [d, a, b, m, t] => some (.vadd g (BitVec.ofNat 5 d) (BitVec.ofNat 5 a) (BitVec.ofNat 5 b) (BitVec.ofNat 3 m) (BitVec.ofNat 3 t)) | _ => none)
  | 0x02 => some ([5, 5, 5, 3, 3], fun | [d, a, b, m, t] => some (.vsub g (BitVec.ofNat 5 d) (BitVec.ofNat 5 a) (BitVec.ofNat 5 b) (BitVec.ofNat 3 m) (BitVec.ofNat 3 t)) | _ => none)
  | 0x03 => some ([5, 5, 5, 3, 3], fun | [d, a, b, m, t] => some (.vmul g (BitVec.ofNat 5 d) (BitVec.ofNat 5 a) (BitVec.ofNat 5 b) (BitVec.ofNat 3 m) (BitVec.ofNat 3 t)) | _ => none)
  | 0x04 => some ([5, 5, 5, 3, 3], fun | [d, a, b, m, t] => some (.vfma g (BitVec.ofNat 5 d) (BitVec.ofNat 5 a) (BitVec.ofNat 5 b) (BitVec.ofNat 3 m) (BitVec.ofNat 3 t)) | _ => none)
  | 0x05 => some ([5, 5, 5, 3, 3], fun | [d, a, b, m, t] => some (.vmin g (BitVec.ofNat 5 d) (BitVec.ofNat 5 a) (BitVec.ofNat 5 b) (BitVec.ofNat 3 m) (BitVec.ofNat 3 t)) | _ => none)
  | 0x06 => some ([5, 5, 5, 3, 3], fun | [d, a, b, m, t] => some (.vmax g (BitVec.ofNat 5 d) (BitVec.ofNat 5 a) (BitVec.ofNat 5 b) (BitVec.ofNat 3 m) (BitVec.ofNat 3 t)) | _ => none)
  | 0x07 => some ([5, 5, 5, 3, 3], fun | [d, a, 0, m, t] => some (.vabs g (BitVec.ofNat 5 d) (BitVec.ofNat 5 a) (BitVec.ofNat 3 m) (BitVec.ofNat 3 t)) | _ => none)
  | 0x08 => some ([5, 5, 5, 3, 3], fun | [d, a, 0, m, t] => some (.vneg g (BitVec.ofNat 5 d) (BitVec.ofNat 5 a) (BitVec.ofNat 3 m) (BitVec.ofNat 3 t)) | _ => none)
  | 0x09 => some ([5, 5, 5, 3, 3], fun | [d, a, b, m, t] => some (.vand g (BitVec.ofNat 5 d) (BitVec.ofNat 5 a) (BitVec.ofNat 5 b) (BitVec.ofNat 3 m) (BitVec.ofNat 3 t)) | _ => none)
  | 0x0A => some ([5, 5, 5, 3, 3], fun | [d, a, b, m, t] => some (.vor g (BitVec.ofNat 5 d) (BitVec.ofNat 5 a) (BitVec.ofNat 5 b) (BitVec.ofNat 3 m) (BitVec.ofNat 3 t)) | _ => none)
  | 0x0B => some ([5, 5, 5, 3, 3], fun | [d, a, b, m, t] => some (.vxor g (BitVec.ofNat 5 d) (BitVec.ofNat 5 a) (BitVec.ofNat 5 b) (BitVec.ofNat 3 m) (BitVec.ofNat 3 t)) | _ => none)
  | 0x0C => some ([5, 5, 5, 3, 3], fun | [d, a, b, m, t] => some (.vshl g (BitVec.ofNat 5 d) (BitVec.ofNat 5 a) (BitVec.ofNat 5 b) (BitVec.ofNat 3 m) (BitVec.ofNat 3 t)) | _ => none)
  | 0x0D => some ([5, 5, 5, 3, 3], fun | [d, a, b, m, t] => some (.vshr g (BitVec.ofNat 5 d) (BitVec.ofNat 5 a) (BitVec.ofNat 5 b) (BitVec.ofNat 3 m) (BitVec.ofNat 3 t)) | _ => none)
  | 0x0E => some ([5, 5, 5, 3, 3], fun | [d, a, b, m, t] => some (.vsra g (BitVec.ofNat 5 d) (BitVec.ofNat 5 a) (BitVec.ofNat 5 b) (BitVec.ofNat 3 m) (BitVec.ofNat 3 t)) | _ => none)
  | 0x0F => some ([5, 5, 5, 3, 3], fun | [d, a, b, m, t] => some (.vdiv g (BitVec.ofNat 5 d) (BitVec.ofNat 5 a) (BitVec.ofNat 5 b) (BitVec.ofNat 3 m) (BitVec.ofNat 3 t)) | _ => none)
  | 0x29 => some ([5, 5, 5, 3, 3], fun | [d, a, b, m, t] => some (.vrem g (BitVec.ofNat 5 d) (BitVec.ofNat 5 a) (BitVec.ofNat 5 b) (BitVec.ofNat 3 m) (BitVec.ofNat 3 t)) | _ => none)
  | 0x10 => some ([5, 5, 5, 3, 3], fun | [d, a, 0, m, t] => some (.vsqrt g (BitVec.ofNat 5 d) (BitVec.ofNat 5 a) (BitVec.ofNat 3 m) (BitVec.ofNat 3 t)) | _ => none)
  | 0x11 => some ([5, 5, 5, 3, 3], fun | [d, a, 0, m, t] => some (.vrec g (BitVec.ofNat 5 d) (BitVec.ofNat 5 a) (BitVec.ofNat 3 m) (BitVec.ofNat 3 t)) | _ => none)
  | 0x12 => some ([5, 5, 5, 3, 3], fun | [d, a, 0, m, t] => some (.vrsq g (BitVec.ofNat 5 d) (BitVec.ofNat 5 a) (BitVec.ofNat 3 m) (BitVec.ofNat 3 t)) | _ => none)
  | 0x13 => some ([5, 5, 5, 3, 3], fun | [d, a, 0, m, t] => some (.vexp2 g (BitVec.ofNat 5 d) (BitVec.ofNat 5 a) (BitVec.ofNat 3 m) (BitVec.ofNat 3 t)) | _ => none)
  | 0x14 => some ([5, 5, 5, 3, 3], fun | [d, a, 0, m, t] => some (.vlog2 g (BitVec.ofNat 5 d) (BitVec.ofNat 5 a) (BitVec.ofNat 3 m) (BitVec.ofNat 3 t)) | _ => none)
  | 0x15 => some ([3, 2, 5, 5, 3, 3], fun | [m, 0, a, b, c, t] => some (.vcmp g (BitVec.ofNat 3 m) (BitVec.ofNat 5 a) (BitVec.ofNat 5 b) (BitVec.ofNat 3 c) (BitVec.ofNat 3 t)) | _ => none)
  | 0x16 => some ([5, 5, 5, 3, 3], fun | [d, a, b, m, t] => some (.vsel g (BitVec.ofNat 5 d) (BitVec.ofNat 5 a) (BitVec.ofNat 5 b) (BitVec.ofNat 3 m) (BitVec.ofNat 3 t)) | _ => none)
  | 0x17 => some ([5, 5, 5, 3, 3], fun | [d, a, 0, m, t] => some (.vmov g (BitVec.ofNat 5 d) (BitVec.ofNat 5 a) (BitVec.ofNat 3 m) (BitVec.ofNat 3 t)) | _ => none)
  | 0x18 => some ([5, 6, 6, 3, 1], fun | [v, x, 0, m, 0] => some (.vbcast g (BitVec.ofNat 5 v) (BitVec.ofNat 6 x) (BitVec.ofNat 3 m)) | _ => none)
  | 0x19 => some ([5, 10, 3, 3], fun | [d, 0, m, t] => some (.viota g (BitVec.ofNat 5 d) (BitVec.ofNat 3 m) (BitVec.ofNat 3 t)) | _ => none)
  | 0x1A => some ([5, 6, 6, 3, 1], fun | [v, x, l, 0, s] => some (.vext g (BitVec.ofNat 5 v) (BitVec.ofNat 6 x) (BitVec.ofNat 6 l) (BitVec.ofNat 1 s)) | _ => none)
  | 0x1B => some ([5, 6, 6, 4], fun | [v, x, l, 0] => some (.vins g (BitVec.ofNat 5 v) (BitVec.ofNat 6 x) (BitVec.ofNat 6 l)) | _ => none)
  | 0x1C => some ([6, 5, 3, 1, 3, 3], fun | [d, a, o, 0, m, t] => some (.vred g (BitVec.ofNat 6 d) (BitVec.ofNat 5 a) (BitVec.ofNat 3 o) (BitVec.ofNat 3 m) (BitVec.ofNat 3 t)) | _ => none)
  | 0x1D => some ([5, 5, 3, 2, 3, 3], fun | [d, a, o, 0, m, t] => some (.vscan g (BitVec.ofNat 5 d) (BitVec.ofNat 5 a) (BitVec.ofNat 3 o) (BitVec.ofNat 3 m) (BitVec.ofNat 3 t)) | _ => none)
  | 0x1E => some ([5, 5, 5, 3, 3], fun | [d, a, b, m, t] => some (.vperm g (BitVec.ofNat 5 d) (BitVec.ofNat 5 a) (BitVec.ofNat 5 b) (BitVec.ofNat 3 m) (BitVec.ofNat 3 t)) | _ => none)
  | 0x1F => some ([5, 5, 5, 3, 3], fun | [d, a, 0, m, 0] => some (.vpart g (BitVec.ofNat 5 d) (BitVec.ofNat 5 a) (BitVec.ofNat 3 m)) | _ => none)
  | 0x20 => some ([5, 5, 3, 3, 2, 3], fun | [d, a, f, t, r, m] => some (.vcvt g (BitVec.ofNat 5 d) (BitVec.ofNat 5 a) (BitVec.ofNat 3 f) (BitVec.ofNat 3 t) (BitVec.ofNat 2 r) (BitVec.ofNat 3 m)) | _ => none)
  | 0x21 => some ([5, 5, 1, 2, 2, 1, 2, 3], fun | [d, a, e, w, p, o, r, m] => some (.vcv8 g (BitVec.ofNat 5 d) (BitVec.ofNat 5 a) (BitVec.ofNat 1 e) (BitVec.ofNat 2 w) (BitVec.ofNat 2 p) (BitVec.ofNat 1 o) (BitVec.ofNat 2 r) (BitVec.ofNat 3 m)) | _ => none)
  | 0x22 => some ([5, 5, 1, 2, 2, 3, 3], fun | [d, a, e, w, p, 0, m] => some (.vun8 g (BitVec.ofNat 5 d) (BitVec.ofNat 5 a) (BitVec.ofNat 1 e) (BitVec.ofNat 2 w) (BitVec.ofNat 2 p) (BitVec.ofNat 3 m)) | _ => none)
  | 0x23 => some ([5, 5, 5, 3, 3], fun | [d, a, b, p, t] => some (.vdec4 g (BitVec.ofNat 5 d) (BitVec.ofNat 5 a) (BitVec.ofNat 5 b) (BitVec.ofNat 3 p) (BitVec.ofNat 3 t)) | _ => none)
  | 0x24 => some ([5, 5, 6, 3, 2], fun | [d, a, x, p, f] => some (.venc4 g (BitVec.ofNat 5 d) (BitVec.ofNat 5 a) (BitVec.ofNat 6 x) (BitVec.ofNat 3 p) (BitVec.ofNat 2 f)) | _ => none)
  | 0x25 => some ([3, 3, 3, 4, 8], fun | [d, a, b, t, 0] => some (.mlog g (BitVec.ofNat 3 d) (BitVec.ofNat 3 a) (BitVec.ofNat 3 b) (BitVec.ofNat 4 t)) | _ => none)
  | 0x26 => some ([6, 3, 12], fun | [x, m, 0] => some (.mpop g (BitVec.ofNat 6 x) (BitVec.ofNat 3 m)) | _ => none)
  | 0x27 => some ([3, 6, 12], fun | [d, x, 0] => some (.mfromx g (BitVec.ofNat 3 d) (BitVec.ofNat 6 x)) | _ => none)
  | 0x28 => some ([6, 3, 12], fun | [x, m, 0] => some (.mtox g (BitVec.ofNat 6 x) (BitVec.ofNat 3 m)) | _ => none)
  | 0x30 => some ([3, 6, 1, 2, 9], fun | [k, c, d, t, 0] => some (.kinit g (BitVec.ofNat 3 k) (BitVec.ofNat 6 c) (BitVec.ofNat 1 d) (BitVec.ofNat 2 t)) | _ => none)
  | 0x31 => some ([3, 5, 5, 3, 5], fun | [k, a, b, m, 0] => some (.kins g (BitVec.ofNat 3 k) (BitVec.ofNat 5 a) (BitVec.ofNat 5 b) (BitVec.ofNat 3 m)) | _ => none)
  | 0x32 => some ([3, 5, 6, 3, 4], fun | [k, a, x, m, 0] => some (.kinsi g (BitVec.ofNat 3 k) (BitVec.ofNat 5 a) (BitVec.ofNat 6 x) (BitVec.ofNat 3 m)) | _ => none)
  | 0x33 => some ([3, 3, 15], fun | [k, a, 0] => some (.kmrg g (BitVec.ofNat 3 k) (BitVec.ofNat 3 a)) | _ => none)
  | 0x34 => some ([3, 5, 13], fun | [k, d, 0] => some (.kout g (BitVec.ofNat 3 k) (BitVec.ofNat 5 d)) | _ => none)
  | 0x35 => some ([3, 6, 12], fun | [k, d, 0] => some (.klen g (BitVec.ofNat 3 k) (BitVec.ofNat 6 d)) | _ => none)
  | 0x36 => some ([3, 18], fun | [k, 0] => some (.kth g (BitVec.ofNat 3 k)) | _ => none)
  | 0x37 => some ([3, 18], fun | [k, 0] => some (.kclr g (BitVec.ofNat 3 k)) | _ => none)
  | 0x38 => some ([3, 6, 3, 5, 4], fun | [s, i, o, v, 0] => some (.barx g (BitVec.ofNat 3 s) (BitVec.ofNat 6 i) (BitVec.ofNat 3 o) (BitVec.ofNat 5 v)) | _ => none)
  | _ => none

/-- The W class (R53). -/
def wRow (g : BitVec 4) (op : Nat) : Option Row :=
  match op with
  | 0x00 => some ([21], fun | [0] => some (.wnop g) | _ => none)
  | 0x01 => some ([5, 8, 6, 2], fun | [v, s, o, m] => some (.vlds g (BitVec.ofNat 5 v) (BitVec.ofNat 8 s) (BitVec.ofNat 6 o) (BitVec.ofNat 2 m)) | _ => none)
  | 0x02 => some ([5, 8, 6, 2], fun | [v, s, o, m] => some (.vsts g (BitVec.ofNat 5 v) (BitVec.ofNat 8 s) (BitVec.ofNat 6 o) (BitVec.ofNat 2 m)) | _ => none)
  | 0x03 => some ([5, 6, 3, 7], fun | [v, x, m, 0] => some (.vldg g (BitVec.ofNat 5 v) (BitVec.ofNat 6 x) (BitVec.ofNat 3 m)) | _ => none)
  | 0x04 => some ([5, 6, 3, 7], fun | [v, x, m, 0] => some (.vstg g (BitVec.ofNat 5 v) (BitVec.ofNat 6 x) (BitVec.ofNat 3 m)) | _ => none)
  | 0x05 => some ([5, 8, 5, 3], fun | [v, s, i, m] => some (.vgts g (BitVec.ofNat 5 v) (BitVec.ofNat 8 s) (BitVec.ofNat 5 i) (BitVec.ofNat 3 m)) | _ => none)
  | 0x06 => some ([5, 8, 5, 3], fun | [v, s, i, m] => some (.vscs g (BitVec.ofNat 5 v) (BitVec.ofNat 8 s) (BitVec.ofNat 5 i) (BitVec.ofNat 3 m)) | _ => none)
  | 0x07 => some ([5, 6, 5, 3, 2], fun | [v, x, i, m, 0] => some (.vgtg g (BitVec.ofNat 5 v) (BitVec.ofNat 6 x) (BitVec.ofNat 5 i) (BitVec.ofNat 3 m)) | _ => none)
  | 0x08 => some ([5, 6, 5, 3, 2], fun | [v, x, i, m, 0] => some (.vscg g (BitVec.ofNat 5 v) (BitVec.ofNat 6 x) (BitVec.ofNat 5 i) (BitVec.ofNat 3 m)) | _ => none)
  | 0x09 => some ([3, 8, 6, 4], fun | [k, s, o, 0] => some (.ksave g (BitVec.ofNat 3 k) (BitVec.ofNat 8 s) (BitVec.ofNat 6 o)) | _ => none)
  | 0x0A => some ([3, 8, 6, 4], fun | [k, s, o, 0] => some (.kload g (BitVec.ofNat 3 k) (BitVec.ofNat 8 s) (BitVec.ofNat 6 o)) | _ => none)
  | 0x0B => some ([3, 8, 6, 4], fun | [k, s, o, 0] => some (.kmrgs g (BitVec.ofNat 3 k) (BitVec.ofNat 8 s) (BitVec.ofNat 6 o)) | _ => none)
  | 0x0C => some ([5, 3, 13], fun | [v, p, 0] => some (.pget g (BitVec.ofNat 5 v) (BitVec.ofNat 3 p)) | _ => none)
  | 0x0D => some ([5, 3, 13], fun | [v, p, 0] => some (.pput g (BitVec.ofNat 5 v) (BitVec.ofNat 3 p)) | _ => none)
  | _ => none

/-- The E class (R54). -/
def eRow (g : BitVec 4) (op : Nat) : Option Row :=
  match op with
  | 0x00 => some ([21], fun | [0] => some (.enop g) | _ => none)
  | 0x01 => some ([8, 6, 1, 3, 3], fun | [s, o, p, f, 0] => some (.mwld g (BitVec.ofNat 8 s) (BitVec.ofNat 6 o) (BitVec.ofNat 1 p) (BitVec.ofNat 3 f)) | _ => none)
  | 0x02 => some ([6, 1, 14], fun | [x, h, 0] => some (.mscl g (BitVec.ofNat 6 x) (BitVec.ofNat 1 h)) | _ => none)
  | 0x03 => some ([8, 6, 2, 1, 1, 3], fun | [s, o, t, a, p, f] => some (.mstr g (BitVec.ofNat 8 s) (BitVec.ofNat 6 o) (BitVec.ofNat 2 t) (BitVec.ofNat 1 a) (BitVec.ofNat 1 p) (BitVec.ofNat 3 f)) | _ => none)
  | 0x04 => some ([8, 6, 2, 2, 3], fun | [s, o, t, 0, f] => some (.mrank g (BitVec.ofNat 8 s) (BitVec.ofNat 6 o) (BitVec.ofNat 2 t) (BitVec.ofNat 3 f)) | _ => none)
  | 0x05 => some ([8, 6, 2, 3, 2], fun | [s, o, t, c, r] => some (.mout g (BitVec.ofNat 8 s) (BitVec.ofNat 6 o) (BitVec.ofNat 2 t) (BitVec.ofNat 3 c) (BitVec.ofNat 2 r)) | _ => none)
  | 0x06 => some ([2, 19], fun | [t, 0] => some (.mzero g (BitVec.ofNat 2 t)) | _ => none)
  | 0x10 => some ([8, 6, 7], fun | [s, o, 0] => some (.fcmd g (BitVec.ofNat 8 s) (BitVec.ofNat 6 o)) | _ => none)
  | 0x18 => some ([8, 6, 7], fun | [s, o, 0] => some (.pcmd g (BitVec.ofNat 8 s) (BitVec.ofNat 6 o)) | _ => none)
  | 0x19 => some ([8, 6, 7], fun | [s, o, 0] => some (.pload g (BitVec.ofNat 8 s) (BitVec.ofNat 6 o)) | _ => none)
  | 0x20 => some ([8, 6, 7], fun | [s, o, 0] => some (.sgdef g (BitVec.ofNat 8 s) (BitVec.ofNat 6 o)) | _ => none)
  | 0x21 => some ([8, 13], fun | [s, 0] => some (.sgdrop g (BitVec.ofNat 8 s)) | _ => none)
  | 0x22 => some ([8, 13], fun | [s, 0] => some (.sgpin g (BitVec.ofNat 8 s)) | _ => none)
  | 0x23 => some ([8, 13], fun | [s, 0] => some (.sgunpin g (BitVec.ofNat 8 s)) | _ => none)
  | 0x24 => some ([8, 13], fun | [s, 0] => some (.sgpush g (BitVec.ofNat 8 s)) | _ => none)
  | 0x25 => some ([8, 13], fun | [s, 0] => some (.sgpull g (BitVec.ofNat 8 s)) | _ => none)
  | 0x26 => some ([8, 6, 7], fun | [s, d, 0] => some (.sgstat g (BitVec.ofNat 8 s) (BitVec.ofNat 6 d)) | _ => none)
  | 0x27 => some ([8, 6, 7], fun | [0, a, 0] => some (.sgsplit g (BitVec.ofNat 6 a)) | _ => none)
  | 0x30 => some ([8, 6, 7], fun | [s, o, 0] => some (.tkpost g (BitVec.ofNat 8 s) (BitVec.ofNat 6 o)) | _ => none)
  | 0x38 => some ([8, 6, 7], fun | [s, o, 0] => some (.ldarm g (BitVec.ofNat 8 s) (BitVec.ofNat 6 o)) | _ => none)
  | 0x39 => some ([6, 6, 9], fun | [d, a, 0] => some (.ldread g (BitVec.ofNat 6 d) (BitVec.ofNat 6 a)) | _ => none)
  | 0x3A => some ([6, 6, 9], fun | [0, a, 0] => some (.lddis g (BitVec.ofNat 6 a)) | _ => none)
  | _ => none

/-- The pier opcodes of R255; a nonzero field where none is listed gives `none`. -/
def pRow (op : Nat) : Option Row :=
  match op with
  | 0x00 => some ([26], fun | [0] => some (.pnop) | _ => none)
  | 0x01 => some ([26], fun | [0] => some (.pend) | _ => none)
  | 0x02 => some ([1, 3, 10, 4, 8], fun
    | [0, a, n, 0, l] => some (.ploopImm (BitVec.ofNat 13 (a * 2 ^ 10 + n)) (BitVec.ofNat 8 l))
    | [1, a, 0, 0, l] => some (.ploopReg (BitVec.ofNat 3 a) (BitVec.ofNat 8 l))
    | _ => none)
  | 0x03 => some ([3, 3, 1, 19], fun | [d, n, h, 0] => some (.parg (BitVec.ofNat 3 d) (BitVec.ofNat 3 n) (BitVec.ofNat 1 h)) | _ => none)
  | 0x04 => some ([3, 3, 20], fun | [d, a, i] => some (.padd (BitVec.ofNat 3 d) (BitVec.ofNat 3 a) (BitVec.ofNat 20 i)) | _ => none)
  | 0x05 => some ([12, 1, 2, 1, 10], fun | [k, t, f, x, s] => some (.psetk (BitVec.ofNat 12 k) (BitVec.ofNat 1 t) (BitVec.ofNat 2 f) (BitVec.ofNat 1 x) (BitVec.ofNat 10 s)) | _ => none)
  | 0x06 => some ([3, 23], fun | [a, 0] => some (.pldx (BitVec.ofNat 3 a)) | _ => none)
  | 0x07 => some ([4, 5, 17], fun | [i, n, 0] => some (.pzer (BitVec.ofNat 4 i) (BitVec.ofNat 5 n)) | _ => none)
  | 0x08 => some ([4, 3, 19], fun | [i, a, 0] => some (.prow (BitVec.ofNat 4 i) (BitVec.ofNat 3 a)) | _ => none)
  | 0x09 => some ([4, 5, 3, 14], fun | [i, n, a, 0] => some (.prown (BitVec.ofNat 4 i) (BitVec.ofNat 5 n) (BitVec.ofNat 3 a)) | _ => none)
  | 0x0A => some ([4, 5, 3, 14], fun | [i, n, a, 0] => some (.psto (BitVec.ofNat 4 i) (BitVec.ofNat 5 n) (BitVec.ofNat 3 a)) | _ => none)
  | 0x0B => some ([4, 5, 3, 14], fun | [i, n, a, 0] => some (.pstob (BitVec.ofNat 4 i) (BitVec.ofNat 5 n) (BitVec.ofNat 3 a)) | _ => none)
  | 0x0C => some ([26], fun | [0] => some (.pwait) | _ => none)
  | 0x0D => some ([4, 5, 2, 15], fun | [i, n, k, 0] => some (.pcvt (BitVec.ofNat 4 i) (BitVec.ofNat 5 n) (BitVec.ofNat 2 k)) | _ => none)
  | 0x0E => some ([8, 8, 10], fun | [s, i, 0] => some (.psig (BitVec.ofNat 8 s) (BitVec.ofNat 8 i)) | _ => none)
  | 0x0F => some ([2, 4, 4, 16], fun | [k, x, y, 0] => some (.pmov (BitVec.ofNat 2 k) (BitVec.ofNat 4 x) (BitVec.ofNat 4 y)) | _ => none)
  | _ => none

/-- The opcode map of a class. -/
def classRow (c : SlotClass) (g : BitVec 4) (op : Nat) : Option Row :=
  match c with
  | .C => cRow g op
  | .S => sRow g op
  | .V => vRow g op
  | .W => wRow g op
  | .E => eRow g op
  | .P => pRow op

/-- A row applied to the operand field of a word. -/
def applyRow (r : Option Row) (v : Nat) : Except Reject Instr :=
  match r with
  | none => .error .unassigned
  | some (ws, mk) => match mk (unpackFields ws v) with
    | some i => .ok i
    | none => .error .reserved

/-- The instruction a word stands for in a class (R38, R48, R255). -/
def decode (c : SlotClass) (w : Word) : Except Reject Instr :=
  match c with
  | .P => applyRow (pRow (w.toNat / 2 ^ 26)) (w.toNat % 2 ^ 26)
  | c => applyRow (classRow c (BitVec.ofNat 4 (w.toNat / 2 ^ 28)) (w.toNat / 2 ^ 21 % 2 ^ 7)) (w.toNat % 2 ^ 21)

/-- The order in which a lone word's class is chosen: a slot word does not name its class (R38). -/
def tableClasses : List SlotClass := [.C, .S, .V, .W, .E, .P]

/-- The first class whose map takes the word, with the instruction. -/
def decodeAny (w : Word) : List SlotClass → Option (SlotClass × Instr)
  | [] => none
  | c :: r => match decode c w with
    | .ok i => some (c, i)
    | .error _ => decodeAny w r

/-- The instruction read from the bits of one table row (log 3). -/
def decodeTableWord (_nbits w : Nat) : Option Instr := (decodeAny (BitVec.ofNat 32 w) tableClasses).map (·.2)

/-- The encoding of an instruction: class, opcode, guard and operand fields, most significant first;
`none` for a step that has no word. A scalar ALU word is given in class C; its S word is the same (R49). -/
def Instr.code : Instr → Option (SlotClass × Nat × Nat × List (Nat × Nat))
  | .add g d a b => some (.C, 0x40, g.toNat, [(6, d.toNat), (6, a.toNat), (6, b.toNat), (3, 0)])
  | .sub g d a b => some (.C, 0x41, g.toNat, [(6, d.toNat), (6, a.toNat), (6, b.toNat), (3, 0)])
  | .and g d a b => some (.C, 0x42, g.toNat, [(6, d.toNat), (6, a.toNat), (6, b.toNat), (3, 0)])
  | .or g d a b => some (.C, 0x43, g.toNat, [(6, d.toNat), (6, a.toNat), (6, b.toNat), (3, 0)])
  | .xor g d a b => some (.C, 0x44, g.toNat, [(6, d.toNat), (6, a.toNat), (6, b.toNat), (3, 0)])
  | .shl g d a b => some (.C, 0x45, g.toNat, [(6, d.toNat), (6, a.toNat), (6, b.toNat), (3, 0)])
  | .shr g d a b => some (.C, 0x46, g.toNat, [(6, d.toNat), (6, a.toNat), (6, b.toNat), (3, 0)])
  | .sra g d a b => some (.C, 0x47, g.toNat, [(6, d.toNat), (6, a.toNat), (6, b.toNat), (3, 0)])
  | .mul g d a b => some (.C, 0x48, g.toNat, [(6, d.toNat), (6, a.toNat), (6, b.toNat), (3, 0)])
  | .mulh g d a b s => some (.C, 0x49, g.toNat, [(6, d.toNat), (6, a.toNat), (6, b.toNat), (3, s.toNat)])
  | .div g d a b u => some (.C, 0x4A, g.toNat, [(6, d.toNat), (6, a.toNat), (6, b.toNat), (2, 0), (1, u.toNat)])
  | .rem g d a b u => some (.C, 0x4B, g.toNat, [(6, d.toNat), (6, a.toNat), (6, b.toNat), (2, 0), (1, u.toNat)])
  | .min g d a b u => some (.C, 0x4C, g.toNat, [(6, d.toNat), (6, a.toNat), (6, b.toNat), (2, 0), (1, u.toNat)])
  | .max g d a b u => some (.C, 0x4D, g.toNat, [(6, d.toNat), (6, a.toNat), (6, b.toNat), (2, 0), (1, u.toNat)])
  | .clz g d a => some (.C, 0x4E, g.toNat, [(6, d.toNat), (6, a.toNat), (9, 0)])
  | .ctz g d a => some (.C, 0x4F, g.toNat, [(6, d.toNat), (6, a.toNat), (9, 0)])
  | .popc g d a => some (.C, 0x50, g.toNat, [(6, d.toNat), (6, a.toNat), (9, 0)])
  | .brev g d a => some (.C, 0x51, g.toNat, [(6, d.toNat), (6, a.toNat), (9, 0)])
  | .sext g d a s => some (.C, 0x52, g.toNat, [(6, d.toNat), (6, a.toNat), (6, 0), (3, s.toNat)])
  | .shadd g d a b s => some (.C, 0x53, g.toNat, [(6, d.toNat), (6, a.toNat), (6, b.toNat), (3, s.toNat)])
  | .addi g d a i => some (.C, 0x54, g.toNat, [(6, d.toNat), (6, a.toNat), (9, i.toNat)])
  | .andi g d a i => some (.C, 0x55, g.toNat, [(6, d.toNat), (6, a.toNat), (9, i.toNat)])
  | .ori g d a i => some (.C, 0x56, g.toNat, [(6, d.toNat), (6, a.toNat), (9, i.toNat)])
  | .xori g d a i => some (.C, 0x57, g.toNat, [(6, d.toNat), (6, a.toNat), (9, i.toNat)])
  | .shli g d a i => some (.C, 0x58, g.toNat, [(6, d.toNat), (6, a.toNat), (9, i.toNat)])
  | .shri g d a i => some (.C, 0x59, g.toNat, [(6, d.toNat), (6, a.toNat), (9, i.toNat)])
  | .srai g d a i => some (.C, 0x5A, g.toNat, [(6, d.toNat), (6, a.toNat), (9, i.toNat)])
  | .movi g d i => some (.C, 0x5B, g.toNat, [(6, d.toNat), (15, i.toNat)])
  | .cmp g p a b c => some (.C, 0x5C, g.toNat, [(6, p.toNat), (6, a.toNat), (6, b.toNat), (3, c.toNat)])
  | .cmpeqi g p a i => some (.C, 0x5D, g.toNat, [(6, p.toNat), (6, a.toNat), (9, i.toNat)])
  | .cmplti g p a i => some (.C, 0x5E, g.toNat, [(6, p.toNat), (6, a.toNat), (9, i.toNat)])
  | .plog g d a b t => some (.C, 0x5F, g.toNat, [(4, d.toNat), (4, a.toNat), (4, b.toNat), (4, t.toNat), (5, 0)])
  | .pmovx g d => some (.C, 0x60, g.toNat, [(6, d.toNat), (15, 0)])
  | .xmovp g a => some (.C, 0x61, g.toNat, [(6, 0), (6, a.toNat), (9, 0)])
  | .sel g d a b => some (.C, 0x62, g.toNat, [(6, d.toNat), (6, a.toNat), (6, b.toNat), (3, 0)])
  | .fadd g d a b r => some (.C, 0x63, g.toNat, [(6, d.toNat), (6, a.toNat), (6, b.toNat), (1, 0), (2, r.toNat)])
  | .fsub g d a b r => some (.C, 0x64, g.toNat, [(6, d.toNat), (6, a.toNat), (6, b.toNat), (1, 0), (2, r.toNat)])
  | .fmul g d a b r => some (.C, 0x65, g.toNat, [(6, d.toNat), (6, a.toNat), (6, b.toNat), (1, 0), (2, r.toNat)])
  | .fmin g d a b r => some (.C, 0x66, g.toNat, [(6, d.toNat), (6, a.toNat), (6, b.toNat), (1, 0), (2, r.toNat)])
  | .fmax g d a b r => some (.C, 0x67, g.toNat, [(6, d.toNat), (6, a.toNat), (6, b.toNat), (1, 0), (2, r.toNat)])
  | .fcmp g p a b c => some (.C, 0x68, g.toNat, [(6, p.toNat), (6, a.toNat), (6, b.toNat), (3, c.toNat)])
  | .fcvt g d a k r => some (.C, 0x69, g.toNat, [(6, d.toNat), (6, a.toNat), (4, k.toNat), (2, r.toNat), (3, 0)])
  | .nop g => some (.C, 0x00, g.toNat, [(21, 0)])
  | .br g o => some (.C, 0x01, g.toNat, [(21, o.toNat)])
  | .call g o => some (.C, 0x02, g.toNat, [(21, o.toNat)])
  | .jr g a i => some (.C, 0x03, g.toNat, [(6, 0), (6, a.toNat), (9, i.toNat)])
  | .jalr g d a i => some (.C, 0x04, g.toNat, [(6, d.toNat), (6, a.toNat), (9, i.toNat)])
  | .ret g => some (.C, 0x05, g.toNat, [(21, 0)])
  | .loop g c e r n => some (.C, 0x06, g.toNat, [(6, c.toNat), (4, e.toNat), (1, r.toNat), (10, n.toNat)])
  | .loopi g c r n => some (.C, 0x07, g.toNat, [(10, c.toNat), (1, r.toNat), (10, n.toNat)])
  | .mode g i => some (.C, 0x08, g.toNat, [(8, i.toNat), (6, 0), (7, 0)])
  | .yield g => some (.C, 0x09, g.toNat, [(21, 0)])
  | .halt g => some (.C, 0x0A, g.toNat, [(21, 0)])
  | .bkpt g i => some (.C, 0x0B, g.toNat, [(8, i.toNat), (13, 0)])
  | .trap g i => some (.C, 0x0C, g.toNat, [(8, i.toNat), (13, 0)])
  | .sysc g i => some (.C, 0x0D, g.toNat, [(8, i.toNat), (13, 0)])
  | .eret g => some (.C, 0x0E, g.toNat, [(21, 0)])
  | .crd g c d => some (.C, 0x0F, g.toNat, [(8, c.toNat), (6, d.toNat), (7, 0)])
  | .cwr g c a => some (.C, 0x10, g.toNat, [(8, c.toNat), (6, a.toNat), (7, 0)])
  | .ifence g => some (.C, 0x11, g.toNat, [(21, 0)])
  | .isum g d a k => some (.C, 0x12, g.toNat, [(6, d.toNat), (6, a.toNat), (8, 0), (1, k.toNat)])
  | .banksw g a b => some (.C, 0x13, g.toNat, [(6, 0), (6, a.toNat), (6, b.toNat), (3, 0)])
  | .nprb g => some (.C, 0x14, g.toNat, [(21, 0)])
  | .npre g => some (.C, 0x15, g.toNat, [(21, 0)])
  | .bar g s i => some (.C, 0x16, g.toNat, [(3, s.toNat), (6, i.toNat), (12, 0)])
  | .efence g => some (.C, 0x17, g.toNat, [(21, 0)])
  | .waits g s x => some (.C, 0x18, g.toNat, [(8, s.toNat), (6, x.toNat), (7, 0)])
  | .sigs g s x => some (.C, 0x19, g.toNat, [(8, s.toNat), (6, x.toNat), (7, 0)])
  | .semset g s x => some (.C, 0x1A, g.toNat, [(8, s.toNat), (6, x.toNat), (7, 0)])
  | .waitw g a b => some (.C, 0x1B, g.toNat, [(6, 0), (6, a.toNat), (6, b.toNat), (3, 0)])
  | .pstop g a => some (.C, 0x1C, g.toNat, [(8, 0), (6, a.toNat), (7, 0)])
  | .tkwait g => some (.C, 0x1D, g.toNat, [(21, 0)])
  | .tknext g d => some (.C, 0x1E, g.toNat, [(6, d.toNat), (15, 0)])
  | .tkdone g => some (.C, 0x1F, g.toNat, [(21, 0)])
  | .tret g => some (.C, 0x20, g.toNat, [(21, 0)])
  | .ld g d b z i => some (.S, 0x01, g.toNat, [(6, d.toNat), (6, b.toNat), (3, z.toNat), (6, i.toNat)])
  | .st g s b z i => some (.S, 0x02, g.toNat, [(6, s.toNat), (6, b.toNat), (3, z.toNat), (6, i.toNat)])
  | .lds8 g d s o n => some (.S, 0x03, g.toNat, [(6, d.toNat), (8, s.toNat), (6, o.toNat), (1, n.toNat)])
  | .lds4 g d s o n => some (.S, 0x04, g.toNat, [(6, d.toNat), (8, s.toNat), (6, o.toNat), (1, n.toNat)])
  | .sts8 g x s o n => some (.S, 0x05, g.toNat, [(6, x.toNat), (8, s.toNat), (6, o.toNat), (1, n.toNat)])
  | .sts4 g x s o n => some (.S, 0x06, g.toNat, [(6, x.toNat), (8, s.toNat), (6, o.toNat), (1, n.toNat)])
  | .amo g d a b o => some (.S, 0x07, g.toNat, [(6, d.toNat), (6, a.toNat), (6, b.toNat), (3, o.toNat)])
  | .amo4 g d a b o => some (.S, 0x08, g.toNat, [(6, d.toNat), (6, a.toNat), (6, b.toNat), (3, o.toNat)])
  | .cas g d a b => some (.S, 0x09, g.toNat, [(6, d.toNat), (6, a.toNat), (6, b.toNat), (3, 0)])
  | .cas4 g d a b => some (.S, 0x0A, g.toNat, [(6, d.toNat), (6, a.toNat), (6, b.toNat), (3, 0)])
  | .pref g a i => some (.S, 0x0B, g.toNat, [(6, 0), (6, a.toNat), (9, i.toNat)])
  | .ctw g a e => some (.S, 0x0C, g.toNat, [(6, 0), (6, a.toNat), (9, e.toNat)])
  | .vnop g => some (.V, 0x00, g.toNat, [(21, 0)])
  | .vadd g d a b m t => some (.V, 0x01, g.toNat, [(5, d.toNat), (5, a.toNat), (5, b.toNat), (3, m.toNat), (3, t.toNat)])
  | .vsub g d a b m t => some (.V, 0x02, g.toNat, [(5, d.toNat), (5, a.toNat), (5, b.toNat), (3, m.toNat), (3, t.toNat)])
  | .vmul g d a b m t => some (.V, 0x03, g.toNat, [(5, d.toNat), (5, a.toNat), (5, b.toNat), (3, m.toNat), (3, t.toNat)])
  | .vfma g d a b m t => some (.V, 0x04, g.toNat, [(5, d.toNat), (5, a.toNat), (5, b.toNat), (3, m.toNat), (3, t.toNat)])
  | .vmin g d a b m t => some (.V, 0x05, g.toNat, [(5, d.toNat), (5, a.toNat), (5, b.toNat), (3, m.toNat), (3, t.toNat)])
  | .vmax g d a b m t => some (.V, 0x06, g.toNat, [(5, d.toNat), (5, a.toNat), (5, b.toNat), (3, m.toNat), (3, t.toNat)])
  | .vabs g d a m t => some (.V, 0x07, g.toNat, [(5, d.toNat), (5, a.toNat), (5, 0), (3, m.toNat), (3, t.toNat)])
  | .vneg g d a m t => some (.V, 0x08, g.toNat, [(5, d.toNat), (5, a.toNat), (5, 0), (3, m.toNat), (3, t.toNat)])
  | .vand g d a b m t => some (.V, 0x09, g.toNat, [(5, d.toNat), (5, a.toNat), (5, b.toNat), (3, m.toNat), (3, t.toNat)])
  | .vor g d a b m t => some (.V, 0x0A, g.toNat, [(5, d.toNat), (5, a.toNat), (5, b.toNat), (3, m.toNat), (3, t.toNat)])
  | .vxor g d a b m t => some (.V, 0x0B, g.toNat, [(5, d.toNat), (5, a.toNat), (5, b.toNat), (3, m.toNat), (3, t.toNat)])
  | .vshl g d a b m t => some (.V, 0x0C, g.toNat, [(5, d.toNat), (5, a.toNat), (5, b.toNat), (3, m.toNat), (3, t.toNat)])
  | .vshr g d a b m t => some (.V, 0x0D, g.toNat, [(5, d.toNat), (5, a.toNat), (5, b.toNat), (3, m.toNat), (3, t.toNat)])
  | .vsra g d a b m t => some (.V, 0x0E, g.toNat, [(5, d.toNat), (5, a.toNat), (5, b.toNat), (3, m.toNat), (3, t.toNat)])
  | .vdiv g d a b m t => some (.V, 0x0F, g.toNat, [(5, d.toNat), (5, a.toNat), (5, b.toNat), (3, m.toNat), (3, t.toNat)])
  | .vrem g d a b m t => some (.V, 0x29, g.toNat, [(5, d.toNat), (5, a.toNat), (5, b.toNat), (3, m.toNat), (3, t.toNat)])
  | .vsqrt g d a m t => some (.V, 0x10, g.toNat, [(5, d.toNat), (5, a.toNat), (5, 0), (3, m.toNat), (3, t.toNat)])
  | .vrec g d a m t => some (.V, 0x11, g.toNat, [(5, d.toNat), (5, a.toNat), (5, 0), (3, m.toNat), (3, t.toNat)])
  | .vrsq g d a m t => some (.V, 0x12, g.toNat, [(5, d.toNat), (5, a.toNat), (5, 0), (3, m.toNat), (3, t.toNat)])
  | .vexp2 g d a m t => some (.V, 0x13, g.toNat, [(5, d.toNat), (5, a.toNat), (5, 0), (3, m.toNat), (3, t.toNat)])
  | .vlog2 g d a m t => some (.V, 0x14, g.toNat, [(5, d.toNat), (5, a.toNat), (5, 0), (3, m.toNat), (3, t.toNat)])
  | .vcmp g m a b c t => some (.V, 0x15, g.toNat, [(3, m.toNat), (2, 0), (5, a.toNat), (5, b.toNat), (3, c.toNat), (3, t.toNat)])
  | .vsel g d a b m t => some (.V, 0x16, g.toNat, [(5, d.toNat), (5, a.toNat), (5, b.toNat), (3, m.toNat), (3, t.toNat)])
  | .vmov g d a m t => some (.V, 0x17, g.toNat, [(5, d.toNat), (5, a.toNat), (5, 0), (3, m.toNat), (3, t.toNat)])
  | .vbcast g v x m => some (.V, 0x18, g.toNat, [(5, v.toNat), (6, x.toNat), (6, 0), (3, m.toNat), (1, 0)])
  | .viota g d m t => some (.V, 0x19, g.toNat, [(5, d.toNat), (10, 0), (3, m.toNat), (3, t.toNat)])
  | .vext g v x l s => some (.V, 0x1A, g.toNat, [(5, v.toNat), (6, x.toNat), (6, l.toNat), (3, 0), (1, s.toNat)])
  | .vins g v x l => some (.V, 0x1B, g.toNat, [(5, v.toNat), (6, x.toNat), (6, l.toNat), (4, 0)])
  | .vred g d a o m t => some (.V, 0x1C, g.toNat, [(6, d.toNat), (5, a.toNat), (3, o.toNat), (1, 0), (3, m.toNat), (3, t.toNat)])
  | .vscan g d a o m t => some (.V, 0x1D, g.toNat, [(5, d.toNat), (5, a.toNat), (3, o.toNat), (2, 0), (3, m.toNat), (3, t.toNat)])
  | .vperm g d a b m t => some (.V, 0x1E, g.toNat, [(5, d.toNat), (5, a.toNat), (5, b.toNat), (3, m.toNat), (3, t.toNat)])
  | .vpart g d a m => some (.V, 0x1F, g.toNat, [(5, d.toNat), (5, a.toNat), (5, 0), (3, m.toNat), (3, 0)])
  | .vcvt g d a f t r m => some (.V, 0x20, g.toNat, [(5, d.toNat), (5, a.toNat), (3, f.toNat), (3, t.toNat), (2, r.toNat), (3, m.toNat)])
  | .vcv8 g d a e w p o r m => some (.V, 0x21, g.toNat, [(5, d.toNat), (5, a.toNat), (1, e.toNat), (2, w.toNat), (2, p.toNat), (1, o.toNat), (2, r.toNat), (3, m.toNat)])
  | .vun8 g d a e w p m => some (.V, 0x22, g.toNat, [(5, d.toNat), (5, a.toNat), (1, e.toNat), (2, w.toNat), (2, p.toNat), (3, 0), (3, m.toNat)])
  | .vdec4 g d a b p t => some (.V, 0x23, g.toNat, [(5, d.toNat), (5, a.toNat), (5, b.toNat), (3, p.toNat), (3, t.toNat)])
  | .venc4 g d a x p f => some (.V, 0x24, g.toNat, [(5, d.toNat), (5, a.toNat), (6, x.toNat), (3, p.toNat), (2, f.toNat)])
  | .mlog g d a b t => some (.V, 0x25, g.toNat, [(3, d.toNat), (3, a.toNat), (3, b.toNat), (4, t.toNat), (8, 0)])
  | .mpop g x m => some (.V, 0x26, g.toNat, [(6, x.toNat), (3, m.toNat), (12, 0)])
  | .mfromx g d x => some (.V, 0x27, g.toNat, [(3, d.toNat), (6, x.toNat), (12, 0)])
  | .mtox g x m => some (.V, 0x28, g.toNat, [(6, x.toNat), (3, m.toNat), (12, 0)])
  | .kinit g k c d t => some (.V, 0x30, g.toNat, [(3, k.toNat), (6, c.toNat), (1, d.toNat), (2, t.toNat), (9, 0)])
  | .kins g k a b m => some (.V, 0x31, g.toNat, [(3, k.toNat), (5, a.toNat), (5, b.toNat), (3, m.toNat), (5, 0)])
  | .kinsi g k a x m => some (.V, 0x32, g.toNat, [(3, k.toNat), (5, a.toNat), (6, x.toNat), (3, m.toNat), (4, 0)])
  | .kmrg g k a => some (.V, 0x33, g.toNat, [(3, k.toNat), (3, a.toNat), (15, 0)])
  | .kout g k d => some (.V, 0x34, g.toNat, [(3, k.toNat), (5, d.toNat), (13, 0)])
  | .klen g k d => some (.V, 0x35, g.toNat, [(3, k.toNat), (6, d.toNat), (12, 0)])
  | .kth g k => some (.V, 0x36, g.toNat, [(3, k.toNat), (18, 0)])
  | .kclr g k => some (.V, 0x37, g.toNat, [(3, k.toNat), (18, 0)])
  | .barx g s i o v => some (.V, 0x38, g.toNat, [(3, s.toNat), (6, i.toNat), (3, o.toNat), (5, v.toNat), (4, 0)])
  | .wnop g => some (.W, 0x00, g.toNat, [(21, 0)])
  | .vlds g v s o m => some (.W, 0x01, g.toNat, [(5, v.toNat), (8, s.toNat), (6, o.toNat), (2, m.toNat)])
  | .vsts g v s o m => some (.W, 0x02, g.toNat, [(5, v.toNat), (8, s.toNat), (6, o.toNat), (2, m.toNat)])
  | .vldg g v x m => some (.W, 0x03, g.toNat, [(5, v.toNat), (6, x.toNat), (3, m.toNat), (7, 0)])
  | .vstg g v x m => some (.W, 0x04, g.toNat, [(5, v.toNat), (6, x.toNat), (3, m.toNat), (7, 0)])
  | .vgts g v s i m => some (.W, 0x05, g.toNat, [(5, v.toNat), (8, s.toNat), (5, i.toNat), (3, m.toNat)])
  | .vscs g v s i m => some (.W, 0x06, g.toNat, [(5, v.toNat), (8, s.toNat), (5, i.toNat), (3, m.toNat)])
  | .vgtg g v x i m => some (.W, 0x07, g.toNat, [(5, v.toNat), (6, x.toNat), (5, i.toNat), (3, m.toNat), (2, 0)])
  | .vscg g v x i m => some (.W, 0x08, g.toNat, [(5, v.toNat), (6, x.toNat), (5, i.toNat), (3, m.toNat), (2, 0)])
  | .ksave g k s o => some (.W, 0x09, g.toNat, [(3, k.toNat), (8, s.toNat), (6, o.toNat), (4, 0)])
  | .kload g k s o => some (.W, 0x0A, g.toNat, [(3, k.toNat), (8, s.toNat), (6, o.toNat), (4, 0)])
  | .kmrgs g k s o => some (.W, 0x0B, g.toNat, [(3, k.toNat), (8, s.toNat), (6, o.toNat), (4, 0)])
  | .pget g v p => some (.W, 0x0C, g.toNat, [(5, v.toNat), (3, p.toNat), (13, 0)])
  | .pput g v p => some (.W, 0x0D, g.toNat, [(5, v.toNat), (3, p.toNat), (13, 0)])
  | .enop g => some (.E, 0x00, g.toNat, [(21, 0)])
  | .mwld g s o p f => some (.E, 0x01, g.toNat, [(8, s.toNat), (6, o.toNat), (1, p.toNat), (3, f.toNat), (3, 0)])
  | .mscl g x h => some (.E, 0x02, g.toNat, [(6, x.toNat), (1, h.toNat), (14, 0)])
  | .mstr g s o t a p f => some (.E, 0x03, g.toNat, [(8, s.toNat), (6, o.toNat), (2, t.toNat), (1, a.toNat), (1, p.toNat), (3, f.toNat)])
  | .mrank g s o t f => some (.E, 0x04, g.toNat, [(8, s.toNat), (6, o.toNat), (2, t.toNat), (2, 0), (3, f.toNat)])
  | .mout g s o t c r => some (.E, 0x05, g.toNat, [(8, s.toNat), (6, o.toNat), (2, t.toNat), (3, c.toNat), (2, r.toNat)])
  | .mzero g t => some (.E, 0x06, g.toNat, [(2, t.toNat), (19, 0)])
  | .fcmd g s o => some (.E, 0x10, g.toNat, [(8, s.toNat), (6, o.toNat), (7, 0)])
  | .pcmd g s o => some (.E, 0x18, g.toNat, [(8, s.toNat), (6, o.toNat), (7, 0)])
  | .pload g s o => some (.E, 0x19, g.toNat, [(8, s.toNat), (6, o.toNat), (7, 0)])
  | .sgdef g s o => some (.E, 0x20, g.toNat, [(8, s.toNat), (6, o.toNat), (7, 0)])
  | .sgdrop g s => some (.E, 0x21, g.toNat, [(8, s.toNat), (13, 0)])
  | .sgpin g s => some (.E, 0x22, g.toNat, [(8, s.toNat), (13, 0)])
  | .sgunpin g s => some (.E, 0x23, g.toNat, [(8, s.toNat), (13, 0)])
  | .sgpush g s => some (.E, 0x24, g.toNat, [(8, s.toNat), (13, 0)])
  | .sgpull g s => some (.E, 0x25, g.toNat, [(8, s.toNat), (13, 0)])
  | .sgstat g s d => some (.E, 0x26, g.toNat, [(8, s.toNat), (6, d.toNat), (7, 0)])
  | .sgsplit g a => some (.E, 0x27, g.toNat, [(8, 0), (6, a.toNat), (7, 0)])
  | .tkpost g s o => some (.E, 0x30, g.toNat, [(8, s.toNat), (6, o.toNat), (7, 0)])
  | .ldarm g s o => some (.E, 0x38, g.toNat, [(8, s.toNat), (6, o.toNat), (7, 0)])
  | .ldread g d a => some (.E, 0x39, g.toNat, [(6, d.toNat), (6, a.toNat), (9, 0)])
  | .lddis g a => some (.E, 0x3A, g.toNat, [(6, 0), (6, a.toNat), (9, 0)])
  | .pnop => some (.P, 0x00, 0, [(26, 0)])
  | .pend => some (.P, 0x01, 0, [(26, 0)])
  | .ploopImm n l => some (.P, 0x02, 0, [(1, 0), (3, n.toNat / 2 ^ 10), (10, n.toNat % 2 ^ 10), (4, 0), (8, l.toNat)])
  | .ploopReg a l => some (.P, 0x02, 0, [(1, 1), (3, a.toNat), (10, 0), (4, 0), (8, l.toNat)])
  | .parg d n h => some (.P, 0x03, 0, [(3, d.toNat), (3, n.toNat), (1, h.toNat), (19, 0)])
  | .padd d a i => some (.P, 0x04, 0, [(3, d.toNat), (3, a.toNat), (20, i.toNat)])
  | .psetk k t f x s => some (.P, 0x05, 0, [(12, k.toNat), (1, t.toNat), (2, f.toNat), (1, x.toNat), (10, s.toNat)])
  | .pldx a => some (.P, 0x06, 0, [(3, a.toNat), (23, 0)])
  | .pzer i n => some (.P, 0x07, 0, [(4, i.toNat), (5, n.toNat), (17, 0)])
  | .prow i a => some (.P, 0x08, 0, [(4, i.toNat), (3, a.toNat), (19, 0)])
  | .prown i n a => some (.P, 0x09, 0, [(4, i.toNat), (5, n.toNat), (3, a.toNat), (14, 0)])
  | .psto i n a => some (.P, 0x0A, 0, [(4, i.toNat), (5, n.toNat), (3, a.toNat), (14, 0)])
  | .pstob i n a => some (.P, 0x0B, 0, [(4, i.toNat), (5, n.toNat), (3, a.toNat), (14, 0)])
  | .pwait => some (.P, 0x0C, 0, [(26, 0)])
  | .pcvt i n k => some (.P, 0x0D, 0, [(4, i.toNat), (5, n.toNat), (2, k.toNat), (15, 0)])
  | .psig s i => some (.P, 0x0E, 0, [(8, s.toNat), (8, i.toNat), (10, 0)])
  | .pmov k x y => some (.P, 0x0F, 0, [(2, k.toNat), (4, x.toNat), (4, y.toNat), (16, 0)])
  | .waitwReread .. => none
  | .supervisorResume .. => none
  | .resumePrivileged .. => none
  | .preemptContext .. => none
  | .fixedLatencyLanding .. => none
  | .globalLoadArrival .. => none
  | .isumResult .. => none
  | .tknextResult .. => none
  | .sgstatResult .. => none
  | .ldreadResult .. => none
  | .bankswDecision .. => none
  | .issueRunLimit .. => none
  | .watchdog .. => none
  | .longWaitEvent .. => none
  | .nprOverrun .. => none
  | .taskPromotion .. => none
  | .monitorPublish .. => none
  | .matrixCmdStart .. => none
  | .matrixCmdResume .. => none
  | .mwldComplete .. => none
  | .mstrComplete .. => none
  | .moutComplete .. => none
  | .mzeroComplete .. => none
  | .ferryPacketStart .. => none
  | .ringPacketTake .. => none
  | .ferryResume .. => none
  | .ferryReplay .. => none
  | .ferryPacketComplete .. => none
  | .pierOutboxDeliver .. => none
  | .pierCmdStart .. => none
  | .pierLoadApply .. => none
  | .pierCmdComplete .. => none
  | .ticketService .. => none
  | .recallEnd .. => none
  | .pushOutEnd .. => none
  | .compactionMoveEnd .. => none
  | .sgdropComplete .. => none
  | .sgpinComplete .. => none
  | .sgpushComplete .. => none
  | .sgpullComplete .. => none
  | .sgsplitComplete .. => none
  | .tkpostComplete .. => none
  | .overflowRefill .. => none
  | .deferredPost .. => none
  | .taskReceipt .. => none
  | .gangStart .. => none
  | .pipeEnlarge .. => none
  | .completionWriteRetry .. => none
  | .ldarmArmed .. => none
  | .landingWriteDeferred .. => none
  | .launchCommit .. => none
  | .controlWindowWrite .. => none
  | .featAcceptWrite .. => none
  | .noticeAck .. => none
  | .mailboxReply => none
  | .createPartition => none
  | .loadPatternImage => none
  | .bindAperture => none
  | .unbindAperture => none
  | .bindRing => none
  | .unbindRing => none
  | .shootdown => none
  | .assignLandingCounters => none
  | .releaseLandingCounters => none
  | .assignPiers => none
  | .releasePiers => none
  | .publishMonitors => none
  | .freeze => none
  | .unfreeze => none
  | .swapOut => none
  | .swapIn => none
  | .endPartition .. => none
  | .configurePod => none
  | .stageSupervisorFirmware => none
  | .stageManagementFirmware => none
  | .stageConfigRecord => none
  | .hostWindowRead .. => none
  | .hostWindowWrite .. => none
  | .atomicFetchadd .. => none
  | .atomicSwap .. => none
  | .atomicCas .. => none
  | .moduleReset => none
  | .hotReset .. => none
  | .functionLevelReset .. => none
  | .mgmtDieReset .. => none
  | .mctpControl .. => none
  | .pldmSensorRead .. => none
  | .pldmFirmwareUpdate .. => none
  | .getVersion => none
  | .getCapabilities => none
  | .negotiateAlgorithms => none
  | .getDigests => none
  | .getCertificate .. => none
  | .challenge .. => none
  | .getMeasurements .. => none
  | .errorLogRead => none
  | .errorLogClear => none
  | .setPowerLimit .. => none
  | .clockStretchBegin .. => none
  | .clockStretchEnd .. => none
  | .overtempPowerOff .. => none
  | .flitRetry .. => none
  | .portFailure .. => none
  | .packageUnreachable .. => none
  | .memorySideCacheFlush .. => none
  | .pageMigration .. => none
  | .pageMigrationEnd => none
  | .stoppedContextWrite .. => none
  | .resizableBarWrite .. => none

/-- The word of an instruction (R38, R46, R255). -/
def encode (i : Instr) : Option Word :=
  match i.code with
  | none => none
  | some (.P, op, _, fs) => some (BitVec.ofNat 32 (op * 2 ^ 26 + packFields fs))
  | some (_, op, g, fs) => some (BitVec.ofNat 32 (g * 2 ^ 28 + op * 2 ^ 21 + packFields fs))

end Sys2Proof
end

