-- ==== Sys2Proof/Machine/Fields.lean ====
section
/-!
DEFINITION. What the stage checks of R36 ask of an instruction's fields: the registers it names, its destinations
(R39), the values it accepts (R47, R49 to R54) and its privilege (R48, R62).
-/
namespace Sys2Proof

/-- The control registers of R62. -/
def crnKnown (c : Nat) : Bool :=
  [0x00, 0x01, 0x02, 0x03, 0x08, 0x09, 0x0A, 0x0B, 0x0C, 0x0D, 0x10, 0x11, 0x18, 0x19, 0x1A, 0x1B, 0x1C, 0x1D, 0x1E, 0x1F,
    0x20, 0x21, 0x28, 0x29, 0x2A, 0x2B, 0x2C, 0x30, 0x31, 0x32, 0x33, 0x34, 0x38, 0x40, 0x41, 0x42, 0x80, 0x81, 0x82,
    0x83].contains c

/-- A destination of R39. -/
inductive Dest where
  | x (n : Nat) | p (n : Nat) | v (n : Nat) | m (n : Nat) | k (n : Nat)
  deriving DecidableEq, Repr

/-- A destination takes part in conflicts: X1 to X47, P1 to P15, M1 to M7 and every V and K (R39). -/
def Dest.counts : Dest → Bool
  | .x n => decide (1 ≤ n) && decide (n ≤ 47)
  | .p n => decide (1 ≤ n) && decide (n ≤ 15)
  | .m n => n != 0
  | _ => true

/-- The guard field of a slot instruction. -/
def Instr.guard (i : Instr) : Nat :=
  match i.code with
  | some (_, _, g, _) => g
  | none => 0

/-- The opcode of an instruction's word. -/
def Instr.opcode (i : Instr) : Nat :=
  match i.code with
  | some (_, o, _, _) => o
  | none => 0

/-- The six-bit scalar fields an instruction reads (R47). -/
def Instr.xSources : Instr → List (BitVec 6)
  | .add _ _ a b => [a, b]
  | .sub _ _ a b => [a, b]
  | .and _ _ a b => [a, b]
  | .or _ _ a b => [a, b]
  | .xor _ _ a b => [a, b]
  | .shl _ _ a b => [a, b]
  | .shr _ _ a b => [a, b]
  | .sra _ _ a b => [a, b]
  | .mul _ _ a b => [a, b]
  | .mulh _ _ a b _ => [a, b]
  | .div _ _ a b _ => [a, b]
  | .rem _ _ a b _ => [a, b]
  | .min _ _ a b _ => [a, b]
  | .max _ _ a b _ => [a, b]
  | .clz _ _ a => [a]
  | .ctz _ _ a => [a]
  | .popc _ _ a => [a]
  | .brev _ _ a => [a]
  | .sext _ _ a _ => [a]
  | .shadd _ _ a b _ => [a, b]
  | .addi _ _ a _ => [a]
  | .andi _ _ a _ => [a]
  | .ori _ _ a _ => [a]
  | .xori _ _ a _ => [a]
  | .shli _ _ a _ => [a]
  | .shri _ _ a _ => [a]
  | .srai _ _ a _ => [a]
  | .cmp _ _ a b _ => [a, b]
  | .cmpeqi _ _ a _ => [a]
  | .cmplti _ _ a _ => [a]
  | .xmovp _ a => [a]
  | .sel _ _ a b => [a, b]
  | .fadd _ _ a b _ => [a, b]
  | .fsub _ _ a b _ => [a, b]
  | .fmul _ _ a b _ => [a, b]
  | .fmin _ _ a b _ => [a, b]
  | .fmax _ _ a b _ => [a, b]
  | .fcmp _ _ a b _ => [a, b]
  | .fcvt _ _ a _ _ => [a]
  | .jr _ a _ => [a]
  | .jalr _ _ a _ => [a]
  | .loop _ c _ _ _ => [c]
  | .cwr _ _ a => [a]
  | .isum _ _ a _ => [a]
  | .banksw _ a b => [a, b]
  | .waits _ _ x => [x]
  | .sigs _ _ x => [x]
  | .semset _ _ x => [x]
  | .waitw _ a b => [a, b]
  | .pstop _ a => [a]
  | .ld _ _ b _ _ => [b]
  | .st _ s b _ _ => [s, b]
  | .lds8 _ _ _ o _ => [o]
  | .lds4 _ _ _ o _ => [o]
  | .sts8 _ x _ o _ => [x, o]
  | .sts4 _ x _ o _ => [x, o]
  | .amo _ _ a b _ => [a, b]
  | .amo4 _ _ a b _ => [a, b]
  | .cas _ d a b => [d, a, b]
  | .cas4 _ d a b => [d, a, b]
  | .pref _ a _ => [a]
  | .ctw _ a _ => [a]
  | .vbcast _ _ x _ => [x]
  | .vins _ _ x _ => [x]
  | .venc4 _ _ _ x _ _ => [x]
  | .mfromx _ _ x => [x]
  | .kinsi _ _ _ x _ => [x]
  | .vlds _ _ _ o _ => [o]
  | .vsts _ _ _ o _ => [o]
  | .vldg _ _ x _ => [x]
  | .vstg _ _ x _ => [x]
  | .vgtg _ _ x _ _ => [x]
  | .vscg _ _ x _ _ => [x]
  | .ksave _ _ _ o => [o]
  | .kload _ _ _ o => [o]
  | .kmrgs _ _ _ o => [o]
  | .mwld _ _ o _ _ => [o]
  | .mscl _ x _ => [x]
  | .mstr _ _ o _ _ _ _ => [o]
  | .mrank _ _ o _ _ => [o]
  | .mout _ _ o _ _ _ => [o]
  | .fcmd _ _ o => [o]
  | .pcmd _ _ o => [o]
  | .pload _ _ o => [o]
  | .sgdef _ _ o => [o]
  | .sgsplit _ a => [a]
  | .tkpost _ _ o => [o]
  | .ldarm _ _ o => [o]
  | .ldread _ _ a => [a]
  | .lddis _ a => [a]
  | _ => []

/-- The offset register an instruction increments (R171, R177). -/
def Instr.incremented : Instr → Option (BitVec 6)
  | .lds8 _ _ _ o n => if n = 1 then some o else none
  | .lds4 _ _ _ o n => if n = 1 then some o else none
  | .sts8 _ _ _ o n => if n = 1 then some o else none
  | .sts4 _ _ _ o n => if n = 1 then some o else none
  | .vlds _ _ _ o m => if m = 1 then some o else none
  | .vsts _ _ _ o m => if m = 1 then some o else none
  | _ => none

/-- The six-bit scalar fields an instruction writes, the incremented offset register apart. -/
def Instr.xResults : Instr → List (BitVec 6)
  | .add _ d _ _ => [d]
  | .sub _ d _ _ => [d]
  | .and _ d _ _ => [d]
  | .or _ d _ _ => [d]
  | .xor _ d _ _ => [d]
  | .shl _ d _ _ => [d]
  | .shr _ d _ _ => [d]
  | .sra _ d _ _ => [d]
  | .mul _ d _ _ => [d]
  | .mulh _ d _ _ _ => [d]
  | .div _ d _ _ _ => [d]
  | .rem _ d _ _ _ => [d]
  | .min _ d _ _ _ => [d]
  | .max _ d _ _ _ => [d]
  | .clz _ d _ => [d]
  | .ctz _ d _ => [d]
  | .popc _ d _ => [d]
  | .brev _ d _ => [d]
  | .sext _ d _ _ => [d]
  | .shadd _ d _ _ _ => [d]
  | .addi _ d _ _ => [d]
  | .andi _ d _ _ => [d]
  | .ori _ d _ _ => [d]
  | .xori _ d _ _ => [d]
  | .shli _ d _ _ => [d]
  | .shri _ d _ _ => [d]
  | .srai _ d _ _ => [d]
  | .movi _ d _ => [d]
  | .pmovx _ d => [d]
  | .sel _ d _ _ => [d]
  | .fadd _ d _ _ _ => [d]
  | .fsub _ d _ _ _ => [d]
  | .fmul _ d _ _ _ => [d]
  | .fmin _ d _ _ _ => [d]
  | .fmax _ d _ _ _ => [d]
  | .fcvt _ d _ _ _ => [d]
  | .jalr _ d _ _ => [d]
  | .crd _ _ d => [d]
  | .isum _ d _ _ => [d]
  | .tknext _ d => [d]
  | .ld _ d _ _ _ => [d]
  | .lds8 _ d _ _ _ => [d]
  | .lds4 _ d _ _ _ => [d]
  | .amo _ d _ _ _ => [d]
  | .amo4 _ d _ _ _ => [d]
  | .cas _ d _ _ => [d]
  | .cas4 _ d _ _ => [d]
  | .vext _ _ x _ _ => [x]
  | .vred _ d _ _ _ _ => [d]
  | .mpop _ x _ => [x]
  | .mtox _ x _ => [x]
  | .klen _ _ d => [d]
  | .sgstat _ _ d => [d]
  | .ldread _ d _ => [d]
  | _ => []

/-- The X destinations of R36 as register codes. -/
def Instr.xDests (i : Instr) : List (BitVec 6) := i.xResults ++ i.incremented.toList

/-- The destinations other than X registers (R39, R47, R76, R145, R147). -/
def Instr.otherDests : Instr → List Dest
  | .cmp _ p _ _ _ => [.p p.toNat]
  | .cmpeqi _ p _ _ => [.p p.toNat]
  | .cmplti _ p _ _ => [.p p.toNat]
  | .plog _ d _ _ _ => [.p d.toNat]
  | .xmovp _ _ => (countFrom 1 15).map .p
  | .fcmp _ p _ _ _ => [.p p.toNat]
  | .tknext _ d => [.x (d.toNat + 1)]
  | .vadd _ d _ _ _ _ => [.v d.toNat]
  | .vsub _ d _ _ _ _ => [.v d.toNat]
  | .vmul _ d _ _ _ _ => [.v d.toNat]
  | .vfma _ d _ _ _ _ => [.v d.toNat]
  | .vmin _ d _ _ _ _ => [.v d.toNat]
  | .vmax _ d _ _ _ _ => [.v d.toNat]
  | .vabs _ d _ _ _ => [.v d.toNat]
  | .vneg _ d _ _ _ => [.v d.toNat]
  | .vand _ d _ _ _ _ => [.v d.toNat]
  | .vor _ d _ _ _ _ => [.v d.toNat]
  | .vxor _ d _ _ _ _ => [.v d.toNat]
  | .vshl _ d _ _ _ _ => [.v d.toNat]
  | .vshr _ d _ _ _ _ => [.v d.toNat]
  | .vsra _ d _ _ _ _ => [.v d.toNat]
  | .vdiv _ d _ _ _ _ => [.v d.toNat]
  | .vrem _ d _ _ _ _ => [.v d.toNat]
  | .vsqrt _ d _ _ _ => [.v d.toNat]
  | .vrec _ d _ _ _ => [.v d.toNat]
  | .vrsq _ d _ _ _ => [.v d.toNat]
  | .vexp2 _ d _ _ _ => [.v d.toNat]
  | .vlog2 _ d _ _ _ => [.v d.toNat]
  | .vcmp _ m _ _ _ _ => [.m m.toNat]
  | .vsel _ d _ _ _ _ => [.v d.toNat]
  | .vmov _ d _ _ _ => [.v d.toNat]
  | .vbcast _ v _ _ => [.v v.toNat]
  | .viota _ d _ _ => [.v d.toNat]
  | .vins _ v _ _ => [.v v.toNat]
  | .vscan _ d _ _ _ _ => [.v d.toNat]
  | .vperm _ d _ _ _ _ => [.v d.toNat]
  | .vpart _ d _ _ => [.v d.toNat]
  | .vcvt _ d _ _ _ _ _ => [.v d.toNat]
  | .vcv8 _ d _ _ _ _ _ _ _ => [.v d.toNat]
  | .vun8 _ d _ _ _ _ _ => [.v d.toNat]
  | .vdec4 _ d _ _ _ _ => [.v d.toNat]
  | .venc4 _ d _ _ _ _ => [.v d.toNat]
  | .mlog _ d _ _ _ => [.m d.toNat]
  | .mfromx _ d _ => [.m d.toNat]
  | .kinit _ k _ _ _ => [.k k.toNat]
  | .kins _ k _ _ _ => [.k k.toNat, .p 7]
  | .kinsi _ k _ _ _ => [.k k.toNat, .p 7]
  | .kmrg _ k _ => [.k k.toNat]
  | .kout _ _ d => [.v d.toNat, .v (d.toNat + 1)]
  | .kclr _ k => [.k k.toNat]
  | .barx _ _ _ _ v => [.v v.toNat]
  | .vlds _ v _ _ _ => [.v v.toNat]
  | .vldg _ v _ _ => [.v v.toNat]
  | .vgts _ v _ _ _ => [.v v.toNat]
  | .vgtg _ v _ _ _ => [.v v.toNat]
  | .kload _ k _ _ => [.k k.toNat]
  | .kmrgs _ k _ _ => [.k k.toNat]
  | .pget _ v _ => [.v v.toNat]
  | _ => []

/-- The destinations of R39. -/
def Instr.dests (i : Instr) : List Dest :=
  ((i.xDests.map fun d => Dest.x d.toNat) ++ i.otherDests).filter Dest.counts

/-- The field values an instruction accepts (R47, R49 to R54, R255); a loop's end is checked with its bundle's length. -/
def Instr.fieldsOk : Instr → Bool
  | .mulh _ _ _ _ s => decide (s.toNat ≤ 2)
  | .sext _ _ _ s => decide (s.toNat ≤ 2)
  | .shli _ _ _ i => decide (i.toNat < 64)
  | .shri _ _ _ i => decide (i.toNat < 64)
  | .srai _ _ _ i => decide (i.toNat < 64)
  | .cmp _ p _ _ c => decide (p.toNat < 16) && decide (c.toNat ≤ 5)
  | .cmpeqi _ p _ _ => decide (p.toNat < 16)
  | .cmplti _ p _ _ => decide (p.toNat < 16)
  | .fcmp _ p _ _ c => decide (p.toNat < 16) && decide (c.toNat ≤ 3)
  | .fcvt _ _ _ k _ => decide (k.toNat ≤ 7)
  | .loop _ _ e r _ => r == 1 || e == 0
  | .mode _ i => decide (i.toNat < 8)
  | .crd _ c _ => crnKnown c.toNat
  | .cwr _ c _ => crnKnown c.toNat
  | .bar _ s _ => decide (s.toNat ≤ 4)
  | .tknext _ d => d == 63 || (decide (1 ≤ d.toNat) && decide (d.toNat ≤ 46))
  | .ld _ _ _ z _ => z != 7
  | .st _ _ _ z _ => decide (z.toNat ≤ 3)
  | .lds8 _ d _ o n => !(n == 1 && d == o)
  | .lds4 _ d _ o n => !(n == 1 && d == o)
  | .ctw _ _ e => decide (e.toNat ≤ 15)
  | .vabs _ _ _ _ t => [0, 2, 3, 4, 5, 6].contains t.toNat
  | .vneg _ _ _ _ t => [0, 2, 3, 4, 5, 6].contains t.toNat
  | .vshl _ _ _ _ _ t => [0, 1, 5, 6, 7].contains t.toNat
  | .vshr _ _ _ _ _ t => [0, 1, 5, 6, 7].contains t.toNat
  | .vsra _ _ _ _ _ t => [0, 1, 5, 6, 7].contains t.toNat
  | .vrem _ _ _ _ _ t => [0, 1, 5, 6, 7].contains t.toNat
  | .vsqrt _ _ _ _ t => [2, 3, 4].contains t.toNat
  | .vrec _ _ _ _ t => [2, 3, 4].contains t.toNat
  | .vrsq _ _ _ _ t => [2, 3, 4].contains t.toNat
  | .vexp2 _ _ _ _ t => [2, 3, 4].contains t.toNat
  | .vlog2 _ _ _ _ t => [2, 3, 4].contains t.toNat
  | .vcmp _ m _ _ c t => m != 0 && decide (t.toNat ≤ 2) && (decide (c.toNat < 6) || t == 2)
  | .viota _ _ _ t => [0, 1, 5].contains t.toNat
  | .vred _ _ _ o _ _ => decide (o.toNat ≤ 5)
  | .vscan _ _ _ o _ _ => decide (o.toNat ≤ 5)
  | .vcvt _ _ _ f t _ _ => f != t
  | .vcv8 _ _ _ _ w p _ _ _ => w != 3 && (w == 0 || p == 0 || p == 2)
  | .vun8 _ _ _ _ w p _ => w != 3 && (w == 0 || p == 0 || p == 2)
  | .vdec4 _ _ _ _ p t => t == 2 || ((t == 3 || t == 4) && decide (p.toNat ≤ 3))
  | .venc4 _ _ _ _ p f => f == 0 || (f != 3 && decide (p.toNat ≤ 3))
  | .mlog _ d _ _ _ => d != 0
  | .mfromx _ d _ => d != 0
  | .kinit _ _ _ _ t => t != 3
  | .kout _ _ d => d != 31
  | .barx _ s _ _ _ => decide (s.toNat ≤ 4)
  | .vlds _ _ _ _ m => decide (m.toNat ≤ 1)
  | .vsts _ _ _ _ m => decide (m.toNat ≤ 1)
  | .mwld _ _ _ _ f => f != 7
  | .mstr _ _ o _ _ _ f => f != 7 && decide (o.toNat ≤ 44)
  | .mrank _ _ o _ f => f != 7 && f != 5 && decide (o.toNat ≤ 44)
  | .mout _ _ o _ _ _ => decide (o.toNat ≤ 45)
  | .sgdef _ _ o => decide (o.toNat ≤ 46)
  | .ldarm _ _ o => decide (o.toNat ≤ 46)
  | .ploopImm _ l => l != 0
  | .ploopReg _ l => l != 0
  | .psetk k _ _ x _ => x == 0 || decide (k.toNat < 2048)
  | .pzer i n => decide (1 ≤ n.toNat) && decide (i.toNat + n.toNat ≤ 16)
  | .prown i n _ => decide (1 ≤ n.toNat) && decide (i.toNat + n.toNat ≤ 16)
  | .psto i n _ => decide (1 ≤ n.toNat) && decide (i.toNat + n.toNat ≤ 16)
  | .pstob i n _ => decide (1 ≤ n.toNat) && decide (i.toNat + n.toNat ≤ 16)
  | .pcvt i n k => decide (1 ≤ n.toNat) && decide (i.toNat + n.toNat ≤ 16) && k != 3
  | .psig _ i => i != 0
  | .pmov k x y => (k == 0 && decide (x.toNat < 8) && decide (y.toNat < 8)) || (k == 1 && decide (x.toNat < 8)) || (k == 2 && decide (y.toNat < 8))
  | _ => true

/-- A loop's end lies beyond its bundle's last word (R85). -/
def Instr.loopEndOk (len : Nat) : Instr → Bool
  | .loop _ _ _ _ n => decide (len < n.toNat)
  | .loopi _ _ _ n => decide (len < n.toNat)
  | _ => true

/-- Whether a source field's accepted range leaves out `#B` (R54, R215, R219, R293, R322). -/
def Instr.narrowOffset : Instr → Bool
  | .mstr .. | .mrank .. | .mout .. | .sgdef .. | .ldarm .. => true
  | _ => false

/-- An operand is `#B` (R43). -/
def Instr.usesB (i : Instr) : Bool := !i.narrowOffset && i.xSources.contains 63

/-- Code 63 stands in an X destination, or `#B` where an offset register is incremented (R36, R43). -/
def Instr.badDest (i : Instr) : Bool := i.xDests.contains 63

/-- The first scalar register code 48 to 62 of an instruction, in field order of destinations then sources (R47). -/
def Instr.reservedReg (i : Instr) : Option Nat :=
  ((i.xResults ++ i.xSources).map BitVec.toNat).find? fun n => decide (48 ≤ n) && decide (n ≤ 62)

/-- An opcode or a control register that user mode may not use (R48, R62). -/
def Instr.privileged : Instr → Bool
  | .eret .. | .pstop .. | .sgsplit .. => true
  | .crd _ c _ => decide (0x80 ≤ c.toNat)
  | .cwr _ c _ => decide (0x80 ≤ c.toNat)
  | _ => false

/-- A C opcode that may stand in a repeated bundle (R42). -/
def Instr.repeatable (i : Instr) : Bool :=
  i.opcode == 0 || (decide (0x40 ≤ i.opcode) && decide (i.opcode ≤ 0x6F))

/-- SEL acts whatever its guard (R38, R77). -/
def Instr.isSel : Instr → Bool
  | .sel .. => true
  | _ => false

/-- The scope and id of a BAR or BARX (R94, R151). -/
def Instr.barrier : Instr → Option (Nat × Nat)
  | .bar _ s i => some (s.toNat, i.toNat)
  | .barx _ s i _ _ => some (s.toNat, i.toNat)
  | _ => none

/-- A W or E instruction whose offset the step index moves (R41). -/
def Instr.steps : Instr → Bool
  | .vlds .. | .vsts .. | .vgts .. | .vscs .. | .ksave .. | .kload .. | .kmrgs .. => true
  | .mwld .. | .mstr .. | .mrank .. | .mout .. | .fcmd .. | .pcmd .. | .pload .. | .tkpost .. | .ldarm .. => true
  | _ => false

end Sys2Proof
end

