-- ==== Sys2Proof/Machine/Queue.lean ====
section
/-!
DEFINITION. Task records (R260, R261), posting to quad queues and overflow rings (R263), and what a command's completion
announces to its issuer (R31, R44, R93, R284).
-/
namespace Sys2Proof.Machine

/-! ### Fields that must hold a layout: the first failing bit (R261, R237, R323; log 10) -/

/-- A must-be-zero range: its lowest set bit. -/
def mustZero (v hi lo : Nat) : List Nat :=
  match (countFrom lo (hi + 1 - lo)).find? fun i => bitOf v i with
  | some i => [i]
  | none => []

/-- A field whose value fails, named by its lowest bit. -/
def badField (bad : Bool) (lo : Nat) : List Nat := if bad then [lo] else []

/-- The lowest failing bit. -/
def firstFail : List Nat → Option Nat
  | [] => none
  | a :: r => match firstFail r with
    | none => some a
    | some b => some (Nat.min a b)

/-! ### The task record (R260) -/

def recLo (v : Nat) : X64 := BitVec.ofNat 64 v
def recHi (v : Nat) : X64 := BitVec.ofNat 64 (bitsOf v 127 64)
def recArg (v : Nat) : X64 := BitVec.ofNat 64 (bitsOf v 191 128)
def recGrain (v : Nat) : Nat := bitsOf v 223 192
def recEntry (v : Nat) : Nat := bitsOf v 240 224
def recPrio (v : Nat) : Nat := bitsOf v 242 241
def recGang (v : Nat) : Bool := bitOf v 243
def recSelf (v : Nat) : Bool := bitOf v 251
def recEntryC (v : Nat) : Nat := bitsOf v 272 256
def recEntryS (v : Nat) : Nat := bitsOf v 289 273
def recKind (v : Nat) : Nat := bitsOf v 292 290
def recCaddr (v : Nat) : Nat := bitsOf v 383 320
def recCval (v : Nat) : X64 := BitVec.ofNat 64 (bitsOf v 447 384)
def recTkid (v : Nat) : Nat := bitsOf v 479 448

/-- The first failing bit of a malformed record (R261). -/
def recordBad (v : Nat) : Option Nat :=
  firstFail (badField (recGrain v == 0) 192 ++ mustZero v 225 224 ++ mustZero v 255 252
    ++ (if recGang v then mustZero v 257 256 ++ mustZero v 274 273 else mustZero v 289 256)
    ++ mustZero v 319 293 ++ mustZero v 511 480
    ++ match recKind v with
      | 0 => mustZero v 383 320 ++ mustZero v 447 384
      | 1 => mustZero v 383 345 ++ badField (bitsOf v 344 337 == 0) 337 ++ mustZero v 447 384
      | 2 => mustZero v 325 320 ++ mustZero v 447 384
      | 3 => mustZero v 322 320
      | _ => [290])

/-- The quad a record names: the given quad when TSELF is set (R260). -/
def recQuad (v self : Nat) : Nat := if recSelf v then self else 16 * bitsOf v 250 248 + bitsOf v 247 244

/-! ### Posting (R263) -/

/-- Room for a record of a partition in a quad. -/
def State.room (s : State) (quad part : Nat) : Bool :=
  let q := s.quad quad
  decide (q.queue.length < 64) || decide ((q.rings.read [] part).length < q.ringCap)

/-- A record enters the queue, or the ring when the queue is full. -/
def State.post (s : State) (quad part : Nat) (bits : BitVec 512) : State :=
  let r : QueueRec := ⟨bits, part, s.cycle.toNat, recPrio bits.toNat, s.cycle.toNat⟩
  s.modQuad quad fun q =>
    if q.queue.length < 64 then { q with queue := q.queue ++ [r] }
    else { q with rings := q.rings.put part (q.rings.read [] part ++ [r]) }

/-- A post that waits for room behind earlier ones (R263). -/
def State.postOrWait (s : State) (quad part : Nat) (bits : BitVec 512) : State :=
  let waiting := (s.quad quad).posts.any fun p => p.part == part && p.tag.isNone
  if !waiting && s.room quad part then s.post quad part bits
  else s.modQuad quad fun q => { q with posts := q.posts ++ [⟨quad, part, bits, none⟩] }

/-! ### Semaphores and completion -/

/-- Y[n] increased modulo 2^16 (R313). -/
def CoreState.addSem (v : CoreState) (n inc : Nat) : CoreState :=
  { v with sems := v.sems.write 0 n (v.sems.read 0 n + BitVec.ofNat 16 inc) }

/-- An increment of a completion event: it follows every operation of the cycle's bundle (R314). -/
def CoreState.addSemLater (v : CoreState) (n inc : Nat) : CoreState := { v with incs := v.incs ++ [(n, inc)] }

/-- The increments of the cycle's completion events are made (R314). -/
def CoreState.settleSems (v : CoreState) : CoreState :=
  { v.incs.foldl (fun v e => v.addSem e.1 e.2) v with incs := [] }

/-- An increment for a partition's core: made when the partition runs there, held while it is in shadow storage
(R268, R321); whether there is such a core. -/
def State.signal (s : State) (core part sem inc : Nat) : State × Bool :=
  let v := s.core core
  if v.cur.part = some part then (s.modCS core fun w => w.addSemLater sem inc, true)
  else match v.shadow with
    | some w =>
      if w.part = some part then
        (s.modPart core part fun w => { w with heldActions := w.heldActions ++ [.signal core (some part) sem inc] }, true)
      else (s, false)
    | none => (s, false)

/-- A ticket ends (R284). -/
def CoreState.endTicket (v : CoreState) (t : Option Nat) : CoreState :=
  { v with tickets := v.tickets.filter fun k => decide (t ≠ some k.num) }

/-- The completion event of a command: the AT = 1 signal, EFENCE's count and the ticket (R31, R44, R93, R284). -/
def State.complete (s : State) (core part : Nat) (tag : CmdTag) : State :=
  let s1 := s.modPart core part fun v =>
    (v.endTicket tag.ticket).setCtx tag.ctx
      { v.ctx tag.ctx with inflight := (v.ctx tag.ctx).inflight.filter fun i => i != tag.id }
  match tag.signal with
  | none => s1
  | some (sem, inc) => (s1.signal core part sem inc).1

/-- Bytes of memory of a partition at a virtual address, by the walk alone (R268, R321). -/
def State.partLocs (s : State) (part va n : Nat) (write : Bool) : Except (Nat × Nat) (List Nat) :=
  match s.partitions.get part with
  | none => .error (protection, va)
  | some p => s.xlateAll none p.asid.toNat p.ptbase.toNat write (countFrom va n)

/-- A notice of kind 6 (R375). -/
def State.actionNotice (s : State) (part core : Nat) (landing : Bool) (cause id tkid addr : Nat) : State :=
  s.notice 6 part core [(8, leBytes 1 landing.toNat), (9, leBytes 1 cause), (10, leBytes 2 id), (12, leBytes 4 tkid),
    (16, leBytes 8 addr)]

end Sys2Proof.Machine
end

