-- ==== Sys2Proof/Machine/Land.lean ====
section
/-!
DEFINITION. Landing counters: counting and firing (R319 to R321), stores that are counted, and the completion actions of
tasks (R268).
-/
namespace Sys2Proof.Machine

/-- A counted write of b bytes: the counter after it and the firings it causes (R320). -/
def Landing.counted (l : Landing) (b : Nat) : Landing × Nat :=
  match l.state with
  | .idle => (l, 0)
  | .fired => ({ l with overshoot := true }, 0)
  | .armed =>
    let c := Nat.min (l.count + b) (2 ^ 48 - 1)
    let t := l.total
    if c < t then ({ l with count := c }, 0)
    else if l.rearm then ({ l with count := c % t, gen := l.gen + BitVec.ofNat 8 (c / t) }, c / t)
    else ({ l with count := c, state := .fired, gen := l.gen + 1, overshoot := l.overshoot || decide (t < c) }, 1)

/-- A location lies in a global range, whose pages are known by their physical addresses (R319, R322). -/
def Landing.holdsLoc (l : Landing) (loc : Nat) : Bool :=
  (pasOfLoc loc).any fun a => l.pages.any fun p => decide (p.2.2 ≤ a) && decide (a < p.2.2 + p.2.1)

/-- Bytes of [off, off + n) in a segment range. -/
def Landing.overlap (l : Landing) (off n : Nat) : Nat :=
  let b := bitsOf l.base 39 8
  Nat.min (off + n) (b + l.len) - Nat.max off b

/-- Counters counted one after another by key: the new table and the firings, with the counters that fired. -/
def countTable (bytes : Nat → Landing → Nat) : Tab Landing → Tab Landing × List (Nat × Nat × Landing)
  | [] => ([], [])
  | (i, l) :: r =>
    let rest := countTable bytes r
    let b := bytes i l
    if b = 0 then ((i, l) :: rest.1, rest.2)
    else
      let c := l.counted b
      ((i, c.1) :: rest.1, if c.2 = 0 then rest.2 else (i, c.2, l) :: rest.2)

/-- The sites' counters after a counted global write, with the firings by landing id. -/
def countSites (locs : List Nat) (skip : Option Nat) : Tab Site → Tab Site × List (Nat × Nat × Landing)
  | [] => ([], [])
  | (n, st) :: r =>
    let rest := countSites locs skip r
    let c := countTable (fun i l => if skip = some (1024 * n + i) then 0 else (locs.filter l.holdsLoc).length) st.landing
    ((n, { st with landing := c.1 }) :: rest.1, c.2.map (fun f => (1024 * n + f.1, f.2.1, f.2.2)) ++ rest.2)

/-- A global write is counted by every counter but the one whose action made it (R319, R321). -/
def State.countGlobal (s : State) (locs : List Nat) (skip : Option Nat) : State :=
  let c := countSites locs skip s.sites
  { s with sites := c.1, actions := c.2.map (fun f => Action.fire f.1 f.2.1 f.2.2) ++ s.actions }

/-- A segment write is counted by the core's counters of that segment (R319). -/
def State.countSeg (s : State) (core seg off n : Nat) (skip : Option Nat) : State :=
  let c := countTable (fun i l => if skip = some (0x8000 + i) ∨ l.seg ≠ seg then 0 else l.overlap off n) (s.cs core).landing
  let s1 := s.modCS core fun v => { v with landing := c.1 }
  { s1 with actions := c.2.map (fun f => Action.fire (0x8000 + f.1) f.2.1 f.2.2) ++ s1.actions }

/-- A counter by its id and core. -/
def State.counter (s : State) (id core : Nat) : Landing :=
  if 0x8000 ≤ id then (s.cs core).landing.read .idle (id - 0x8000)
  else (s.site (id / 1024)).landing.read .idle (id % 1024)

/-- A counter changed. -/
def State.setCounter (s : State) (id core : Nat) (l : Landing) : State :=
  if 0x8000 ≤ id then s.modCS core fun v => { v with landing := v.landing.put (id - 0x8000) l }
  else s.modSite (id / 1024) fun st => { st with landing := st.landing.put (id % 1024) l }

/-- A counter by its id, a core counter in the state its partition has on a core, running or held. -/
def State.counterOf (s : State) (id core part : Nat) : Landing :=
  if 0x8000 ≤ id then ((s.partState core part).map fun v => v.landing.read .idle (id - 0x8000)).getD .idle
  else s.counter id core

/-- Such a counter changed. -/
def State.setCounterOf (s : State) (id core part : Nat) (l : Landing) : State :=
  if 0x8000 ≤ id then s.modPart core part fun v => { v with landing := v.landing.put (id - 0x8000) l }
  else s.setCounter id core l

/-- A counted global write, its firings not yet made. -/
def State.putGlobal (s : State) (locs : List Nat) (bs : List Byte) (skip : Option Nat) : State :=
  (s.writeLocs locs bs).countGlobal locs skip

/-- A counted segment write, its firings not yet made. -/
def State.putSeg (s : State) (core seg off : Nat) (bs : List Byte) (skip : Option Nat) : State :=
  (s.modCS core fun v => v.segWrite seg off bs).countSeg core seg off bs.length skip

/-- A failed action of a counter is reported, and sets AFAIL where it is no WRITE to global memory (R321). -/
def State.landingFailed (s : State) (id : Nat) (l : Landing) (cause addr : Nat) (afail : Bool) : State :=
  (if afail then s.setCounterOf id l.core l.part { s.counterOf id l.core l.part with afail := true } else s).actionNotice
    l.part l.core true cause id 0 addr

/-- A record at a virtual address is read for a core and posted, and announces the packets given (R191); the failure's cause and
address. One that holds an uncorrectable error cannot be read (R268, R321, R360). -/
def State.postAt (s : State) (part core va : Nat) (packets : List (Nat × Nat)) : Except (Nat × Nat × State) State :=
  match s.partLocs part va 64 false with
  | .error e => .error (e.1, e.2, s)
  | .ok ls =>
    let s1 := s.siteLines ls false
    match s.soiled ls with
    | some l => .error (memUncorrectable, va, s1.lineReport core l)
    | none =>
      let bits := BitVec.ofNat 512 (leNat (s.bytesAt ls))
      match recordBad bits.toNat with
      | some _ => .error (enginePacket, va, s1)
      | none => .ok ((s1.postOrWait (recQuad bits.toNat (quadOf core)) part bits).announce (.task bits part) packets)

/-- A WRITE into an absent segment longer than SGQUOTA fails: no ticket could be served for it. DESIGN CHOICE (log 28): R321 and
R285 say nothing of it, and AFAIL is set. -/
def State.landingNoRoom (s : State) (id core : Nat) : State := s.setCounter id core { s.counter id core with afail := true }

/-- The WRITE of a range in a segment (R321): outside its length it sets AFAIL; an absent segment is recalled under a
ticket first. -/
def State.landingSegWrite (s : State) (id core seg : Nat) (off : Int) (v : X64) : State :=
  match (s.cs core).seg seg with
  | none => s
  | some g =>
    if off < 0 ∨ (g.bytes : Int) < off + 8 then
      s.setCounter id core { s.counter id core with afail := true }
    else if g.state = .resident then s.putSeg core seg off.toNat (leBytes 8 v.toNat) (some id)
    else if (s.cs core).quota < g.len then s.landingNoRoom id core
    else
      let n := (s.core core).nextTicket
      s.modCore core fun w =>
        { w with
          nextTicket := n + 1
          cur := { w.cur with
            tickets := w.cur.tickets ++ [⟨n, [seg], [], false, true, [], false, false, false, false, 0⟩]
            heldActions := w.cur.heldActions ++ [.segWrite core id seg off v (some n)] } }

/-- One firing of a counter with the descriptor `l` (R321). A WRITE into a segment of a core that another partition runs on is
held. -/
def State.fireOnce (s : State) (id : Nat) (l : Landing) : State :=
  -- what the counter has counted is announced by its action (R191, R200)
  let told := s.newsAt fun p => decide (p = counterPlace id l.core l.part)
  match l.act with
  | 0 =>
    let core := if 0x8000 ≤ id then l.core else 0
    (s.arriveLanding l.barKey id core).announce
      (.barrier l.barKey ((s.barrier l.barKey).landings.contains (id, core))) told
  | 1 =>
    match s.postAt l.part l.core l.av.toNat told with
    | .ok t => t
    | .error (cause, addr, t) => t.landingFailed id l cause addr true
  | 2 =>
    let target := 64 * bitsOf l.aw 8 6 + bitsOf l.aw 5 0
    let r := s.signal target l.part (bitsOf l.aw 16 9) (bitsOf l.aw 24 17)
    if r.2 then r.1.announce (.sem target l.part (bitsOf l.aw 16 9)) told else s.landingFailed id l protection 0 true
  | _ =>
    let woff := 8 * sextNat 32 l.aw
    if l.sp then
      let off : Int := (bitsOf l.base 39 8 / 8 * 8 : Nat) + woff
      if (s.cs l.core).part = some l.part then s.landingSegWrite id l.core l.seg off l.av
      else s.modPart l.core l.part fun v => { v with heldActions := v.heldActions ++ [.segWrite l.core id l.seg off l.av none] }
    else
      let va := ((((l.base / 8 * 8 : Nat) : Int) + woff) % (2 ^ 64 : Nat)).toNat
      match s.partLocs l.part va 8 true with
      | .ok ls => ((s.spoilAll ls).putGlobal ls (leBytes 8 l.av.toNat) (some id)).announceWords ls told
      | .error (cause, addr) =>
        let s1 := s.landingFailed id l cause addr false
        { s1 with failedWrites := s1.failedWrites ++ [(l.part, va, l.av, some (id, l.core))] }

/-- Whether a counter has a WRITE that waits for its segment: later firings follow it (R321). -/
def CoreState.landingWaits (v : CoreState) (id : Nat) : Bool :=
  v.heldActions.any fun a => match a with
    | .segWrite _ i _ _ _ _ => i == id
    | _ => false

/-- One action. Firings of one counter are made one by one: those that the first brings about come between (R200, R320). -/
def State.doAction (s : State) (a : Action) : State :=
  match a with
  | .signal core part sem inc => (s.signal core (part.getD (s.partOf core)) sem inc).1
  | .fire _ 0 _ => s
  | .fire id (n + 1) l =>
    if 0x8000 ≤ id ∧ (s.partState l.core l.part).any fun v => v.landingWaits id then
      s.modPart l.core l.part fun v => { v with heldActions := v.heldActions ++ [a] }
    else ({ s with actions := if n = 0 then s.actions else .fire id n l :: s.actions } : State).fireOnce id l
  | .segWrite core id seg off v _ => s.landingSegWrite id core seg off v

/-- The actions writes have brought about, in order; what an action causes comes directly after it (R200, R320). -/
def State.runActions : Nat → State → State
  | 0, s => s
  | n + 1, s =>
    match s.actions with
    | [] => s
    | a :: r => State.runActions n (State.doAction { s with actions := r } a)

/-- Chains of firings are followed to their end: 2^52 firings are more than a machine makes (log 17). -/
def actionFuel : Nat := 2 ^ 52

/-- A write that a ferry or pier command makes to the counter it names: counted once with its bytes, with the firings this
causes at the place of the count (R200, R319, R320); whether the counter was not ARMED (NC, R238). -/
def State.countNamed (s : State) (id core part bytes : Nat) : State × Bool :=
  let l := s.counterOf id core part
  let nc := decide (l.state ≠ .armed)
  if bytes = 0 then (s, nc)
  else
    let c := l.counted bytes
    let s1 := s.setCounterOf id core part c.1
    (State.runActions actionFuel (if c.2 = 0 then s1 else { s1 with actions := Action.fire id c.2 l :: s1.actions }), nc)

/-- A counted global store with the firings it causes (R319 to R321). -/
def State.gstore (s : State) (locs : List Nat) (bs : List Byte) : State := (s.putGlobal locs bs none).runActions actionFuel

/-- A counted segment store with the firings it causes. -/
def State.sstore (s : State) (core seg off : Nat) (bs : List Byte) : State :=
  (s.putSeg core seg off bs none).runActions actionFuel

/-! ### Completion actions of tasks (R268) -/

/-- The action of a task whose last part has ended on a core. -/
def State.taskAction (s : State) (core : Nat) (t : Task) : State :=
  let v := t.bits.toNat
  let a := recCaddr v
  match recKind v with
  | 1 =>
    let r := s.signal (64 * bitsOf a 8 6 + bitsOf a 5 0) t.part (bitsOf a 16 9) (bitsOf a 24 17)
    if r.2 then r.1 else s.actionNotice t.part core false protection 0 (recTkid v) 0
  | 2 =>
    match s.postAt t.part core a [] with
    | .ok u => u
    | .error (cause, addr, u) => u.actionNotice t.part core false cause 0 (recTkid v) addr
  | 3 =>
    match s.partLocs t.part a 8 true with
    | .ok ls => (s.spoilAll ls).gstore ls (leBytes 8 (recCval v).toNat)
    | .error (cause, addr) =>
      let s1 := s.actionNotice t.part core false cause 0 (recTkid v) addr
      { s1 with failedWrites := s1.failedWrites ++ [(t.part, a, recCval v, none)] }
  | _ => s

end Sys2Proof.Machine
end

