-- ==== Sys2Proof/Machine/SegManager.lean ====
section
/-!
DEFINITION. The segment manager: placement and eviction (R280 to R283), crossing tickets (R284 to R290), its moves (R279)
and the requests of its queue (R291, R292, R294 to R296).
-/
namespace Sys2Proof.Machine

/-! ### Room -/

/-- Granules of the segment store for a cache part (R15, R282). -/
def storeGranules (cacheKiB : Nat) : Nat := 16384 - 4 * cacheKiB

/-- A segment of the local store that holds granules. -/
def Seg.stored (g : Seg) : Bool := decide (g.role ≠ .instr) && decide (g.state ≠ .absent)

/-- The unpinned total of R280. -/
def CoreState.unpinned (v : CoreState) : Nat :=
  v.segs.foldl (fun n e => if e.2.stored && !e.2.pinned then n + e.2.len else n) 0

/-- A segment is PINNED, or a queued SGPIN will pin it (R280, R295). -/
def CoreState.pinWanted (v : CoreState) (id : Nat) (g : Seg) : Bool :=
  g.pinned || !g.detached && v.smq.any fun r => decide (r.op = .pin id)

/-- The PINNED total, with what queued SGPINs add: with SGQUOTA it never exceeds the store (R280). -/
def CoreState.pinnedTotal (v : CoreState) : Nat :=
  v.segs.foldl (fun n e => if v.pinWanted e.1 e.2 then n + e.2.len else n) 0

/-- Granules [base, base + len) are free but for one segment. -/
def CoreState.freeRun (v : CoreState) (skip base len : Nat) : Bool :=
  v.segs.all fun e => e.1 == skip || !e.2.stored || decide (e.2.base + e.2.len ≤ base) || decide (base + len ≤ e.2.base)

/-- The lowest free run of `len` granules below `top`: it begins at 0 or at a segment's end (R282). -/
def CoreState.lowestRun (v : CoreState) (skip len top : Nat) : Option Nat :=
  (0 :: v.segs.map fun e => e.2.base + e.2.len).foldl (fun best b =>
    if decide (b + len ≤ top) && v.freeRun skip b len then
      match best with
      | none => some b
      | some a => some (Nat.min a b)
    else best) none

/-- The part of a ticket's known set that is served and protected (R285). -/
def Ticket.members (t : Ticket) : List Nat := if t.issued then t.cmd else t.cmd.foldl addTo t.bundle

/-- A ticket's known set, both parts together (R285). -/
def Ticket.known (t : Ticket) : List Nat := t.cmd.foldl addTo t.bundle

/-- The largest known-set sum of any outstanding ticket, with the segment that a blocked SGDEF will define (R285, R289, R291). -/
def CoreState.largestSet (v : CoreState) : Nat := v.tickets.foldl (fun n t => Nat.max n (v.setSum t.known + t.extra)) 0

/-- SGQUOTA clamped (R289). -/
def CoreState.clampQuota (v : CoreState) (store q : Nat) : Nat :=
  Nat.min (Nat.max q v.largestSet) (store - v.pinnedTotal)

/-- The store and SGQUOTA as they will stand when the SGSPLITs in the queue are done (R280, R291, R295). -/
def CoreState.splitAhead (v : CoreState) (store : Nat) : Nat × Nat :=
  v.smq.foldl (fun a r => match r.op with
    | .split kib => (storeGranules kib, v.clampQuota (storeGranules kib) a.2)
    | _ => a) (store, v.quota)

/-! ### Tickets (R284 to R286) -/

/-- A ticket changed. -/
def CoreState.modTicket (v : CoreState) (n : Nat) (f : Ticket → Ticket) : CoreState :=
  { v with tickets := v.tickets.map fun t => if t.num = n then f t else t }

/-- A command's ticket: drawn at its issue unless its bundle drew it while blocked, and the command's part from then on
(R284, R285). No ticket where no segment is named. -/
def State.drawTicket (s : State) : State × Option Nat :=
  if !s.issue.named then (s, none)
  else
    let n := s.issue.ticket
    let t : Ticket := ⟨n, s.issue.bundleSet, s.issue.cmdSet, true, false, [], false, false, false, false, 0⟩
    let s1 := s.modCore s.icore fun c =>
      { c with
        nextTicket := Nat.max c.nextTicket (n + 1)
        cur := { c.cur with tickets := (c.cur.tickets.filter fun k => k.num != n) ++ [t] } }
    (s1.modIssue fun i => { i with drawn := true }, some n)

/-- The segments of a ticket that are not resident. -/
def CoreState.missing (v : CoreState) (ids : List Nat) : List Nat :=
  ids.filter fun id => match v.seg id with
    | some g => decide (g.state ≠ .resident)
    | none => false

/-- A segment is resident. -/
def CoreState.isResident (v : CoreState) (id : Nat) : Bool :=
  match v.seg id with
  | some g => decide (g.state = .resident)
  | none => false

/-- The command of a ticket runs: it pins each RESIDENT member (R286). -/
def CoreState.hold (v : CoreState) (t : Ticket) : Ticket :=
  { t with parked := false, asked := false, on := true, paused := false, pins := t.members.filter v.isResident }

/-- The command of a ticket holds no pin. -/
def Ticket.release (t : Ticket) (parked : Bool) : Ticket := { t with parked := parked, on := false, pins := [] }

/-- A command starts and pins each RESIDENT member (R286). -/
def CoreState.pinNow (v : CoreState) (ticket : Option Nat) : CoreState :=
  match ticket with
  | none => v
  | some n => v.modTicket n v.hold

/-- A command that touches all its members starts or resumes: it pins them when all are resident, else it parks and holds
none (R286). -/
def CoreState.pinOrPark (v : CoreState) (ticket : Option Nat) : CoreState × Bool :=
  match ticket with
  | none => (v, true)
  | some n =>
    match v.tickets.find? fun t => t.num == n with
    | none => (v, true)
    | some t =>
      if v.missing t.members = [] then (v.modTicket n v.hold, true) else (v.modTicket n fun t => t.release true, false)

/-- A command parks (R286). -/
def CoreState.park (v : CoreState) (ticket : Option Nat) : CoreState :=
  match ticket with
  | none => v
  | some n => v.modTicket n fun t => t.release true

/-- Whether a command's ticket has been resumed. -/
def CoreState.unparked (v : CoreState) (ticket : Option Nat) : Bool :=
  match ticket with
  | none => true
  | some n => v.tickets.all fun t => t.num != n || !t.parked

/-- A command of a ticket runs in a part of the matrix or on the channel, where it stops at a row or a granule. -/
def CoreState.stopsAtBoundary (v : CoreState) (n : Nat) : Bool :=
  let runs : Option MRun → Bool := fun r => r.any fun m => m.cmd.tag.ticket == some n && !m.parked
  runs v.load || runs v.array || runs v.drain || v.ferry.any fun f => f.pkt.tag.ticket == some n && decide (f.state = .running)

/-- The running command of a ticket is asked to stop at its next boundary; whether it had not been asked (R287). One that has
no boundary ahead, a pier command or a packet whose last write is issued, drops its pins at once and goes on: it parks where
it next touches a segment that is not resident. -/
def CoreState.askYield (v : CoreState) (n : Nat) : CoreState × Bool :=
  let hit : CmdTag → Bool := fun t => t.ticket == some n
  let new : Option MRun → Bool := fun r => r.any fun m => hit m.cmd.tag && !m.parked && !m.yield
  let set : Option MRun → Option MRun := fun r => r.map fun m => if hit m.cmd.tag then { m with yield := true } else m
  let stops := v.stopsAtBoundary n
  let fresh := new v.load || new v.array || new v.drain
    || v.ferry.any (fun f => hit f.pkt.tag && decide (f.state = .running) && !f.yield)
    || v.tickets.any fun t => t.num == n && (if t.far then !t.asked else !stops)
  ({ v with
    tickets := v.tickets.map fun t =>
      if t.num ≠ n then t else if t.far then { t with asked := true } else if stops then t else t.release t.parked
    load := set v.load
    array := set v.array
    drain := set v.drain
    ferry := v.ferry.map fun f => if hit f.pkt.tag then { f with yield := true } else f }, fresh)

/-- The running command of a ticket is stopped for a move of one of its segments (R282). -/
def CoreState.askPause (v : CoreState) (n : Nat) : CoreState :=
  (v.askYield n).1.modTicket n fun t => { t with paused := true }

/-! ### Victims (R283) and yields (R287) -/

/-- A running command holds a pin on a segment. -/
def CoreState.pinnedBy (v : CoreState) (id : Nat) : Bool := v.tickets.any fun t => t.pins.contains id

/-- The better of two candidates: clean before dirty, then the lower name. -/
def betterVictim (a b : Nat × Seg) : Bool :=
  if a.2.dirty = b.2.dirty then decide (a.2.name < b.2.name) else !a.2.dirty

/-- The first candidate outside a known set. A segment without granules takes no part: its push-out makes no room (R309). -/
def CoreState.victim (v : CoreState) (known : List Nat) : Option Nat :=
  let cs := v.segs.filter fun e =>
    decide (e.2.state = .resident) && !e.2.pinned && decide (e.2.role ≠ .instr) && decide (e.2.len ≠ 0) && !v.pinnedBy e.1
      && !known.contains e.1
  (cs.foldl (fun best e => match best with
    | none => some e
    | some b => if betterVictim e b then some e else some b) (none : Option (Nat × Seg))).map (·.1)

/-- The youngest ticket with a pin outside a set, younger than a bound. -/
def CoreState.youngestHolder (v : CoreState) (known : List Nat) (older : Option Nat) : Option Nat :=
  let cs := v.tickets.filter fun t =>
    (match older with
      | none => true
      | some n => decide (n < t.num)) && t.pins.any fun p => !known.contains p
  cs.foldl (fun best t => match best with
    | none => some t.num
    | some b => some (Nat.max b t.num)) none

/-- A push-out begins (R279); the write-back of a PINNED segment leaves it RESIDENT (R296). -/
def CoreState.beginPush (v : CoreState) (id : Nat) : CoreState :=
  { v.modSeg id (fun g => if g.pinned then g else { g with state := .moving }) with move := some (.push id false) }

/-- Room is made: a candidate is pushed out, or the youngest holder is asked to yield, which YIELDS counts (R287, R290). -/
def CoreState.makeRoom (v : CoreState) (known : List Nat) (older : Option Nat) : CoreState :=
  match v.victim known with
  | some id => v.beginPush id
  | none =>
    match v.youngestHolder known older with
    | none => v
    | some n =>
      let r := v.askYield n
      if r.2 then { r.1 with mon := { r.1.mon with yields := r.1.mon.yields + 1 } } else r.1

/-- A compaction move that was decided on: every command that pins the segment is stopped first, uncounted, and the move
begins when none does (R282, R291). -/
def CoreState.startMove (v : CoreState) (id : Nat) : CoreState :=
  if !v.isResident id then v
  else if v.pinnedBy id then
    (v.tickets.filter fun t => t.pins.contains id).foldl (fun v t => v.askPause t.num) v
  else v.modSeg id fun g => { g with state := .moving }

/-- A segment is to be moved to a lower place. -/
def CoreState.beginMove (v : CoreState) (id base : Nat) : CoreState := { v with move := some (.compact id base) }.startMove id

/-- The first segment, by ascending base, that can move down (R282). -/
def CoreState.compactNext (v : CoreState) (top : Nat) (pinnedToo : Bool) (wanted : Nat × Seg → Bool) : Option (Nat × Nat) :=
  let cs := v.segs.filter fun e => e.2.stored && decide (e.2.state = .resident) && (pinnedToo || !e.2.pinned) && wanted e
  let best := cs.foldl (fun b e =>
    match v.lowestRun e.1 e.2.len top with
    | none => b
    | some n =>
      if n < e.2.base then
        match b with
        | none => some (e.1, e.2.base, n)
        | some (i, base, m) => if e.2.base < base then some (e.1, e.2.base, n) else some (i, base, m)
      else b) (none : Option (Nat × Nat × Nat))
  best.map fun b => (b.1, b.2.2)

/-- A compaction begins, or goes on, until no segment it moves can move down (R282). -/
def CoreState.compact (v : CoreState) (store : Nat) (pinnedToo : Bool) : Option CoreState :=
  (v.compactNext store pinnedToo fun _ => true).map fun m => { v with compacting := some pinnedToo }.beginMove m.1 m.2

/-- Where no run is free for a segment: the store is compacted; where PINNED segments still part the free granules, room is
made by R283 and R287, and at last the PINNED segments are moved too (R282, R288, log 28). -/
def CoreState.makeRun (v : CoreState) (store : Nat) (known : List Nat) (older : Option Nat) : CoreState :=
  match v.compact store false with
  | some w => w
  | none =>
    if (v.victim known).isSome || (v.youngestHolder known older).isSome then v.makeRoom known older
    else (v.compact store true).getD v

/-- A recall begins in the lowest run (R282). -/
def CoreState.beginRecall (v : CoreState) (store id len : Nat) (known : List Nat) (older : Option Nat) : CoreState :=
  match v.lowestRun id len store with
  | some b => { v.modSeg id (fun g => { g with state := .moving, base := b }) with move := some (.recall id false) }
  | none => v.makeRun store known older

/-- The absent member of least name. -/
def CoreState.firstMissing (v : CoreState) (ids : List Nat) : Option (Nat × Seg) :=
  ids.foldl (fun best id => match v.seg id with
    | none => best
    | some g =>
      if g.state ≠ .absent then best
      else match best with
        | none => some (id, g)
        | some b => if g.name < b.2.name then some (id, g) else some b) none

/-- Oldest parked ticket. -/
def CoreState.oldestParked (v : CoreState) : Option Ticket :=
  v.tickets.foldl (fun best t =>
    if !t.parked then best
    else match best with
      | none => some t
      | some b => if t.num < b.num then some t else some b) none

/-- The segment of a move. -/
def SmMove.seg : SmMove → Nat
  | .recall id _ | .push id _ | .compact id _ => id

/-- A move begun for the SGSPLIT at the head of the queue is noted with it (R271, R291). -/
def CoreState.noteMove (v : CoreState) : CoreState :=
  match v.smq, v.move with
  | r :: q, some m =>
    match r.op with
    | .split _ => { v with smq := { r with moved := addTo r.moved m.seg } :: q }
    | _ => v
  | _, _ => v

/-- The commands that an SGPUSH or SGDROP waits for, by ticket, have completed (R294, R296). -/
def CoreState.beforeDone (v : CoreState) (r : SmReq) : Bool := v.tickets.all fun t => !r.before.contains t.num

/-- What the request at the head of the queue asks of the manager: an SGPUSH writes back, an SGSPLIT moves what lies
above the new store (R291, R296). -/
def CoreState.serveHead (v : CoreState) : CoreState :=
  match v.smq with
  | [] => v
  | r :: _ =>
    match r.op with
    | .push id =>
      match v.seg id with
      | some g =>
        if v.beforeDone r && decide (g.state = .resident) && (!g.pinned || g.dirty) then v.beginPush id else v
      | none => v
    | .split kib =>
      let top := storeGranules kib
      let above : Nat × Seg → Bool := fun e => decide (top < e.2.base + e.2.len)
      match v.compactNext top true above with
      | some (m, b) => (v.beginMove m b).noteMove
      | none =>
        if v.segs.any fun e => e.2.stored && decide (e.2.state = .resident) && above e then
          ((v.compact top true).getD (v.makeRoom [] none)).noteMove
        else v
    | _ => v

/-- A SGPIN or SGPULL at the head whose segment is absent waits parked for its recall (R295, R296). -/
def CoreState.parkHead (v : CoreState) : CoreState :=
  match v.smq with
  | ⟨tag, .pin id, _, _⟩ :: _ | ⟨tag, .pull id, _, _⟩ :: _ => if v.missing [id] = [] then v else v.park tag.ticket
  | _ => v

/-- A ticket whose members are all RESIDENT goes on: its command pins them again (R287). -/
def CoreState.resumeTicket (v : CoreState) (n : Nat) : CoreState :=
  v.modTicket n fun t => if t.issued then v.hold t else { t with parked := false, asked := false }

/-- A command stopped for a move whose members are RESIDENT again (R282). -/
def CoreState.pausedReady (v : CoreState) : Option Ticket :=
  v.tickets.find? fun t => t.paused && t.parked && decide (v.missing t.members = [])

/-- The oldest parked ticket is served, else the head of the queue (R287). -/
def CoreState.serveOldest (v : CoreState) (store : Nat) : CoreState :=
  match v.oldestParked with
  | none => v.serveHead
  | some t =>
    match v.firstMissing t.members with
    | none => v.resumeTicket t.num
    | some (id, g) =>
      if v.quota < v.unpinned + g.len then v.makeRoom t.members (some t.num)
      else v.beginRecall store id g.len t.members (some t.num)

/-- One act of the segment manager (R282, R287, R290): a move goes on; a command stopped for a move resumes; a compaction
goes on; the excess over SGQUOTA is pushed out, of no segment of the oldest parked ticket (R30); then the oldest parked
ticket, then the head of the queue. -/
def CoreState.serve (v : CoreState) (store : Nat) : CoreState :=
  match v.move with
  | some (.compact id _) => v.startMove id
  | some _ => v
  | none =>
    let v := v.parkHead
    match v.pausedReady with
    | some t => v.resumeTicket t.num
    | none =>
      match v.compacting.bind (v.compact store) with
      | some w => if w.oldestParked.isNone then w.noteMove else w
      | none =>
        let v : CoreState := { v with compacting := none }
        if v.quota < v.unpinned then v.makeRoom ((v.oldestParked.map Ticket.members).getD []) none
        else v.serveOldest store

/-- Lines an engine access reaches, in the die's cache (R164): one access for consecutive bytes of a line, and no other
cache keeps a line written. -/
def State.engineTouch (s : State) (core : Nat) (write : Bool) (last : Option Nat) : List Nat → State
  | [] => s
  | l :: r =>
    let t := if last = some (l / 64) then s else s.dieTouch (dieOf core) l write
    let t := if write && last != some (l / 64) then t.spoil none (some (dieOf core)) (l / 64) else t
    State.engineTouch t core write (some (l / 64)) r

/-- The physical granule of a notice, for MEM_UNCORRECTABLE at an address (R360, R375). -/
def State.granuleOf (s : State) (core cause va : Nat) : Nat :=
  if cause = memUncorrectable then bitsOf (s.physAt core va) 51 20 else 0

/-- A fault on a backing address: the supervisor is told, and the move waits for it (R223, R293): the request served stands
at queue position 0 (R351, log 62). -/
def State.smFault (s : State) (core : Nat) (cause addr phys : Nat) (m : SmMove) : State :=
  (s.modCS core fun v => { v with move := some m }).notice 5 (s.partOf core) core
    [(8, leBytes 1 2), (9, leBytes 1 cause), (16, leBytes 8 addr), (24, leBytes 8 phys)]

/-- A move that met a fault waits for the supervisor; its own end then is the supervisor's resume (log 57). -/
def SmMove.waits : SmMove → Bool
  | .recall _ told | .push _ told => told
  | .compact .. => false

/-- The supervisor resumes what waits for a segment: a move of it that met a fault is tried again (R223, log 57). -/
def CoreState.retryMove (v : CoreState) (seg : Option Nat) : CoreState :=
  { v with move := v.move.map fun m => match m with
      | .recall id told => .recall id (told && seg != some id)
      | .push id told => .push id (told && seg != some id)
      | .compact .. => m }

/-! ### The events -/

/-- TICKET_SERVICE (R287). -/
def execTicketService (c : BitVec 9) (s : State) : Host.Outcome State Fault Refusal :=
  .next (s.modCS c.toNat fun v => v.serve (storeGranules (s.core c.toNat).cacheKiB))

/-- RECALL_END (R279): zeros under ZF, else the backing copy. Of a recall that met a fault it is the supervisor's resume
(log 57). -/
def execRecallEnd (c : BitVec 9) (s : State) : Host.Outcome State Fault Refusal :=
  let core := c.toNat
  match (s.cs core).move with
  | some (.recall id _) =>
    match (s.cs core).seg id with
    | none => .next (s.modCS core fun v => { v with move := none })
    | some g =>
      let land := fun (t : State) (data : Tab Byte) => t.modCS core fun v =>
        { (v.modSeg id (fun g => { g with state := .resident, dirty := g.zf, zf := false, data := data })).mendAll id with
          move := none
          -- a running command pins a member that becomes RESIDENT (R286)
          tickets := v.tickets.map fun t => if t.on && t.members.contains id then { t with pins := addTo t.pins id } else t
          mon := { v.mon with recalls := v.mon.recalls + 1 } }
      if g.zf then .next (land s [])
      else
        match s.locs core g.backing g.bytes false with
        | .error (cause, addr) => .next (s.smFault core cause addr (s.granuleOf core cause addr) (.recall id true))
        | .ok ls =>
          match s.soiled ls with
          | some l =>
            let va := g.backing + (ls.findIdx fun m => m == l)
            .next ((s.lineReport core l).smFault core memUncorrectable va (s.granuleOf core memUncorrectable va) (.recall id true))
          | none => .next (land (s.engineTouch core false none ls) (Tab.writeBytes [] 0 (s.bytesAt ls)))
  | _ => .next s

/-- PUSH_OUT_END (R279, R296): a dirty segment is written to its backing copy; one that is not MOVING was PINNED when its
write-back began, and stays. -/
def execPushOutEnd (c : BitVec 9) (s : State) : Host.Outcome State Fault Refusal :=
  let core := c.toNat
  match (s.cs core).move with
  | some (.push id _) =>
    match (s.cs core).seg id with
    | none => .next (s.modCS core fun v => { v with move := none })
    | some g =>
      let done := fun (t : State) => t.modCS core fun v =>
        if g.state = .moving then
          { (v.modSeg id (fun g => { g with state := .absent, dirty := false, data := [] })).mendAll id with
            move := none
            mon := { v.mon with pushouts := v.mon.pushouts + 1 } }
        else { v.modSeg id (fun g => { g with dirty := false }) with move := none }
      if !g.dirty then .next (done s)
      else
        match s.locs core g.backing g.bytes true with
        | .error (cause, addr) => .next (s.smFault core cause addr (s.granuleOf core cause addr) (.push id true))
        | .ok ls =>
          if (s.cs core).flawedAt id 0 g.bytes then .next (s.smFault core memUncorrectable g.backing 0 (.push id true))
          else .next (done ((s.writeLocs ls ((s.cs core).segRead id 0 g.bytes)).engineTouch core true none ls))
  | _ => .next s

/-- COMPACTION_MOVE_END (R282): nothing moves while a command that pins the segment has not stopped; the move of a segment
that has left the store since (R16) has no object. -/
def execCompactionMoveEnd (c : BitVec 9) (s : State) : Host.Outcome State Fault Refusal :=
  match (s.cs c.toNat).move with
  | some (.compact id base) =>
    .next (match (s.cs c.toNat).seg id with
      | some g =>
        if g.state = .resident then s
        else s.modCS c.toNat fun v =>
          { v.modSeg id (fun g => if g.state = .moving then { g with state := .resident, base := base } else g) with move := none }
      | none => s.modCS c.toNat fun v => { v with move := none })
  | _ => .next s

/-- The request at the head of a core's queue is done: it leaves the queue and completes (R292). -/
def State.smDone (s : State) (core : Nat) (r : SmReq) : State :=
  (s.modCS core fun v => { v with smq := v.smq.drop 1 }).complete core (s.partOf core) r.tag

/-- The head request, when a test on it holds. -/
def smHead (c : BitVec 9) (s : State) (f : SmReq → CoreState → Option (CoreState → CoreState)) :
    Host.Outcome State Fault Refusal :=
  let core := c.toNat
  match (s.cs core).smq with
  | [] => .next s
  | r :: _ =>
    match f r (s.cs core) with
    | none => .next s
    | some g => .next ((s.modCS core g).smDone core r)

/-- SGDROP_COMPLETE (R294): the storage is freed, and a counter ranged in it is disarmed. -/
def execSgdropComplete (c : BitVec 9) (s : State) : Host.Outcome State Fault Refusal :=
  smHead c s fun r v =>
    match r.op with
    | .drop id =>
      if v.beforeDone r && !v.move.any fun m => m.seg == id then
        some fun w =>
          { w with
            segs := w.segs.del id
            landing := w.landing.map fun e =>
              if e.2.seg = id ∧ e.2.sp ∧ e.2.state = .armed then (e.1, { e.2 with state := .idle }) else e }
      else none
    | _ => none

/-- SGPIN_COMPLETE (R295): a segment dropped since counts as unpinned (R294). -/
def execSgpinComplete (c : BitVec 9) (s : State) : Host.Outcome State Fault Refusal :=
  smHead c s fun r v =>
    match r.op with
    | .pin id => if v.isResident id then some fun w => w.modSeg id fun g => { g with pinned := !g.detached } else none
    | _ => none

/-- SGPUSH_COMPLETE (R296). -/
def execSgpushComplete (c : BitVec 9) (s : State) : Host.Outcome State Fault Refusal :=
  smHead c s fun r v =>
    match r.op with
    | .push id =>
      match v.seg id with
      | some g =>
        if v.beforeDone r && (decide (g.state = .absent) || decide (g.state = .resident) && g.pinned && !g.dirty) then
          some fun w => w
        else none
      | none => some fun w => w
    | _ => none

/-- SGPULL_COMPLETE (R296). -/
def execSgpullComplete (c : BitVec 9) (s : State) : Host.Outcome State Fault Refusal :=
  smHead c s fun r v =>
    match r.op with
    | .pull id => if v.isResident id then some fun w => w else none
    | _ => none

/-- The pipes of segments lose their elements; tokens stay (R271). -/
def CoreState.emptyPipes (v : CoreState) (ids : List Nat) : CoreState :=
  { v with pipes := v.pipes.map fun p =>
      if p.seg.any ids.contains then { p with elems := p.elems.filter Option.isNone } else p }

/-- The largest known-set sum of the outstanding tickets that are not those of requests in the queue. -/
def CoreState.largestApart (v : CoreState) : Nat :=
  ({ v with tickets := v.tickets.filter fun t => v.smq.all fun r => r.tag.ticket != some t.num } : CoreState).largestSet

/-- SGSPLIT_COMPLETE (R291): the new split is in force once no segment lies above it and the tickets drawn since its issue fit
(R288, log 28); the cache drops what it cannot hold, SGQUOTA is clamped, and the pipes of the segments that it has moved or
pushed out are emptied (R271, log 28). -/
def execSgsplitComplete (c : BitVec 9) (s : State) : Host.Outcome State Fault Refusal :=
  let core := c.toNat
  match (s.cs core).smq with
  | ⟨tag, .split kib, b, moved⟩ :: _ =>
    let v := s.cs core
    let top := storeGranules kib
    if v.move = none ∧ v.pinnedTotal + v.largestApart ≤ top
        ∧ v.segs.all fun e => !e.2.stored || decide (e.2.base + e.2.len ≤ top) then
      let s1 := s.modCore core fun w =>
        { w with
          cacheKiB := kib
          l1 := w.l1.take (kib * 16)
          cur := { w.cur.emptyPipes moved with quota := w.cur.clampQuota top w.cur.quota } }
      .next (s1.smDone core ⟨tag, .split kib, b, moved⟩)
    else .next s
  | _ => .next s

end Sys2Proof.Machine
end

