-- ==== Sys2Proof/Machine/SegInst.lean ====
section
/-!
DEFINITION. E-slot commands in general (R31, R37, R44) and the segment instructions (R292 to R299).
-/
namespace Sys2Proof.Machine

/-! ### Commands of the E slot -/

/-- A command enters a queue at its issue: it takes the bundle's ticket and the pair's AT = 1 signal, and EFENCE counts
it (R31, R44, R93, R284). -/
def State.command (s : State) : State × CmdTag :=
  let d := s.drawTicket
  let tag : CmdTag := ⟨s.nextId, s.ictx, d.2, s.issue.signal⟩
  let s1 := d.1.modCx fun c => { c with inflight := c.inflight ++ [s.nextId] }
  ({ s1 with nextId := s.nextId + 1, issue := { s1.issue with issuedCmd := true } }, tag)

/-- A command that completes at its bundle's issue: its ticket, where it draws one, is drawn and ends, and the AT = 1
signal is made (R292). -/
def State.completeNow (s : State) (ticket : Bool) : State :=
  let s1 := if ticket then
      s.modCore s.icore fun c =>
        { c with nextTicket := Nat.max c.nextTicket (s.issue.ticket + 1), cur := c.cur.endTicket (some s.issue.ticket) }
    else s
  let s2 := s1.modIssue fun i => { i with issuedCmd := true, drawn := i.drawn || ticket }
  match s.issue.signal with
  | none => s2
  | some (sem, inc) => s2.modCcs fun v => v.addSemLater sem inc

/-- A read of a register pair X[o], X[o+1]. -/
def State.readPair (s : State) (o : BitVec 6) : Except Halt (X64 × X64) := do
  let x ← s.readX o
  let y ← s.readX (o + 1)
  .ok (x, y)

/-! ### Segment instructions -/

def illegalDefinition : Nat := 7
def fixedSegment : Nat := 8
def pinnedDetail : Nat := 9

/-- The segment a segment instruction acts on: reserved and undefined names raise SEG_UNDEFINED (R299). -/
def State.segActed (s : State) (y : BitVec 8) : Except Halt (Nat × Seg) :=
  match s.ccs.segNamed y.toNat with
  | some e => if segReserved y.toNat then .error (s.trapHere segUndefined 0 y.toNat) else .ok e
  | none => .error (s.trapHere segUndefined 0 y.toNat)

/-- The names an instruction refuses as fixed (R299). -/
def State.notFixed (s : State) (y : BitVec 8) (names : List Nat) : Except Halt Unit :=
  if names.contains y.toNat then .error (s.trapHere illegalOp fixedSegment 0) else .ok ()

/-- The segment-manager queue has an entry free (R28, R292). -/
def State.smRoom (s : State) : Except Halt Unit :=
  if 16 ≤ s.ccs.smq.length then .error (.blocked .queueFull) else .ok ()

/-- A request enters the queue. -/
def State.smEnter (s : State) (op : SmOp) (before : List Nat) : State :=
  let c := s.command
  c.1.modCcs fun v => { v with smq := v.smq ++ [⟨c.2, op, before, []⟩] }

/-- The issued commands that hold a segment, by ticket. -/
def CoreState.holders (v : CoreState) (id : Nat) : List Nat :=
  (v.tickets.filter fun t => t.issued && t.cmd.contains id).map (·.num)

/-- A definition word's fields are accepted (R293). -/
def defOk (v : CoreState) (w backing : Nat) : Bool :=
  let len := bitsOf w 16 0
  let role := bitsOf w 19 17
  let pipe := bitsOf w 22 20
  decide (1 ≤ len) && decide (len ≤ 65536) && decide (role ≤ 2) && bitsOf w 63 24 == 0
    && (role == 1 || pipe == 0)
    && (role != 1 || ((v.pipes[pipe]?).getD .unbound).seg.isNone)
    && backing != 0 && backing % 256 == 0 && bitsOf backing 63 55 == 0

/-- A role code (R278). -/
def roleOf (n : Nat) : Role :=
  match n with
  | 0 => .data
  | 1 => .pipe
  | 2 => .landing
  | 3 => .stack
  | _ => .instr

def Role.code : Role → Nat
  | .data => 0 | .pipe => 1 | .landing => 2 | .stack => 3 | .instr => 4

/-- SGDEF (R293): the new segment is its known set, with those of the bundle's other slots; its LEN joins their sum, whether or
not the bundle issues now (R285, R292). -/
def execSgdef (g : BitVec 4) (y : BitVec 8) (o : BitVec 6) (s : State) : Host.Outcome State Fault Refusal :=
  segOp g s do
    let xy ← s.readPair o
    let w := xy.1.toNat
    if segReserved y.toNat then .error (s.trapHere segUndefined 0 y.toNat)
    else if (s.ccs.segNamed y.toNat).isSome || !defOk s.ccs w xy.2.toNat then
      .error (s.trapHere illegalOp illegalDefinition 0)
    else
      let id := s.ccs.nextSeg
      let role := roleOf (bitsOf w 19 17)
      let seg : Seg := ⟨y.toNat, bitsOf w 16 0, .absent, false, role, false, bitOf w 23, bitsOf w 22 20, 0, xy.2.toNat, [], false⟩
      .ok (((s.modIssue fun i => { i with defined := seg.len }).modCcs fun v =>
        { v with
          segs := v.segs.put id seg
          nextSeg := id + 1
          pipes := if role = .pipe then v.pipes.setIfInBounds seg.pipe ⟨some id, seg.len, [], none, 0⟩ else v.pipes
        }).completeNow true)

/-- SGDROP (R294): the name is free at once, a bound pipe is unbound, and the storage counts as unpinned. -/
def execSgdrop (g : BitVec 4) (y : BitVec 8) (s : State) : Host.Outcome State Fault Refusal :=
  segOp g s do
    let _ ← s.smRoom
    let e ← s.segActed y
    let _ ← s.notFixed y [0xF8, 0xF9, 0xFE, 0xFF]
    let before := s.ccs.holders e.1
    let t := (s.useSegLater e.1).smEnter (.drop e.1) before
    .ok (t.modCcs fun v =>
      let extra := v.pipes.toList.foldl (fun n p => if p.seg = some e.1 then n + p.extra else n) 0
      { v.modSeg e.1 (fun g => { g with detached := true, pinned := false }) with
        pipes := v.pipes.map fun p => if p.seg = some e.1 then .unbound else p
        poolFree := v.poolFree + extra })

/-- SGPIN (R295): the check is made against the store and the quota that stand when the request is executed, behind the SGSPLITs
in the queue, with its own ticket outstanding (R280, R289). -/
def execSgpin (g : BitVec 4) (y : BitVec 8) (s : State) : Host.Outcome State Fault Refusal :=
  segOp g s do
    let _ ← s.smRoom
    let e ← s.segActed y
    let _ ← s.notFixed y [0xF8, 0xFE, 0xFF]
    let ahead := s.ccs.splitAhead (storeGranules (s.core s.icore).cacheKiB)
    if !s.ccs.pinWanted e.1 e.2 && decide (ahead.1 < s.ccs.pinnedTotal + e.2.len + Nat.max ahead.2 e.2.len) then
      .error (s.trapHere segSetOverflow 0 e.2.len)
    else .ok ((s.useSegLater e.1).smEnter (.pin e.1) [])

/-- SGUNPIN acts and completes at issue (R295). -/
def execSgunpin (g : BitVec 4) (y : BitVec 8) (s : State) : Host.Outcome State Fault Refusal :=
  segOp g s do
    let e ← s.segActed y
    let _ ← s.notFixed y [0xF8, 0xFE, 0xFF]
    .ok (((s.useSegLater e.1).modCcs fun v => v.modSeg e.1 fun g => { g with pinned := false }).completeNow true)

/-- SGPUSH (R296). -/
def execSgpush (g : BitVec 4) (y : BitVec 8) (s : State) : Host.Outcome State Fault Refusal :=
  segOp g s do
    let _ ← s.smRoom
    let e ← s.segActed y
    let _ ← s.notFixed y [0xF8, 0xFE, 0xFF]
    if e.2.pinned then .error (s.trapHere illegalOp pinnedDetail 0)
    else .ok ((s.useSegLater e.1).smEnter (.push e.1) (s.ccs.holders e.1))

/-- SGPULL (R296). -/
def execSgpull (g : BitVec 4) (y : BitVec 8) (s : State) : Host.Outcome State Fault Refusal :=
  segOp g s do
    let _ ← s.smRoom
    let e ← s.segActed y
    let _ ← s.notFixed y [0xF8, 0xFE, 0xFF]
    .ok ((s.useSegLater e.1).smEnter (.pull e.1) [])

/-- Bits [63:0] of a descriptor (R278); BASE is a free value unless the segment is RESIDENT (log 15). -/
def Seg.descriptor (g : Seg) (fresh : Nat) : Nat :=
  let base := if g.state = .resident then g.base else (Config.freeValue fresh).toNat
  let state := match g.state with
    | .absent => 1
    | .resident => 2
    | .moving => 3
  g.len % 2 ^ 17 + 2 ^ 17 * state + 2 ^ 19 * g.pinned.toNat + 2 ^ 20 * g.role.code + 2 ^ 23 * g.dirty.toNat
    + 2 ^ 24 * g.zf.toNat + 2 ^ 25 * g.pipe + 2 ^ 28 * (base % 2 ^ 14)

/-- SGSTAT never faults on a name (R297). -/
def execSgstat (g : BitVec 4) (y : BitVec 8) (d : BitVec 6) (s : State) : Host.Outcome State Fault Refusal :=
  slotOp g s
    (let w := match s.ccs.segNamed y.toNat with
      | some e => if segReserved y.toNat then 0 else e.2.descriptor s.fresh
      | none => 0
    let s1 := s.loadResult .sgstat (s.xDest d (BitVec.ofNat 64 w)) 0 0
    .ok ({ s1 with fresh := s1.fresh + 1 }.completeNow false))

/-- SGSPLIT is privileged (R298, R291). -/
def execSgsplit (g : BitVec 4) (a : BitVec 6) (s : State) : Host.Outcome State Fault Refusal :=
  segOp g s do
    let _ ← s.smRoom
    let x ← s.readX a
    if !s.issue.mode.priv then .error (s.trapHere 4 0 0x27)
    else if 4 ≤ x.toNat then .error (s.trapHere illegalOp 0 0)
    else
      let kib := [0, 256, 512, 1024].getD x.toNat 0
      if storeGranules kib < s.ccs.pinnedTotal + s.ccs.largestSet then .error (s.trapHere segSetOverflow 0 s.ccs.largestSet)
      else .ok (s.smEnter (.split kib) [])

end Sys2Proof.Machine
end

