-- ==== Sys2Proof/Machine/Control.lean ====
section
/-!
DEFINITION. Control: transfers (R82, R83, R88), hardware loops (R84 to R87), MODE, YIELD, HALT, BKPT, TRAP, SYSC and the
returns (R89, R91, R276, R347, R349, R350), regions (R357), fences (R93, R98) and the no-operations (R391).
-/
namespace Sys2Proof.Machine

/-! ### Transfers -/

/-- The address `off` words from a base, modulo 2^64 (R83). -/
def wordTarget (base : X64) (off : Int) : Nat := (base + BitVec.ofInt 64 (4 * off)).toNat

/-- An address lies in [start, end) of a level (R88). -/
def LoopLevel.holds (l : LoopLevel) (pc : Nat) : Bool := decide (l.start ≤ pc) && decide (pc < l.stop)

/-- The levels whose range leaves out the target of a taken BR or JR are popped (R88). -/
def Ctx.popLoops (c : Ctx) (target : Nat) : Ctx := { c with loops := c.loops.dropWhile fun l => !l.holds target }

/-- A taken transfer (R83). -/
def State.transfer (s : State) (target : Nat) : State := s.modIssue fun i => { i with npc := target, taken := true }

/-- BR (R83, R88). -/
def execBr (g : BitVec 4) (o : BitVec 21) (s : State) : Host.Outcome State Fault Refusal :=
  slotOp g s
    (let t := wordTarget (BitVec.ofNat 64 s.issue.pc) o.toInt
    .ok ((s.modCx fun c => c.popLoops t).transfer t))

/-- CALL (R83): LINK := next. -/
def execCall (g : BitVec 4) (o : BitVec 21) (s : State) : Host.Outcome State Fault Refusal :=
  slotOp g s
    (.ok ((s.modCx fun c => { c with link := BitVec.ofNat 64 s.issue.next }).transfer
      (wordTarget (BitVec.ofNat 64 s.issue.pc) o.toInt)))

/-- JR (R83, R88). -/
def execJr (g : BitVec 4) (a : BitVec 6) (i : BitVec 9) (s : State) : Host.Outcome State Fault Refusal :=
  slotOp g s do
    let x ← s.readX a
    let t := wordTarget x i.toInt
    .ok ((s.modCx fun c => c.popLoops t).transfer t)

/-- JALR (R83): X[a] is read before X[d] is written. -/
def execJalr (g : BitVec 4) (d a : BitVec 6) (i : BitVec 9) (s : State) : Host.Outcome State Fault Refusal :=
  slotOp g s do
    let x ← s.readX a
    .ok ((s.writeX d (BitVec.ofNat 64 s.issue.next) 1).transfer (wordTarget x i.toInt))

/-- RET (R83). -/
def execRet (g : BitVec 4) (s : State) : Host.Outcome State Fault Refusal :=
  slotOp g s (.ok (s.transfer s.cx.link.toNat))

/-! ### Hardware loops -/

/-- An effect that follows the bundle's slots. -/
def State.afterwards (s : State) (a : After) : State := s.modIssue fun i => { i with after := i.after ++ [a] }

/-- A loop instruction with N trips (R86). With N = 0 the end address is reached as a pop reaches it. -/
def State.enterLoop (s : State) (n stop : Nat) (ec : BitVec 4) (rot : Bool) : Except Halt State :=
  if n = 0 then .ok (s.modIssue fun i => { i with npc := stop })
  else if 4 ≤ s.cx.loops.length then .error (s.trapHere 0x13 0 0)
  else
    let level : LoopLevel := ⟨s.issue.next, stop, BitVec.ofNat 32 (n - 1), if rot then ec else 0, rot⟩
    let s1 := s.modCx fun c => { c with loops := level :: c.loops }
    .ok (if rot then s1.afterwards .loopEntry else s1)

/-- LOOP (R85, R86). -/
def execLoop (g : BitVec 4) (c : BitVec 6) (e : BitVec 4) (r : BitVec 1) (n : BitVec 10) (s : State) :
    Host.Outcome State Fault Refusal :=
  slotOp g s do
    let x ← s.readX c
    s.enterLoop (Nat.min x.toNat (2 ^ 32 - 1)) (s.issue.pc + 4 * n.toNat) e (r == 1)

/-- LOOPI (R85, R86). -/
def execLoopi (g : BitVec 4) (c : BitVec 10) (r : BitVec 1) (n : BitVec 10) (s : State) :
    Host.Outcome State Fault Refusal :=
  slotOp g s (s.enterLoop c.toNat (s.issue.pc + 4 * n.toNat) 1 (r == 1))

/-- One rotation, and the new P8 (R59, R87). -/
def Ctx.rotated (c : Ctx) (p8 : Bool) : Ctx :=
  let r := c.rrb.rotate
  { c with rrb := r }.setP (physP r 8) p8

/-- The close of the innermost level, and of those outside it that a pop reaches (R87): the context and its next
address. -/
def Ctx.closeLoops (c : Ctx) : List LoopLevel → Nat → Ctx × Nat
  | [], pc => ({ c with loops := [] }, pc)
  | l :: r, pc =>
    if pc ≠ l.stop then ({ c with loops := l :: r }, pc)
    else if l.lc ≠ 0 then
      ({ (if l.rot then c.rotated true else c) with loops := { l with lc := l.lc - 1 } :: r }, l.start)
    else if l.rot ∧ 1 < l.ec.toNat then
      ({ c.rotated false with loops := { l with ec := l.ec - 1 } :: r }, l.start)
    else Ctx.closeLoops c r pc

/-- What a rotating loop's entry writes (R86). -/
def Ctx.enterRotation (c : Ctx) : Ctx :=
  { c with rrb := ⟨0, 0, 0⟩, p := (c.p &&& 0x00FF) ||| 0x0100 }

/-! ### Modes, stops and returns -/

/-- MODE (R89). -/
def execMode (g : BitVec 4) (i : BitVec 8) (s : State) : Host.Outcome State Fault Refusal :=
  slotOp g s (.ok (s.afterwards (.mode (i.getLsbD 0) ((i >>> 1).setWidth 2))))

/-- YIELD (R276): the run ends after the bundle. -/
def execYield (g : BitVec 4) (s : State) : Host.Outcome State Fault Refusal :=
  slotOp g s (.ok (s.modCcs fun v => { v with yielded := true }))

/-- HALT (R33, R91). -/
def execHalt (g : BitVec 4) (s : State) : Host.Outcome State Fault Refusal := slotOp g s (.ok (s.afterwards .halt))

/-- BKPT: no slot commits (R350). -/
def execBkpt (g : BitVec 4) (i : BitVec 8) (s : State) : Host.Outcome State Fault Refusal :=
  slotOp g s (.error (s.trapHere 0x0C 0 i.toNat))

/-- TRAP: the bundle commits, then TRAP_INSN (R350). -/
def execTrap (g : BitVec 4) (i : BitVec 8) (s : State) : Host.Outcome State Fault Refusal :=
  slotOp g s (.ok (s.afterwards (.trap i.toNat)))

/-- SYSC: the bundle commits, then the context stops (R350). -/
def execSysc (g : BitVec 4) (i : BitVec 8) (s : State) : Host.Outcome State Fault Refusal :=
  slotOp g s (.ok (s.afterwards (.service i.toNat)))

/-- The innermost environment is a user handler's. -/
def Ctx.handles (c : Ctx) : Bool :=
  match c.held with
  | h :: _ => !h.priv
  | [] => false

/-- TRET (R347): outside a user handler it raises ILLEGAL_OP with DCODE 17. -/
def execTret (g : BitVec 4) (s : State) : Host.Outcome State Fault Refusal :=
  slotOp g s (if s.cx.handles then .ok (s.afterwards .tret) else .error (s.trapHere illegalOp 17 0))

/-- ERET (R349): in user mode it raises PRIV. -/
def execEret (g : BitVec 4) (s : State) : Host.Outcome State Fault Refusal :=
  slotOp g s (if s.issue.mode.priv then .ok (s.afterwards .eret) else .error (s.trapHere 4 0 0x0E))

/-- The return of TRET and ERET: results of the routine land first, as a stall of the core, and the context may issue in
the fourth cycle after (R347, R349). -/
def State.returnFrom (s : State) (core k : Nat) : State :=
  let wait := (s.ctx core k).lastLanding
  let left := (s.ctx core k).leftTicket
  let s1 := (s.modCtx core k fun c => { c.leaveEnv with readyAt := s.cycle.toNat + wait + 4 }).modCS core fun v => v.endTicket left
  if wait = 0 then s1 else s1.modCS core fun v => { v with stallTo := Nat.max v.stallTo (s.cycle.toNat + wait) }

/-! ### Regions and fences -/

/-- NPRB (R357): inside a region it raises ILLEGAL_OP with DCODE 14. -/
def execNprb (g : BitVec 4) (s : State) : Host.Outcome State Fault Refusal :=
  slotOp g s
    (if s.cx.region.isSome then .error (s.trapHere illegalOp 14 0)
    else .ok (s.modCx fun c => { c with region := some 0 }))

/-- NPRE (R357): outside a region it changes nothing. -/
def execNpre (g : BitVec 4) (s : State) : Host.Outcome State Fault Refusal :=
  slotOp g s (.ok (s.modCx fun c => { c with region := none }))

/-- IFENCE (R98): what the context has fetched ahead is discarded (R198). -/
def execIfence (g : BitVec 4) (s : State) : Host.Outcome State Fault Refusal := slotOp g s (.ok s.refetch)

/-- EFENCE (R93): blocked until every command of the context has completed, which it then has observed (R191, R197). -/
def execEfence (g : BitVec 4) (s : State) : Host.Outcome State Fault Refusal :=
  slotOp g s
    (if s.cx.inflight.isEmpty then
      .ok (s.modCx fun c => c.observe (s.newsAt fun p => decide (p = .issuer s.icore s.ictx)))
    else .error (.blocked .fence))

/-! ### No-operations (R391) -/

def execNop (g : BitVec 4) (s : State) : Host.Outcome State Fault Refusal := slotOp g s (.ok s)
def execVnop (g : BitVec 4) (s : State) : Host.Outcome State Fault Refusal := slotOp g s (.ok s)
def execWnop (g : BitVec 4) (s : State) : Host.Outcome State Fault Refusal := slotOp g s (.ok s)
def execEnop (g : BitVec 4) (s : State) : Host.Outcome State Fault Refusal := slotOp g s (.ok s)

end Sys2Proof.Machine
end

