-- ==== Sys2Proof/Machine/Flags.lean ====
section
/-!
DEFINITION. Conditions that set predicates and masks: CMP (R74), FCMP (R80), VCMP (R130), the truth tables of PLOG and
MLOG (R75, R137) and the semaphore comparison (R44, R313).
-/
namespace Sys2Proof.Machine

/-- CMP by its sub field (R49, R74). -/
def cmpCond (c : BitVec 3) (x y : X64) : Bool :=
  match c.toNat with
  | 0 => decide (x = y)
  | 1 => decide (x ≠ y)
  | 2 => decide (x.toInt < y.toInt)
  | 3 => decide (x.toInt ≤ y.toInt)
  | 4 => decide (x.toNat < y.toNat)
  | _ => decide (x.toNat ≤ y.toNat)

/-- FCMP by its sub field on f32 codes (R80). -/
def fcmpCond (c : BitVec 3) (exposed : Bool) (a b : Nat) : Bool :=
  let x := f32.unpack (f32.flush exposed a)
  let y := f32.unpack (f32.flush exposed b)
  match c.toNat with
  | 0 => x.eqv y
  | 1 => x.lt y
  | 2 => x.lt y || x.eqv y
  | _ => x == .nan || y == .nan

/-- VCMP of one lane (R130): conditions 0 EQ, 1 NE, 2 LT, 3 LE, 4 GT, 5 GE, 6 UN, 7 ORD. -/
def vcmpCond (c : BitVec 3) (t : BitVec 3) (exposed : Bool) (a b : Word) : Bool :=
  match (Elem.ofCode t).fmt with
  | some f =>
    let x := f.unpack (f.flush exposed a.toNat)
    let y := f.unpack (f.flush exposed b.toNat)
    let un := x == .nan || y == .nan
    match c.toNat with
    | 0 => x.eqv y
    | 1 => !x.eqv y
    | 2 => x.lt y
    | 3 => x.lt y || x.eqv y
    | 4 => y.lt x
    | 5 => y.lt x || x.eqv y
    | 6 => un
    | _ => !un
  | none =>
    let x := (Elem.ofCode t).toInt a.toNat
    let y := (Elem.ofCode t).toInt b.toNat
    match c.toNat with
    | 0 => decide (x = y)
    | 1 => decide (x ≠ y)
    | 2 => decide (x < y)
    | 3 => decide (x ≤ y)
    | 4 => decide (y < x)
    | 5 => decide (y ≤ x)
    | 6 => false
    | _ => true

/-- A four-bit truth table over two bits (R75). -/
def truth (t : BitVec 4) (a b : Bool) : Bool := t.getLsbD (2 * a.toNat + b.toNat)

/-- The truth table applied bit by bit (R137). -/
def truthBits (t : BitVec 4) (a b : BitVec 64) : BitVec 64 :=
  (if t.getLsbD 0 then ~~~a &&& ~~~b else 0) ||| (if t.getLsbD 1 then ~~~a &&& b else 0)
    ||| (if t.getLsbD 2 then a &&& ~~~b else 0) ||| (if t.getLsbD 3 then a &&& b else 0)

/-- A count satisfies a threshold: their difference modulo 2^16 is not negative (R44, R313). -/
def semHolds (y t : BitVec 16) : Bool := !(y - t).msb

end Sys2Proof.Machine
end

