-- ==== Sys2Proof/Machine/ScalarMem.lean ====
section
/-!
DEFINITION. Scalar memory instructions: global loads, stores and atomics (R169, R170, R172 to R175), segment loads and
stores (R171) and CTW (R303).
-/
namespace Sys2Proof.Machine

/-! ### Global accesses of the issuing core -/

/-- The physical address a virtual address reaches, for the report of R175. -/
def State.physOf (s : State) (va : Nat) : Nat := s.physAt s.icore va

/-- Every byte of an access is checked before any is accessed (R169); the locations. -/
def State.check (s : State) (va n lane : Nat) (write : Bool) : Except Halt (List Nat) :=
  s.accessTrap lane (s.locs s.icore va n write)

/-- An aligned store is one access, another is one of each byte (R169). -/
def State.storeAt (s : State) (va n : Nat) (ls : List Nat) (bs : List Byte) : State :=
  let s1 := s.touchAll s.icore va n ls true
  if va % n = 0 then s1.gstore ls bs else (ls.zip bs).foldl (fun t p => t.gstore [p.1] [p.2]) s1

/-- The data of a global load with destinations `dests`: bytes at virtual addresses and their locations. Where one of them
holds an uncorrectable error the load reports its granule (R175). What the bytes announce is observed (R191). -/
def State.loadOf (s : State) (bad : Option Nat) (dests : List (Reg × RegVal)) (phys : Nat) (vas ls : List Nat) : State :=
  let s := s.observeWords s.icore s.ictx ls
  match bad with
  | none => s.loadResult .memory dests 0 phys
  | some l =>
    (s.lineReport s.icore l).loadEnters .memory dests 0 (s.physOf ((((vas.zip ls).find? fun p => p.2 == l).map (·.1)).getD 0)) true

/-- The load of the bytes as they stand. -/
def State.globalLoad (s : State) (dests : List (Reg × RegVal)) (phys : Nat) (vas ls : List Nat) : State :=
  s.loadOf (s.soiled ls) dests phys vas ls

/-- The address of LD and ST (R170). -/
def ldAddress (base : X64) (imm : BitVec 6) (size : Nat) : Nat :=
  (base + BitVec.ofInt 64 (imm.toInt * size)).toNat

/-- The size of an access by its code (R51). -/
def accessSize (z : BitVec 3) : Nat := [1, 2, 4, 8, 1, 2, 4].getD z.toNat 1

/-- A loaded value extended by its type (R170). -/
def extendLoad (z : BitVec 3) (v : Nat) : X64 :=
  if z.toNat < 4 then BitVec.ofNat 64 v else BitVec.ofInt 64 (sextNat (8 * accessSize z) v)

/-- LD (R170): the access is made also where X0 discards the value. -/
def execLd (g : BitVec 4) (d b : BitVec 6) (z : BitVec 3) (i : BitVec 6) (s : State) : Host.Outcome State Fault Refusal :=
  slotOp g s do
    let x ← s.readX b
    let n := accessSize z
    let va := ldAddress x i n
    let ls ← s.check va n 0 false
    let v := leNat (s.bytesAt ls)
    .ok ((s.touchAll s.icore va n ls false).globalLoad (s.xDest d (extendLoad z v)) (s.physOf va) (countFrom va n) ls)

/-- ST (R170). -/
def execSt (g : BitVec 4) (y b : BitVec 6) (z : BitVec 3) (i : BitVec 6) (s : State) : Host.Outcome State Fault Refusal :=
  slotOp g s do
    let x ← s.readX b
    let v ← s.readX y
    let n := accessSize z
    let va := ldAddress x i n
    let ls ← s.check va n 0 true
    .ok (s.storeAt va n ls (leBytes n v.toNat))

/-- The new value of an AMO (R172). -/
def amoValue {w : Nat} (o : BitVec 3) (old v : BitVec w) : BitVec w :=
  match o.toNat with
  | 0 => old + v
  | 1 => v
  | 2 => old &&& v
  | 3 => old ||| v
  | 4 => old ^^^ v
  | 5 => if below false v old then v else old
  | 6 => if below false old v then v else old
  | _ => if below true v old then v else old

/-- An atomic of n bytes: MISALIGNED first, from the address alone, then translation for a write (R169); a word that holds
an uncorrectable error is not written, since its value is not known (R175). -/
def State.atomic (s : State) (va n : Nat) (d : BitVec 6) (f : Nat → Option Nat) : Except Halt State :=
  if va % n ≠ 0 then .error (s.trapHere 5 0 (va % 2 ^ 48))
  else do
    let ls ← s.check va n 0 true
    let old := leNat (s.bytesAt ls)
    let bad := s.soiled ls
    -- what the word announces is observed by the read, before the write (R191)
    let s := s.observeWords s.icore s.ictx ls
    let s1 := match (f old).filter fun _ => bad.isNone with
      | some v => s.storeAt va n ls (leBytes n v)
      | none => s.touchAll s.icore va n ls true
    .ok (s1.loadOf bad (s.xDest d (BitVec.ofNat 64 old)) (s.physOf va) (countFrom va n) ls)

/-- AMO (R172). -/
def execAmo (g : BitVec 4) (d a b : BitVec 6) (o : BitVec 3) (s : State) : Host.Outcome State Fault Refusal :=
  slotOp g s do
    let x ← s.readX a
    let v ← s.readX b
    s.atomic x.toNat 8 d fun old => some (amoValue o (BitVec.ofNat 64 old) v).toNat

/-- AMO4 (R172). -/
def execAmo4 (g : BitVec 4) (d a b : BitVec 6) (o : BitVec 3) (s : State) : Host.Outcome State Fault Refusal :=
  slotOp g s do
    let x ← s.readX a
    let v ← s.readX b
    s.atomic x.toNat 4 d fun old => some (amoValue o (BitVec.ofNat 32 old) (v.setWidth 32)).toNat

/-- CAS (R173). -/
def execCas (g : BitVec 4) (d a b : BitVec 6) (s : State) : Host.Outcome State Fault Refusal :=
  slotOp g s do
    let e ← s.readX d
    let x ← s.readX a
    let v ← s.readX b
    s.atomic x.toNat 8 d fun old => if old = e.toNat then some v.toNat else none

/-- CAS4 (R173). -/
def execCas4 (g : BitVec 4) (d a b : BitVec 6) (s : State) : Host.Outcome State Fault Refusal :=
  slotOp g s do
    let e ← s.readX d
    let x ← s.readX a
    let v ← s.readX b
    s.atomic x.toNat 4 d fun old => if old = e.toNat % 2 ^ 32 then some (v.toNat % 2 ^ 32) else none

/-- PREF brings a line into the die cache; a failed translation drops it (R174). DESIGN CHOICE (log 6): where the die cache
lacks the line, the fill is a DRAM access of its site, so the memory-side cache counts it in MSCHIT or MSCMISS (R154). -/
def execPref (g : BitVec 4) (a : BitVec 6) (i : BitVec 9) (s : State) : Host.Outcome State Fault Refusal :=
  slotOp g s do
    let x ← s.readX a
    match s.locs s.icore (x + BitVec.ofInt 64 (64 * i.toInt)).toNat 1 false with
    | .ok (l :: _) => .ok (s.dieTouch (dieOf s.icore) l false)
    | _ => .ok s

/-- CTW (R303): in force for the slots that follow (R106). -/
def execCtw (g : BitVec 4) (a : BitVec 6) (e : BitVec 9) (s : State) : Host.Outcome State Fault Refusal :=
  slotOp g s do
    let x ← s.readX a
    .ok (s.modCcs fun v => { v with ct := v.ct.setIfInBounds e.toNat (x.setWidth 8) })

/-! ### Segment loads and stores (R171) -/

/-- The post-increment of an offset register. -/
def State.postInc (s : State) (o : BitVec 6) (x : X64) (n : BitVec 1) (size : Nat) : State :=
  if n = 1 then s.writeX o (x + BitVec.ofNat 64 size) 1 else s

/-- A segment load of `size` bytes: fixed latency in the segment, a global load beyond the stack's length (R158). -/
def segLoad (g : BitVec 4) (d : BitVec 6) (y : BitVec 8) (o : BitVec 6) (n : BitVec 1) (size : Nat) (s : State) :
    Host.Outcome State Fault Refusal :=
  segOp g s do
    let x ← s.readX o
    let p ← s.segPlace y.toNat x.toNat size true
    match p.1 with
    | .here id off => do
      s.soundSeg id off size
      let v := leNat (s.ccs.segRead id off size)
      .ok ((p.2.writeX d (BitVec.ofNat 64 v) 4).postInc o x n size)
    | .there va =>
      let ls ← s.check va size 0 false
      let v := leNat (s.bytesAt ls)
      .ok (((p.2.touchAll s.icore va size ls false).globalLoad (s.xDest d (BitVec.ofNat 64 v)) (s.physOf va)
        (countFrom va size) ls).postInc o x n size)

/-- A segment store of `size` bytes. -/
def segStore (g : BitVec 4) (r : BitVec 6) (y : BitVec 8) (o : BitVec 6) (n : BitVec 1) (size : Nat) (s : State) :
    Host.Outcome State Fault Refusal :=
  segOp g s do
    let v ← s.readX r
    let x ← s.readX o
    let p ← s.segPlace y.toNat x.toNat size true
    match p.1 with
    | .here id off => .ok ((p.2.sstore s.icore id off (leBytes size v.toNat)).postInc o x n size)
    | .there va =>
      let ls ← s.check va size 0 true
      .ok ((p.2.storeAt va size ls (leBytes size v.toNat)).postInc o x n size)

def execLds8 (g : BitVec 4) (d : BitVec 6) (y : BitVec 8) (o : BitVec 6) (n : BitVec 1) (s : State) :=
  segLoad g d y o n 8 s
def execLds4 (g : BitVec 4) (d : BitVec 6) (y : BitVec 8) (o : BitVec 6) (n : BitVec 1) (s : State) :=
  segLoad g d y o n 4 s
def execSts8 (g : BitVec 4) (x : BitVec 6) (y : BitVec 8) (o : BitVec 6) (n : BitVec 1) (s : State) :=
  segStore g x y o n 8 s
def execSts4 (g : BitVec 4) (x : BitVec 6) (y : BitVec 8) (o : BitVec 6) (n : BitVec 1) (s : State) :=
  segStore g x y o n 4 s

end Sys2Proof.Machine
end

