-- ==== Sys2Proof/Machine/System.lean ====
section
/-!
DEFINITION. Control registers (R62, R90), semaphores (R313 to R315), WAITW (R92) and the instruction banks (R96 to R100).
-/
namespace Sys2Proof.Machine

/-! ### Control registers -/

/-- A control register's value as CRD reads it; `none` for a number R62 does not list. -/
def State.crnRead (s : State) (core k crn : Nat) : Option X64 :=
  let c := s.ctx core k
  let v := s.cs core
  match crn with
  | 0x00 => some c.link
  | 0x01 => some (match c.loops with
    | l :: _ => l.lc.setWidth 64
    | [] => 0)
  | 0x02 => some (match c.loops with
    | l :: _ => l.ec.setWidth 64
    | [] => 0)
  | 0x03 => some (c.rrb.xb.setWidth 64 ||| c.rrb.vb.setWidth 64 <<< 8 ||| c.rrb.pb.setWidth 64 <<< 16)
  | 0x08 => some (BitVec.ofNat 64 (c.mode.ilk.toNat + 2 * c.mode.vrm.toNat + 256 * c.mode.priv.toNat))
  | 0x09 => some c.tvec
  | 0x0A => some c.tpc
  | 0x0B => some (c.tcause.setWidth 64)
  | 0x0C => some c.tinfo
  | 0x0D => some c.tsave
  | 0x10 => some (c.wstep.setWidth 64)
  | 0x11 => some (BitVec.ofNat 64 (v.part.getD 0))
  | 0x18 | 0x19 | 0x1A | 0x1B | 0x1C | 0x1D | 0x1E | 0x1F => some (((c.kth[crn - 0x18]?).getD 0).setWidth 64)
  | 0x20 => some s.cycle
  | 0x21 => some c.bcount
  | 0x28 => some (BitVec.ofNat 64 (core % 64))
  | 0x29 => some (BitVec.ofNat 64 k)
  | 0x2A => some (BitVec.ofNat 64 (core % 64 / 4))
  | 0x2B => some (BitVec.ofNat 64 (core / 64))
  | 0x2C => some (BitVec.ofNat 64 s.pod.pkgid)
  | 0x30 => some c.tklo
  | 0x31 => some c.tkhi
  | 0x32 => some c.tkgrain
  | 0x33 => some c.tkarg
  | 0x34 => some c.tkid
  | 0x38 => some (BitVec.ofNat 64 (v.fwpos + 2 ^ 32 * v.fwseq.toNat + 2 ^ 48 * v.fwrun.toNat))
  | 0x40 => some (BitVec.ofNat 64 c.nprlim)
  | 0x41 => some (c.barto.setWidth 64)
  | 0x42 => some (c.waitto.setWidth 64)
  | 0x80 => some (BitVec.ofNat 64 v.quota)
  | 0x81 => some v.ovfptr
  | 0x82 => some (v.asid.setWidth 64)
  | 0x83 => some v.ptbase
  | _ => none

/-- MODE as MODE and CWR set it (R63, R89): PRIV stays. -/
def Ctx.setMode (c : Ctx) (ilk : Bool) (vrm : BitVec 2) : Ctx := { c with mode := { c.mode with ilk := ilk, vrm := vrm } }

/-- The innermost level's counts (R84): a write with an empty stack is ignored. -/
def Ctx.setInner (c : Ctx) (f : LoopLevel → LoopLevel) : Ctx :=
  match c.loops with
  | l :: r => { c with loops := f l :: r }
  | [] => c

/-- A context's control register written (R62, R84, R90); writes to RO registers are ignored (R7). -/
def Ctx.crnWrite (c : Ctx) (crn : Nat) (x : X64) : Ctx :=
  match crn with
  | 0x00 => { c with link := x }
  | 0x01 => c.setInner fun l => { l with lc := x.setWidth 32 }
  | 0x02 => c.setInner fun l => { l with ec := x.setWidth 4 }
  | 0x03 => { c with rrb := ⟨x.setWidth 4, (x >>> 8).setWidth 4, (x >>> 16).setWidth 3⟩ }
  | 0x08 => c.setMode (x.getLsbD 0) ((x >>> 1).setWidth 2)
  | 0x09 => { c with tvec := x }
  | 0x0A => { c with tpc := x }
  | 0x0D => { c with tsave := x }
  | 0x10 => { c with wstep := x.setWidth 32 }
  | 0x21 => { c with bcount := x }
  -- the whole value is clamped (log 1: R62 does not say whether bits above [16:0] count)
  | 0x40 => { c with nprlim := Nat.max 1 (Nat.min 65536 x.toNat) }
  | 0x41 => { c with barto := x.setWidth 32 }
  | 0x42 => { c with waitto := x.setWidth 32 }
  | _ => c

/-- A core's privileged register written (R62); SGQUOTA is clamped (R289). -/
def State.coreCrnWrite (s : State) (core crn : Nat) (x : X64) : State :=
  match crn with
  | 0x80 => s.modCS core fun v => { v with quota := v.clampQuota (storeGranules (s.core core).cacheKiB) x.toNat }
  | 0x81 => s.modCS core fun v => { v with ovfptr := x }
  | 0x82 => s.modCS core fun v => { v with asid := x.setWidth 16 }
  | 0x83 => s.modCS core fun v => { v with ptbase := x }
  | _ => s

/-- A control register written. -/
def State.crnWrite (s : State) (core k crn : Nat) (x : X64) : State :=
  (s.modCtx core k fun c => c.crnWrite crn x).coreCrnWrite core crn x

/-- CRD (R90): a number R62 does not list raises ILLEGAL_OP, a privileged one in user mode PRIV; a threshold pending
from KTH is waited for as a register is (R147). -/
def execCrd (g : BitVec 4) (c : BitVec 8) (d : BitVec 6) (s : State) : Host.Outcome State Fault Refusal :=
  slotOp g s
    (match s.crnRead s.icore s.ictx c.toNat with
    | none => .error (s.trapHere illegalOp 0 0)
    | some v =>
      if 0x80 ≤ c.toNat ∧ !s.issue.mode.priv then .error (s.trapHere 4 0 0x0F)
      else if 0x18 ≤ c.toNat ∧ c.toNat ≤ 0x1F then
        match s.hazard (.kth (c.toNat - 0x18)) with
        | .error h => .error h
        | .ok _ => .ok (s.writeX d v 1)
      else .ok (s.writeX d v 1))

/-- CWR (R90): in force for the next bundle. -/
def execCwr (g : BitVec 4) (c : BitVec 8) (a : BitVec 6) (s : State) : Host.Outcome State Fault Refusal :=
  slotOp g s do
    let x ← s.readX a
    if (s.crnRead s.icore s.ictx c.toNat).isNone then .error (s.trapHere illegalOp 0 0)
    else if 0x80 ≤ c.toNat ∧ !s.issue.mode.priv then .error (s.trapHere 4 0 0x10)
    else .ok (s.afterwards (.cwr c.toNat x))

/-! ### Semaphores -/

/-- WAITS (R315): blocked until the count satisfies the threshold, which observes what the count includes (R191). -/
def execWaits (g : BitVec 4) (y : BitVec 8) (x : BitVec 6) (s : State) : Host.Outcome State Fault Refusal :=
  slotOp g s do
    let t ← s.readX x
    if semHolds (s.ccs.sems.read 0 y.toNat) (t.setWidth 16) then .ok (s.modCx fun c => c.observe (s.semNews s.icore y.toNat))
    else .error (.blocked .waits)

/-- SIGS (R315). -/
def execSigs (g : BitVec 4) (y : BitVec 8) (x : BitVec 6) (s : State) : Host.Outcome State Fault Refusal :=
  slotOp g s do
    let v ← s.readX x
    .ok (s.modCcs fun w => w.addSem y.toNat (v.toNat % 2 ^ 16))

/-- SEMSET (R315): the count includes no increment made before (R191). -/
def execSemset (g : BitVec 4) (y : BitVec 8) (x : BitVec 6) (s : State) : Host.Outcome State Fault Refusal :=
  slotOp g s do
    let v ← s.readX x
    .ok ((s.forgetSem s.icore y.toNat).modCcs fun w => { w with sems := w.sems.write 0 y.toNat (v.setWidth 16) })

/-! ### WAITW (R92) -/

/-- WAITW: the first read is made when the bundle is due; while the wait lasts, WAITW_REREAD reads again. A word that holds an
uncorrectable error is reported at the bundle (R360, log 43). -/
def execWaitw (g : BitVec 4) (a b : BitVec 6) (s : State) : Host.Outcome State Fault Refusal :=
  slotOp g s do
    let x ← s.readX a
    let v ← s.readX b
    let va := x.toNat / 8 * 8
    let wait : WaitReason := .waitw va v
    if s.cx.waitwEnded then .ok (s.modCx fun c => { c with waitwEnded := false })
    else if s.cx.wait = wait then .error (.blocked wait)
    else do
      let ls ← s.check va 8 0 false
      if (s.soiled ls).isSome then .error (s.trapHere memUncorrectable 0 (memErrorValue s.issue.pc (s.physOf va)))
      else if leNat (s.bytesAt ls) = v.toNat then .error (.blocked wait)
      else .ok ((s.touchAll s.icore va 8 ls false).observeWords s.icore s.ictx ls)

/-- WAITW_REREAD (R92): a word that differs ends the wait; a failed translation goes to the supervisor. -/
def execWaitwReread (c : BitVec 9) (k : BitVec 2) (s : State) : Host.Outcome State Fault Refusal :=
  let core := c.toNat
  let x := s.ctx core k.toNat
  match x.wait with
  | .waitw va v =>
    if x.run ≠ .running ∨ x.stop.isSome ∨ x.frozen ∨ x.waitwEnded then .next s
    else
      match s.locs core va 8 false with
      | .error (cause, addr) => .next (s.takeTrap core k.toNat cause 0 0 (s.xlateValue core x.pc cause addr 0) x.pc x.rep)
      | .ok ls =>
        let s1 := s.touchAll core va 8 ls false
        if (s.soiled ls).isSome then
          .next (s1.takeTrap core k.toNat memUncorrectable 0 0 (memErrorValue x.pc (s.physAt core va)) x.pc x.rep)
        else if leNat (s.bytesAt ls) = v.toNat then .next s1
        else .next ((s1.observeWords core k.toNat ls).modCtx core k.toNat fun c => { c with waitwEnded := true })
  | _ => .next s

/-! ### Instruction banks -/

/-- The checksum of R97 over the first n words of a bank. -/
def checksum (bank : Tab Byte) (n : Nat) : Word :=
  (List.range n).foldl (fun s i => (s.rotateLeft 5) ^^^ BitVec.ofNat 32 (leNat (readBytes (fun a => bank.read 0 a) (4 * i) 4))) 0

/-- A bank by number. -/
def CoreState.bank (v : CoreState) (n : Bool) : Tab Byte := if n then v.bank1 else v.bank0

/-- A word among the first n of the resident region (0) or a bank (1, 2) holds an uncorrectable error (R360). -/
def CoreState.codeFlawed (v : CoreState) (region n : Nat) : Bool :=
  v.flaws.any fun f => match f with
    | .code r w => r == region && decide (w < n)
    | _ => false

/-- The name of a bank's segment (R155). -/
def bankName (n : Bool) : Nat := 0xFE + n.toNat

/-- Cycles of a checksum over n words (R99, R100). -/
def sumCycles (n : Nat) : Nat := (n + 15) / 16 + 4

/-- ISUM (R99). -/
def execIsum (g : BitVec 4) (d a : BitVec 6) (k : BitVec 1) (s : State) : Host.Outcome State Fault Refusal :=
  slotOp g s do
    let x ← s.readX a
    let n := x.toNat
    if 16384 < n then .error (s.trapHere segBound 0 (bankName (k == 1)))
    else
      if s.ccs.codeFlawed (1 + k.toNat) n then .error s.sramTrap
      else .ok (s.loadResult .isum (s.xDest d ((checksum (s.ccs.bank (k == 1)) n).setWidth 64)) (s.cycle.toNat + sumCycles n) 0)

/-- BANKSW (R100): started, then blocked until the sum is decided; at an equal comparison the bundle issues and the banks
swap, at another CHECKSUM is raised. DESIGN CHOICE (log 5): the sum of a BANKSW that is abandoned before it issues (its
context goes on elsewhere, or its guard becomes false) is kept, and the context's next arrival at the bundle takes it, with no
new start. -/
def execBanksw (g : BitVec 4) (a b : BitVec 6) (s : State) : Host.Outcome State Fault Refusal :=
  slotOp g s
    (match s.cx.bank.filter fun w => w.pc == s.issue.pc && w.rep == s.issue.rep with
    | some w =>
      if s.cycle.toNat < w.due then .error (.blocked .banksw)
      else if w.sum = w.expect then
        .ok ((s.refetch.modCx fun c => { c with bank := none }).modCcs fun v => { v with active := !v.active })
      else .error (s.trapHere 0x0E 0 w.sum.toNat)
    | none => do
      let x ← s.readX a
      let n ← s.readX b
      let idle := !s.ccs.active
      if 16384 < n.toNat then .error (s.trapHere segBound 0 (bankName idle))
      else if s.ccs.codeFlawed (1 + idle.toNat) n.toNat then .error s.sramTrap
      else
        let w : BankWait := ⟨s.issue.pc, s.issue.rep, checksum (s.ccs.bank idle) n.toNat, x.setWidth 32,
          s.cycle.toNat + sumCycles n.toNat⟩
        .ok (s.modIssue fun i => { i with start := some (.banksw w), verdict := some .stalled }))

/-- The next bundle of a context would be beyond its region's limit; bundles of a handler do not count (R345, R357). -/
def Ctx.overruns (c : Ctx) : Bool :=
  match c.region with
  | some n => decide (c.nprlim ≤ n) && c.held.isEmpty
  | none => false

/-- NPR_OVERRUN at a context's next bundle: the region closes at the trap (R357). -/
def State.overrun (s : State) (core k : Nat) : State :=
  let x := s.ctx core k
  (s.modCtx core k fun y => { y with region := none }).takeTrap core k 0x10 0 7 x.nprlim x.pc x.rep

/-- BANKSW_DECISION (R100): a comparison that differs raises CHECKSUM in the cycle of the decision, or NPR_OVERRUN in its
place where the bundle is beyond its region's limit (R357). While the context is stopped or frozen the sum is kept, and
the trap follows once the context runs again, wherever it was resumed (log 5: the spec gives no rule). DESIGN CHOICE (log
5): R344 speaks of the cycle in which a trapping bundle is selected, and here none is, so another context's bundle may issue
in the cycle of the decision and the trap follows it. -/
def execBankswDecision (c : BitVec 9) (k : BitVec 2) (s : State) : Host.Outcome State Fault Refusal :=
  let x := s.ctx c.toNat k.toNat
  match x.bank with
  | some w =>
    if w.due ≤ s.cycle.toNat ∧ w.sum ≠ w.expect ∧ x.run = .running ∧ x.stop = none ∧ ¬ x.frozen ∧ ¬ x.swapStop then
      .next (if x.overruns then s.overrun c.toNat k.toNat
        else s.takeTrap c.toNat k.toNat 0x0E 0 0 w.sum.toNat w.pc w.rep)
    else .next s
  | none => .next s

end Sys2Proof.Machine
end

