-- ==== Sys2Proof/Machine/Fetch.lean ====
section
/-!
DEFINITION. Fetch and the checks of R34 to R36: the bundle at a context's PC and the stages it passes.
-/
namespace Sys2Proof.Machine

/-! ### Fetch (R34, R35, R82, R161) -/

/-- ILLEGAL_BUNDLE. -/
def illegalBundle (dcode slot : Nat) : Halt := .trap 1 dcode slot 0

/-- The word at a bundle address: resident region or active bank (R82). -/
def CoreState.codeWord (v : CoreState) (a : Nat) : Word :=
  let t := if a < 0x1000 then v.resident else v.bank v.active
  let o := if a < 0x1000 then a else a - 0x10000
  BitVec.ofNat 32 (leNat (readBytes (fun i => t.read 0 i) o 4))

/-- The word a context fetches: one that a ferry has written in the bank may still be the old one (R198). -/
def CoreState.fetchWord (v : CoreState) (c : Ctx) (a : Nat) : Word :=
  let olds := c.stale.filter fun w => decide (0x10000 ≤ a) && w.bank == v.active && w.word == (a - 0x10000) / 4
  match olds.zipIdx.find? fun w => Config.fetchOld c.bcount.toNat a w.2 with
  | some w => w.1.old
  | none => v.codeWord a

/-- The end of the region a fetch at an address starts in, with the detail code of a bundle that runs past it; the detail
code where there is no such region (R34, R82; log 11). -/
def fetchRegion (priv : Bool) (a : Nat) : Except Nat (Nat × Nat) :=
  if 0xC00 ≤ a ∧ a < 0x1000 ∧ !priv then .error 14
  else if a % 4 ≠ 0 then .error 0
  else if a < 0x1000 then .ok (if priv then (0x1000, 0) else (0xC00, 14))
  else if 0x10000 ≤ a ∧ a < 0x20000 then .ok (0x20000, 0)
  else .error 0

/-- A fetch of n words at an address meets an uncorrectable error (R360). -/
def CoreState.fetchFlawed (v : CoreState) (a n : Nat) : Bool :=
  let region := if a < 0x1000 then 0 else 1 + v.active.toNat
  let o := if a < 0x1000 then a else a - 0x10000
  v.flaws.any fun f => match f with
    | .code r w => r == region && decide (o ≤ 4 * w) && decide (4 * w < o + 4 * n)
    | _ => false

/-- MEM_UNCORRECTABLE of a fetch: DCODE fetch (R342, R360); no rule gives VALUE. -/
def fetchError : Halt := .trap memUncorrectable 13 5 (Config.openValue 2).toNat

/-- A fetched bundle: its words by place. -/
structure Bundle where
  pc : Nat
  len : Nat
  rep : Nat
  /-- Class, KEEP, word: present and kept slots in slot order. -/
  slots : List (SlotClass × Bool × Word)
  bw : Option Word
  sy : Option (Word × Word)
  deriving DecidableEq, Repr

/-- The address of the word after the bundle. -/
def Bundle.next (b : Bundle) : Nat := b.pc + 4 * b.len

/-- The sticky entry of a class. -/
def StickySet.get (s : StickySet) : SlotClass → Sticky
  | .V => s.v
  | .W => s.w
  | .E => s.e
  | _ => s.s
def StickySet.set (s : StickySet) (c : SlotClass) (e : Sticky) : StickySet :=
  match c with
  | .S => { s with s := e }
  | .V => { s with v := e }
  | .W => { s with w := e }
  | .E => { s with e := e }
  | _ => s

/-- The slots of a header in slot order; present words follow one another from an address. -/
def slotsOf (word : Nat → Word) (st : StickySet) (h : Nat) : List SlotClass → Nat → List (SlotClass × Bool × Word)
  | [], _ => []
  | c :: r, a =>
    if bitOf h c.number then (c, false, word a) :: slotsOf word st h r (a + 4)
    else if bitOf h (15 + c.number) then (c, true, (st.get c).word) :: slotsOf word st h r a
    else slotsOf word st h r a

/-- The five slot classes. -/
def slotOrder : List SlotClass := [.C, .S, .V, .W, .E]

/-- The bundle at the PC, or the failure of stage 1 (R36). DESIGN CHOICE (log 11): R36 gives no order within its stage, and a
user-mode bundle whose header is bad and whose words would reach 0xC00 is judged by its header first, with DCODE 0. -/
def CoreState.fetch (v : CoreState) (c : Ctx) : Except Halt Bundle :=
  match fetchRegion c.mode.priv c.pc with
  | .error d => .error (illegalBundle d 5)
  | .ok (stop, d) =>
    if v.fetchFlawed c.pc 1 then .error fetchError else
    let h := (v.fetchWord c c.pc).toNat
    let present := bitsOf h 4 0
    let keep := bitsOf h 19 15
    if bitsOf h 31 28 ≠ 0xA ∨ bitsOf h 27 20 ≠ 0 ∨ bitOf h 11 ∨ bitsOf h 8 5 ≠ 0 ∨ bitOf keep 0 ∨ present &&& keep ≠ 0 then
      .error (illegalBundle 0 5)
    else
      let n := 1 + popcount 5 (BitVec.ofNat 5 present)
      let bw := bitOf h 9
      let len := n + bw.toNat + 2 * (bitOf h 10).toNat
      if stop < c.pc + 4 * len then .error (illegalBundle d 5)
      else if v.fetchFlawed c.pc len then .error fetchError
      else
        let at_ := fun i => v.fetchWord c (c.pc + 4 * i)
        .ok ⟨c.pc, len, bitsOf h 14 12, slotsOf (v.fetchWord c) c.sticky h slotOrder (c.pc + 4),
          if bw then some (at_ n) else none,
          if bitOf h 10 then some (at_ (n + bw.toNat), at_ (n + bw.toNat + 1)) else none⟩

/-! ### Stages 2 to 5 (R36) -/

/-- A slot with what its word decodes to. -/
structure SlotView where
  cls : SlotClass
  kept : Bool
  word : Word
  dec : Except Reject Instr

def Bundle.views (b : Bundle) : List SlotView := b.slots.map fun e => ⟨e.1, e.2.1, e.2.2, decode e.1 e.2.2⟩

/-- The instruction of a slot, where its word is one. -/
def SlotView.instr (v : SlotView) : Option Instr :=
  match v.dec with
  | .ok i => some i
  | .error _ => none

/-- A test on the instruction of a slot. -/
def SlotView.has (v : SlotView) (f : Instr → Bool) : Bool := v.instr.any f

/-- A C opcode that may not stand in a repeated bundle (R42). -/
def SlotView.unrepeatable (v : SlotView) : Bool :=
  let op := bitsOf v.word.toNat 27 21
  decide (v.cls = .C) && op != 0 && !(decide (0x40 ≤ op) && decide (op ≤ 0x6F))

/-- A slot's destinations meet an earlier slot's (R39). -/
def conflicts (before : List Dest) : List SlotView → List (Nat × Bool)
  | [] => []
  | v :: r =>
    let ds := match v.instr with
      | some i => i.dests
      | none => []
    (v.cls.number, ds.any fun d => before.contains d) :: conflicts (before ++ ds) r

/-- The broadcast word names a register. -/
def bwReg (w : Word) : Option Nat := if w.getLsbD 31 then some (bitsOf w.toNat 5 0) else none

/-- The forms of R43. -/
def bwBad (w : Word) : Bool := w.getLsbD 31 && (bitsOf w.toNat 30 6 != 0 || bitsOf w.toNat 5 0 == 63)

/-- The rules of R44. -/
def syBad (hasE : Bool) (w0 w1 : Word) : Bool :=
  let se := w0.getLsbD 30
  let inc := bitsOf w1.toNat 23 16
  bitsOf w0.toNat 5 0 != 0 || bitsOf w1.toNat 14 0 != 0 || (se == (inc == 0)) || (w1.getLsbD 15 && !(hasE && se))

/-- The first failing slot of a stage. -/
def firstSlot (l : List (Nat × Bool)) : Option Nat := (l.find? fun e => e.2).map (·.1)

/-- BAR and BARX of one bundle on one barrier (R153). -/
def sameBarrier (l : List SlotView) : Bool :=
  match (l.filterMap fun v => v.instr.bind Instr.barrier) with
  | [a, b] => decide (a = b)
  | _ => false

/-- Stage 2. -/
def Bundle.stage2 (b : Bundle) (l : List SlotView) : Option Nat :=
  let c := conflicts [] l
  firstSlot (((l.zip c).map fun e =>
      (e.1.cls.number, (match e.1.dec with
        | .error .reserved => true
        | _ => false)
      || (!e.1.kept && e.1.has fun i => i.usesB && b.bw.isNone)
      || e.1.has Instr.badDest
      || (!e.1.kept && b.rep != 0 && e.1.unrepeatable)
      || e.2.2))
    ++ [(6, b.bw.any bwBad || b.sy.any fun w => syBad (b.slots.any fun e => e.1 = .E) w.1 w.2)])

/-- Stage 3: `feature` says that feature 0 is accepted (R5, R48). -/
def Bundle.stage3 (b : Bundle) (feature : Bool) (l : List SlotView) : Option Nat :=
  firstSlot (l.map fun v =>
    (v.cls.number, !feature || (match v.instr with
      | some i => !i.fieldsOk || !i.loopEndOk b.len
      | none => true)
    || (decide (v.cls = .C) && sameBarrier l)))

/-- Stage 4: slot and register code. -/
def Bundle.stage4 (b : Bundle) (l : List SlotView) : Option (Nat × Nat) :=
  ((l.filterMap fun v => (v.instr.bind Instr.reservedReg).map fun n => (v.cls.number, n))
    ++ (match b.bw.bind bwReg with
      | some n => if 48 ≤ n ∧ n ≤ 62 then [(6, n)] else []
      | none => [])).head?

/-- Stage 5: slot and opcode. -/
def stage5 (priv : Bool) (l : List SlotView) : Option (Nat × Nat) :=
  if priv then none
  else (l.filterMap fun v => v.instr.bind fun i => if i.privileged then some (v.cls.number, i.opcode) else none).head?

/-- The checks of stages 2 to 5: the first stage that fails decides. -/
def Bundle.check (b : Bundle) (priv feature : Bool) : Option Halt :=
  let l := b.views
  match b.stage2 l with
  | some n => some (illegalBundle 0 n)
  | none =>
    match b.stage3 feature l with
    | some n => some (.trap 2 0 n 0)
    | none =>
      match b.stage4 l with
      | some (n, r) => some (.trap 3 0 n r)
      | none => (stage5 priv l).map fun e => .trap 4 0 e.1 e.2

/-- Feature 0 is accepted by a core's partition (R370). -/
def State.feature (s : State) (core : Nat) : Bool :=
  match s.partitions.get (s.partOf core) with
  | some p => p.feats.getLsbD 0
  | none => false

/-- The C slot holds NPRE (R357). -/
def holdsNpre (l : List SlotView) : Bool := l.any fun v => v.has fun i => match i with
  | .npre _ => true
  | _ => false

/-- The wait of the sync pair is unmet (R44). -/
def State.syncWaits (s : State) (core : Nat) (b : Bundle) : Bool :=
  match b.sy with
  | some (w0, _) =>
    w0.getLsbD 31 && !semHolds ((s.cs core).sems.read 0 (bitsOf w0.toNat 29 22)) (BitVec.ofNat 16 (bitsOf w0.toNat 21 6))
  | none => false

end Sys2Proof.Machine
end

