-- ==== Sys2Proof/Machine/VecMem.lean ====
section
/-!
DEFINITION. Vector memory instructions: segments and global memory, gathers and scatters (R176 to R180), accumulator
images (R148 to R150) and pipes (R181, R271, R272).
-/
namespace Sys2Proof.Machine

/-- A vector register's 256 bytes (R124). -/
def vregBytes (v : VReg) : List Byte := v.toList.flatMap fun w => leBytes 4 w.toNat

/-- A vector register from 256 bytes. -/
def vregOfBytes (bs : List Byte) : VReg := lanesOf fun i => BitVec.ofNat 32 (leNat ((bs.drop (4 * i)).take 4))

/-- A vector destination of a load. -/
def State.vDest (s : State) (v : BitVec 5) (mask : BitVec 64) (l : VReg) : List (Reg × RegVal) :=
  [(.v (physV s.issue.rrb v.toNat), .v mask l)]

/-- The post-step of an offset register (R177). -/
def State.postStep (s : State) (o : BitVec 6) (x : X64) (m : BitVec 2) : State :=
  if m = 1 then s.writeX o (x + 256) 1 else s

/-- Every byte of a vector on the overflow path is checked; a fault names the lane of the byte that fails (R158, R343). -/
def State.checkVector (s : State) (va : Nat) (write : Bool) : Except Halt (List Nat) :=
  match s.locs s.icore va 256 write with
  | .ok ls => .ok ls
  | .error e => s.accessTrap ((e.2 - va) / 4) (.error e)

/-- VLDS (R177). -/
def execVlds (g : BitVec 4) (v : BitVec 5) (y : BitVec 8) (o : BitVec 6) (m : BitVec 2) (s : State) :
    Host.Outcome State Fault Refusal :=
  segOp g s do
    let x ← s.readX o
    let p ← s.segPlace y.toNat (s.stepped x) 256 true
    match p.1 with
    | .here id off => do
      s.soundSeg id off 256
      .ok ((p.2.writeV v (BitVec.allOnes 64) (vregOfBytes (s.ccs.segRead id off 256)) 6).postStep o x m)
    | .there va =>
      let ls ← s.checkVector va false
      .ok (((p.2.touchAll s.icore va 256 ls false).globalLoad
        (s.vDest v (BitVec.allOnes 64) (vregOfBytes (s.bytesAt ls))) (s.physOf va) (countFrom va 256) ls).postStep o x m)

/-- VSTS (R177). -/
def execVsts (g : BitVec 4) (v : BitVec 5) (y : BitVec 8) (o : BitVec 6) (m : BitVec 2) (s : State) :
    Host.Outcome State Fault Refusal :=
  segOp g s do
    let r ← s.readV v
    let x ← s.readX o
    let p ← s.segPlace y.toNat (s.stepped x) 256 true
    match p.1 with
    | .here id off => .ok ((p.2.sstore s.icore id off (vregBytes r)).postStep o x m)
    | .there va =>
      let ls ← s.checkVector va true
      .ok ((p.2.storeAt va 256 ls (vregBytes r)).postStep o x m)

/-- The selected lane numbers, ascending. -/
def selected (k : BitVec 64) : List Nat := (List.range 64).filter fun i => k.getLsbD i

/-- Translation of every selected lane before any is accessed; the lowest failing lane is reported (R176). -/
def State.checkLanes (s : State) (addr : Nat → Nat) (write : Bool) : List Nat → Except Halt (List (Nat × List Nat))
  | [] => .ok []
  | i :: r => do
    let ls ← s.check (addr i) 4 i write
    let rest ← State.checkLanes s addr write r
    .ok ((i, ls) :: rest)

/-- A global gather of the selected lanes (R176, R178, R180). -/
def State.gather (s : State) (v : BitVec 5) (k : BitVec 64) (addr : Nat → Nat) : Except Halt State := do
  let ls ← s.checkLanes addr false (selected k)
  let vals := ls.map fun p => (p.1, leNat (s.bytesAt p.2))
  let t := ls.foldl (fun t p => t.touchAll s.icore (addr p.1) 4 p.2 false) s
  let phys := match ls with
    | p :: _ => s.physOf (addr p.1)
    | [] => 0
  .ok (t.globalLoad
    (s.vDest v k (lanesOf fun i => BitVec.ofNat 32 (((vals.find? fun p => p.1 == i).map (·.2)).getD 0))) phys
    (ls.flatMap fun p => countFrom (addr p.1) 4) (ls.flatMap (·.2)))

/-- A global scatter in ascending lane order (R176). -/
def State.scatter (s : State) (r : VReg) (k : BitVec 64) (addr : Nat → Nat) : Except Halt State := do
  let ls ← s.checkLanes addr true (selected k)
  .ok (ls.foldl (fun t p => t.storeAt (addr p.1) 4 p.2 (leBytes 4 (r.lane p.1).toNat)) s)

/-- Lane addresses of VLDG and VSTG (R178). -/
def laneAddress (x : X64) (i : Nat) : Nat := (x + BitVec.ofNat 64 (4 * i)).toNat
/-- Lane addresses of VGTG and VSCG (R180). -/
def indexAddress (x : X64) (v : VReg) (i : Nat) : Nat := (x + (v.lane i).signExtend 64).toNat

def execVldg (g : BitVec 4) (v : BitVec 5) (x : BitVec 6) (m : BitVec 3) (s : State) : Host.Outcome State Fault Refusal :=
  slotOp g s do
    let k ← s.readM m
    let a ← s.readX x
    s.gather v k (laneAddress a)

def execVstg (g : BitVec 4) (v : BitVec 5) (x : BitVec 6) (m : BitVec 3) (s : State) : Host.Outcome State Fault Refusal :=
  slotOp g s do
    let k ← s.readM m
    let a ← s.readX x
    let r ← s.readV v
    s.scatter r k (laneAddress a)

def execVgtg (g : BitVec 4) (v : BitVec 5) (x : BitVec 6) (i : BitVec 5) (m : BitVec 3) (s : State) :
    Host.Outcome State Fault Refusal :=
  slotOp g s do
    let k ← s.readM m
    let a ← s.readX x
    let idx ← s.readV i
    s.gather v k (indexAddress a idx)

def execVscg (g : BitVec 4) (v : BitVec 5) (x : BitVec 6) (i : BitVec 5) (m : BitVec 3) (s : State) :
    Host.Outcome State Fault Refusal :=
  slotOp g s do
    let k ← s.readM m
    let a ← s.readX x
    let idx ← s.readV i
    let r ← s.readV v
    s.scatter r k (indexAddress a idx)

/-- Lane offsets of VGTS and VSCS (R157, R179). -/
def State.laneOffset (s : State) (v : VReg) (i : Nat) : Nat := s.stepped ((v.lane i).setWidth 64)

/-- The segment of a gather or scatter with the bounds of every selected lane checked (R176). -/
def State.segLanes (s : State) (name : Nat) (k : BitVec 64) (off : Nat → Nat) : Except Halt (Nat × State) :=
  match s.findSeg name .access with
  | .error h => .error h
  | .ok (id, g) =>
    match (selected k).find? fun i => decide (g.bytes < off i + 4) with
    | some i =>
      -- a segment that is not resident blocks the bundle first (R36, R159)
      if g.state ≠ .resident then .ok (id, s.useSeg id g) else .error (s.trapHere segBound 0 (name + 2 ^ 8 * i))
    | none => .ok (id, s.useSeg id g)

/-- VGTS: the segment is read at issue, the data are delivered as a global load's (R176, R179). -/
def execVgts (g : BitVec 4) (v : BitVec 5) (y : BitVec 8) (i : BitVec 5) (m : BitVec 3) (s : State) :
    Host.Outcome State Fault Refusal :=
  segOp g s do
    let k ← s.readM m
    let idx ← s.readV i
    let e ← s.segLanes y.toNat k (s.laneOffset idx)
    (selected k).forM fun l => s.soundSeg e.1 (s.laneOffset idx l) 4
    .ok (e.2.loadResult .segment
      (s.vDest v k (lanesOf fun l => BitVec.ofNat 32 (leNat (s.ccs.segRead e.1 (s.laneOffset idx l) 4)))) 0 0)

/-- VSCS in ascending lane order (R176, R179). -/
def execVscs (g : BitVec 4) (v : BitVec 5) (y : BitVec 8) (i : BitVec 5) (m : BitVec 3) (s : State) :
    Host.Outcome State Fault Refusal :=
  segOp g s do
    let k ← s.readM m
    let idx ← s.readV i
    let r ← s.readV v
    let e ← s.segLanes y.toNat k (s.laneOffset idx)
    .ok ((selected k).foldl (fun t l => t.sstore s.icore e.1 (s.laneOffset idx l) (leBytes 4 (r.lane l).toNat)) e.2)

/-! ### Accumulator images -/

/-- KSAVE (R149). -/
def execKsave (g : BitVec 4) (k : BitVec 3) (y : BitVec 8) (o : BitVec 6) (s : State) : Host.Outcome State Fault Refusal :=
  segOp g s do
    let l ← s.readK k
    let x ← s.readX o
    let p ← s.segPlace y.toNat (s.stepped x) 520 false
    match p.1 with
    | .here id off => .ok (p.2.sstore s.icore id off l.image)
    | .there _ => .ok p.2

/-- The image an instruction names, as the bundle's earlier stores leave it; none while its segment is not resident, where
the bundle does not issue and nothing of the image is checked (R36, R159). -/
def State.kImage (s : State) (y : BitVec 8) (o : BitVec 6) : Except Halt (Option (List Byte) × State) := do
  let x ← s.readX o
  let p ← s.segPlace y.toNat (s.stepped x) 520 false
  match p.1 with
  | .here id off => do
    s.soundSeg id off 520
    .ok (if p.2.issue.absent then none else some (s.ccs.segRead id off 520), p.2)
  | .there _ => .ok (none, p.2)

/-- KLOAD (R150). -/
def execKload (g : BitVec 4) (k : BitVec 3) (y : BitVec 8) (o : BitVec 6) (s : State) : Host.Outcome State Fault Refusal :=
  segOp g s do
    let _ ← s.hazard (.k k.toNat)
    let im ← s.kImage y o
    match im.1 with
    | none => .ok im.2
    | some bytes =>
      let h := KHeader.ofBytes bytes
      match KType.ofCode h.type with
      | none => .error (im.2.trapHere illegalOp 4 0)
      | some t =>
        if h.cap = 0 ∨ 64 < h.cap ∨ 64 < h.len ∨ 1 < h.dir then .error (im.2.trapHere illegalOp 4 0)
        else .ok (im.2.updateK k (.load s.exposed h.cap (h.dir == 1) t (imageEntries bytes h.len) h.nanDropped) 6)

/-- KMRGS (R150). -/
def execKmrgs (g : BitVec 4) (k : BitVec 3) (y : BitVec 8) (o : BitVec 6) (s : State) : Host.Outcome State Fault Refusal :=
  segOp g s do
    let l ← s.readK k
    let im ← s.kImage y o
    match im.1 with
    | none => .ok im.2
    | some bytes =>
      let h := KHeader.ofBytes bytes
      if h.dir ≠ l.smallest.toNat ∨ h.type ≠ l.type.code ∨ 64 < h.len then .error (im.2.trapHere illegalOp 4 0)
      else .ok (im.2.updateK k (.merge s.exposed (imageEntries bytes h.len) h.nanDropped) 6)

/-! ### Pipes (R181, R272) -/

/-- A pipe of the issuing core with its segment; a number with none bound raises SEG_UNDEFINED. -/
def State.pipeHere (s : State) (p : BitVec 3) : Except Halt (Pipe × State) :=
  let q := (s.ccs.pipes[p.toNat]?).getD .unbound
  match q.seg with
  | none => .error (s.trapHere segUndefined 0 ((Config.openValue 0).toNat % 256))
  | some id =>
    match s.ccs.seg id with
    | none => .error (s.trapHere segUndefined 0 ((Config.openValue 0).toNat % 256))
    | some g => .ok (q, s.useSeg id g)

/-- The elements held, token marks apart. -/
def Pipe.count (p : Pipe) : Nat := (p.elems.filter Option.isSome).length

/-- An element taken: an empty pipe returns its extra granules to the pool (R273). -/
def CoreState.pipeTake (v : CoreState) (n : Nat) (p : Pipe) (rest : List (Option VReg)) : CoreState :=
  let p1 := { p with elems := rest }
  if p1.count = 0 then
    { v with pipes := v.pipes.setIfInBounds n { p1 with cap := p.cap - p.extra, extra := 0 }, poolFree := v.poolFree + p.extra }
  else { v with pipes := v.pipes.setIfInBounds n p1 }

/-- PGET (R181): blocked while the pipe is empty or a token stands first (R274). -/
def execPget (g : BitVec 4) (v : BitVec 5) (p : BitVec 3) (s : State) : Host.Outcome State Fault Refusal :=
  segOp g s do
    let e ← s.pipeHere p
    match e.1.elems with
    | some l :: rest =>
      .ok ((e.2.modCcs fun w => w.pipeTake p.toNat e.1 rest).loadResult .segment
        (s.vDest v (BitVec.allOnes 64) l) 0 0)
    | _ => .error (.blocked (.pipeGet p.toNat))

/-- PPUT (R181): blocked while the pipe is full; the loader's first put lets a stop go on (R274). -/
def execPput (g : BitVec 4) (v : BitVec 5) (p : BitVec 3) (s : State) : Host.Outcome State Fault Refusal :=
  segOp g s do
    let r ← s.readV v
    let e ← s.pipeHere p
    if e.1.cap ≤ e.1.count then .error (.blocked (.pipePut p.toNat))
    else
      .ok (e.2.modCcs fun w =>
        let w1 := match e.1.seg with
          | some id => w.modSeg id fun g => { g with dirty := true }
          | none => w
        { w1 with
          pipes := w1.pipes.setIfInBounds p.toNat { e.1 with elems := e.1.elems ++ [some r], writer := some s.ictx }
          gang := w1.gang.map fun q => { q with put := q.put || (q.stopping && s.ictx == 0) } })

end Sys2Proof.Machine
end

