-- ==== Sys2Proof/Machine/Task.lean ====
section
/-!
DEFINITION. Range tasks: drawing, ending and receiving parts (R22, R25, R26, R265 to R268), posts and overflow rings
(R27, R263, R264), gangs (R269), pipe enlargement (R273) and the stop token (R274).
-/
namespace Sys2Proof.Machine

/-! ### Drawing and ending parts -/

/-- The chunk a TKNEXT claims: its bounds and the cursor after it (R266), computed without wrap. -/
def chunk (lo hi : X64) (grain : Nat) : X64 × X64 × X64 :=
  if hi.toInt ≤ lo.toInt then (hi, hi, lo)
  else
    let e := if lo.toInt + grain < hi.toInt then lo + BitVec.ofNat 64 grain else hi
    (lo, e, e)

/-- TKNEXT (R266): without a part it writes 0 to both registers. -/
def execTknext (g : BitVec 4) (d : BitVec 6) (s : State) : Host.Outcome State Fault Refusal :=
  slotOp g s
    (let c := s.cx
    let r := if c.task.isSome then chunk c.tklo c.tkhi c.tkgrain.toNat else (0, 0, c.tklo)
    .ok ((s.modCx fun c => { c with tklo := r.2.2 }).loadResult .tknext (s.xDest d r.1 ++ s.xDest (d + 1) r.2.1) 0 0))

/-- TKDONE (R267): without a part it raises ILLEGAL_OP with DCODE 6. -/
def execTkdone (g : BitVec 4) (s : State) : Host.Outcome State Fault Refusal :=
  slotOp g s (if s.cx.task.isSome then .ok (s.afterwards .tkdone) else .error (s.trapHere illegalOp 6 0))

/-- TKWAIT (R267). -/
def execTkwait (g : BitVec 4) (s : State) : Host.Outcome State Fault Refusal := slotOp g s (.ok (s.afterwards .tkwait))

/-- The last part of a task has ended on a core: its action fires where TKDONE or TKWAIT ended it (R22, R268). -/
def State.endTask (s : State) (core id : Nat) (fires : Bool) : State :=
  match s.tasks.get id with
  | none => s
  | some t =>
    let s1 : State := { s with tasks := s.tasks.del id }
    if fires then s1.taskAction core t else s1

/-- A member of a gang ends its part; the third retires the gang (R269), and a drain under way ends with it: its tokens are gone
(R274, log 31). -/
def State.endMember (s : State) (core k : Nat) (q : Gang) (fires : Bool) : State :=
  let live := q.live.filter fun m => m != k
  if live.isEmpty then
    (s.modCS core fun v =>
      { v with
        gang := none
        ctxs := v.ctxs.map fun c => { c with parked := false }
        pipes := v.pipes.map fun p => { p with elems := p.elems.filter Option.isSome } }).endTask core q.task fires
  else s.modCS core fun v => { v with gang := some { q with live := live } }

/-- A context's part ends: chunks left become an orphaned part of the quad; a part with none left is one part fewer, and
the last fires the task's action, unless HALT ended it (R22, R267; log 29). -/
def State.endPart (s : State) (core k : Nat) (fires : Bool) : State :=
  let c := s.ctx core k
  match c.task with
  | none => s
  | some id =>
    let s1 := s.modCtx core k fun c => { c with task := none }
    let member := (s.cs core).gang.filter fun q => q.task == id && q.live.contains k
    match member with
    | some q => s1.endMember core k q fires
    | none =>
      if c.tklo.toInt < c.tkhi.toInt then
        s1.modQuad (quadOf core) fun q => { q with orphans := q.orphans ++ [(id, c.tklo, c.tkhi)] }
      else
        match s1.tasks.get id with
        | none => s1
        | some t =>
          if t.parts ≤ 1 then s1.endTask core id fires
          else { s1 with tasks := s1.tasks.put id { t with parts := t.parts - 1 } }

/-- A context leaves its work: pending results land, an open region closes, its part ends (R91, R267, R357). -/
def State.retire (s : State) (core k : Nat) (run : Run) : State :=
  let held := (s.ctx core k).held.filterMap (·.ticket)
  let s1 := s.modCS core fun v => held.foldl (fun v t => v.endTicket (some t)) v
  (s1.modCtx core k fun c => { c.landCycles.landBundles.arriveAll with run := run, region := none }).endPart core k (run != .halted)

/-! ### Receiving parts -/

/-- The first kernel entry of a starting address (R304). -/
def CoreState.kernelAt (v : CoreState) (entry : Nat) : Option Nat :=
  (v.kernels.find? fun k => bitsOf k.toNat 16 0 == entry).map BitVec.toNat

/-- The mode of a kernel (R63, R304). -/
def Ctx.kernelMode (c : Ctx) (k : Option Nat) : Ctx :=
  match k with
  | some w => c.setMode (bitOf w 19) (BitVec.ofNat 2 (bitsOf w 21 20))
  | none => c.setMode true 0

/-- The volatile range of a kernel (R304). -/
def kernelVol (k : Option Nat) : Nat × Nat × Nat × Nat :=
  match k with
  | some w => (bitsOf w 43 38, bitsOf w 49 44, bitsOf w 54 50, bitsOf w 60 55)
  | none => (0, 0, 0, 0)

/-- The volatile range reads as zero (R21, R58). -/
def Ctx.clearVolatile (c : Ctx) : Ctx :=
  let (xlo, xn, vlo, vn) := c.vol
  let c1 := (countFrom xlo xn).foldl (fun c n => c.setX (physX c.rrb n) 0) c
  (countFrom vlo vn).foldl (fun c n => { c with v := c.v.setIfInBounds (physV c.rrb n) (.replicate 64 0) }) c1

/-- A context receives a part (R265). -/
def State.startPart (s : State) (core k task bits : Nat) (lo hi : X64) (entry : Nat) : State :=
  let kern := (s.cs core).kernelAt entry
  -- a task that a completion event posted starts, which observes the event (R191)
  let told := s.newsAt fun p => decide (p = .task (BitVec.ofNat 512 bits) (s.partOf core))
  s.modCtx core k fun c =>
    (Ctx.clearVolatile { c.kernelMode kern with
      vol := kernelVol kern
      tklo := lo
      tkhi := hi
      tkgrain := BitVec.ofNat 64 (recGrain bits)
      tkarg := recArg bits
      tkid := BitVec.ofNat 64 (recTkid bits)
      sticky := .nop
      pc := entry
      rep := 0
      run := .running
      task := some task
      wait := .none
      waitCycles := 0 }).observe told

/-- A context is in TKWAIT and may receive work. DESIGN CHOICE (log 59): R25 says nothing of a context in TKWAIT that the
supervisor has stopped or a debug freeze holds; no work is handed to it until it is resumed. -/
def State.mayReceive (s : State) (core k : Nat) : Bool :=
  let c := s.ctx core k
  decide (c.run = .idle) && c.task.isNone && !c.parked && c.stop.isNone && !c.frozen
    && (k == 3 || (s.cs core).gang.isNone)

/-- A core whose contexts 0, 1 and 2 may take a gang (R269). -/
def State.mayHost (s : State) (core : Nat) : Bool := (List.range 3).all fun k => s.mayReceive core k

/-- The better of two records: higher priority, then older (R25). -/
def QueueRec.before (a b : QueueRec) : Bool := decide (b.prio < a.prio) || (a.prio == b.prio && decide (a.posted < b.posted))

/-- The record a context of a partition receives next, by index; gang records count where the core may host one. -/
def Quad.best (q : Quad) (part : Nat) (host : Bool) : Option (Nat × QueueRec) :=
  (q.queue.zipIdx).foldl (fun best e =>
    if e.1.part ≠ part ∨ (recGang e.1.bits.toNat ∧ ¬ host) then best
    else match best with
      | none => some (e.2, e.1)
      | some b => if e.1.before b.2 then some (e.2, e.1) else some b) none

/-- A record leaves the queue as a task of a number of parts. -/
def State.takeRecord (s : State) (quad idx : Nat) (r : QueueRec) : State × Nat :=
  let s1 := s.modQuad quad fun q => { q with queue := q.queue.eraseIdx idx }
  ({ s1 with tasks := s1.tasks.put s.nextTask ⟨r.bits, r.part, 1⟩, nextTask := s.nextTask + 1 }, s.nextTask)

/-- A gang starts on a core (R269). -/
def State.startGang (s : State) (core idx : Nat) (r : QueueRec) : State :=
  let v := r.bits.toNat
  let t := s.takeRecord (quadOf core) idx r
  let go := fun (s : State) (k entry : Nat) => s.startPart core k t.2 v (recLo v) (recHi v) entry
  let s1 := go (go (go t.1 0 (recEntry v)) 1 (recEntryC v)) 2 (recEntryS v)
  s1.modCS core fun w => { w with gang := some ⟨t.2, [0, 1, 2], false, [], false⟩ }

/-- Grains left of a part (R25). -/
def Ctx.grains (c : Ctx) : Nat :=
  let d := (c.tkhi.toInt - c.tklo.toInt).toNat
  (d + c.tkgrain.toNat - 1) / c.tkgrain.toNat

/-- The part of a quad a split takes from: most grains left, then the lowest context; none with fewer than two grains, and
no gang part (R23, R25). -/
def State.victim (s : State) (quad part : Nat) : Option (Nat × Nat) :=
  let ctxs := (countFrom (4 * quad) 4).flatMap fun c => (List.range 4).map fun k => (c, k)
  let ok := ctxs.filter fun e =>
    let c := s.ctx e.1 e.2
    decide ((s.cs e.1).part = some part) && decide (2 ≤ c.grains)
      && (match c.task with
        | none => false
        | some id => !((s.cs e.1).gang.any fun q => q.task == id))
  ok.foldl (fun best e => match best with
    | none => some e
    | some b => if (s.ctx b.1 b.2).grains < (s.ctx e.1 e.2).grains then some e else some b) none

/-- A split of a victim's part (R25, R26): the victim keeps the lower half of its grains. -/
def State.split (s : State) (core k : Nat) (vic : Nat × Nat) : State :=
  let c := s.ctx vic.1 vic.2
  match c.task with
  | none => s
  | some id =>
    match s.tasks.get id with
    | none => s
    | some t =>
      let m := c.tklo + BitVec.ofNat 64 (c.tkgrain.toNat * ((c.grains + 1) / 2))
      let s1 := s.modCtx vic.1 vic.2 fun c => { c with tkhi := m }
      State.startPart { s1 with tasks := s1.tasks.put id { t with parts := t.parts + 1 } } core k id t.bits.toNat m c.tkhi
        (recEntry t.bits.toNat)

/-- The oldest orphaned part of a partition in a quad, by index (R25, R267). -/
def State.orphan (s : State) (quad part : Nat) : Option (Nat × Nat × X64 × X64 × Task) :=
  ((s.quad quad).orphans.zipIdx).findSome? fun e =>
    match s.tasks.get e.1.1 with
    | some t => if t.part = part then some (e.2, e.1.1, e.1.2.1, e.1.2.2, t) else none
    | none => none

/-- The core of a quad that a gang record starts on: the lowest whose context 0 would receive it (R269). -/
def State.gangHost (s : State) (quad : Nat) : Option (Nat × Nat × QueueRec) :=
  (countFrom (4 * quad) 4).findSome? fun core =>
    match (s.cs core).part with
    | none => none
    | some part =>
      if !s.mayHost core || (s.orphan quad part).isSome then none
      else match (s.quad quad).best part true with
        | some (i, r) => if recGang r.bits.toNat then some (core, i, r) else none
        | none => none

/-- TASK_RECEIPT (R25, R265): an orphaned part, then a record, then a split. A gang record starts the gang where this core
is the one to host it (R269), and is passed by where the core cannot host it. -/
def execTaskReceipt (c : BitVec 9) (k : BitVec 2) (s : State) : Host.Outcome State Fault Refusal :=
  let core := c.toNat
  let quad := quadOf core
  match (s.cs core).part with
  | none => .next s
  | some part =>
    if !s.mayReceive core k.toNat then .next s
    else
      match s.orphan quad part with
      | some (i, id, lo, hi, t) =>
        .next ((s.modQuad quad fun q => { q with orphans := q.orphans.eraseIdx i }).startPart core k.toNat id t.bits.toNat lo hi
          (recEntry t.bits.toNat))
      | none =>
        match (s.quad quad).best part (k != 3 && s.mayHost core) with
        | some (i, r) =>
          if recGang r.bits.toNat then
            .next (match s.gangHost quad with
              | some (host, j, g) => if host = core then s.startGang core j g else s
              | none => s)
          else
            let t := s.takeRecord quad i r
            let v := r.bits.toNat
            .next (t.1.startPart core k.toNat t.2 v (recLo v) (recHi v) (recEntry v))
        | none =>
          match s.victim quad part with
          | some vic => .next (s.split core k.toNat vic)
          | none => .next s

/-- GANG_START (R269). -/
def execGangStart (q : BitVec 7) (s : State) : Host.Outcome State Fault Refusal :=
  match s.gangHost q.toNat with
  | some (core, i, r) => .next (s.startGang core i r)
  | none => .next s

/-! ### Posting -/

/-- TKPOST (R264): the record is read at issue and posted at the completion event. -/
def execTkpost (g : BitVec 4) (y : BitVec 8) (o : BitVec 6) (s : State) : Host.Outcome State Fault Refusal :=
  segOp g s do
    let x ← s.readX o
    let p ← s.segPlace y.toNat (s.stepped x) 64 false
    match p.1 with
    | .there _ => .ok p.2
    | .here id off =>
      if !s.ccs.isResident id then .ok p.2
      else do
        s.soundSeg id off 64
        let bits := leNat (s.ccs.segRead id off 64)
        let quad := recQuad bits (quadOf s.icore)
        if !s.room quad (s.partOf s.icore) then .error (.blocked .queueFull)
        else match recordBad bits with
          | some b => .error (s.trapHere enginePacket 0 b)
          | none =>
            let t := p.2.command
            .ok (t.1.modQuad quad fun q =>
              { q with posts := q.posts ++ [⟨quad, s.partOf s.icore, BitVec.ofNat 512 bits, some (s.icore, t.2)⟩] })

/-- The quad and place of a TKPOST under way. -/
def State.findPost (s : State) (core id : Nat) : Option (Nat × Nat × WaitingPost) :=
  s.quads.findSome? fun e => (e.2.posts.zipIdx).findSome? fun p =>
    match p.1.tag with
    | some (c, t) => if c = core ∧ t.id = id then some (e.1, p.2, p.1) else none
    | none => none

/-- TKPOST_COMPLETE (R264): the record stands in the queue or ring. -/
def execTkpostComplete (c : BitVec 9) (id : Nat) (s : State) : Host.Outcome State Fault Refusal :=
  match s.findPost c.toNat id with
  | some (quad, i, ⟨_, part, bits, some (core, tag)⟩) =>
    if !s.room quad part then .next s
    else .next (((s.modQuad quad fun q => { q with posts := q.posts.eraseIdx i }).post quad part bits).complete core part tag)
  | _ => .next s

/-- DEFERRED_POST (R263): the first waiting post that has room is made. -/
def execDeferredPost (q : BitVec 7) (s : State) : Host.Outcome State Fault Refusal :=
  let quad := q.toNat
  match ((s.quad quad).posts.zipIdx).find? fun p => p.1.tag.isNone && s.room quad p.1.part with
  | some (p, i) => .next ((s.modQuad quad fun q => { q with posts := q.posts.eraseIdx i }).post quad p.part p.bits)
  | none => .next s

/-- The ring whose oldest record has waited longest (R263). -/
def Quad.oldestRing (q : Quad) : Option (Nat × QueueRec) :=
  q.rings.foldl (fun best e => match e.2 with
    | [] => best
    | r :: _ => match best with
      | none => some (e.1, r)
      | some b => if r.posted < b.2.posted then some (e.1, r) else some b) none

/-- OVERFLOW_REFILL (R263). -/
def execOverflowRefill (q : BitVec 7) (s : State) : Host.Outcome State Fault Refusal :=
  .next (s.modQuad q.toNat fun v =>
    if 64 ≤ v.queue.length then v
    else match v.oldestRing with
      | none => v
      | some (part, r) =>
        { v with queue := v.queue ++ [r], rings := v.rings.put part ((v.rings.read [] part).drop 1) })

/-- A record that has waited 2^16 cycles since its post or its last promotion is raised (R27). -/
def QueueRec.promote (r : QueueRec) (cycle : Nat) : QueueRec :=
  if r.prio < 3 ∧ r.raised + 65536 ≤ cycle then { r with prio := r.prio + 1, raised := r.raised + 65536 } else r

/-- TASK_PROMOTION (R27): a ring record's time counts too (R263). -/
def execTaskPromotion (q : BitVec 7) (s : State) : Host.Outcome State Fault Refusal :=
  .next (s.modQuad q.toNat fun v =>
    { v with
      queue := v.queue.map fun r => r.promote s.cycle.toNat
      rings := v.rings.map fun e => (e.1, e.2.map fun r => r.promote s.cycle.toNat) })

/-- COMPLETION_WRITE_RETRY (R268, R321): the supervisor retries a store that failed. -/
def execCompletionWriteRetry (n : Nat) (s : State) : Host.Outcome State Fault Refusal :=
  match s.failedWrites[n]? with
  | none => .next s
  | some (part, va, v, landing) =>
    match s.partLocs part va 8 true with
    | .error _ => .next s
    | .ok ls =>
      let s1 : State := { s with failedWrites := s.failedWrites.eraseIdx n }
      let told := match landing with
        | some (id, core) => s.newsAt fun p => decide (p = counterPlace id core part)
        | none => []
      .next ((((s1.spoilAll ls).putGlobal ls (leBytes 8 v.toNat) (landing.map (·.1))).announceWords ls told).runActions actionFuel)

/-! ### Pipes of a gang -/

/-- A bound pipe holds as many elements as its capacity. -/
def Pipe.full (p : Pipe) : Bool := p.seg.isSome && decide (p.cap ≤ p.count)

/-- The full pipe of smallest capacity, and among equals the lowest number (R273). -/
def CoreState.fullPipe (v : CoreState) : Option (Nat × Pipe) :=
  (v.pipes.toList.zipIdx).foldl (fun best e =>
    if !e.1.full then best
    else match best with
      | none => some (e.2, e.1)
      | some b => if e.1.cap < b.2.cap then some (e.2, e.1) else some b) none

/-- Contexts 0, 1 and 2 of a core with a gang are all blocked under R28: a member that has ended its part stands in TKWAIT or
HALT and counts as blocked (R25, R267; log 11). -/
def CoreState.gangBlocked (v : CoreState) : Bool :=
  v.gang.any fun q => (List.range 3).all fun k =>
    let c := v.ctx k
    c.stop.isNone && !c.frozen
      && (!q.live.contains k || (decide (c.run = .running) && !c.parked && decide (c.wait ≠ .none)))

/-- PIPE_ENLARGE (R273): with no free granule in the pool, GANG_DEADLOCK stops context 0. -/
def execPipeEnlarge (c : BitVec 9) (s : State) : Host.Outcome State Fault Refusal :=
  let core := c.toNat
  let v := s.cs core
  if !v.gangBlocked then .next s
  else
    match v.fullPipe with
    | none => .next s
    | some (n, p) =>
      let gain := Nat.min p.cap v.poolFree
      if v.poolFree = 0 then
        let x := v.ctx 0
        .next (s.takeTrap core 0 0x0F 0 (match x.wait with
          | .pipePut _ => 3
          | _ => 7) n x.pc x.rep)
      else
        .next (s.modCS core fun v =>
          { v with
            pipes := v.pipes.setIfInBounds n { p with cap := p.cap + gain, extra := p.extra + gain }
            poolFree := v.poolFree - gain })

/-! ### The stop token (R274) -/

/-- A token behind the elements of every pipe a context wrote last. -/
def CoreState.tokens (v : CoreState) (writer : Nat) : CoreState :=
  { v with pipes := v.pipes.map fun p => if p.writer = some writer then { p with elems := p.elems ++ [none] } else p }

/-- A member parks. -/
def CoreState.parkMember (v : CoreState) (k : Nat) : CoreState :=
  { v.setCtx k { v.ctx k with parked := true } with gang := v.gang.map fun q => { q with stopped := addTo q.stopped k } }

/-- The pipe whose first place holds the token a context's PGET meets. -/
def CoreState.atToken (v : CoreState) (k : Nat) : Option Nat :=
  match (v.ctx k).wait with
  | .pipeGet p =>
    match ((v.pipes[p]?).getD .unbound).elems with
    | none :: _ => some p
    | _ => none
  | _ => none

/-- The token at the head of a pipe is removed. -/
def CoreState.dropToken (v : CoreState) (p : Nat) : CoreState :=
  let q := (v.pipes[p]?).getD .unbound
  { v with pipes := v.pipes.setIfInBounds p { q with elems := q.elems.drop 1 } }

/-- The three members are parked. -/
def CoreState.gangParked (v : CoreState) : Bool := v.gang.isSome && (List.range 3).all fun k => (v.ctx k).parked

/-- A drain is over once the three members have parked; tokens then left in a pipe are gone. -/
def CoreState.endDrain (v : CoreState) : CoreState :=
  match v.gang with
  | some q =>
    if q.stopping && decide (3 ≤ q.stopped.length) then
      { v with
        gang := some { q with stopping := false }
        pipes := v.pipes.map fun p => { p with elems := p.elems.filter Option.isSome } }
    else v
  | none => v

/-- One step of a drain: loader, then computer, then storer (R274). The loader parks outside a non-preemptible region only;
a member that stands parked from an earlier drain, or has ended its part, forwards the token as it is (log 31). -/
def CoreState.drainMembers (v : CoreState) : CoreState :=
  match v.gang with
  | none => v
  | some q =>
    if !q.stopping then v
    else
      let ended := fun k => !q.live.contains k || ((v.ctx k).parked && !q.stopped.contains k)
      let w0 := (v.ctx 0).wait
      let loaderStops := ended 0 || ((v.ctx 0).region.isNone && (q.put || (decide (w0 ≠ .none) && (match w0 with
        | .pipePut _ => false
        | _ => true))))
      let v := if !q.stopped.contains 0 && loaderStops then (v.tokens 0).parkMember 0 else v
      let parked := fun (v : CoreState) k => v.gang.any fun q => q.stopped.contains k
      let v := if parked v 1 then v
        else if ended 1 then (if parked v 0 then (v.tokens 1).parkMember 1 else v)
        else match v.atToken 1 with
          | some p => ((v.dropToken p).tokens 1).parkMember 1
          | none => v
      if parked v 2 then v
      else if ended 2 then (if parked v 1 then v.parkMember 2 else v)
      else match v.atToken 2 with
        | some p => (v.dropToken p).parkMember 2
        | none => v

/-- A cycle of a drain. -/
def CoreState.drainStep (v : CoreState) : CoreState := v.drainMembers.endDrain

/-- A drain begins (R274). -/
def State.beginDrain (s : State) (core : Nat) : State :=
  s.modCS core fun v => { v with gang := v.gang.map fun q => { q with stopping := true, stopped := [], put := false } }

/-- PSTOP (R274): in user mode PRIV; on a core with no gang it completes at once; it blocks until the three members have
parked, and tokens then left in a pipe are gone. -/
def execPstop (g : BitVec 4) (a : BitVec 6) (s : State) : Host.Outcome State Fault Refusal :=
  slotOp g s do
    let x ← s.readX a
    if !s.issue.mode.priv then .error (s.trapHere 4 0 0x1C)
    else if 64 ≤ x.toNat then .error (s.trapHere illegalOp 0 0)
    else
      let core := 64 * dieOf s.icore + x.toNat
      match (s.cs core).gang with
      | none => .ok s
      | some q =>
        if (s.cs core).gangParked then .ok (s.modCS core CoreState.endDrain)
        else if q.stopping then .error (.blocked .pstop)
        else .ok (s.modIssue fun i => { i with start := some (.pstop core), verdict := some (.blocked .pstop) })

end Sys2Proof.Machine
end

