-- ==== Sys2Proof/Machine/Context.lean ====
section
/-!
DEFINITION. What befalls a context between its bundles: the supervisor's actions (R32, R348), results that arrive (R67,
R68, R99, R266, R297, R324), run limits, timeouts and long waits (R29, R62, R94) and NPR_OVERRUN (R357).
-/
namespace Sys2Proof.Machine

/-! ### The supervisor (R32, R348) -/

/-- A context whose stop ends goes on with no wait of its own noted. -/
def Ctx.cleared (c : Ctx) : Ctx :=
  { c with
    stop := none
    preempt := false
    wait := .none
    waitCycles := 0
    waitCounted := false
    waitwEnded := false }

/-- Where a plain resume reissues: TPC after a trap or a service request, the place of the stop otherwise (R346, R348, R350). -/
def Ctx.resumeAt (c : Ctx) (st : Stop) : Nat × Nat :=
  match st.cause with
  | .trap => (c.tpc.toNat, bitsOf c.tinfo.toNat 53 51)
  | .service => (c.tpc.toNat, 0)
  | .nested | .preempt => (st.pc, st.rep)

/-- SUPERVISOR_RESUME (R348): the context reissues. A gang member parked by a stop token that has done its work goes on
too (R274). -/
def execSupervisorResume (c : BitVec 9) (k : BitVec 2) (s : State) : Host.Outcome State Fault Refusal :=
  let v := s.cs c.toNat
  let x := v.ctx k.toNat
  let drained := v.gang.all fun q => !q.stopping && q.live.contains k.toNat
  match x.stop with
  | some st =>
    let r := x.resumeAt st
    .next (s.modCtx c.toNat k.toNat fun y => { y.cleared with pc := r.1, rep := r.2 })
  | none => .next (if x.parked ∧ drained then s.modCtx c.toNat k.toNat fun y => { y with parked := false } else s)

/-- A bundle address in the firmware area of the resident region (R161, R348). -/
def firmwareEntry (a : Nat) : Bool := decide (0xC00 ≤ a) && decide (a < 0x1000) && a % 4 == 0

/-- RESUME_PRIVILEGED (R348): the user PC stands in TPC, and the routine has an environment of its own. Results counted in
cycles that are still pending land first, and the routine's first bundle waits for them (R68). -/
def execResumePrivileged (c : BitVec 9) (k : BitVec 2) (entry : BitVec 17) (s : State) :
    Host.Outcome State Fault Refusal :=
  let x := s.ctx c.toNat k.toNat
  match x.stop with
  | some st =>
    if firmwareEntry entry.toNat then
      let r := x.resumeAt st
      let at_ := if st.cause = .service then none else some r.1
      .next (s.modCtx c.toNat k.toNat fun y =>
        { { y.cleared.landCycles with tpc := BitVec.ofNat 64 r.1 }.enterEnv true at_ entry.toNat with
          readyAt := Nat.max y.readyAt (s.cycle.toNat + y.lastLanding) })
    else .next s
  | none => .next s

/-- A pre-emption that waits takes effect at a bundle boundary outside a region, and of a gang member once the stop token has
parked it; a member that leaves its region after a drain is drained again (R32, R274, R357; log 31). -/
def CoreState.settlePreempt (v : CoreState) (k : Nat) : CoreState :=
  let x := v.ctx k
  let member := v.gang.any fun q => q.live.contains k
  if !x.preempt || x.stop.isSome || x.region.isSome then v
  else if member && !x.parked then
    { v with gang := v.gang.map fun q => if q.stopping then q else { q with stopping := true, stopped := [], put := false } }
  else v.setCtx k { x with preempt := false, stop := some ⟨.preempt, x.pc, x.rep⟩ }

/-- PREEMPT_CONTEXT (R32): a gang is drained first (R274). -/
def execPreemptContext (c : BitVec 9) (k : BitVec 2) (s : State) : Host.Outcome State Fault Refusal :=
  let core := c.toNat
  let s1 := s.modCtx core k.toNat fun x => if x.stop.isNone then { x with preempt := true } else x
  let s2 := if (s1.cs core).gang.any fun q => q.live.contains k.toNat && !q.stopping && !(s1.ctx core k.toNat).parked then
      s1.beginDrain core
    else s1
  .next (s2.modCS core fun v => v.settlePreempt k.toNat)

/-- A register that the context's own code only reads or that changes with its bundles, as the supervisor writes it
(R348; log 39). -/
def Ctx.readOnlyWrite (c : Ctx) (crn : Nat) (x : X64) : Ctx :=
  match crn with
  | 0x0B => { c with tcause := x.setWidth 8 }
  | 0x0C => { c with tinfo := x }
  | 0x18 | 0x19 | 0x1A | 0x1B | 0x1C | 0x1D | 0x1E | 0x1F => c.land (.kth (crn - 0x18)) (.kth (x.setWidth 32))
  | 0x30 => { c with tklo := x }
  | 0x31 => { c with tkhi := x }
  | 0x32 => { c with tkgrain := x }
  | 0x33 => { c with tkarg := x }
  | 0x34 => { c with tkid := x }
  | _ => c

/-- A ranked list as an image's header and its entries give it (R148, R150); none where KLOAD refuses the header. -/
def rankedOf (header : BitVec 64) (entries : List (BitVec 64)) : Option KUpdate :=
  let h := KHeader.ofBytes (leBytes 8 header.toNat)
  if h.cap = 0 ∨ 64 < h.cap ∨ 64 < h.len ∨ 1 < h.dir then none
  else (KType.ofCode h.type).map fun t => .load false h.cap (h.dir == 1) t
    (imageEntries (leBytes 8 0 ++ entries.flatMap fun e => leBytes 8 e.toNat) h.len) h.nanDropped

/-- STOPPED_CONTEXT_WRITE (R348): by the names the context's code uses (R59). DESIGN CHOICE (log 39): R122 names the
supervisor's writes in the row of M1 to M7 alone, R348 lets it write the stopped context's registers; the model follows R348
for every register that belongs to the context, V0 to V31, K0 to K7, KTH, TCAUSE, TINFO and the registers of the task part
among them, and a header that KLOAD refuses writes no K register. -/
def execStoppedContextWrite (c : BitVec 9) (k : BitVec 2) (r : StopReg) (v : BitVec 64) (s : State) :
    Host.Outcome State Fault Refusal :=
  let core := c.toNat
  if (s.ctx core k.toNat).stop.isNone then .next s
  else
    .next (match r with
      | .x n => s.modCtx core k.toNat fun x => if n.toNat < 48 then x.land (.x (physX x.rrb n.toNat)) (.x v) else x
      | .p n => s.modCtx core k.toNat fun x => x.land (.p (physP x.rrb n.toNat)) (.p (v.getLsbD 0))
      | .m n => s.modCtx core k.toNat fun x => x.land (.m n.toNat) (.m v)
      | .lane n l => s.modCtx core k.toNat fun x =>
        let p := physV x.rrb n.toNat
        { x with v := x.v.setIfInBounds p ((x.getV p).setIfInBounds l.toNat (v.setWidth 32)) }
      | .k n entries => s.modCtx core k.toNat fun x => match rankedOf v entries with
        | some u => x.land (.k n.toNat) (.k u)
        | none => x
      | .control crn => (s.crnWrite core k.toNat crn.toNat v).modCtx core k.toNat fun x => x.readOnlyWrite crn.toNat v)

/-! ### Results -/

/-- FIXED_LATENCY_LANDING (R68). -/
def execFixedLatencyLanding (c : BitVec 9) (k : BitVec 2) (s : State) : Host.Outcome State Fault Refusal :=
  .next (s.modCtx c.toNat k.toNat fun x => x.landDue)

/-- GLOBAL_LOAD_ARRIVAL (R67): data with an uncorrectable error leave the destination pending (R175). -/
def execGlobalLoadArrival (c : BitVec 9) (k : BitVec 2) (id : Nat) (bad : Bool) (s : State) :
    Host.Outcome State Fault Refusal :=
  .next (s.modCtx c.toNat k.toNat fun x =>
    match x.loads.find? fun l => l.id == id with
    | some l =>
      if (l.kind = .memory ∨ l.kind = .segment) ∧ ¬ l.bad then
        (if bad ∨ l.err then { x with loads := x.loads.map fun m => if m.id = id then { m with bad := true } else m } else x.arrive id)
      else x
    | none => x)

/-- A result delivered as a global load's arrives. -/
def resultArrives (c : BitVec 9) (k : BitVec 2) (id : Nat) (kind : LoadKind) (s : State) : Host.Outcome State Fault Refusal :=
  .next (s.modCtx c.toNat k.toNat fun x =>
    match x.loads.find? fun l => l.id == id with
    | some l => if l.kind = kind ∧ l.due ≤ s.cycle.toNat then x.arrive id else x
    | none => x)

/-- ISUM_RESULT (R99): from the cycle of delivery on. -/
def execIsumResult (c : BitVec 9) (k : BitVec 2) (id : Nat) (s : State) : Host.Outcome State Fault Refusal :=
  resultArrives c k id .isum s

/-- TKNEXT_RESULT (R266). -/
def execTknextResult (c : BitVec 9) (k : BitVec 2) (id : Nat) (s : State) : Host.Outcome State Fault Refusal :=
  resultArrives c k id .tknext s

/-- SGSTAT_RESULT (R297). -/
def execSgstatResult (c : BitVec 9) (k : BitVec 2) (id : Nat) (s : State) : Host.Outcome State Fault Refusal :=
  resultArrives c k id .sgstat s

/-- LDREAD_RESULT (R324). -/
def execLdreadResult (c : BitVec 9) (k : BitVec 2) (id : Nat) (s : State) : Host.Outcome State Fault Refusal :=
  resultArrives c k id .ldread s

/-! ### Limits -/

/-- A context that may issue as far as its notes say: it runs, is held by nothing and waits for nothing. -/
def Ctx.looksReady (c : Ctx) : Bool :=
  decide (c.run = .running) && c.stop.isNone && !c.frozen && !c.parked && !c.swapStop && c.arrivals.isEmpty
    && decide (c.wait = .none)

/-- ISSUE_RUN_LIMIT (R29, R42): not between the repetitions of a bundle. The search of the next cycle begins behind the
last issuer; its count starts again when another context issues. -/
def execIssueRunLimit (c : BitVec 9) (s : State) : Host.Outcome State Fault Refusal :=
  let v := s.cs c.toNat
  let other := (List.range 4).any fun k => k != v.lastIssuer && (v.ctx k).looksReady && decide ((v.ctx k).readyAt ≤ s.cycle.toNat)
  if decide (65536 ≤ v.runCount) && (v.ctx v.lastIssuer).rep == 0 && other then
    .next (s.modCS c.toNat fun w => { w with runOver := true })
  else .next s

/-- An arrival is withdrawn (R94): a generation left without BARX arrivals has no operation. -/
def State.withdraw (s : State) (core k : Nat) (a : Arrival) : State :=
  let b := s.barrier a.key
  let left := b.arrivals.filter fun e => e.1 != 4 * core + k
  let b1 := { b with arrivals := left, op := if left.any fun e => e.2.isSome then b.op else none }
  let s1 := s.putBarrier b1
  if left.isEmpty && b1.landings.isEmpty && b1.heldLandings.isEmpty then
    { s1 with barriers := s1.barriers.filter fun e => decide (e.key ≠ a.key) }
  else s1

/-- The slot of the BAR or BARX that waits: BAR stands in the C slot, BARX in the V slot. -/
def Ctx.waitSlot (c : Ctx) : Nat := if c.arrivals.any fun a => a.barx.isNone then 0 else 2

/-- WATCHDOG (R94): every arrival of the bundle not yet released is withdrawn; a return to the bundle makes them again. -/
def execWatchdog (c : BitVec 9) (k : BitVec 2) (s : State) : Host.Outcome State Fault Refusal :=
  let core := c.toNat
  let x := s.ctx core k.toNat
  if x.arrivals.isEmpty || x.barto == 0 || decide (x.barCycles ≤ x.barto.toNat) || x.stop.isSome || x.frozen then .next s
  else
    let s1 := x.arrivals.foldl (fun t a => t.withdraw core k.toNat a) s
    let w : Withdrawn := ⟨x.held.length, x.barAt.1, x.barAt.2, x.pc, x.rep, x.arrivals⟩
    let s2 := s1.modCtx core k.toNat fun y => { y with arrivals := [], withdrawn := w :: y.withdrawn, wait := .none }
    .next (s2.takeTrap core k.toNat 0x12 0 x.waitSlot x.barCycles x.barAt.1 x.barAt.2)

/-- LONG_WAIT_EVENT (R62): once for one wait, which goes on. -/
def execLongWaitEvent (c : BitVec 9) (k : BitVec 2) (s : State) : Host.Outcome State Fault Refusal :=
  let x := s.ctx c.toNat k.toNat
  let counts := match x.wait with
    | .sync | .waits | .waitw _ _ => true
    | _ => false
  if counts && x.waitto != 0 && decide (x.waitto.toNat ≤ x.waitCycles) && !x.waitCounted then
    .next (s.modCS c.toNat fun v =>
      { v.setCtx k.toNat { v.ctx k.toNat with waitCounted := true } with mon := { v.mon with longWait := v.mon.longWait + 1 } })
  else .next s

/-- NPR_OVERRUN (R357), for a context whose bundle would issue, as the attempt just made has found (`Ctx.wouldIssue`): it
passes the checks of R36, waits for nothing and does not hold NPRE. -/
def execNprOverrun (c : BitVec 9) (k : BitVec 2) (s : State) : Host.Outcome State Fault Refusal :=
  let x := s.ctx c.toNat k.toNat
  match (s.cs c.toNat).fetch x with
  | .error _ => .next s
  | .ok b =>
    if x.overruns && x.wouldIssue && (b.check x.mode.priv (s.feature c.toNat)).isNone && !holdsNpre b.views then
      .next (s.overrun c.toNat k.toNat)
    else .next s

end Sys2Proof.Machine
end

