-- ==== Sys2Proof/Machine/Scalar.lean ====
section
/-!
DEFINITION. The scalar ALU of R49: integer (R71 to R73), predicates (R74 to R77) and floating point (R78 to R81).
-/
namespace Sys2Proof.Machine

def execAdd (g : BitVec 4) (d a b : BitVec 6) (s : State) := scalar2 g d a b 1 (fun x y => x + y) s
def execSub (g : BitVec 4) (d a b : BitVec 6) (s : State) := scalar2 g d a b 1 (fun x y => x - y) s
def execAnd (g : BitVec 4) (d a b : BitVec 6) (s : State) := scalar2 g d a b 1 (fun x y => x &&& y) s
def execOr (g : BitVec 4) (d a b : BitVec 6) (s : State) := scalar2 g d a b 1 (fun x y => x ||| y) s
def execXor (g : BitVec 4) (d a b : BitVec 6) (s : State) := scalar2 g d a b 1 (fun x y => x ^^^ y) s

/-- A shift amount from a register is its bits [5:0] (R71). -/
def shiftAmount (y : X64) : Nat := y.toNat % 64

def execShl (g : BitVec 4) (d a b : BitVec 6) (s : State) := scalar2 g d a b 1 (fun x y => x <<< shiftAmount y) s
def execShr (g : BitVec 4) (d a b : BitVec 6) (s : State) := scalar2 g d a b 1 (fun x y => x >>> shiftAmount y) s
def execSra (g : BitVec 4) (d a b : BitVec 6) (s : State) := scalar2 g d a b 1 (fun x y => x.sshiftRight (shiftAmount y)) s

def execMul (g : BitVec 4) (d a b : BitVec 6) (s : State) := scalar2 g d a b 3 (fun x y => x * y) s

/-- The high 64 bits of the product: signed, unsigned, or signed by unsigned (R72). -/
def mulHigh (u : BitVec 3) (x y : X64) : X64 :=
  match u.toNat with
  | 0 => BitVec.ofInt 64 (x.toInt * y.toInt / (2 ^ 64 : Nat))
  | 1 => BitVec.ofNat 64 (x.toNat * y.toNat / 2 ^ 64)
  | _ => BitVec.ofInt 64 (x.toInt * (y.toNat : Int) / (2 ^ 64 : Nat))

def execMulh (g : BitVec 4) (d a b : BitVec 6) (u : BitVec 3) (s : State) := scalar2 g d a b 3 (mulHigh u) s

def execDiv (g : BitVec 4) (d a b : BitVec 6) (u : BitVec 1) (s : State) := scalar2 g d a b 20 (divide (u == 1)) s
def execRem (g : BitVec 4) (d a b : BitVec 6) (u : BitVec 1) (s : State) := scalar2 g d a b 20 (remainder (u == 1)) s

def execMin (g : BitVec 4) (d a b : BitVec 6) (u : BitVec 1) (s : State) :=
  scalar2 g d a b 1 (fun x y => if below (u == 1) y x then y else x) s
def execMax (g : BitVec 4) (d a b : BitVec 6) (u : BitVec 1) (s : State) :=
  scalar2 g d a b 1 (fun x y => if below (u == 1) x y then y else x) s

/-- Leading zero bits; 64 for 0 (R71). -/
def leadingZeros (x : X64) : Nat := ((List.range 64).find? fun i => x.getLsbD (63 - i)).getD 64
/-- Trailing zero bits; 64 for 0 (R71). -/
def trailingZeros (x : X64) : Nat := ((List.range 64).find? fun i => x.getLsbD i).getD 64
/-- The bits in reverse order (R71). -/
def bitReverse (x : X64) : X64 :=
  BitVec.ofNat 64 ((List.range 64).foldl (fun n i => n + (x.getLsbD (63 - i)).toNat * 2 ^ i) 0)

def execClz (g : BitVec 4) (d a : BitVec 6) (s : State) := scalar1 g d a 1 (fun x => BitVec.ofNat 64 (leadingZeros x)) s
def execCtz (g : BitVec 4) (d a : BitVec 6) (s : State) := scalar1 g d a 1 (fun x => BitVec.ofNat 64 (trailingZeros x)) s
def execPopc (g : BitVec 4) (d a : BitVec 6) (s : State) := scalar1 g d a 1 (fun x => BitVec.ofNat 64 (popcount 64 x)) s
def execBrev (g : BitVec 4) (d a : BitVec 6) (s : State) := scalar1 g d a 1 bitReverse s

/-- Sign extension from 8, 16 or 32 bits (R71). -/
def signExtendFrom (u : BitVec 3) (x : X64) : X64 :=
  match u.toNat with
  | 0 => (x.setWidth 8).signExtend 64
  | 1 => (x.setWidth 16).signExtend 64
  | _ => (x.setWidth 32).signExtend 64

def execSext (g : BitVec 4) (d a : BitVec 6) (u : BitVec 3) (s : State) := scalar1 g d a 1 (signExtendFrom u) s
def execShadd (g : BitVec 4) (d a b : BitVec 6) (u : BitVec 3) (s : State) :=
  scalar2 g d a b 1 (fun x y => (x <<< u.toNat) + y) s
def execAddi (g : BitVec 4) (d a : BitVec 6) (i : BitVec 9) (s : State) := scalar1 g d a 1 (fun x => x + sext64 i) s
def execAndi (g : BitVec 4) (d a : BitVec 6) (i : BitVec 9) (s : State) := scalar1 g d a 1 (fun x => x &&& sext64 i) s
def execOri (g : BitVec 4) (d a : BitVec 6) (i : BitVec 9) (s : State) := scalar1 g d a 1 (fun x => x ||| sext64 i) s
def execXori (g : BitVec 4) (d a : BitVec 6) (i : BitVec 9) (s : State) := scalar1 g d a 1 (fun x => x ^^^ sext64 i) s
def execShli (g : BitVec 4) (d a : BitVec 6) (i : BitVec 9) (s : State) := scalar1 g d a 1 (fun x => x <<< i.toNat) s
def execShri (g : BitVec 4) (d a : BitVec 6) (i : BitVec 9) (s : State) := scalar1 g d a 1 (fun x => x >>> i.toNat) s
def execSrai (g : BitVec 4) (d a : BitVec 6) (i : BitVec 9) (s : State) := scalar1 g d a 1 (fun x => x.sshiftRight i.toNat) s

/-- MOVI reads no register (R71). -/
def execMovi (g : BitVec 4) (d : BitVec 6) (i : BitVec 15) (s : State) : Host.Outcome State Fault Refusal :=
  slotOp g s (.ok (s.writeX d (sext64 i) 1))

/-! ### Predicates -/

def execCmp (g : BitVec 4) (p a b : BitVec 6) (c : BitVec 3) (s : State) := pred2 g p a b 1 (cmpCond c) s
def execCmpeqi (g : BitVec 4) (p a : BitVec 6) (i : BitVec 9) (s : State) := pred1 g p a 1 (fun x => decide (x = sext64 i)) s
def execCmplti (g : BitVec 4) (p a : BitVec 6) (i : BitVec 9) (s : State) :=
  pred1 g p a 1 (fun x => decide (x.toInt < (sext64 i).toInt)) s

/-- PLOG (R75). -/
def execPlog (g : BitVec 4) (d a b t : BitVec 4) (s : State) : Host.Outcome State Fault Refusal :=
  slotOp g s do
    let x ← s.readP a.toNat
    let y ← s.readP b.toNat
    .ok (s.writeP d.toNat (truth t x y) 1)

/-- The predicates from P0 up as a number, each read under its name (R76). -/
def State.readPs (s : State) : List Nat → Except Halt Nat
  | [] => .ok 0
  | n :: r => do
    let b ← s.readP n
    let v ← State.readPs s r
    .ok (b.toNat + 2 * v)

/-- PMOVX (R76). -/
def execPmovx (g : BitVec 4) (d : BitVec 6) (s : State) : Host.Outcome State Fault Refusal :=
  slotOp g s do
    let v ← s.readPs (List.range 16)
    .ok (s.writeX d (BitVec.ofNat 64 v) 1)

/-- XMOVP writes P1 to P15 (R76). -/
def execXmovp (g : BitVec 4) (a : BitVec 6) (s : State) : Host.Outcome State Fault Refusal :=
  slotOp g s do
    let x ← s.readX a
    .ok ((countFrom 1 15).foldl (fun t n => t.writeP n (x.getLsbD n) 1) s)

/-- SEL always executes; its guard chooses (R77). -/
def execSel (g : BitVec 4) (d a b : BitVec 6) (s : State) : Host.Outcome State Fault Refusal :=
  finish s do
    let p ← s.readP g.toNat
    let x ← s.readX a
    let y ← s.readX b
    .ok (s.writeX d (if p then x else y) 1)

/-! ### Floating point (R78 to R81) -/

/-- The f32 code of a scalar source. -/
def fbits (x : X64) : Nat := x.toNat % 2 ^ 32

/-- A scalar f32 operation: the rounding of sub[1:0], the result zero-extended (R78). -/
def scalarF (g : BitVec 4) (d a b : BitVec 6) (r : BitVec 2) (f : Rm → Bool → Nat → Nat → Nat) (s : State) :
    Host.Outcome State Fault Refusal :=
  scalar2 g d a b 3 (fun x y => BitVec.ofNat 64 (f (rmOf r) s.exposed (fbits x) (fbits y))) s

def execFadd (g : BitVec 4) (d a b : BitVec 6) (r : BitVec 2) (s : State) := scalarF g d a b r f32.add s
def execFsub (g : BitVec 4) (d a b : BitVec 6) (r : BitVec 2) (s : State) := scalarF g d a b r f32.sub s
def execFmul (g : BitVec 4) (d a b : BitVec 6) (r : BitVec 2) (s : State) := scalarF g d a b r f32.mul s
def execFmin (g : BitVec 4) (d a b : BitVec 6) (r : BitVec 2) (s : State) := scalarF g d a b r (fun _ => f32.min) s
def execFmax (g : BitVec 4) (d a b : BitVec 6) (r : BitVec 2) (s : State) := scalarF g d a b r (fun _ => f32.max) s
def execFcmp (g : BitVec 4) (p a b : BitVec 6) (c : BitVec 3) (s : State) :=
  pred2 g p a b 3 (fun x y => fcmpCond c s.exposed (fbits x) (fbits y)) s
def execFcvt (g : BitVec 4) (d a : BitVec 6) (k : BitVec 4) (r : BitVec 2) (s : State) :=
  scalar1 g d a 3 (fcvt k.toNat (rmOf r) s.exposed) s

end Sys2Proof.Machine
end

