-- ==== Sys2Proof/Machine/Trans.lean ====
section
/-!
DEFINITION. Correctly rounded 2^a and log2 a (R127, R129): bounds on the exact value at growing precision, rounded
when both bounds give the same code.
-/
namespace Sys2Proof

/-- Bounds on 2^x * 2^n for x the fraction with bits `fr` of width `w`, `c` bounding the next root of 2. -/
def exp2Frac (n : Nat) : Nat → Nat → Nat × Nat → Nat × Nat → Nat × Nat
  | 0, _, _, acc => acc
  | w + 1, fr, c, acc =>
    let lo := isqrt (c.1 * 2 ^ n)
    let hi := isqrt (c.2 * 2 ^ n) + 1
    let acc' := if bitOf fr w then (acc.1 * lo / 2 ^ n, acc.2 * hi / 2 ^ n + 1) else acc
    exp2Frac n w fr (lo, hi) acc'

/-- 2^i * v where v * 2^n lies strictly between the bounds, rounded when the bounds agree. -/
def roundBetween (f : Fmt) (rm : Rm) (neg : Bool) (lo hi : Nat) (e : Int) : Option Nat :=
  let a := f.round rm false neg lo e true
  if lo ≠ 0 ∧ a = f.round rm false neg (hi - 1) e true then some a else none

/-- The first precision at which a bound decides; the last precision's lower bound when none does. -/
def firstDecided (f : Nat → Option Nat) (last : Nat) : List Nat → Nat
  | [] => last
  | n :: r => match f n with
    | some v => v
    | none => firstDecided f last r

/-- 2^a; a result below the smallest subnormal is that subnormal under RUP and +0 under the other modes (R127, R129). -/
def Fmt.exp2 (f : Fmt) (rm : Rm) (exposed : Bool) (a : Nat) : Nat :=
  f.flush exposed <|
  match f.unpack (f.flush exposed a) with
  | .nan => f.nan
  | .inf n => if n then f.withSign false 0 else f.inf false
  | .fin n m e =>
    if m = 0 then f.round rm false false 1 0 false
    else
      let s : Int := if n then -(m : Int) else m
      -- integer part and fraction of the argument
      let w := (-e).toNat
      let i : Int := if e ≥ 0 then s * (2 ^ e.natAbs : Nat) else s / (2 ^ w : Nat)
      let fr : Nat := if e ≥ 0 then 0 else (s % (2 ^ w : Nat)).natAbs
      if i > 1000 then f.round rm false false 1 1000 false
      else if i < f.qmin then (if rm = .rup then 1 else 0)
      else if fr = 0 then f.round rm false false 1 i false
      else
        let at_ := fun n => exp2Frac n w fr (2 * 2 ^ n, 2 * 2 ^ n) (2 ^ n, 2 ^ n)
        firstDecided (fun n => let b := at_ n; roundBetween f rm false b.1 b.2 (i - n))
          (f.round rm false false (at_ 256).1 (i - 256) true) [64, 128, 256]

/-- The first `d` binary digits of log2 (x / 2^n) for 1 ≤ x / 2^n < 2, rounding every square down or up. -/
def log2Digits (n : Nat) (up : Bool) : Nat → Nat → Nat → Nat
  | 0, _, acc => acc
  | d + 1, x, acc =>
    let y := if up then x * x / 2 ^ n + 1 else x * x / 2 ^ n
    if y < 2 ^ (n + 1) then log2Digits n up d y (2 * acc)
    else log2Digits n up d (if up then y / 2 + 1 else y / 2) (2 * acc + 1)

/-- log2 a (R127, R129). -/
def Fmt.log2 (f : Fmt) (rm : Rm) (exposed : Bool) (a : Nat) : Nat :=
  f.flush exposed <|
  match f.unpack (f.flush exposed a) with
  | .nan => f.nan
  | .inf n => if n then f.nan else f.inf false
  | .fin n m e =>
    if m = 0 then f.inf true
    else if n then f.nan
    else
      let l := Nat.log2 m
      let ex : Int := e + l
      if m = 2 ^ l then
        (if ex = 0 then f.withSign false 0 else f.round rm false (decide (ex < 0)) ex.natAbs 0 false)
      else
        let bounds := fun (d : Nat) =>
          let n := 2 * d
          let x := m * 2 ^ (n - l)
          (ex * (2 ^ d : Nat) + log2Digits n false d x 0, ex * (2 ^ d : Nat) + log2Digits n true d x 0 + 1)
        let decide_ := fun (d : Nat) =>
          let b := bounds d
          if b.1 ≥ 0 then roundBetween f rm false b.1.natAbs b.2.natAbs (-d)
          else if b.2 ≤ 0 then roundBetween f rm true b.2.natAbs b.1.natAbs (-d)
          else none
        firstDecided decide_ (f.round rm false (decide ((bounds 256).1 < 0)) (bounds 256).1.natAbs (-256) true)
          [64, 128, 256]

end Sys2Proof
end

