-- ==== Sys2Proof/Machine/Vector.lean ====
section
/-!
DEFINITION. The vector instructions of R127 to R137 but the conversions: element arithmetic, comparison, selection,
permutation, reduction, scan and masks.
-/
namespace Sys2Proof.Machine

/-- A VRRR instruction of two registers. -/
def vrrr2 (g : BitVec 4) (d a b : BitVec 5) (m t : BitVec 3) (lat : Nat) (f : Nat → Nat → Nat) (s : State) :
    Host.Outcome State Fault Refusal := vector2 g d a b m lat (Elem.map2 (Elem.ofCode t) f) s

def execVadd (g : BitVec 4) (d a b : BitVec 5) (m t : BitVec 3) (s : State) : Host.Outcome State Fault Refusal :=
  let e := Elem.ofCode t
  vrrr2 g d a b m t e.lat (e.combine (fun f => f.add s.vrm s.exposed) (fun x y => x + y)) s
def execVsub (g : BitVec 4) (d a b : BitVec 5) (m t : BitVec 3) (s : State) : Host.Outcome State Fault Refusal :=
  let e := Elem.ofCode t
  vrrr2 g d a b m t e.lat (e.combine (fun f => f.sub s.vrm s.exposed) (fun x y => x - y)) s
def execVmul (g : BitVec 4) (d a b : BitVec 5) (m t : BitVec 3) (s : State) : Host.Outcome State Fault Refusal :=
  let e := Elem.ofCode t
  vrrr2 g d a b m t e.lat (e.combine (fun f => f.mul s.vrm s.exposed) (fun x y => x * y)) s
def execVmin (g : BitVec 4) (d a b : BitVec 5) (m t : BitVec 3) (s : State) : Host.Outcome State Fault Refusal :=
  let e := Elem.ofCode t
  vrrr2 g d a b m t e.lat (e.combine (fun f => f.min s.exposed) e.imin) s
def execVmax (g : BitVec 4) (d a b : BitVec 5) (m t : BitVec 3) (s : State) : Host.Outcome State Fault Refusal :=
  let e := Elem.ofCode t
  vrrr2 g d a b m t e.lat (e.combine (fun f => f.max s.exposed) e.imax) s

/-- VFMA reads vd (R52). -/
def execVfma (g : BitVec 4) (d a b : BitVec 5) (m t : BitVec 3) (s : State) : Host.Outcome State Fault Refusal :=
  slotOp g s do
    let e := Elem.ofCode t
    let k ← s.readM m
    let x ← s.readV a
    let y ← s.readV b
    let z ← s.readV d
    .ok (s.writeV d k (lanesOf fun i =>
      e.lane fun h => e.fma s.vrm s.exposed (e.get (x.lane i) h) (e.get (y.lane i) h) (e.get (z.lane i) h)) e.lat)

def execVabs (g : BitVec 4) (d a : BitVec 5) (m t : BitVec 3) (s : State) : Host.Outcome State Fault Refusal :=
  let e := Elem.ofCode t
  vector1 g d a m e.lat (e.map1 (e.apply (fun f => f.signOp s.exposed fun _ => false) (fun x => if x.msb then -x else x))) s
def execVneg (g : BitVec 4) (d a : BitVec 5) (m t : BitVec 3) (s : State) : Host.Outcome State Fault Refusal :=
  let e := Elem.ofCode t
  vector1 g d a m e.lat (e.map1 (e.apply (fun f => f.signOp s.exposed fun b => !b) (fun x => -x))) s

def execVand (g : BitVec 4) (d a b : BitVec 5) (m t : BitVec 3) (s : State) : Host.Outcome State Fault Refusal :=
  vrrr2 g d a b m t 2 (fun x y => x &&& y) s
def execVor (g : BitVec 4) (d a b : BitVec 5) (m t : BitVec 3) (s : State) : Host.Outcome State Fault Refusal :=
  vrrr2 g d a b m t 2 (fun x y => x ||| y) s
def execVxor (g : BitVec 4) (d a b : BitVec 5) (m t : BitVec 3) (s : State) : Host.Outcome State Fault Refusal :=
  vrrr2 g d a b m t 2 (fun x y => x ^^^ y) s

def execVshl (g : BitVec 4) (d a b : BitVec 5) (m t : BitVec 3) (s : State) : Host.Outcome State Fault Refusal :=
  vrrr2 g d a b m t 2 ((Elem.ofCode t).shift fun x n => x <<< n) s
def execVshr (g : BitVec 4) (d a b : BitVec 5) (m t : BitVec 3) (s : State) : Host.Outcome State Fault Refusal :=
  vrrr2 g d a b m t 2 ((Elem.ofCode t).shift fun x n => x >>> n) s
def execVsra (g : BitVec 4) (d a b : BitVec 5) (m t : BitVec 3) (s : State) : Host.Outcome State Fault Refusal :=
  vrrr2 g d a b m t 2 ((Elem.ofCode t).shift fun x n => x.sshiftRight n) s

def execVdiv (g : BitVec 4) (d a b : BitVec 5) (m t : BitVec 3) (s : State) : Host.Outcome State Fault Refusal :=
  let e := Elem.ofCode t
  vrrr2 g d a b m t 8 (e.combine (fun f => f.div s.vrm s.exposed) (divide (!e.signed))) s
def execVrem (g : BitVec 4) (d a b : BitVec 5) (m t : BitVec 3) (s : State) : Host.Outcome State Fault Refusal :=
  let e := Elem.ofCode t
  vrrr2 g d a b m t 8 (e.combine (fun _ a _ => a) (remainder (!e.signed))) s

/-- A transcendental of one register (R127, R129). -/
def vfloat1 (g : BitVec 4) (d a : BitVec 5) (m t : BitVec 3) (f : Fmt → Nat → Nat) (s : State) :
    Host.Outcome State Fault Refusal :=
  let e := Elem.ofCode t
  vector1 g d a m 8 (e.map1 (e.apply f id)) s

def execVsqrt (g : BitVec 4) (d a : BitVec 5) (m t : BitVec 3) (s : State) : Host.Outcome State Fault Refusal :=
  vfloat1 g d a m t (fun f => f.sqrt s.vrm s.exposed) s
def execVrec (g : BitVec 4) (d a : BitVec 5) (m t : BitVec 3) (s : State) : Host.Outcome State Fault Refusal :=
  vfloat1 g d a m t (fun f => f.div s.vrm s.exposed f.one) s
def execVrsq (g : BitVec 4) (d a : BitVec 5) (m t : BitVec 3) (s : State) : Host.Outcome State Fault Refusal :=
  vfloat1 g d a m t (fun f => f.rsqrt s.vrm s.exposed) s
def execVexp2 (g : BitVec 4) (d a : BitVec 5) (m t : BitVec 3) (s : State) : Host.Outcome State Fault Refusal :=
  vfloat1 g d a m t (fun f => f.exp2 s.vrm s.exposed) s
def execVlog2 (g : BitVec 4) (d a : BitVec 5) (m t : BitVec 3) (s : State) : Host.Outcome State Fault Refusal :=
  vfloat1 g d a m t (fun f => f.log2 s.vrm s.exposed) s

/-- Bits by lane number. -/
def bitsOfLanes (f : Nat → Bool) : BitVec 64 :=
  BitVec.ofNat 64 ((List.range 64).foldl (fun n i => n + (f i).toNat * 2 ^ i) 0)

/-- VCMP (R130). -/
def execVcmp (g : BitVec 4) (m : BitVec 3) (a b : BitVec 5) (c t : BitVec 3) (s : State) :
    Host.Outcome State Fault Refusal :=
  slotOp g s do
    let x ← s.readV a
    let y ← s.readV b
    .ok (s.writeM m (bitsOfLanes fun i => vcmpCond c t s.exposed (x.lane i) (y.lane i)) 2)

/-- VSEL: the mask is a selector (R131). -/
def execVsel (g : BitVec 4) (d a b : BitVec 5) (m _t : BitVec 3) (s : State) : Host.Outcome State Fault Refusal :=
  slotOp g s do
    let k ← s.readM m
    let x ← s.readV a
    let y ← s.readV b
    .ok (s.writeV d (BitVec.allOnes 64) (lanesOf fun i => if k.getLsbD i then x.lane i else y.lane i) 2)

def execVmov (g : BitVec 4) (d a : BitVec 5) (m _t : BitVec 3) (s : State) : Host.Outcome State Fault Refusal :=
  vector1 g d a m 2 id s

/-- VBCAST (R132). -/
def execVbcast (g : BitVec 4) (v : BitVec 5) (x : BitVec 6) (m : BitVec 3) (s : State) :
    Host.Outcome State Fault Refusal :=
  slotOp g s do
    let k ← s.readM m
    let w ← s.readX x
    .ok (s.writeV v k (lanesOf fun _ => w.setWidth 32) 2)

/-- VIOTA: element numbers (R132). -/
def execViota (g : BitVec 4) (d : BitVec 5) (m t : BitVec 3) (s : State) : Host.Outcome State Fault Refusal :=
  slotOp g s do
    let e := Elem.ofCode t
    let k ← s.readM m
    .ok (s.writeV d k (lanesOf fun i => e.lane fun h => e.perLane * i + h) 2)

/-- VEXT (R132). -/
def execVext (g : BitVec 4) (v : BitVec 5) (x l : BitVec 6) (u : BitVec 1) (s : State) :
    Host.Outcome State Fault Refusal :=
  slotOp g s do
    let r ← s.readV v
    let w := r.lane l.toNat
    .ok (s.writeX x (if u = 1 then w.signExtend 64 else w.setWidth 64) 2)

/-- VINS: one lane (R132). -/
def execVins (g : BitVec 4) (v : BitVec 5) (x l : BitVec 6) (s : State) : Host.Outcome State Fault Refusal :=
  slotOp g s do
    let w ← s.readX x
    .ok (s.writeV v (BitVec.twoPow 64 l.toNat) (lanesOf fun _ => w.setWidth 32) 2)

/-! ### Reduction and scan (R135, R136) -/

/-- Neighbours combined, the lower position as the left operand. -/
def pairUp (f : Nat → Nat → Nat) : List Nat → List Nat
  | a :: b :: r => f a b :: pairUp f r
  | l => l

/-- The fixed tree of R135 over 2^n leaves. -/
def treeReduce (f : Nat → Nat → Nat) : Nat → List Nat → List Nat
  | 0, l => l
  | n + 1, l => treeReduce f n (pairUp f l)

def execVred (g : BitVec 4) (d : BitVec 6) (a : BitVec 5) (o m t : BitVec 3) (s : State) :
    Host.Outcome State Fault Refusal :=
  slotOp g s do
    let e := Elem.ofCode t
    let k ← s.readM m
    let x ← s.readV a
    .ok (s.writeX d (e.toX ((treeReduce (e.reduce o.toNat s.vrm s.exposed) 8 (e.leaves o.toNat k x)).headD 0)) 6)

/-- The running values of an inclusive prefix. -/
def prefixes (f : Nat → Nat → Nat) : Nat → List Nat → List Nat
  | _, [] => []
  | acc, x :: r => f acc x :: prefixes f (f acc x) r

def execVscan (g : BitVec 4) (d a : BitVec 5) (o m t : BitVec 3) (s : State) : Host.Outcome State Fault Refusal :=
  slotOp g s do
    let e := Elem.ofCode t
    let k ← s.readM m
    let x ← s.readV a
    let p := prefixes (e.reduce o.toNat s.vrm s.exposed) (e.identity o.toNat) (e.leaves o.toNat k x)
    .ok (s.writeV d k (lanesOf fun i => e.lane fun h => p.getD (e.perLane * i + h) 0) 6)

/-! ### Permutation and masks -/

/-- VPERM (R133). -/
def execVperm (g : BitVec 4) (d a b : BitVec 5) (m _t : BitVec 3) (s : State) : Host.Outcome State Fault Refusal :=
  slotOp g s do
    let k ← s.readM m
    let x ← s.readV a
    let y ← s.readV b
    .ok (s.writeV d k (lanesOf fun i => x.lane ((y.lane i).toNat % 64)) 4)

/-- The lane numbers with the bit set, then the others (R134). -/
def partOrder (k : BitVec 64) : List Nat :=
  (List.range 64).filter (fun i => k.getLsbD i) ++ (List.range 64).filter (fun i => !k.getLsbD i)

def execVpart (g : BitVec 4) (d a : BitVec 5) (m : BitVec 3) (s : State) : Host.Outcome State Fault Refusal :=
  slotOp g s do
    let k ← s.readM m
    let x ← s.readV a
    let o := partOrder k
    .ok (s.writeV d (BitVec.allOnes 64) (lanesOf fun i => x.lane (o.getD i 0)) 4)

/-- MLOG (R137). -/
def execMlog (g : BitVec 4) (d a b : BitVec 3) (t : BitVec 4) (s : State) : Host.Outcome State Fault Refusal :=
  slotOp g s do
    let x ← s.readM a
    let y ← s.readM b
    .ok (s.writeM d (truthBits t x y) 2)

def execMpop (g : BitVec 4) (x : BitVec 6) (m : BitVec 3) (s : State) : Host.Outcome State Fault Refusal :=
  slotOp g s do
    let k ← s.readM m
    .ok (s.writeX x (BitVec.ofNat 64 (popcount 64 k)) 2)

def execMfromx (g : BitVec 4) (d : BitVec 3) (x : BitVec 6) (s : State) : Host.Outcome State Fault Refusal :=
  slotOp g s do
    let w ← s.readX x
    .ok (s.writeM d w 2)

def execMtox (g : BitVec 4) (x : BitVec 6) (m : BitVec 3) (s : State) : Host.Outcome State Fault Refusal :=
  slotOp g s do
    let k ← s.readM m
    .ok (s.writeX x k 2)

end Sys2Proof.Machine
end

