-- ==== Sys2Proof/Machine/Convert.lean ====
section
/-!
DEFINITION. The conversion instructions of the vector slot (R115 to R121).
-/
namespace Sys2Proof.Machine

/-- The code table of the issuing core, as a list (R106). -/
def State.codeTable (s : State) : List (BitVec 8) := s.ccs.ct.toList

/-- VCVT (R116): elements beyond the common count are cleared. -/
def execVcvt (g : BitVec 4) (d a : BitVec 5) (f t : BitVec 3) (r : BitVec 2) (m : BitVec 3) (s : State) :
    Host.Outcome State Fault Refusal :=
  let src := Elem.ofCode f
  let dst := Elem.ofCode t
  vector1 g d a m 4 (fun x => dst.lane fun h =>
    if h < Nat.min src.perLane dst.perLane then convertElem src dst (rmOf r) s.exposed (src.get x h) else 0) s

/-- The wide type of VCV8L (R52): f32, bf16, f16. -/
def wideElem (w : BitVec 2) : Elem :=
  match w.toNat with
  | 0 => .f32
  | 1 => .bf16
  | _ => .f16

/-- The format of a wide type. -/
def wideFmt (w : BitVec 2) : Fmt := (wideElem w).fmt.getD f32

/-- The FP8 format of VCV8L. -/
def fp8Fmt (e : BitVec 1) : Fmt := if e = 1 then e5m2 else e4m3

/-- Byte n of a lane. -/
def laneByte (x : Word) (n : Nat) : Nat := x.toNat / 2 ^ (8 * n) % 256

/-- A lane from its four bytes. -/
def laneOfBytes (f : Nat → Nat) : Word := Elem.n8.lane f

/-- VCV8 reads vd for the bytes it keeps (R115, R117). -/
def execVcv8 (g : BitVec 4) (d a : BitVec 5) (e : BitVec 1) (w p : BitVec 2) (o : BitVec 1) (r : BitVec 2)
    (m : BitVec 3) (s : State) : Host.Outcome State Fault Refusal :=
  slotOp g s do
    let k ← s.readM m
    let x ← s.readV a
    let old ← s.readV d
    let src := wideElem w
    .ok (s.writeV d k (lanesOf fun i => laneOfBytes fun n =>
      if p.toNat ≤ n ∧ n < p.toNat + src.perLane then
        toFp8 (wideFmt w) (fp8Fmt e) (o == 1) (rmOf r) s.exposed (src.get (x.lane i) (n - p.toNat))
      else laneByte (old.lane i) n) 4)

/-- VUN8 (R118). -/
def execVun8 (g : BitVec 4) (d a : BitVec 5) (e : BitVec 1) (w p : BitVec 2) (m : BitVec 3) (s : State) :
    Host.Outcome State Fault Refusal :=
  let dst := wideElem w
  vector1 g d a m 4 (fun x => dst.lane fun h =>
    fromFp8 (wideFmt w) (fp8Fmt e) s.exposed (laneByte x (p.toNat + h))) s

/-- Nib code j of a register (R104). -/
def nibCode (v : VReg) (j : Nat) : Nat := (v.lane (j / 8)).toNat / 2 ^ (4 * (j % 8)) % 16

/-- Byte b of a register. -/
def vregByte (v : VReg) (b : Nat) : Nat := laneByte (v.lane (b / 4)) (b % 4)

/-- VDEC4 (R119). -/
def execVdec4 (g : BitVec 4) (d a b : BitVec 5) (p t : BitVec 3) (s : State) : Host.Outcome State Fault Refusal :=
  slotOp g s do
    let x ← s.readV a
    let y ← s.readV b
    let dst := Elem.ofCode t
    let f := dst.fmt.getD f32
    let dec := fun j => f.flush s.exposed (f.pack .rne false (nibValue s.codeTable (vregByte y (j / 32)) (nibCode x j)))
    .ok (s.writeV d (BitVec.allOnes 64)
      (lanesOf fun i => dst.lane fun h => dec (64 * dst.perLane * p.toNat + dst.perLane * i + h)) 4)

/-- VENC4 reads vd for the codes it keeps (R115, R120, R121). -/
def execVenc4 (g : BitVec 4) (d a : BitVec 5) (x : BitVec 6) (p : BitVec 3) (f : BitVec 2) (s : State) :
    Host.Outcome State Fault Refusal :=
  slotOp g s do
    let v ← s.readV a
    let sc ← s.readX x
    let old ← s.readV d
    let src := wideElem f
    let fmt := wideFmt f
    let n := 64 * src.perLane
    let first := n * p.toNat
    let code := fun j =>
      if first ≤ j ∧ j < first + n then
        let e := j - first
        let w := fmt.flush s.exposed (src.get (v.lane (e / src.perLane)) (e % src.perLane))
        encodeNib s.codeTable (sc.toNat / 2 ^ (8 * (e / 32)) % 256) (fmt.unpack w)
      else nibCode old j
    .ok (s.writeV d (BitVec.allOnes 64)
      (lanesOf fun i => laneOfBytes fun b => code (8 * i + 2 * b) + 16 * code (8 * i + 2 * b + 1)) 4)

end Sys2Proof.Machine
end

