-- ==== Sys2Proof/Machine/Ferry.lean ====
section
/-!
DEFINITION. The ferry: packets and descriptors (R228 to R232), their checks (R237), the channel (R240 to R243) with the
four kinds (R233 to R236), FCMD (R244), rings (R245 to R248) and completion (R238, R239).
-/
namespace Sys2Proof.Machine

/-! ### Packets (R228 to R232) -/

/-- A descriptor (R229): cores by 64 * die + core. -/
structure FDesc where
  space : Nat
  pkg : Nat
  name : Nat
  off : Nat
  core : Nat
  va : Nat
  c0 : Nat
  c1 : Nat
  c2 : Nat
  s1 : Int
  s2 : Int
  deriving DecidableEq, Repr

/-- A descriptor from its 192 bits. -/
def FDesc.ofBits (v : Nat) : FDesc where
  space := bitsOf v 63 61
  pkg := bitsOf v 60 55
  name := bitsOf v 7 0
  off := bitsOf v 39 8
  core := bitsOf v 48 40
  va := bitsOf v 54 0
  c0 := bitsOf v 95 64
  c1 := bitsOf v 111 96
  c2 := bitsOf v 127 112
  s1 := sextNat 32 (bitsOf v 159 128)
  s2 := sextNat 32 (bitsOf v 191 160)

/-- A segment of a core, not an address. -/
def FDesc.local (d : FDesc) : Bool := decide (d.space < 2)
def FDesc.total (d : FDesc) : Nat := d.c0 * d.c1 * d.c2

/-- The place of a stream byte, without wrap (R230). -/
def FDesc.place (d : FDesc) (t : Nat) : Int :=
  ((if d.local then d.off else d.va : Nat) : Int) + (t % d.c0 : Nat) + (t / d.c0 % d.c1 : Nat) * d.s1
    + (t / (d.c0 * d.c1) : Nat) * d.s2

/-- The places of stream bytes [a, a + n). -/
def FDesc.places (d : FDesc) (a n : Nat) : List Int := (countFrom a n).map d.place

/-- The lowest place and the place after the highest (R230). -/
def FDesc.extent (d : FDesc) : Int × Int :=
  let a : Int := (d.c1 - 1 : Nat) * d.s1
  let b : Int := (d.c2 - 1 : Nat) * d.s2
  let base : Int := d.off
  (base + min 0 a + min 0 b, base + d.c0 + max 0 a + max 0 b)

/-- Packet fields. -/
def fKind (v : Nat) : Nat := bitsOf v 15 0
def fCr (v : Nat) : Bool := bitOf v 16
def fSg (v : Nat) : Bool := bitOf v 17
def fLe (v : Nat) : Bool := bitOf v 18
def fTp (v : Nat) : Bool := bitOf v 19
def fAfter (v : Nat) : Bool := bitOf v 20
def fRop (v : Nat) : Nat := bitsOf v 26 24
def fSrc (v : Nat) : FDesc := .ofBits (bitsOf v 223 32)
def fDst (v : Nat) : FDesc := .ofBits (bitsOf v 415 224)
def fTag (v : Nat) : Nat := if fTp v then 0 else bitsOf v 431 416
def fSem (v : Nat) : Nat := bitsOf v 439 432
def fInc (v : Nat) : Nat := bitsOf v 447 440
def fLand (v : Nat) : Nat := bitsOf v 463 448
def fTrec (v : Nat) : Nat := 64 * bitsOf v 470 422
def fTquad (v : Nat) : Nat := 16 * bitsOf v 477 475 + bitsOf v 474 471
def fSeq (v : Nat) : Nat := bitsOf v 511 480
/-- The ring header of WRITE-ENQUEUE (R236). -/
def fHeader (v : Nat) : Nat := bitsOf v 415 352

/-- Failing bits of a descriptor at a bit of the packet (R229). -/
def descBad (v lo : Nat) : List Nat :=
  let d := FDesc.ofBits (bitsOf v (lo + 191) lo)
  (if d.local then mustZero v (lo + 54) (lo + 49) else [])
    ++ (if d.space = 0 then mustZero v (lo + 48) (lo + 40) else [])
    ++ badField ((d.space == 0 || d.space == 2) && d.pkg != 0) (lo + 55)
    ++ badField (decide (4 ≤ d.space)) (lo + 61)
    ++ badField (d.c0 == 0 || decide (2 ^ 24 < d.c0)) (lo + 64)
    ++ badField (d.c1 == 0) (lo + 96) ++ badField (d.c2 == 0) (lo + 112)

/-- Failing bits of the limits of COPY-REDUCE (R235). -/
def reduceBad (v : Nat) : List Nat :=
  let s := fSrc v
  let d := fDst v
  let n := if fRop v = 1 then 2 else 4
  let odd : Nat → Bool := fun x => x % n != 0
  badField (odd (if s.local then s.off else s.va)) 32 ++ badField (odd s.c0 || decide (2 ^ 20 < s.total)) 96
    ++ badField (odd s.s1.natAbs) 160 ++ badField (odd s.s2.natAbs) 192
    ++ badField (odd (if d.local then d.off else d.va)) 224 ++ badField (odd d.c0) 288
    ++ badField (odd d.s1.natAbs) 352 ++ badField (odd d.s2.natAbs) 384

/-- Failing bits of WRITE-ENQUEUE's descriptors (R236). -/
def enqueueBad (v : Nat) : List Nat :=
  let s := fSrc v
  let d := fDst v
  badField (s.space != 0 && s.space != 2) 93 ++ badField (s.c0 != d.c0 + 64) 96 ++ badField (s.c1 != 1) 128
    ++ badField (s.c2 != 1) 144 ++ badField (s.s1 != 0) 160 ++ badField (s.s2 != 0) 192
    ++ badField (d.space != 3) 285 ++ badField (decide (4096 < d.c0)) 288 ++ badField (d.c1 != 1) 320
    ++ badField (d.c2 != 1) 336 ++ mustZero v 357 352

/-- Failing bits of the completion word (R232). -/
def cmplBad (v : Nat) : List Nat :=
  if fTp v then badField (fSg v) 17 ++ badField (fLe v) 18 ++ mustZero v 421 416 ++ mustZero v 479 478
  else
    badField ((fInc v == 0) == fSg v) 440 ++ mustZero v 479 464
      ++ (if !fLe v then badField (fLand v != 0) 448
        else if bitOf v 463 then mustZero v 462 452 ++ badField (!(fDst v).local) 463
        else mustZero v 462 462 ++ badField (fDst v).local 463)

/-- The lowest failing bit of a packet's fields (R237). -/
def packetBad (v : Nat) : Option Nat :=
  let kind := fKind v
  let total := (fDst v).total
  firstFail (badField (kind == 0 || decide (4 < kind)) 0 ++ mustZero v 23 21
    ++ badField (if kind = 2 then fRop v == 7 else fRop v != 0) 24 ++ mustZero v 31 27
    ++ (if kind = 3 then mustZero v 223 96 else descBad v 32)
    ++ descBad v 224
    ++ badField ((kind == 1 || kind == 2) && decide (2 ^ 32 ≤ (fSrc v).total)) 96
    ++ badField (decide (2 ^ 32 ≤ total) || ((kind == 1 || kind == 2) && (fSrc v).total != total)) 288
    ++ (if kind = 2 then reduceBad v else [])
    ++ (if kind = 4 then enqueueBad v else [])
    ++ cmplBad v)

/-! ### The checks that need the machine's state (R237) -/

/-- A descriptor checked for a core: its cause, detail and VALUE where it fails; the identity of a space-0 segment. -/
def State.descCheck (s : State) (core : Nat) (d : FDesc) (path : SegPath) : Except (Nat × Nat × Nat) (Option Nat) :=
  match d.space with
  | 0 =>
    match (s.cs core).segNamed d.name with
    | none => .error (segUndefined, 0, d.name)
    | some (id, g) =>
      if !path.allows g.role then .error (segUndefined, 2, d.name)
      else if d.extent.1 < 0 ∨ (g.bytes : Int) < d.extent.2 then .error (segBound, 0, d.name)
      else .ok (some id)
  | 1 =>
    if d.pkg = s.pod.pkgid ∧ (s.partState d.core (s.partOf core)).isSome then .ok none
    else .error (protection, 0, (Config.openValue 1).toNat)
  | _ => .ok none

/-- Both descriptors of a packet, the source first. -/
def State.packetSegs (s : State) (core v : Nat) : Except (Nat × Nat × Nat) (Option Nat × Option Nat) := do
  let a ← if fKind v = 3 then .ok none else s.descCheck core (fSrc v) .engine
  let b ← s.descCheck core (fDst v) .ferryWrite
  .ok (a, b)

/-- A segment the command touches after its issue, where there is one. -/
def State.useSegOpt (s : State) (id : Option Nat) : State :=
  match id with
  | none => s
  | some n => s.useSegLater n

/-- FCMD (R244). -/
def execFcmd (g : BitVec 4) (y : BitVec 8) (o : BitVec 6) (s : State) : Host.Outcome State Fault Refusal :=
  segOp g s do
    if 32 ≤ s.ccs.fq.length then .error (.blocked .queueFull)
    else
      let x ← s.readX o
      let off := s.stepped x
      let e ← s.findSeg y.toNat .engine
      -- a packet segment that is not resident blocks the bundle before its bounds are looked at (R36, R159)
      if e.2.state ≠ .resident then .ok (s.useSeg e.1 e.2)
      else if e.2.bytes < off + 64 then .error (s.trapHere segBound 0 y.toNat)
      else do
        s.soundSeg e.1 off 64
        let v := leNat (s.ccs.segRead e.1 off 64)
        match packetBad v with
        | some b => .error (s.trapHere enginePacket 0 b)
        | none =>
          if fCr v ∧ e.2.bytes < off + 96 then .error (s.trapHere segBound 0 y.toNat)
          else
            match s.packetSegs s.icore v with
            | .error (cause, dcode, value) => .error (s.trapHere cause dcode value)
            | .ok (a, b) =>
              let s1 := (((s.useSeg e.1 e.2).useSegOpt (if fCr v then some e.1 else none)).useSegOpt a).useSegOpt b
              let c := s1.command
              .ok (c.1.modCcs fun w => { w with fq := w.fq ++ [⟨c.2, .fcmd e.1 (off + 64), BitVec.ofNat 512 v, a, b⟩] })

/-! ### Streams -/

/-- An address as a number of 64 bits; one below 0 lies outside the address space. -/
def addrOf (a : Int) : Nat := (a % ((2 ^ 64 : Nat) : Int)).toNat

/-- The core whose segment a space-0 or space-1 descriptor reaches, with its identity. -/
def FDesc.holder (d : FDesc) (core : Nat) (near : Option Nat) (far : Option (Nat × Nat)) : Nat × Nat :=
  if d.space = 0 then (core, near.getD 0) else (d.core, (far.map (·.1)).getD 0)

/-- The locations of stream bytes at addresses: another package is reached once the pod is in force (R229, R379). -/
def State.farLocs (s : State) (core : Nat) (d : FDesc) (ps : List Int) (write : Bool) : Except (Nat × Nat) (List Nat) :=
  let v := s.cs core
  let as := ps.map addrOf
  if d.space = 3 ∧ ¬ s.packageOk (2 ^ 46 * d.pkg) then .error (protection, as.headD 0)
  else s.xlateAll (some core) v.asid.toNat v.ptbase.toNat write as

/-- Bytes read at places of a descriptor: a word that holds an uncorrectable error fails the read (R243). -/
def State.fRead (s : State) (core : Nat) (d : FDesc) (h : Nat × Nat) (ps : List Int) :
    Except (Nat × Nat) (State × List Byte) :=
  if d.local then
    let v := s.cs h.1
    match ps.find? fun p => v.flawedAt h.2 p.toNat 1 with
    | some p => .error (memUncorrectable, p.toNat)
    | none => .ok (s, ps.map fun p => (v.segRead h.2 p.toNat 1).headD 0)
  else
    match s.farLocs core d ps false with
    | .error e => .error e
    | .ok ls =>
      match (ps.zip ls).find? fun p => s.flaws.contains (p.2 / 8) with
      | some p => .error (memUncorrectable, addrOf p.1)
      | none => .ok (s.engineTouch core false none ls, s.bytesAt ls)

/-- Bytes written at places of a descriptor, in the order of the list; engine writes are not counted here (R319). -/
def State.fWrite (s : State) (core : Nat) (d : FDesc) (h : Nat × Nat) (ps : List Int) (bs : List Byte) :
    Except (Nat × Nat) State :=
  if d.local then
    .ok (s.modCS h.1 fun v => v.segWriteAt h.2 ((ps.zip bs).map fun e => (e.1.toNat, e.2)))
  else
    match s.farLocs core d ps true with
    | .error e => .error e
    | .ok ls => .ok ((s.writeLocs ls bs).engineTouch core true none ls)

/-- Words of an instruction bank that a packet of a core writes: each context of the bank's core may still fetch them as they
stood (R198). -/
def State.noteStale (s : State) (core id : Nat) (h : Nat × Nat) (places : List Nat) : State :=
  let v := s.cs h.1
  match ((v.seg h.2).filter fun g => decide (g.role = .instr)).map fun g => g.name == 0xFF with
  | none => s
  | some bank =>
    let code := if bank then v.bank1 else v.bank0
    let old := fun (w : Nat) => BitVec.ofNat 32 (leNat (readBytes (fun a => code.read 0 a) (4 * w) 4))
    let words := (places.map (· / 4)).eraseDups
    let new := fun (c : Ctx) (w : Nat) => c.stale.all fun e => e.bank != bank || e.word != w || e.id != id
    let more := fun (c : Ctx) => (words.filter (new c)).map fun w => ⟨bank, w, old w, core, id, false⟩
    s.modCS h.1 fun v => { v with ctxs := v.ctxs.map fun c => { c with stale := c.stale ++ more c } }

/-- One element of COPY-REDUCE, the destination's first (R235). -/
def ropStep (rop a b : Nat) : Nat :=
  match rop with
  | 0 => f32.add .rne false a b
  | 1 => bf16.add .rne false a b
  | 2 => (barxStep 1 (BitVec.ofNat 32 a) (BitVec.ofNat 32 b)).toNat
  | 3 => (barxStep 2 (BitVec.ofNat 32 a) (BitVec.ofNat 32 b)).toNat
  | 4 => (barxStep 3 (BitVec.ofNat 32 a) (BitVec.ofNat 32 b)).toNat
  | 5 => (barxStep 4 (BitVec.ofNat 32 a) (BitVec.ofNat 32 b)).toNat
  | _ => (barxStep 5 (BitVec.ofNat 32 a) (BitVec.ofNat 32 b)).toNat

/-- Elements of `n` bytes combined one by one. -/
def ropBytes (rop n : Nat) : Nat → List Byte → List Byte → List Byte
  | 0, _, _ => []
  | k + 1, a, b => leBytes n (ropStep rop (leNat (a.take n)) (leNat (b.take n))) ++ ropBytes rop n k (a.drop n) (b.drop n)

/-! ### Segments of a packet (R242, R284, R286) -/

/-- A space-1 segment at its first reach: checked by the core that holds it, which draws a ticket, one for a segment that the
packet names twice (R237, R284): `other` is what its other descriptor has reached on that core. A segment longer than SGQUOTA
can be served under no ticket and fails (R285, R288; log 28). The failure's cause and detail. `none`: the named core does not
run the partition now (R229). -/
def State.reachFar (s : State) (part : Nat) (d : FDesc) (path : SegPath) (other : Option (Nat × Nat)) :
    Option (Except (Nat × Nat) (State × Nat × Nat)) :=
  if (s.cs d.core).part ≠ some part then none
  else
    match (s.cs d.core).segNamed d.name with
    | none => some (.error (segUndefined, 0))
    | some (id, g) =>
      if !path.allows g.role then some (.error (segUndefined, 2))
      else if d.extent.1 < 0 ∨ (g.bytes : Int) < d.extent.2 then some (.error (segBound, 0))
      else if (s.cs d.core).quota < (s.cs d.core).setSum [id] then some (.error (segSetOverflow, 0))
      else if let some e := other.filter fun e => e.1 == id then some (.ok (s, e.1, e.2))
      else
        let n := (s.core d.core).nextTicket
        some (.ok (s.modCore d.core fun c =>
          { c with
            nextTicket := n + 1
            cur := { c.cur with tickets := c.cur.tickets ++ [⟨n, [], [id], true, false, [], true, false, false, false, 0⟩] } }, id, n))

/-- A packet's channel changed. -/
def State.setFerry (s : State) (core : Nat) (r : Option FRun) : State := s.modCS core fun v => { v with ferry := r }

/-- The far segment of one descriptor reached, where it is in space 1 and has not been reached. -/
def State.reachOne (s : State) (part : Nat) (d : FDesc) (path : SegPath) (far other : Option (Nat × Nat)) :
    Option (Except (Nat × Nat) (State × Option (Nat × Nat))) :=
  if d.space ≠ 1 then some (.ok (s, far))
  else
    match far with
    | some e => if (s.cs d.core).part = some part then some (.ok (s, some e)) else none
    | none =>
      match s.reachFar part d path other with
      | none => none
      | some (.error e) => some (.error e)
      | some (.ok (t, id, n)) => some (.ok (t, some (id, n)))

/-- The tickets of a packet with the cores that drew them. -/
def FRun.tickets (r : FRun) (core : Nat) : List (Nat × Nat) :=
  let v := r.pkt.bits.toNat
  (match r.pkt.tag.ticket with
    | some n => [(core, n)]
    | none => [])
    ++ (match r.srcFar with
      | some e => [((fSrc v).core, e.2)]
      | none => [])
    ++ (match r.dstFar with
      | some e => [((fDst v).core, e.2)]
      | none => [])

/-- What the packet's next step touches: its source, its destination (R233 to R236). -/
def FRun.touches (r : FRun) : Bool × Bool :=
  match fKind r.pkt.bits.toNat with
  | 2 => (r.staged.isNone, r.staged.isSome)
  | 3 => (false, true)
  | 4 => (true, false)
  | _ => (true, true)

/-- The segments of its own core that the next step touches. -/
def FRun.near (r : FRun) : List Nat :=
  (if r.touches.1 then r.pkt.srcSeg.toList else []) ++ (if r.touches.2 then r.pkt.dstSeg.toList else [])

/-- The space-1 segments of other cores that the next step touches, once reached: the core and the identity. -/
def FRun.far (r : FRun) : List (Nat × Nat) :=
  let v := r.pkt.bits.toNat
  (if r.touches.1 then (r.srcFar.map fun e => ((fSrc v).core, e.1)).toList else [])
    ++ (if r.touches.2 then (r.dstFar.map fun e => ((fDst v).core, e.1)).toList else [])

/-- The tickets of the far segments that the next step touches. -/
def FRun.farTickets (r : FRun) : List (Nat × Nat) :=
  let v := r.pkt.bits.toNat
  (if r.touches.1 then (r.srcFar.map fun e => ((fSrc v).core, e.2)).toList else [])
    ++ (if r.touches.2 then (r.dstFar.map fun e => ((fDst v).core, e.2)).toList else [])

/-- The next step's segments are all RESIDENT, those of space 1 on a core that the partition runs on (R229, R242, R286). -/
def State.mayTouch (s : State) (core : Nat) (r : FRun) : Bool :=
  decide ((s.cs core).missing r.near = [])
    && r.far.all fun e => decide ((s.cs e.1).part = (s.cs core).part) && decide ((s.cs e.1).missing [e.2] = [])

/-- No ticket that the next step needs is parked or asked to yield. -/
def State.ticketsReady (s : State) (core : Nat) (r : FRun) : Bool :=
  let free := fun (c : Nat) (n : Nat) => (s.cs c).tickets.all fun t => t.num != n || (!t.asked && !t.parked)
  r.pkt.tag.ticket.all (free core) && r.farTickets.all fun e => free e.1 e.2

/-- A packet that goes on pins its RESIDENT members. One that waits holds no pin; its own ticket parks where the step touches
a segment that is not resident or a yield was asked, and so does a far ticket (R242, R286). -/
def State.holdPins (s : State) (ts : List (Nat × Nat)) (on parks : Bool) : State :=
  ts.foldl (fun s e => s.modCS e.1 fun v => v.modTicket e.2 fun t =>
    if on then v.hold t
    else
      let parked := t.parked || (if t.far then t.asked || decide (v.missing t.members ≠ []) else parks)
      { t.release parked with asked := false }) s

/-- What a packet finds at a granule: it may go on, it parks, or a space-1 failure ends it. -/
inductive FGate where
  | go (s : State) (r : FRun)
  | park (s : State) (r : FRun)
  | fail (cause : Nat)

/-- A packet parks at a granule. -/
def State.ferryPark (s : State) (core : Nat) (r : FRun) : FGate :=
  .park (s.holdPins (r.tickets core) false (r.yield || decide ((s.cs core).missing r.near ≠ [])))
    { r with state := .parked, yield := false, phase := 0 }

/-- The check at a granule boundary (R237, R242). -/
def State.ferryGate (s : State) (core : Nat) (r : FRun) : FGate :=
  let v := r.pkt.bits.toNat
  let part := s.partOf core
  let src := if r.touches.1 then fSrc v else { fSrc v with space := 2 }
  let dst := if r.touches.2 then fDst v else { fDst v with space := 2 }
  let same := fun (far : Option (Nat × Nat)) => far.filter fun _ => (fSrc v).core == (fDst v).core
  match s.reachOne part src .engine r.srcFar (same r.dstFar) with
  | none => s.ferryPark core r
  | some (.error e) => .fail e.1
  | some (.ok (s1, sf)) =>
    let r1 := { r with srcFar := sf }
    match s1.reachOne part dst .ferryWrite r.dstFar (same sf) with
    | none => s1.ferryPark core r1
    | some (.error e) => .fail e.1
    | some (.ok (s2, df)) =>
      let r2 := { r1 with dstFar := df }
      if s2.ticketsReady core r2 && s2.mayTouch core r2 && !r.yield then
        .go (s2.holdPins (r2.tickets core) true false) { r2 with state := .running }
      else s2.ferryPark core r2

/-! ### The channel's cycle (R233 to R236, R240, R241) -/

/-- The stream byte at which a granule ends: the next multiple of 256 (R241). -/
def granuleEnd (total pos : Nat) : Nat := Nat.min total ((pos / 256 + 1) * 256)

/-- The stream bytes that reach an aligned 8-byte word of the destination, with their places in the word, by rising index. -/
def FDesc.wordHits (d : FDesc) (w : Int) : List (Nat × Nat) :=
  (List.range (d.c1 * d.c2)).flatMap fun k =>
    let a := d.place (k * d.c0) - 8 * w
    ((List.range 8).filter fun (b : Nat) => decide (a ≤ (b : Int)) && decide ((b : Int) < a + d.c0)).map
      fun b => (b, k * d.c0 + ((b : Int) - a).toNat)

/-- The bytes of such a word that a packet writes: each with the highest stream byte that reaches it (R230). -/
def wordBytes (hits : List (Nat × Nat)) (w : Int) : List (Int × Nat) :=
  (List.range 8).filterMap fun (b : Nat) => ((hits.filter fun h => h.1 == b).getLast?).map fun h => (8 * w + (b : Int), h.2)

/-- What the granule of stream bytes [a, a + n) writes: each aligned 8-byte word that it is the first to reach is written
whole, once, with every byte the packet gives it (R190, R194, R235); places and stream bytes. -/
def FDesc.granuleWrites (d : FDesc) (a n : Nat) : List (Int × Nat) :=
  ((d.places a n).map (· / 8)).eraseDups.flatMap fun w =>
    let hits := d.wordHits w
    if hits.any fun h => decide (h.2 < a) then [] else wordBytes hits w

/-- Stream bytes up to `pos` done: POS follows in steps of 256 and never decreases within a packet (R241); FBYTES counts the
bytes written (R327). -/
def CoreState.advance (v : CoreState) (total pos bytes : Nat) : CoreState :=
  { v with
    fwpos := Nat.max v.fwpos (if pos = total then total else pos / 256 * 256)
    mon := { v.mon with fbytes := v.mon.fbytes + BitVec.ofNat 64 bytes } }

/-- The tickets that other cores have drawn for a packet. -/
def FRun.farOnes (r : FRun) : List (Nat × Nat) :=
  let v := r.pkt.bits.toNat
  (r.srcFar.map fun e => ((fSrc v).core, e.2)).toList ++ (r.dstFar.map fun e => ((fDst v).core, e.2)).toList

/-- The far tickets of a packet that a test holds of keep no pin: it touches their segments no more, or waits (R286, R287). -/
def State.dropFar (s : State) (r : FRun) (f : Ticket → Bool) : State :=
  r.farOnes.foldl (fun s e => s.modCS e.1 fun v => v.modTicket e.2 fun t =>
    if f t then { t.release t.parked with asked := false } else t) s

/-- The packet's last write is issued: the channel is free, the completion is owed, and other cores' segments are touched no
more (R240, R286). -/
def State.ferryEnd (s : State) (core : Nat) (r : FRun) (status cause : Nat) : State :=
  (s.dropFar r fun _ => true).modCS core fun v => { v with ferry := none, fwrun := false, ferryDone := v.ferryDone ++ [⟨r, status, cause, 0, false⟩] }

/-- An error in data at a global address of the core's space, met in a dirty line, is reported as such too (R360). -/
def State.dirtyReport (s : State) (core cause addr : Nat) : State :=
  match s.locs core addr 1 false with
  | .ok (l :: _) => if cause = memUncorrectable then s.lineReport core l else s
  | _ => s

/-- A packet is abandoned at a global address or at an offset of a segment, and the cause goes to the supervisor (R243, R351,
R375). -/
def State.ferryAbandon (s : State) (core : Nat) (r : FRun) (cause addr : Nat) (far : Bool) : State :=
  let s := if far then s.dirtyReport core cause addr else s
  ((s.holdPins (r.tickets core) false false).setFerry core
    (some { r with state := .abandoned cause addr, phase := 0 })).notice 5 (s.partOf core) core
    [(8, leBytes 1 1), (9, leBytes 1 cause), (12, leBytes 4 (fSeq r.pkt.bits.toNat)), (16, leBytes 8 addr),
      (24, leBytes 8 (if far then s.granuleOf core cause addr else 0))]

/-- FILL repeats its pattern (R234). -/
def fillByte (v t : Nat) : Byte := BitVec.ofNat 8 (bitsOf v 95 32 / 2 ^ (8 * (t % 8)))

/-- The data of a granule's writes (R233 to R235): COPY reads the source, FILL repeats its pattern, COPY-REDUCE combines what
the destination holds with the staged source. -/
def State.granuleData (s : State) (core : Nat) (r : FRun) (ws : List (Int × Nat)) : Except (Nat × Nat) (State × List Byte) :=
  let v := r.pkt.bits.toNat
  let d := fDst v
  match fKind v with
  | 3 => .ok (s, ws.map fun e => fillByte v e.2)
  | 2 =>
    match s.fRead core d (d.holder core r.pkt.dstSeg r.dstFar) (ws.map (·.1)) with
    | .error c => .error c
    | .ok (t, old) =>
      let n := if fRop v = 1 then 2 else 4
      let staged := (r.staged.getD []).drop r.pos
      .ok (t, ropBytes (fRop v) n (ws.length / n) old (ws.map fun e => staged.getD (e.2 - r.pos) 0))
  | _ =>
    let f := fSrc v
    s.fRead core f (f.holder core r.pkt.srcSeg r.srcFar) (ws.map fun e => f.place e.2)

/-- A granule of COPY, FILL or COPY-REDUCE's apply. -/
def State.ferryMove (s : State) (core : Nat) (r : FRun) : State :=
  let d := fDst r.pkt.bits.toNat
  let e := granuleEnd d.total r.pos
  let ws := d.granuleWrites r.pos (e - r.pos)
  match s.granuleData core r ws with
  | .error (cause, addr) => s.ferryAbandon core r cause addr !(if r.touches.1 then fSrc r.pkt.bits.toNat else d).local
  | .ok (t, bs) =>
    let h := d.holder core r.pkt.dstSeg r.dstFar
    let t := if d.local then t.noteStale core r.pkt.tag.id h (ws.map fun w => w.1.toNat) else t
    match t.fWrite core d h (ws.map (·.1)) bs with
    | .error (cause, addr) => t.ferryAbandon core r cause addr true
    | .ok u =>
      let r1 := { r with pos := e, reach := Nat.max r.reach e, phase := 0 }
      let u1 := u.modCS core fun w => w.advance d.total e ws.length
      if e = d.total then u1.ferryEnd core r1 1 0 else u1.setFerry core (some r1)

/-- COPY-REDUCE reads its whole source first (R235). -/
def State.ferryFetch (s : State) (core : Nat) (r : FRun) : State :=
  let v := r.pkt.bits.toNat
  let d := fSrc v
  match s.fRead core d (d.holder core r.pkt.srcSeg r.srcFar) (d.places 0 d.total) with
  | .error (cause, addr) => s.ferryAbandon core r cause addr !d.local
  | .ok (t, bs) => t.setFerry core (some { r with staged := some bs, phase := 0 })

/-- An aligned 8-byte word of memory at locations. -/
def State.word8 (s : State) (ls : List Nat) : Nat := leNat (s.bytesAt ls)

/-- A ring header is well formed (R245). -/
def headerOk (h : Nat) : Bool :=
  bitsOf h 133 128 == 0 && bitsOf h 196 192 == 0 && decide (4 ≤ bitsOf h 259 256) && bitsOf h 511 260 == 0

/-- WRITE-ENQUEUE (R236): all translations first, then the payload and the claim. -/
def State.ferryEnqueue (s : State) (core : Nat) (r : FRun) : State :=
  let v := r.pkt.bits.toNat
  let sd := fSrc v
  let d := fDst v
  let at_ := fun (a n : Nat) (w : Bool) => s.farLocs core d ((countFrom a n).map Int.ofNat) w
  match s.fRead core sd (sd.holder core r.pkt.srcSeg none) (sd.places 0 sd.total) with
  | .error (cause, addr) => s.ferryAbandon core r cause addr !sd.local
  | .ok (t, bs) =>
    match at_ d.va d.c0 true, at_ (fHeader v) 64 true with
    | .error e, _ => t.ferryEnd core r 4 e.1
    | _, .error e => t.ferryEnd core r 4 e.1
    | .ok pl, .ok hl =>
      let h := leNat (s.bytesAt hl)
      let w := bitsOf h 63 0
      let n := 2 ^ bitsOf h 259 256
      if (s.soiled hl).isSome then t.ferryEnd core r 4 memUncorrectable
      else
      match at_ (bitsOf h 191 128 + 64 * (w % n)) 64 true with
      | .error e => t.ferryEnd core r 4 e.1
      | .ok _ =>
        let t1 := (t.writeLocs pl (bs.take d.c0)).engineTouch core true none pl
        let t2 := (t1.writeLocs (hl.take 8) (leBytes 8 (w + 1))).engineTouch core true none (hl.take 8)
        (t2.modCS core fun x => x.advance d.c0 d.c0 d.c0).setFerry core
          (some { r with pos := d.c0, reach := d.c0, claim := some w, staged := some (bs.drop d.c0) })

/-- The claimed slot is published once the ring has room (R236, R247). -/
def State.ferryPublish (s : State) (core : Nat) (r : FRun) (w : Nat) : State :=
  let v := r.pkt.bits.toNat
  let d := fDst v
  let at_ := fun (a n : Nat) (wr : Bool) => s.farLocs core d ((countFrom a n).map Int.ofNat) wr
  match at_ (fHeader v) 64 false with
  | .error e => s.ferryEnd core r 4 e.1
  | .ok hl =>
    let h := leNat (s.bytesAt hl)
    let n := 2 ^ bitsOf h 259 256
    if (s.soiled hl).isSome then s.ferryEnd core r 4 memUncorrectable
    else if (bitsOf h 127 64 + n) % 2 ^ 64 ≤ w then s
    else
      let pkt := r.staged.getD []
      let cmpla := bitsOf h 255 192
      let zeroed := if fCr (leNat pkt) ∧ cmpla ≠ 0 then at_ (cmpla + 32 * (w % n)) 1 true else .ok []
      match at_ (bitsOf h 191 128 + 64 * (w % n)) 64 true, zeroed with
      | .ok ls, .ok zl =>
        let t := (((s.engineTouch core false none hl).writeLocs zl [0]).engineTouch core true none zl).writeLocs ls (pkt.take 60 ++ leBytes 4 (w + 1))
        (t.engineTouch core true none ls).ferryEnd core r 1 0
      | .error e, _ => s.ferryEnd core r 4 e.1
      | _, .error e => s.ferryEnd core r 4 e.1

/-- A granule begins: the packet goes on, parks, or ends at a space-1 failure. -/
def State.ferryStep (s : State) (core : Nat) (r : FRun) : State :=
  match s.ferryGate core r with
  | .fail cause => (s.holdPins (r.tickets core) false false).ferryEnd core r 3 cause
  | .park t r1 => t.setFerry core (some r1)
  | .go t r1 =>
    let v := r.pkt.bits.toNat
    if fKind v = 4 then t.ferryEnqueue core r1
    else if fKind v = 2 ∧ r1.staged = none then t.ferryFetch core r1
    else if (fDst v).total - r1.pos ≤ 128 then t.ferryMove core r1
    else t.setFerry core (some { r1 with phase := 1 })

/-- One cycle of the channel: 128 bytes of a granule (R240). A WRITE-ENQUEUE that waits for room in its ring touches no
segment any more: asked to yield, it drops its pins and waits on; a packet that stands abandoned drops the far pins it is asked
for (R287). -/
def State.ferryCycle (s : State) (core : Nat) : State :=
  match (s.cs core).ferry with
  | some r =>
    if r.state ≠ .running then s.dropFar r fun t => t.asked
    else
      match r.claim with
      | some w =>
        if r.yield then
          let r1 := { r with yield := false }
          ((s.holdPins (r.tickets core) false false).setFerry core (some r1)).ferryPublish core r1 w
        else s.ferryPublish core r w
      | none => if r.phase = 0 ∨ !s.mayTouch core r then s.ferryStep core { r with phase := 0 } else s.ferryMove core r
  | none => s

/-! ### Sources (R240, R248) -/

/-- The slot of a bound ring that the channel takes next, when its sequence word says that it is published. -/
def State.ringSlot (s : State) (core r : Nat) : Option (Ring × Nat × List Nat) :=
  match ((s.cs core).rings[r]?).getD none with
  | none => none
  | some b =>
    match s.locs core (b.slots + 64 * (b.ridx % 2 ^ b.log2n)) 64 false, s.locs core (b.header + 8) 8 true with
    | .ok ls, .ok hl =>
      let v := leNat (s.bytesAt ls)
      if bitsOf v 511 480 = (b.ridx + 1) % 2 ^ 32 ∧ s.soiled ls = none then some (b, v, hl) else none
    | _, _ => none

/-- Why the channel cannot read the slot a ring comes to: a translation fails, or a word it reads holds an uncorrectable
error, the sequence word first (R248, R351, R360); the cause and the address. -/
def State.ringFault (s : State) (core r : Nat) : Option (Nat × Nat) :=
  match ((s.cs core).rings[r]?).getD none with
  | none => none
  | some b =>
    let a := b.slots + 64 * (b.ridx % 2 ^ b.log2n)
    match s.locs core a 64 false, s.locs core (b.header + 8) 8 true with
    | .error e, _ => some e
    | _, .error e => some e
    | .ok ls, .ok _ =>
      if (s.soiled (ls.drop 60)).isSome then some (memUncorrectable, a + 60)
      else if leNat (s.bytesAt (ls.drop 60)) = (b.ridx + 1) % 2 ^ 32 ∧ (s.soiled ls).isSome then
        some (memUncorrectable, a + (ls.findIdx fun l => s.flaws.contains (l / 8)))
      else none

/-- A source of the channel has a packet: 0 the ferry queue, 1 to 4 the rings. -/
def State.sourceReady (s : State) (core n : Nat) : Bool :=
  if n = 0 then !(s.cs core).fq.isEmpty else (s.ringSlot core (n - 1)).isSome

/-- The source whose turn it is (R240). -/
def State.nextSource (s : State) (core : Nat) : Option Nat :=
  ((List.range 5).map fun i => ((s.cs core).rr + i) % 5).find? fun n => s.sourceReady core n

/-- A packet may start: AFTER waits for every earlier completion, and a replay holds the channel to its end (R240, R243). -/
def CoreState.mayBegin (v : CoreState) (bits : Nat) : Bool :=
  v.ferryDone.all fun d => !d.run.replayed && !fAfter bits

/-- A packet starts: FWPOS describes it from now on (R241). -/
def State.beginPacket (s : State) (core : Nat) (p : FPacket) : State :=
  let s1 := s.modCS core fun v =>
    { v with
      ferry := some ⟨p, 0, 0, .running, false, 0, none, none, none, none, false⟩
      fwpos := 0
      fwseq := BitVec.ofNat 16 (fSeq p.bits.toNat)
      fwrun := true }
  s1.modCS core fun v => v.pinNow p.tag.ticket

/-- FERRY_PACKET_START (R240): the head of the ferry queue, or a ring packet taken earlier that waited under AFTER. -/
def execFerryPacketStart (c : BitVec 9) (s : State) : Host.Outcome State Fault Refusal :=
  let core := c.toNat
  let v := s.cs core
  match v.ferry with
  | some r =>
    if r.state = .waiting ∧ v.mayBegin r.pkt.bits.toNat then .next (s.beginPacket core r.pkt) else .next s
  | none =>
    match s.nextSource core, v.fq with
    | some 0, p :: rest =>
      if v.mayBegin p.bits.toNat then .next ((s.modCS core fun w => { w with fq := rest, rr := 1 }).beginPacket core p)
      else .next s
    | _, _ => .next s

/-- A slot that cannot be read is reported once, and holds its ring back (R248, R351; log 43). -/
def State.ringReport (s : State) (core r : Nat) : State :=
  match ((s.cs core).rings[r]?).getD none, s.ringFault core r with
  | some b, some (cause, addr) =>
    if b.told then s
    else
      (s.modCS core fun w => { w with rings := w.rings.setIfInBounds r (some { b with told := true }) }).notice 5 (s.partOf core)
        core [(8, leBytes 1 1), (9, leBytes 1 cause), (12, leBytes 4 ((b.ridx + 1) % 2 ^ 32)), (16, leBytes 8 addr),
          (24, leBytes 8 (s.granuleOf core cause addr))]
  | _, _ => s

/-- RING_PACKET_TAKE (R248): its issue event; the packet is checked (R237) and RIDX stored. DESIGN CHOICE (log 37): R237 and R238
name no CAUSE for a record with STATUS PACKET; it is 0. -/
def execRingPacketTake (c : BitVec 9) (ring : BitVec 2) (s : State) : Host.Outcome State Fault Refusal :=
  let core := c.toNat
  let r := ring.toNat
  if (s.cs core).ferry.isNone && (s.ringFault core r).isSome then .next (s.ringReport core r)
  else if (s.cs core).ferry.isSome || s.nextSource core != some (r + 1) || !(s.cs core).ferryDone.all (fun d => !d.run.replayed) then .next s
  else
    match s.ringSlot core r with
    | none => .next s
    | some (b, v, hl) =>
      let rec_ := if b.cmpla = 0 then 0 else b.cmpla + 32 * (b.ridx % 2 ^ b.log2n)
      let id := s.nextId
      let slot := match s.locs core (b.slots + 64 * (b.ridx % 2 ^ b.log2n)) 64 false with
        | .ok ls => ls
        | .error _ => []
      let read := s.engineTouch core false none slot
      let s1 : State := { ((read.spoilAll hl).gstore hl (leBytes 8 (b.ridx + 1))) with nextId := id + 1 }
      let s2 := s1.modCS core fun w =>
        { w with rings := w.rings.setIfInBounds r (some { b with ridx := (b.ridx + 1) % 2 ^ 64, told := false }), rr := (r + 2) % 5 }
      let bits := BitVec.ofNat 512 v
      let bad := fun (status cause detail : Nat) =>
        let run : FRun := ⟨⟨⟨id, 0, none, none⟩, .ring rec_, bits, none, none⟩, 0, 0, .running, false, 0, none, none, none, none, false⟩
        Host.Outcome.next (s2.modCS core fun w => { w with ferryDone := w.ferryDone ++ [⟨run, status, cause, detail, false⟩] })
      match packetBad v with
      | some n => bad 2 0 n
      | none =>
        if fCr v ∧ b.cmpla = 0 then bad 2 0 16
        else
          match s2.packetSegs core v with
          | .error e => bad 3 e.1 0
          | .ok (a, d) =>
            let set := (a.toList ++ d.toList).foldl addTo []
            if (s2.cs core).quota < (s2.cs core).setSum set then bad 3 segSetOverflow 0
            else
              let n := (s2.core core).nextTicket
              let t := if set = [] then none else some n
              let s3 := if set = [] then s2
                else s2.modCore core fun w =>
                  { w with
                    nextTicket := n + 1
                    cur := { w.cur with tickets := w.cur.tickets ++ [⟨n, [], set, true, false, [], false, false, false, false, 0⟩] } }
              let p : FPacket := ⟨⟨id, 0, t, none⟩, .ring rec_, bits, a, d⟩
              if (s3.cs core).mayBegin v then .next (s3.beginPacket core p)
              else .next (s3.setFerry core (some ⟨p, 0, 0, .waiting, false, 0, none, none, none, none, false⟩))

/-- FERRY_RESUME (R242): a parked packet goes on at its granule once every segment it names is resident. -/
def execFerryResume (c : BitVec 9) (s : State) : Host.Outcome State Fault Refusal :=
  let core := c.toNat
  match (s.cs core).ferry with
  | some r =>
    if r.state ≠ .parked then .next s
    else
      match s.ferryGate core r with
      | .go t r1 => .next (t.setFerry core (some r1))
      | .park t r1 => .next (t.setFerry core (some r1))
      | .fail cause => .next ((s.holdPins (r.tickets core) false false).ferryEnd core r 3 cause)
  | none => .next s

/-- FERRY_REPLAY (R243): from stream byte 0, and COPY-REDUCE abandoned during its apply from the words not yet applied. -/
def execFerryReplay (c : BitVec 9) (s : State) : Host.Outcome State Fault Refusal :=
  let core := c.toNat
  match (s.cs core).ferry with
  | some r =>
    match r.state with
    | .abandoned _ _ =>
      let apply := decide (fKind r.pkt.bits.toNat = 2) && r.staged.isSome
      .next (s.setFerry core (some { r with state := .running, phase := 0, replayed := true, pos := if apply then r.pos else 0 }))
    | _ => .next s
  | none => .next s

/-! ### Completion (R238, R239) -/

/-- A run of bytes put among runs in ascending order. -/
def insertRun (e : Int × Nat) : List (Int × Nat) → List (Int × Nat)
  | [] => [e]
  | f :: r => if e.1 < f.1 then e :: f :: r else f :: insertRun e r

/-- Runs joined, so that each byte lies in one. -/
def joinRuns : List (Int × Nat) → List (Int × Nat)
  | [] => []
  | e :: r =>
    match joinRuns r with
    | [] => [e]
    | f :: r' => if f.1 ≤ e.1 + e.2 then (e.1, (max (e.1 + e.2) (f.1 + f.2) - e.1).toNat) :: r' else e :: f :: r'

/-- The runs of a stream's first `n` bytes, each byte once. -/
def FDesc.cover (d : FDesc) (n : Nat) : List (Int × Nat) :=
  joinRuns ((List.range ((n + d.c0 - 1) / d.c0)).foldl (fun l k => insertRun (d.place (k * d.c0), Nat.min d.c0 (n - k * d.c0)) l) [])

/-- Destination bytes of a packet's written stream, each once (R238). -/
def FRun.bytes (r : FRun) : Nat := ((fDst r.pkt.bits.toNat).cover r.reach).foldl (fun n e => n + e.2) 0

/-- The bytes of a packet's destination that lie in a counter's range (R239). -/
def State.ferryCounted (s : State) (core : Nat) (r : FRun) (l : Landing) : Nat :=
  let d := fDst r.pkt.bits.toNat
  let runs := d.cover r.reach
  if d.local then
    if l.sp ∧ l.seg = (d.holder core r.pkt.dstSeg r.dstFar).2 then runs.foldl (fun n e => n + l.overlap e.1.toNat e.2) 0 else 0
  else
    match s.farLocs core d (runs.flatMap fun e => (List.range e.2).map fun i => e.1 + Int.ofNat i) true with
    | .ok ls => (ls.filter l.holdsLoc).length
    | .error _ => 0

/-- A completion record (R238). -/
def recordBytes (status cause : Nat) (nc : Bool) (detail seq bytes tag stamp : Nat) : List Byte :=
  leBytes 1 status ++ leBytes 1 cause ++ leBytes 2 (nc.toNat + 2 * detail) ++ leBytes 4 seq ++ leBytes 8 bytes ++ leBytes 2 tag
    ++ leBytes 6 0 ++ leBytes 8 stamp

/-- The record is written in its segment or at its ring's place (R244, R245). -/
def State.putRecord (s : State) (core : Nat) (p : FPacket) (ls : List Nat) (r : List Byte) : State :=
  if !fCr p.bits.toNat then s
  else
    match p.src with
    | .fcmd seg off => s.modCS core fun v => v.segWrite seg off r
    | .ring _ => (s.writeLocs (ls.take 32) r).engineTouch core true none (ls.take 32)

/-- The record's place: a resident segment, or the locations of its bytes. `none` while the segment is absent (R244). -/
def State.recordPlace (s : State) (core : Nat) (p : FPacket) : Option (Except (Nat × Nat) (List Nat)) :=
  if !fCr p.bits.toNat then some (.ok [])
  else
    match p.src with
    | .fcmd seg _ => if (s.cs core).isResident seg then some (.ok []) else none
    | .ring a => some (if a = 0 then .ok [] else s.locs core a 32 true)

/-- A packet with its core, where words of an instruction bank that it has written may still be fetched as they were: its
completion event is then announced (R191, R198). -/
def State.bankWriter (s : State) (core part : Nat) (r : FRun) : List (Nat × Nat) :=
  let home := ((fDst r.pkt.bits.toNat).holder core r.pkt.dstSeg r.dstFar).1
  let wrote := (s.partState home part).any fun v =>
    v.ctxs.toList.any fun c => c.stale.any fun w => w.core == core && w.id == r.pkt.tag.id
  if wrote then [(core, r.pkt.tag.id)] else []

/-- The announcements of a completion event to the issuer and in semaphores and the record (R191). -/
def State.announceEnd (s : State) (core part : Nat) (p : FPacket) (ls : List Nat) (told : List (Nat × Nat)) : State :=
  let v := p.bits.toNat
  let s1 := match p.src with
    | .fcmd .. => s.announce (.issuer core p.tag.ctx) told
    | .ring _ => if fCr v then s.announceWords (ls.take 1) told else s
  let s2 := match p.tag.signal with
    | some e => s1.announce (.sem core part e.1) told
    | none => s1
  if fSg v ∧ ¬ fTp v then s2.announce (.sem core part (fSem v)) told else s2

/-- Step 1: the landing count, for DONE (R239): at the counter of the packet's partition, on the core or the package of the
destination (R232). Another package's counters are not in the state: nothing is counted here, and NC is a free value (log 8). -/
def State.ferryCount (s : State) (core part : Nat) (d : FDone) (told : List (Nat × Nat)) : State × Bool :=
  let v := d.run.pkt.bits.toNat
  if d.status = 1 ∧ fLe v then
    let dst := fDst v
    if dst.space = 3 ∧ dst.pkg ≠ s.pod.pkgid then
      ({ s with fresh := s.fresh + 1 }, (Config.freeValue s.fresh).getLsbD 0)
    else
      let home := (dst.holder core d.run.pkt.dstSeg d.run.dstFar).1
      let armed := decide ((s.counterOf (fLand v) home part).state = .armed)
      let s := if armed then s.announce (counterPlace (fLand v) home part) told else s
      s.countNamed (fLand v) home part (s.ferryCounted core d.run (s.counterOf (fLand v) home part))
  else (s, false)

/-- Step 2: the task, for DONE, which announces the packets given (R191); the status and the cause from here on (R238, R239,
R261). DESIGN CHOICE (log 37): R238 names PAGE_FAULT and PROTECTION as the causes of POST_FAULT; a task record that holds an
uncorrectable error gives MEM_UNCORRECTABLE. -/
def State.ferryPost (s : State) (part : Nat) (d : FDone) (told : List (Nat × Nat)) : State × Nat × Nat :=
  let v := d.run.pkt.bits.toNat
  if d.status = 1 ∧ fTp v then
    match s.partLocs part (fTrec v) 64 false with
    | .error (cause, _) => (s, 5, cause)
    | .ok ls =>
      let bits := BitVec.ofNat 512 (leNat (s.bytesAt ls))
      let s := s.siteLines ls false
      if (s.soiled ls).isSome then (s, 5, memUncorrectable)
      else
      match recordBad bits.toNat with
      | some _ => (s, 5, enginePacket)
      | none => ((s.postOrWait (fTquad v) part bits).announce (.task bits part) told, 1, 0)
  else (s, d.status, d.cause)

/-- FERRY_PACKET_COMPLETE (R239): count, post, record, signals. -/
def execFerryPacketComplete (c : BitVec 9) (id : Nat) (s : State) : Host.Outcome State Fault Refusal :=
  let core := c.toNat
  match (s.cs core).ferryDone.find? fun d => d.run.pkt.tag.id == id with
  | none => .next s
  | some d =>
    let p := d.run.pkt
    let v := p.bits.toNat
    let part := s.partOf core
    match s.recordPlace core p with
    | none => .next (s.modCS core fun w => if w.unparked p.tag.ticket then w.park p.tag.ticket else w)
    | some (.error (cause, addr)) =>
      if d.told then .next s
      else
        -- what waits for the supervisor holds no pin
        .next (((s.holdPins (d.run.tickets core) false false).modCS core fun w =>
          { w with ferryDone := w.ferryDone.map fun e => if e.run.pkt.tag.id = id then { e with told := true } else e }).notice 5
            part core [(8, leBytes 1 1), (9, leBytes 1 cause), (12, leBytes 4 (fSeq v)), (16, leBytes 8 addr),
              (24, leBytes 8 (s.granuleOf core cause addr))])
    | some (.ok ls) =>
      let told := s.bankWriter core part d.run
      let counted := s.ferryCount core part d told
      let posted := counted.1.ferryPost part d told
      let s1 := posted.1.putRecord core p ls
        (recordBytes posted.2.1 posted.2.2 counted.2 d.detail (fSeq v) d.run.bytes (fTag v) s.cycle.toNat)
      let s2 := if fSg v ∧ ¬ fTp v then (s1.signal core part (fSem v) (fInc v)).1 else s1
      let s3 := s2.modCS core fun w => { w with ferryDone := w.ferryDone.filter fun e => e.run.pkt.tag.id != id }
      let s4 := (d.run.tickets core).foldl (fun s e => s.modPart e.1 part fun w => w.endTicket (some e.2)) s3
      .next ((s4.complete core part p.tag).announceEnd core part p ls told)

/-! ### Binding (R246) -/

/-- A ring whose header is well formed and that no channel has is bound to a free slot of the channel of a partition's
core. -/
def State.bindRing (s : State) (part core slot header : Nat) : Option State :=
  let has : CoreState → Bool := fun w => w.rings.toList.any fun r => (r.map (·.header)) == some header && w.part == some part
  let taken := s.cores.any fun e => has e.2.cur || (e.2.shadow.map has).getD false
  match s.partState core part, s.partLocs part header 64 false with
  | some v, .ok ls =>
    let h := leNat (s.bytesAt ls)
    if header % 64 ≠ 0 || (s.soiled ls).isSome || taken || ((v.rings[slot]?).getD none).isSome || !headerOk h then none
    else
      let r : Ring := ⟨header, bitsOf h 191 128, bitsOf h 255 192, bitsOf h 259 256, bitsOf h 127 64, false⟩
      some (s.modPart core part fun v => { v with rings := v.rings.setIfInBounds slot (some r) })
  | _, _ => none

/-- A ring leaves its channel; packets taken from it go on. -/
def State.unbindRing (s : State) (part core slot header : Nat) : Option State :=
  match s.partState core part with
  | none => none
  | some v =>
    if (((v.rings[slot]?).getD none).map (·.header)) = some header then
      some (s.modPart core part fun v => { v with rings := v.rings.setIfInBounds slot none })
    else none

end Sys2Proof.Machine
end

