-- ==== Sys2Proof/Machine/Landing.lean ====
section
/-!
DEFINITION. Arming, reading and disarming landing counters (R316 to R318, R322 to R325) and landing writes that wait for
their segment (R321).
-/
namespace Sys2Proof.Machine

/-- The detail codes of R342. -/
def landingIdDetail : Nat := 10
def armedDetail : Nat := 11

/-- A landing id in a register: the reserved bits of R316 are 0. -/
def landingIdOk (x : Nat) : Bool :=
  bitsOf x 63 16 == 0 && (if bitOf x 15 then bitsOf x 14 4 == 0 else !bitOf x 14)

/-- The counter a register names, or the failures of rows 1 and 2 of R323. -/
def State.namedCounter (s : State) (x : X64) : Except Halt Nat :=
  let id := x.toNat
  if !landingIdOk id then .error (s.trapHere illegalOp landingIdDetail 0)
  else if id < 0x8000 ∧ s.landingOwner.get id ≠ some (s.partOf s.icore) then
    .error (s.trapHere protection landingIdDetail 0)
  else .ok id

/-- The first failing bit of a descriptor for a counter (R317, R321, R323). -/
def descriptorBad (v : Nat) (isCore : Bool) : Option Nat :=
  let sp := bitOf v 55
  firstFail ((if sp then mustZero v 54 40 else []) ++ badField (sp != isCore) 55 ++ mustZero v 63 56
    ++ badField (bitsOf v 95 64 == 0) 64 ++ badField (bitsOf v 143 96 == 0) 96 ++ mustZero v 159 148
    ++ badField (!isCore && decide (2 ^ 55 < bitsOf v 54 0 + bitsOf v 95 64)) 0
    ++ match bitsOf v 146 144 with
      | 0 => badField (decide (4 < bitsOf v 162 160)) 160 ++ mustZero v 191 169 ++ mustZero v 255 192
      | 1 => mustZero v 191 160 ++ mustZero v 197 192
      | 2 => badField (bitsOf v 184 177 == 0) 177 ++ mustZero v 191 185 ++ mustZero v 255 192
      | 3 => []
      | _ => [144])

/-- The pages of a global range in ascending order, each with the part of the range in it and its physical address: rows
10 and 11 of R323. -/
def State.rangePages (s : State) : Nat → Nat → Nat → Except Halt (List (Nat × Nat × Nat))
  | 0, _, _ => .ok []
  | n + 1, va, stop =>
    if stop ≤ va then .ok []
    else
      match s.leaf (some s.icore) s.ccs.asid.toNat s.ccs.ptbase.toNat va with
      | .error c => .error (s.trapHere c 0 (s.xlateValue s.icore s.issue.pc c va 0))
      | .ok f =>
        let page := va / f.size * f.size
        if !f.writable || bitsOf f.pa 51 46 != s.pod.pkgid then .error (s.trapHere protection 0 (faultValue page 0))
        else
          let next := Nat.min stop (page + f.size)
          match State.rangePages s n next stop with
          | .error h => .error h
          | .ok r => .ok ((va, next - va, f.pa) :: r)

/-- The known set is within SGQUOTA: row 9 of R323. A set that is not ends the instruction without an effect of its own, and
the overflow is raised (R285). -/
def State.setFits (s : State) : Bool := decide (s.ccs.setSum s.issue.knownSet ≤ s.ccs.quota)

/-- A counter armed with a descriptor (R322). -/
def armedCounter (bits : BitVec 256) (core part seg : Nat) (pages : List (Nat × Nat × Nat)) : Landing :=
  ⟨bits, 0, .armed, false, false, bits.getLsbD 147, 0, core, part, seg, pages⟩

/-- The segment of a core range with its bounds: rows 7 and 8 of R323. -/
def State.rangeSeg (s : State) (v : Nat) : Except Halt Nat :=
  let name := bitsOf v 7 0
  match s.ccs.segNamed name with
  | none => .error (s.trapHere segUndefined 0 name)
  | some (id, g) =>
    if g.role ≠ .landing then .error (s.trapHere segUndefined 2 name)
    else if g.bytes < bitsOf v 39 8 + bitsOf v 95 64 then .error (s.trapHere segBound 0 name)
    else .ok id

/-- The issuing context's counter is armed anew: it has counted nothing, so it announces nothing (R191). -/
def State.arm (s : State) (id : Nat) (l : Landing) : State :=
  let t : State := { s with news := s.news.filter fun w => decide (w.place ≠ counterPlace id s.icore l.part) }
  t.setCounter id s.icore l

/-- LDARM (R322, R323): a core counter is armed at issue; a global one when the bundle, blocked until LDARM_ARMED, issues. The
descriptor's segment is waited for before any check (R36, R159). -/
def execLdarm (g : BitVec 4) (y : BitVec 8) (o : BitVec 6) (s : State) : Host.Outcome State Fault Refusal :=
  segOp g s do
    let xy ← s.readPair o
    if let some t := s.absentPlace y.toNat (s.stepped xy.1) 32 then .ok t
    else
    let id ← s.namedCounter xy.2
    let isCore := decide (0x8000 ≤ id)
    if (s.counter id s.icore).state = .armed then .error (s.trapHere illegalOp armedDetail 0)
    else do
      let p ← s.segPlace y.toNat (s.stepped xy.1) 32 false
      match p.1 with
      | .there _ => .ok p.2
      | .here sid off => do
          s.soundSeg sid off 32
          let v := leNat (s.ccs.segRead sid off 32)
          let bits := BitVec.ofNat 256 v
          match descriptorBad v isCore with
          | some b => .error (s.trapHere enginePacket 0 b)
          | none =>
            if isCore then do
              let rid ← s.rangeSeg v
              let t := p.2.useSegLater rid
              if !t.setFits then .ok t
              else .ok ((t.arm id (armedCounter bits s.icore (s.partOf s.icore) rid [])).completeNow true)
            else if !p.2.setFits then .ok p.2
            else do
              let base := bitsOf v 54 0
              let len := bitsOf v 95 64
              let pages ← s.rangePages (len / 65536 + 2) base (base + len)
              if !s.cx.armed then .error (.blocked .arm)
              else
                .ok (((p.2.modCx fun c => { c with armed := false }).arm id
                  (armedCounter bits s.icore (s.partOf s.icore) 0 pages)).completeNow true)

/-- LDARM_ARMED (R322): the home of a global counter is reached. -/
def execLdarmArmed (c : BitVec 9) (k : BitVec 2) (s : State) : Host.Outcome State Fault Refusal :=
  if (s.ctx c.toNat k.toNat).wait = .arm then .next (s.modCtx c.toNat k.toNat fun x => { x with armed := true }) else .next s

/-- The status word (R318). -/
def Landing.status (l : Landing) : Nat :=
  let state := match l.state with
    | .idle => 0
    | .armed => 1
    | .fired => 2
  l.count % 2 ^ 48 + 2 ^ 48 * state + 2 ^ 50 * l.overshoot.toNat + 2 ^ 51 * l.afail.toNat + 2 ^ 52 * l.rearm.toNat
    + 2 ^ 56 * l.gen.toNat

/-- LDREAD (R324). -/
def execLdread (g : BitVec 4) (d a : BitVec 6) (s : State) : Host.Outcome State Fault Refusal :=
  slotOp g s do
    let x ← s.readX a
    let id ← s.namedCounter x
    .ok ((s.loadResult .ldread (s.xDest d (BitVec.ofNat 64 (s.counter id s.icore).status)) 0 0).completeNow false)

/-- LDDIS (R325). -/
def execLddis (g : BitVec 4) (a : BitVec 6) (s : State) : Host.Outcome State Fault Refusal :=
  slotOp g s do
    let x ← s.readX a
    let id ← s.namedCounter x
    .ok ((s.setCounter id s.icore { s.counter id s.icore with state := .idle }).completeNow false)

/-! ### Landing writes that wait (R321) -/

/-- A held segment WRITE whose segment is resident, or is gone. -/
def CoreState.writeReady (v : CoreState) (a : Action) : Bool :=
  match a with
  | .segWrite _ _ seg _ _ _ => (v.seg seg).isNone || v.isResident seg
  | _ => false

/-- Firings of a counter that followed its held WRITE. -/
def heldFires (id : Nat) (l : List Action) : List Action :=
  l.filter fun a => match a with
    | .fire i _ _ => i == id
    | _ => false

/-- The first held WRITE without a ticket: its partition has come to run since the firing. -/
def CoreState.unticketed (v : CoreState) : Option Nat :=
  (v.heldActions.zipIdx.find? fun a => match a.1 with
    | .segWrite _ _ _ _ _ none => true
    | _ => false).map (·.2)

/-- A held WRITE into a segment that SGQUOTA does not hold. -/
def CoreState.tooLong (v : CoreState) (a : Action) : Bool :=
  match a with
  | .segWrite _ _ seg _ _ _ => (v.seg seg).any fun g => decide (v.quota < g.len)
  | _ => false

/-- LANDING_WRITE_DEFERRED (R321): the first held WRITE whose segment is resident is made, and firings held behind it
follow; else one held for its partition draws its ticket, and the segment is recalled. -/
def execLandingWriteDeferred (c : BitVec 9) (s : State) : Host.Outcome State Fault Refusal :=
  let core := c.toNat
  let v := s.cs core
  match (v.heldActions.zipIdx).find? fun a => v.writeReady a.1 with
  | some (.segWrite _ id seg off x ticket, i) =>
    let s1 := s.modCS core fun w => { w.endTicket ticket with heldActions := w.heldActions.eraseIdx i }
    let s2 := (s1.landingSegWrite id core seg off x).runActions actionFuel
    if (s2.cs core).landingWaits id then .next s2
    else
      let fires := heldFires id (s2.cs core).heldActions
      let s3 := s2.modCS core fun w => { w with heldActions := w.heldActions.filter fun a => !fires.contains a }
      .next (fires.foldl (fun t a => (t.doAction a).runActions actionFuel) s3)
  | _ =>
    match v.unticketed with
    | none => .next s
    | some i =>
      if let some (Action.segWrite _ id _ _ _ _) := (v.heldActions[i]?).filter v.tooLong then
        .next ((s.modCS core fun w => { w with heldActions := w.heldActions.eraseIdx i }).landingNoRoom id core)
      else
      let n := (s.core core).nextTicket
      .next (s.modCore core fun w =>
        { w with
          nextTicket := n + 1
          cur := { w.cur with
            tickets := w.cur.tickets ++ (match v.heldActions[i]? with
              | some (.segWrite _ _ seg _ _ _) => [⟨n, [seg], [], false, true, [], false, false, false, false, 0⟩]
              | _ => [])
            heldActions := w.cur.heldActions.modify i fun a => match a with
              | .segWrite c id seg off x _ => .segWrite c id seg off x (some n)
              | a => a } })

end Sys2Proof.Machine
end

