-- ==== Sys2Proof/Machine/Launch.lean ====
section
/-!
DEFINITION. Launch (R58, R123, R304 to R306, R371) and the pattern image (R335, R361, R377).
-/
namespace Sys2Proof.Machine

/-! ### Launch segments (R306) -/

/-- Segments moved down one after another (R282). -/
def CoreState.compactAll (store : Nat) (pinnedToo : Bool) : Nat → CoreState → CoreState
  | 0, v => v
  | n + 1, v =>
    match v.compactNext store pinnedToo (fun _ => true) with
    | some (m, b) => CoreState.compactAll store pinnedToo n (v.modSeg m fun g => { g with base := b })
    | none => v

/-- A run for a new segment: as it is found, or after compaction, of PINNED segments too where that is needed (R282). With no
run even then (a segment that cannot be pushed out; log 41) the segment begins at granule 0 all the same. -/
def CoreState.placeRun (v : CoreState) (store len : Nat) : CoreState × Nat :=
  let tries := [v, CoreState.compactAll store false v.segs.length v, CoreState.compactAll store true v.segs.length v]
  (tries.findSome? fun w => (w.lowestRun w.nextSeg len store).map fun b => (w, b)).getD (v, 0)

/-- A launch segment is defined, RESIDENT and DIRTY, with its contents; no recall zero-fills it any more (R279, R306). -/
def CoreState.defineSeg (v : CoreState) (store : Nat) (g : Seg) : CoreState :=
  let r := v.placeRun store g.len
  { r.1 with
    segs := r.1.segs.put r.1.nextSeg { g with state := .resident, dirty := true, zf := false, base := r.2 }
    nextSeg := r.1.nextSeg + 1 }

/-- A name is taken from the table (launch defines 0xF8 and 0xF9 again). -/
def CoreState.undefine (v : CoreState) (name : Nat) : CoreState :=
  { v with segs := v.segs.filter fun e => e.2.name != name || e.2.detached }

/-- An instruction bank's segment (R155, R156). -/
def bankSeg (name : Nat) : Seg := ⟨name, 256, .resident, false, .instr, false, false, 0, 0, 0, [], false⟩

/-- Every pipe is emptied and gives its pool granules back (R306). -/
def Pipe.emptied (p : Pipe) : Pipe := { p with elems := [], cap := p.cap - p.extra, extra := 0, writer := none }

/-- The granules of the stack of a kernel (R304). -/
def stackLen (kern : Option Nat) : Nat :=
  match kern with
  | some k => bitsOf k 37 22
  | none => 0

/-- Granules of the unpinned launch segments (R306). -/
def CoreState.launchSum (v : CoreState) (stack pool : Nat) : Nat :=
  v.launchSegs.foldl (fun n e => match v.segNamed e.1 with
    | some (_, g) => if g.pinned then n else n + g.len
    | none => n + e.2.1) (stack + pool)

/-- The contents of a backing copy at a launch, and its words that hold an uncorrectable error. -/
structure Copy where
  bytes : List Byte
  bad : List Nat

/-- One launch segment of the image, unless its name is defined. A word of the copy with an uncorrectable error is one of the
segment's (log 43). -/
def CoreState.imageSeg (v : CoreState) (store : Nat) (e : Nat × Nat × Role × Nat × Nat) (copy : Copy) : CoreState :=
  let (name, len, role, pipe, backing) := e
  if (v.segNamed name).isSome then v
  else
    let id := v.nextSeg
    let w := v.defineSeg store ⟨name, len, .resident, false, role, true, false, pipe, 0, backing, Tab.writeBytes [] 0 copy.bytes, false⟩
    let w1 := { w with flaws := copy.bad.map (Flaw.seg id) ++ w.flaws }
    if role = .pipe then { w1 with pipes := w1.pipes.setIfInBounds pipe ⟨some id, len, [], none, 0⟩ } else w1

/-- Step 1 of a launch: stack, pool, banks and the image's segments; the backing of 0xF9 ends at OVFPTR, that of 0xF8
directly below (R281). -/
def CoreState.launchSegments (v : CoreState) (store stack pool : Nat) (copy : Nat → Nat → Copy) : CoreState :=
  let v := { (v.undefine 0xF8).undefine 0xF9 with pipes := v.pipes.map Pipe.emptied, poolFree := pool }
  let v := [0xFE, 0xFF].foldl (fun v n =>
    if (v.segNamed n).isSome then v else { v with segs := v.segs.put v.nextSeg (bankSeg n), nextSeg := v.nextSeg + 1 }) v
  let top := v.ovfptr.toNat
  let v := v.defineSeg store ⟨0xF9, stack, .resident, false, .stack, true, false, 0, 0, top - 256 * stack, [], false⟩
  let v := v.defineSeg store ⟨0xF8, pool, .resident, false, .pipe, true, false, 0, 0, top - 256 * stack - 256 * pool, [], false⟩
  v.launchSegs.foldl (fun v e => v.imageSeg store e (copy e.2.2.2.2 (256 * e.2.1))) v

/-- The names a launch defines or keeps: no victim of its push-outs. -/
def CoreState.launchNames (v : CoreState) : List Nat := [0xF8, 0xF9] ++ v.launchSegs.map fun e => e.1

/-- A segment of a core's state of a partition pushed out: written to its backing copy where it is DIRTY; `none` where that
faults. -/
def State.pushOut (s : State) (core part id : Nat) : Option State :=
  match (s.partState core part).bind fun v => v.seg id with
  | none => some s
  | some g =>
    let gone := fun (t : State) => t.modPart core part fun v =>
      { (v.modSeg id (fun g => { g with state := .absent, dirty := false, data := [] })).mendAll id with
        mon := { v.mon with pushouts := v.mon.pushouts + 1 } }
    if !g.dirty then some (gone s)
    else
      match s.partLocs part g.backing g.bytes true with
      | .error _ => none
      | .ok ls =>
        let bs := (((s.partState core part).getD .reset).segRead id 0 g.bytes)
        some (gone ((s.writeLocs ls bs).engineTouch core true none ls))

/-- Room for `need` granules more under SGQUOTA: candidates are pushed out in the order of R283, but for those of a list;
one whose backing faults joins it. -/
def State.roomFor (core part need : Nat) : Nat → List Nat → State → State
  | 0, _, s => s
  | n + 1, kept, s =>
    match s.partState core part with
    | none => s
    | some v =>
      if v.unpinned + need ≤ v.quota then s
      else
        match v.victim kept with
        | none => s
        | some id =>
          match s.pushOut core part id with
          | some t => State.roomFor core part need n kept t
          | none => State.roomFor core part need n (id :: kept) s

/-! ### Contexts (R58, R123, R306) -/

/-- A context named in the launch vector. -/
def Ctx.launched (c : Ctx) (kern : Option Nat) (entry : Nat) (args : List X64) : Ctx :=
  let x : Vector X64 48 := ((((Vector.replicate 48 0).setIfInBounds 1 (args.getD 0 0)).setIfInBounds 2 (args.getD 1 0)).setIfInBounds 3
    (args.getD 2 0)).setIfInBounds 4 (args.getD 3 0)
  { Ctx.kernelMode { c with mode := ⟨true, 0, false⟩ } kern with
    run := .running
    pc := entry
    rep := 0
    x := x
    p := 1
    v := Ctx.reset.v
    m := Ctx.reset.m
    k := Ctx.reset.k
    kth := Ctx.reset.kth
    rrb := ⟨0, 0, 0⟩
    loops := []
    sticky := .nop
    flight := []
    loads := []
    flaws := []
    held := []
    stop := none
    preempt := false
    parked := false
    region := none
    task := none
    participant := true
    arrivals := []
    owedBarx := []
    withdrawn := []
    stale := []
    wait := .none
    waitCycles := 0
    waitCounted := false
    waitwEnded := false
    bank := none
    armed := false
    ticket := none
    vol := kernelVol kern
    kinsAt := Ctx.reset.kinsAt }

/-- A context the launch vector does not name starts idle in TKWAIT. -/
def Ctx.idled (c : Ctx) : Ctx := { c with run := .idle, task := none, participant := false, wait := .none, parked := false }

/-- A context of the core stands in the way of a launch: it is neither halted nor idle without a part (R371). -/
def Ctx.busy (c : Ctx) : Bool := !(decide (c.run = .halted) || decide (c.run = .idle) && c.task.isNone)

/-- The mask of a core's running contexts (R375). -/
def CoreState.busyMask (v : CoreState) : Nat := (List.range 4).foldl (fun n k => if (v.ctx k).busy then n + 2 ^ k else n) 0

/-! ### The launch vector (R305, R371) -/

/-- A bundle address a user launch may name (R82, R161). -/
def bundleAddress (a : Nat) : Bool := a % 4 == 0 && (decide (a < 0xC00) || (decide (0x10000 ≤ a) && decide (a < 0x20000)))

/-- Why a vector is refused, lowest code first (R306, R371, R375): `running` is the mask of the core's running contexts. -/
def launchRefusal (v : Option CoreState) (running bits : Nat) : Option Nat :=
  if bitsOf bits 19 17 ≠ 0 ∨ bitsOf bits 63 48 ≠ 0 ∨ bitsOf bits 511 320 ≠ 0 then some 1
  else if !bundleAddress (bitsOf bits 16 0) then some 2
  else
    match v with
    | none => some 3
    | some v =>
      let kern := v.kernelAt (bitsOf bits 16 0)
      let need := match kern with
        | some k => bitsOf k 18 17 + 1
        | none => 0
      let named := (List.range 4).foldl (fun n k => n + (bitOf bits (20 + k)).toNat) 0
      let pool := if bitsOf bits 47 32 = 0 then v.poolLen else bitsOf bits 47 32
      if named < need then some 4
      else if v.quota < v.launchSum (stackLen kern) pool then some 5
      else if running ≠ 0 ∨ v.busyMask ≠ 0 then some 6
      else none

/-- The launch of R306 on the partition's state of a core: its semaphores are 0 before any context starts (R313), and bank 0
is active (R96). -/
def CoreState.launch (v : CoreState) (store bits : Nat) (copy : Nat → Nat → Copy) : CoreState :=
  let entry := bitsOf bits 16 0
  let kern := v.kernelAt entry
  let pool := if bitsOf bits 47 32 = 0 then v.poolLen else bitsOf bits 47 32
  let args := (List.range 4).map fun n => BitVec.ofNat 64 (bits / 2 ^ (64 + 64 * n))
  let v := { v.launchSegments store (stackLen kern) pool copy with sems := [], incs := [], active := false }
  (List.range 4).foldl (fun v k =>
    v.setCtx k (if bitOf bits (20 + k) then (v.ctx k).launched kern entry args else (v.ctx k).idled)) v

/-- The offset of a core's launch vector in the control window (R368). -/
def vectorAt (core : Nat) : Nat := 0x10000 + 64 * core

/-- The contents of a backing copy as a launch reads it; bytes that no longer translate are free values (log 41). -/
def State.copyAt (s : State) (part va n : Nat) : Copy :=
  match s.partLocs part va n false with
  | .ok ls => ⟨s.bytesAt ls, (List.range (n / 4)).filter fun w => (s.soiled ((ls.drop (4 * w)).take 4)).isSome⟩
  | .error _ => ⟨(List.range n).map fun i => (Config.freeValue (s.fresh + va % 2 ^ 32 + i)).setWidth 8, []⟩

/-- The granules that a launch adds to the unpinned ones. -/
def CoreState.launchNeed (v : CoreState) (stack pool : Nat) : Nat :=
  v.launchSegs.foldl (fun n e => if (v.segNamed e.1).isSome then n else n + e.2.1) (stack + pool)

/-- An accepted launch (R306): segments that no launch names make room under SGQUOTA first (R280). -/
def State.acceptLaunch (s : State) (core part bits : Nat) : State :=
  match s.partState core part with
  | none => s
  | some v =>
    let kern := v.kernelAt (bitsOf bits 16 0)
    let pool := if bitsOf bits 47 32 = 0 then v.poolLen else bitsOf bits 47 32
    let t := s.modPart core part fun v => (v.undefine 0xF8).undefine 0xF9
    -- no segment of the oldest parked ticket leaves (R30)
    let kept := (v.segs.filter fun e => v.launchNames.contains e.2.name).map (fun e => e.1)
      ++ (v.oldestParked.map Ticket.members).getD []
    let t := State.roomFor core part (v.launchNeed (stackLen kern) pool) (2 * v.segs.length) kept t
    let u := t.modPart core part fun v => v.launch (storeGranules (t.core core).cacheKiB) bits (t.copyAt part)
    { u with
      fresh := u.fresh + 2 ^ 33
      partitions := match u.partitions.get part with
        | some p => u.partitions.put part { p with finished := false }
        | none => u.partitions }

/-- The commit word stands in the launch vector. -/
def State.putLaunchWord (s : State) (core : Nat) (word : X64) : State :=
  { s with host := { s.host with window := s.host.window.writeBytes (vectorAt core) (leBytes 8 word.toNat) } }

/-- The commit of a core's launch vector (R371). -/
def State.commitLaunch (s : State) (core : Nat) (word : X64) : State :=
  let s := s.putLaunchWord core word
  let bits := leNat (readBytes (fun a => s.host.window.read 0 a) (vectorAt core) 64)
  let part := bitsOf bits 31 24
  let running := (s.cs core).busyMask
  match launchRefusal (s.partState core part) running bits with
  | some reason => s.notice 2 part core [(8, leBytes 1 reason), (9, leBytes 1 running)]
  | none => s.acceptLaunch core part bits

/-- LAUNCH_COMMIT (R371): while READY is 0 the word is stored and nothing is launched (R369). -/
def execLaunchCommit (c : BitVec 9) (word : BitVec 64) (s : State) : Host.Outcome State Fault Refusal :=
  .next (if s.host.ready then s.commitLaunch c.toNat word else s.putLaunchWord c.toNat word)

/-! ### The pattern image (R377) -/

/-- A section entry. -/
structure ImageSection where
  kind : Nat
  name : Nat
  attr : Nat
  size : Nat
  clen : Nat
  place : Nat
  coff : Nat
  whr : Nat
  deriving DecidableEq, Repr

/-- Consecutive bytes of an image as a number. -/
def imageNat (img : List Byte) (off n : Nat) : Nat := leNat ((img.drop off).take n)

/-- The section entries of an image. -/
def imageSections (img : List Byte) : List ImageSection :=
  (List.range (imageNat img 6 2)).map fun i =>
    let at_ := fun (o n : Nat) => imageNat img (64 + 32 * i + o) n
    ⟨at_ 0 2, at_ 2 1, at_ 3 1, at_ 4 4, at_ 8 4, at_ 12 4, at_ 16 8, at_ 24 8⟩

/-- The cores of a section's mask. -/
def ImageSection.cores (e : ImageSection) (img : List Byte) : List Nat :=
  if e.kind = 6 then [] else
    let m := imageNat img e.whr 64
    (List.range 512).filter fun c => bitOf m c

/-- The header is well formed. -/
def imageHeaderOk (img : List Byte) : Bool :=
  imageNat img 0 4 == 0x4E525450 && imageNat img 4 2 == 1 && imageNat img 8 56 == 0
    && decide (64 + 32 * imageNat img 6 2 ≤ img.length)

/-- An entry is well formed and lies in the image. -/
def ImageSection.ok (e : ImageSection) (img : List Byte) (cores : List Nat) : Bool :=
  let seg := e.kind == 4
  decide (1 ≤ e.kind) && decide (e.kind ≤ 7)
    && (if seg then decide (e.name ≤ 0xEF) else e.name == 0)
    && (if seg then
          decide (bitsOf e.attr 2 0 ≤ 2) && !bitOf e.attr 3 && !bitOf e.attr 7
            && (bitsOf e.attr 2 0 == 1 || bitsOf e.attr 6 4 == 0)
        else e.attr == 0)
    && (match e.kind with
        | 1 => decide (e.size ≤ 0xC00)
        | 2 | 3 => decide (e.size ≤ 65536)
        | 4 => e.size % 256 == 0 && decide (256 ≤ e.size) && decide (e.size ≤ 2 ^ 24)
        | 5 => e.size % 8 == 0 && decide (e.size ≤ 512)
        | 6 => e.size % 65536 == 0 && e.whr % 65536 == 0
        | _ => e.size % 256 == 0)
    && decide (e.clen ≤ e.size) && decide (e.coff + e.clen ≤ img.length)
    && (if e.kind = 6 then decide (bitsOf e.place 1 0 ≤ 2) && bitsOf e.place 3 2 == 0 && bitsOf e.place 31 14 == 0 else e.place == 0)
    && (e.kind == 6 || decide (e.whr + 64 ≤ img.length))
    && (e.cores img).all fun c => cores.contains c

/-- A section's contents, the rest of its size zeros. -/
def ImageSection.bytes (e : ImageSection) (img : List Byte) : List Byte :=
  (img.drop e.coff).take e.clen ++ List.replicate (e.size - e.clen) 0

/-- The backing copies: section, core and address, in image order and ascending cores, each at a multiple of 256; with
the address after the last. -/
def backingPlan (img : List Byte) (base : Nat) (secs : List ImageSection) : List (ImageSection × Nat × Nat) × Nat :=
  (secs.filter fun e => e.kind == 4).foldl (fun acc e =>
    (e.cores img).foldl (fun acc c =>
      let a := (acc.2 + 255) / 256 * 256
      (acc.1 ++ [(e, c, a)], a + e.size)) acc) ([], base)

/-- The firmware's privileged routines in the firmware area (R161, R348). -/
def withFirmware (t : Tab Byte) : Tab Byte :=
  (List.range 256).foldl (fun t i => t.writeBytes (0xC00 + 4 * i) (leBytes 4 (Config.firmwareRoutine i).toNat)) t

/-- What the load leaves in one core of the partition. -/
def CoreState.loadImage (v : CoreState) (img : List Byte) (secs : List ImageSection) (core : Nat)
    (plan : List (ImageSection × Nat × Nat)) : CoreState :=
  let mine := secs.filter fun e => (e.cores img).contains core
  let area := fun (k : Nat) => (mine.filter fun e => e.kind == k).foldl (fun t e => Tab.writeBytes t 0 (e.bytes img)) ([] : Tab Byte)
  { v with
    flaws := v.flaws.filter fun f => match f with
      | .code .. => false
      | _ => true
    ctxs := v.ctxs.map fun c => { c with stale := [] }
    resident := withFirmware (area 1)
    bank0 := area 2
    bank1 := area 3
    kernels := (mine.filter fun e => e.kind == 5).flatMap fun e =>
      (List.range (e.size / 8)).map fun i => BitVec.ofNat 64 (imageNat (e.bytes img) (8 * i) 8)
    poolLen := (mine.filter fun e => e.kind == 7).foldl (fun _ e => e.size / 256) 0
    launchSegs := (plan.filter fun e => e.2.1 == core).map fun e =>
      (e.1.name, e.1.size / 256, roleOf (bitsOf e.1.attr 2 0), bitsOf e.1.attr 6 4, e.2.2) }

/-- Bytes written in the space of a partition by the supervisor; `none` where an address does not translate. -/
def State.supervisorWrite (s : State) (part va : Nat) (bs : List Byte) : Option State :=
  match s.partLocs part va bs.length false with
  | .ok ls => some ((s.spoilAll ls).writeLocs ls bs)
  | .error _ => none

/-- An 8-byte entry written at a physical address. -/
def State.writePhys (s : State) (pa v : Nat) : State :=
  let ls := (countFrom pa 8).filterMap locOfPa
  (s.spoilAll ls).writeLocs ls (leBytes 8 v)

/-- The entries of a table of 8,192 entries that are valid; an entry that memory does not list is 0. -/
def State.tableEntries (s : State) (table : Nat) : List Nat :=
  let at_ := (s.mem.flatMap fun c => (pasOfLoc c.1).filter fun a => decide (table ≤ a) && decide (a < table + 65536)).map fun a =>
    (a - table) / 8
  (at_.eraseDups.map fun i => s.readPhys (table + 8 * i)).filter fun e => bitOf e 0

/-- What an address space takes of memory, as physical addresses and sizes: its tables and the pages they map (R162, R300). -/
def State.spacePages (s : State) (root : Nat) : List (Nat × Nat) :=
  let pa := fun (e : Nat) => bitsOf e 51 16 * 2 ^ 16
  let l2 := s.tableEntries root
  let e2 := l2.flatMap fun e => s.tableEntries (pa e)
  let l3 := e2.filter fun e => !bitOf e 1
  [(root, 65536)] ++ l2.map (fun e => (pa e, 65536)) ++ (e2.filter fun e => bitOf e 1).map (fun e => (pa e, 2 ^ 29))
    ++ l3.map (fun e => (pa e, 65536)) ++ (l3.flatMap fun e => s.tableEntries (pa e)).map fun e => (pa e, 65536)

/-- Memory in use: what every partition's address space takes, and the new places of pages that migrate (R168). -/
def State.usedPages (s : State) : List (Nat × Nat) :=
  (s.partitions.flatMap fun p => s.spacePages p.2.ptbase.toNat) ++ s.migrating.map fun m => (m.2, 2 ^ 29)

/-- No byte of a 64 KiB page lies in memory in use, through whichever window that is reached (R166). -/
def pageUnused (used : List (Nat × Nat)) (pa : Nat) : Bool :=
  (List.range 64).all fun i =>
    match locOfPa (pa + 1024 * i) with
    | none => false
    | some l => (pasOfLoc l).all fun a => used.all fun u => decide (a < u.1) || decide (u.1 + u.2 ≤ a)

/-- The first number from `n` on, modulo `count`, that a test accepts. -/
def firstFrom (ok : Nat → Bool) (count : Nat) : Nat → Nat → Option Nat
  | 0, _ => none
  | k + 1, n => if ok (n % count) then some (n % count) else firstFrom ok count k (n + 1)

/-- A 64 KiB page that the supervisor takes, of the class, site and channel given: of those not in use the first from a free
value on (R166, R167; log 42); none where all are in use. -/
def State.takePage (s : State) (place : Nat) : Option (State × Nat) :=
  let pkg := s.pod.pkgid * 2 ^ 46
  let site := bitsOf place 7 4 * 2 ^ 36
  let c : Nat × Nat := match bitsOf place 1 0 with
    | 0 => (12582912, pkg)
    | 1 => (786432, pkg + 2 ^ 44 + site)
    | _ => (12288, pkg + 2 ^ 45 + site + bitsOf place 13 8 * 2 ^ 30)
  let used := s.usedPages
  (firstFrom (fun i => pageUnused used (c.2 + i * 2 ^ 16)) c.1 c.1 (Config.freeValue s.fresh).toNat).map fun i =>
    ({ s with fresh := s.fresh + 1 }, c.2 + i * 2 ^ 16)

/-- The table an entry points to: where the entry is not valid, a new one of zeros that it points to from now on (R300). -/
def State.tableAt (s : State) (entry : Nat) : Option (State × Nat) :=
  let e := s.readPhys entry
  if bitOf e 0 then some (s, bitsOf e 51 16 * 2 ^ 16)
  else (s.takePage 0).map fun r =>
    let zero := (List.range 8192).foldl (fun t i => t.writePhys (r.2 + 8 * i) 0) r.1
    (zero.writePhys entry (r.2 + 1), r.2)

/-- A page of a region is mapped, writable, in a page of its place (R335). -/
def State.mapPage (s : State) (root va place : Nat) : Option State := do
  let t2 ← s.tableAt (root + 8 * bitsOf va 54 42)
  let t3 ← t2.1.tableAt (t2.2 + 8 * bitsOf va 41 29)
  let r ← t3.1.takePage place
  return r.1.writePhys (t3.2 + 8 * bitsOf va 28 16) (r.2 + 7)

/-- A leaf is writable, of 64 KiB and of the placement a section names (R335, R377). -/
def Leaf.placed (f : Leaf) (place : Nat) : Bool :=
  f.size == 2 ^ 16 && f.writable && bitsOf f.pa 45 44 == bitsOf place 1 0
    && (match bitsOf place 1 0 with
      | 0 => true
      | 1 => bitsOf f.pa 39 36 == bitsOf place 7 4
      | _ => bitsOf f.pa 39 36 == bitsOf place 7 4 && bitsOf f.pa 35 30 == bitsOf place 13 8)

/-- The pages of a region. -/
def ImageSection.pages (e : ImageSection) : List Nat := (List.range (e.size / 65536)).map fun i => e.whr + 65536 * i

/-- A region can stand where it is to stand: each page is not mapped yet, or mapped as its section names. A valid entry of
another kind would have to be shot down first (R302; log 42). -/
def State.regionFits (s : State) (root : Nat) (e : ImageSection) : Bool :=
  e.pages.all fun va => decide (va < 2 ^ 55) && match s.walk root va with
    | .error c => c == pageFault
    | .ok f => f.placed e.place

/-- The pages of a region that are not mapped are mapped (R335). -/
def State.mapRegion (s : State) (root : Nat) (e : ImageSection) : Option State :=
  e.pages.foldl (fun t va => t.bind fun t => match t.walk root va with
    | .error _ => t.mapPage root va e.place
    | .ok _ => some t) (some s)

/-- The data of a region, written by the driver as host writes of 64 bytes (R319, R335). -/
def State.driverWrite (s : State) (part va : Nat) (bs : List Byte) : Option State :=
  (List.range (bs.length / 64)).foldl (fun t i => t.bind fun t =>
    match t.partLocs part (va + 64 * i) 64 true with
    | .ok ls => some ((t.spoilAll ls).gstore ls ((bs.drop (64 * i)).take 64))
    | .error _ => none) (some s)

/-- The load of a verified image; `none` where it is refused, which changes nothing (R377). -/
def State.loadPattern (s : State) (part va len base blen : Nat) : Option State :=
  match s.partitions.get part, s.partLocs part va len false with
  | some p, .ok ls =>
    let img := s.bytesAt ls
    let secs := imageSections img
    let plan := backingPlan img base secs
    let regions := secs.filter fun e => e.kind == 6
    if (s.soiled ls).isSome || !imageHeaderOk img || !secs.all (fun e => e.ok img p.cores) || decide (base + blen < plan.2)
      || !regions.all (s.regionFits p.ptbase.toNat) then none
    else
      let mapped := regions.foldl (fun t e => t.bind fun t => t.mapRegion p.ptbase.toNat e) (some s)
      let copied := plan.1.foldl (fun t e => t.bind fun t => t.supervisorWrite part e.2.2 (e.1.bytes img)) mapped
      match regions.foldl (fun t e => t.bind fun t => t.driverWrite part e.whr (e.bytes img)) copied with
      | none => none
      | some t => some (p.cores.foldl (fun t c => t.modPart c part fun v => v.loadImage img secs c plan.1) t)
  | _, _ => none

end Sys2Proof.Machine
end

