-- ==== Sys2Proof/Machine/Matrix.lean ====
section
/-!
DEFINITION. The matrix unit (R207 to R226): the checks at issue, the three parts and their start conditions, planes, rows,
drains, parking and completion.
-/
namespace Sys2Proof

/-! ### Formats, planes and rows (R213, R215, R217, R218) -/

/-- The depth of a plane (R213). -/
def MFmt.depth : MFmt → Nat
  | .bf16 | .f16 => 128
  | .nib => 512
  | _ => 256

/-- Bytes of n elements of a row. -/
def MFmt.rowBytes (f : MFmt) (n : Nat) : Nat := (n * f.width + 7) / 8

/-- The image's size (R213). -/
def MFmt.imageBytes : MFmt → Nat
  | .nib => 34816
  | _ => 32768

/-- Element k of packed elements (R104, R215). -/
def MFmt.element (f : MFmt) (rd : Nat → Byte) (k : Nat) : Nat :=
  match f.width with
  | 16 => (rd (2 * k)).toNat + 256 * (rd (2 * k + 1)).toNat
  | 4 => (rd (k / 2)).toNat / (if k % 2 = 0 then 1 else 16) % 16
  | _ => (rd k).toNat

/-- An operand's exact value before its block scale (R105, R111, R112). -/
def MFmt.blockValue (f : MFmt) (ct : List (BitVec 8)) (scaleByte code : Nat) : Val :=
  match f with
  | .nib => decodeNib ct (bitsOf scaleByte 7 6) code
  | _ => f.value code

/-- The exponent of a block scale. -/
def scaleExp (scaleByte : Nat) : Int := (bitsOf scaleByte 5 0 : Nat) - 32

end Sys2Proof

namespace Sys2Proof.Machine

/-- The code of w[k][j] (R213). -/
def Plane.code (p : Plane) (k j : Nat) : Nat :=
  let row := match p.fmt.width with
    | 16 => 256 * k
    | 4 => 64 * k
    | _ => 128 * k
  p.fmt.element (fun a => p.image.read 0 (row + a)) j

/-- The scale byte of block b of column j; a format without one has scale 1 in uniform integers. -/
def Plane.scaleByte (p : Plane) (b j : Nat) : Nat :=
  match p.fmt with
  | .nib => (p.image.read 0 (32768 + 128 * b + j)).toNat
  | _ => 0x20

/-- One element of a stream's tile row (R112, R114, R217): `x` reads the activation codes, `xs` their block scales. -/
def streamElem (p : Plane) (f : MFmt) (ct : List (BitVec 8)) (x : Nat → Nat) (xs : Nat → Nat) (acc : Option Word) (j : Nat) :
    Word :=
  let k := p.fmt.depth
  if p.fmt.isInt && f.isInt then
    let int := fun (f : MFmt) (c : Nat) => if f = .i8 then sextNat 8 c else (c : Int)
    BitVec.ofNat 32 (dotInts ((acc.map BitVec.toInt).getD 0) ((List.range k).map fun i => int p.fmt (p.code i j))
      ((List.range k).map fun i => int f (x i)))
  else
    BitVec.ofNat 32 (dotBlocks (acc.map BitVec.toNat) ((List.range (k / 32)).map fun b =>
      (((countFrom (32 * b) 32).map fun i => p.fmt.blockValue p.ct (p.scaleByte b j) (p.code i j)),
        ((countFrom (32 * b) 32).map fun i => f.blockValue ct (xs b) (x i)),
        scaleExp (p.scaleByte b j) + scaleExp (xs b))))

/-- One score ranks before another (R218). -/
def rankBetter (a b : Val) : Bool := (b == .nan && a != .nan) || b.lt a
def rankEqual (a b : Val) : Bool := (a == .nan && b == .nan) || a.eqv b

/-- The ranks of a row of scores (R218). -/
def rankRow (scores : List Val) : List Word :=
  (List.range 128).map fun i =>
    match scores[i]? with
    | none => 128
    | some v => BitVec.ofNat 32 ((scores.zipIdx.filter fun w => rankBetter w.1 v || (rankEqual w.1 v && decide (w.2 < i))).length)

/-- A tile's element. -/
def Tile.elem (t : Tile) (row j : Nat) : Word := t.elems.read 0 (128 * row + j)
/-- A row is of kind i32. -/
def Tile.isInt (t : Tile) (row : Nat) : Bool := t.intRows.read false row
/-- A row written (R217). -/
def Tile.setRow (t : Tile) (row : Nat) (vals : List Word) (int : Bool) : Tile :=
  ⟨(vals.zipIdx).foldl (fun e v => e.write 0 (128 * row + v.2) v.1) t.elems, t.intRows.write false row int⟩

/-- One element drained: the bytes MOUT writes (R219). -/
def drainElem (cvt : Nat) (rm : Rm) (int : Bool) (w : Word) : List Byte :=
  let v := if int then Val.ofInt w.toInt else f32.unpack w.toNat
  match cvt with
  | 0 => leBytes 4 w.toNat
  | 1 => leBytes 2 (bf16.pack rm false v)
  | 2 => leBytes 2 (f16.pack rm false v)
  | 3 => leBytes 1 (bitsOfInt 8 (v.toInt rm (-128) 127))
  | 4 => leBytes 1 (e4m3.pack rm true v)
  | 5 => leBytes 1 (e4m3.pack rm false v)
  | 6 => leBytes 1 (e5m2.pack rm true v)
  | _ => leBytes 1 (e5m2.pack rm false v)

/-- The output width of a drain (R219). -/
def drainWidth (cvt : Nat) : Nat :=
  match cvt with
  | 0 => 4
  | 1 | 2 => 2
  | _ => 1

/-! ### Commands at issue (R209, R221) -/

def operandDetail : Nat := 1

/-- The matrix queue has an entry free (R209). -/
def State.mRoom (s : State) : Except Halt Unit := if 16 ≤ s.ccs.mq.length then .error (.blocked .queueFull) else .ok ()

/-- A command enters the queue. -/
def State.mEnter (s : State) (op : MOp) : State :=
  let c := s.command
  c.1.modCcs fun v => { v with mq := v.mq ++ [⟨c.2, s.cycle.toNat, op⟩] }

/-- The format of a plane's latest MWLD in queue order (R221). -/
def CoreState.latestFmt (v : CoreState) (plane : Nat) : MFmt :=
  let of : MOp → Option MFmt := fun o => match o with
    | .mwld p f _ _ _ => if p = plane then some f else none
    | _ => none
  match (v.mq.filterMap fun c => of c.op).getLast? with
  | some f => f
  | none =>
    match v.load.bind fun r => of r.cmd.op with
    | some f => f
    | none => ((v.planes[plane]?).map fun p => p.fmt).getD .i8

/-- The segment of a matrix command: its role and its bound (R221). -/
def State.mSeg (s : State) (name extent : Nat) : Except Halt Nat :=
  match s.findSeg name .engine with
  | .error h => .error h
  | .ok (id, g) => if g.bytes < extent then .error (s.trapHere segBound 0 name) else .ok id

/-- MWLD (R214). -/
def execMwld (g : BitVec 4) (y : BitVec 8) (o : BitVec 6) (p : BitVec 1) (f : BitVec 3) (s : State) :
    Host.Outcome State Fault Refusal :=
  segOp g s do
    let _ ← s.mRoom
    let x ← s.readX o
    let fmt := MFmt.ofCode f
    let off := s.stepped x
    let id ← s.mSeg y.toNat (off + fmt.imageBytes)
    .ok ((s.useSegLater id).mEnter (.mwld p.toNat fmt id off s.ccs.ct.toList))

/-- MSCL acts at issue (R216). -/
def execMscl (g : BitVec 4) (x : BitVec 6) (h : BitVec 1) (s : State) : Host.Outcome State Fault Refusal :=
  slotOp g s do
    let v ← s.readX x
    .ok ((s.modCcs fun w => { w with latchWrites := w.latchWrites ++ [(s.cycle.toNat, 8 * h.toNat, v)] }).completeNow false)

/-- The row count, ROW0 and the reserved bits of a stream are accepted (R215, R221). -/
def streamOk (count ctl : Nat) : Bool :=
  decide (1 ≤ count) && decide (count ≤ 256) && decide (bitsOf ctl 7 0 + count ≤ 256) && bitsOf ctl 15 12 == 0
    && bitsOf ctl 63 23 == 0

/-- MSTR (R215). -/
def execMstr (g : BitVec 4) (y : BitVec 8) (o : BitVec 6) (t : BitVec 2) (a : BitVec 1) (p : BitVec 1) (f : BitVec 3)
    (s : State) : Host.Outcome State Fault Refusal :=
  segOp g s do
    let _ ← s.mRoom
    let x ← s.readX o
    let count ← s.readX (o + 1)
    let stride ← s.readX (o + 2)
    let ctl ← s.readX (o + 3)
    let n := count.toNat
    let c := ctl.toNat
    if !streamOk n c || bitsOf c 22 16 != 0 then .error (s.trapHere illegalOp operandDetail 0)
    else do
      let fmt := MFmt.ofCode f
      let off := s.stepped x
      let b := fmt.rowBytes (s.ccs.latestFmt p.toNat).depth
      let id ← s.mSeg y.toNat (off + (n - 1) * stride.toNat + b)
      .ok ((s.useSegLater id).mEnter (.mstr t.toNat p.toNat (a == 1) fmt id off n stride.toNat (bitsOf c 7 0) (bitsOf c 11 8)
        s.ccs.ct.toList))

/-- MRANK (R218). -/
def execMrank (g : BitVec 4) (y : BitVec 8) (o : BitVec 6) (t : BitVec 2) (f : BitVec 3) (s : State) :
    Host.Outcome State Fault Refusal :=
  segOp g s do
    let _ ← s.mRoom
    let x ← s.readX o
    let count ← s.readX (o + 1)
    let stride ← s.readX (o + 2)
    let ctl ← s.readX (o + 3)
    let n := count.toNat
    let c := ctl.toNat
    if !streamOk n c then .error (s.trapHere illegalOp operandDetail 0)
    else do
      let fmt := MFmt.ofCode f
      let off := s.stepped x
      let e := bitsOf c 22 16 + 1
      let id ← s.mSeg y.toNat (off + (n - 1) * stride.toNat + fmt.rowBytes e)
      .ok ((s.useSegLater id).mEnter (.mrank t.toNat fmt id off n stride.toNat (bitsOf c 7 0) (bitsOf c 11 8) e))

/-- MOUT (R219). -/
def execMout (g : BitVec 4) (y : BitVec 8) (o : BitVec 6) (t : BitVec 2) (c : BitVec 3) (r : BitVec 2) (s : State) :
    Host.Outcome State Fault Refusal :=
  segOp g s do
    let _ ← s.mRoom
    let x ← s.readX o
    let rows ← s.readX (o + 1)
    let stride ← s.readX (o + 2)
    let first := bitsOf rows.toNat 7 0
    let n := bitsOf rows.toNat 16 8
    if n = 0 ∨ 256 < n ∨ 256 < first + n ∨ bitsOf rows.toNat 63 17 ≠ 0 then .error (s.trapHere illegalOp operandDetail 0)
    else do
      let off := s.stepped x
      let id ← s.mSeg y.toNat (off + (n - 1) * stride.toNat + 128 * drainWidth c.toNat)
      .ok ((s.useSegLater id).mEnter (.mout t.toNat id off first n stride.toNat c.toNat (rmOf r)))

/-- MZERO (R220). -/
def execMzero (g : BitVec 4) (t : BitVec 2) (s : State) : Host.Outcome State Fault Refusal :=
  segOp g s do
    let _ ← s.mRoom
    .ok (s.mEnter (.mzero t.toNat))

/-! ### Parts and starts (R211) -/

/-- The part a command runs on. -/
def MOp.part : MOp → MatrixPart
  | .mwld .. => .load
  | .mstr .. | .mrank .. => .array
  | .mout .. | .mzero .. => .drain

/-- The tile a stream or a drain names. -/
def MOp.tile : MOp → Option Nat
  | .mwld .. => none
  | .mstr t .. => some t
  | .mrank t .. => some t
  | .mout t .. => some t
  | .mzero t => some t

/-- The plane a command names. -/
def MOp.plane : MOp → Option Nat
  | .mwld p .. => some p
  | .mstr _ p .. => some p
  | _ => none

/-- Rows or granules of a command; MZERO has none. -/
def MOp.total : MOp → Nat
  | .mwld _ f .. => f.imageBytes / 256
  | .mstr _ _ _ _ _ _ n .. => n
  | .mrank _ _ _ _ n .. => n
  | .mout _ _ _ _ n .. => n
  | .mzero _ => 0

/-- Cycles before the first row may enter, or until MZERO is done (R212, R215). -/
def MOp.lead : MOp → Nat
  | .mstr _ _ _ _ _ _ _ _ _ d _ => d
  | .mrank _ _ _ _ _ _ _ d _ => d
  | .mzero _ => 16
  | _ => 0

/-- A part's run. -/
def CoreState.run (v : CoreState) : MatrixPart → Option MRun
  | .load => v.load
  | .array => v.array
  | .drain => v.drain
def CoreState.setRun (v : CoreState) (p : MatrixPart) (r : Option MRun) : CoreState :=
  match p with
  | .load => { v with load := r }
  | .array => { v with array := r }
  | .drain => { v with drain := r }

/-- A run has rows or granules left. -/
def MRun.unfinished (r : MRun) : Bool := decide (r.next < r.cmd.op.total)

/-- A started command is parked: the queue behind it waits (R222). -/
def CoreState.queueWaits (v : CoreState) : Bool := [v.load, v.array, v.drain].any fun r => r.any fun m => m.parked

/-- The head may start in a cycle (R211). DESIGN CHOICE (log 34): R211 has an MWLD wait until a stream on its plane has entered
its last row; it may start in the cycle after that entry, not in the entry's own. -/
def CoreState.mayStart (v : CoreState) (cycle : Nat) (c : MCmd) : Bool :=
  decide (c.issued + 2 ≤ cycle) && (v.run c.op.part).isNone && !v.queueWaits &&
    match c.op.part with
    | .load => !v.array.any fun r => r.unfinished && r.cmd.op.plane == c.op.plane
    | .array =>
      (c.op.plane.isNone || !v.load.any fun r => r.cmd.op.plane == c.op.plane)
        && !v.drain.any fun r => r.cmd.op.tile == c.op.tile
    | .drain => !(v.array.any fun r => r.unfinished && r.cmd.op.tile == c.op.tile)
        && v.rows.all fun r => some r.tile != c.op.tile

/-- MATRIX_CMD_START (R211, R286): the head takes its part; it parks where its segment is not resident. -/
def execMatrixCmdStart (c : BitVec 9) (s : State) : Host.Outcome State Fault Refusal :=
  let core := c.toNat
  let v := s.cs core
  match v.mq with
  | [] => .next s
  | m :: rest =>
    if !v.mayStart s.cycle.toNat m then .next s
    else
      let p := v.pinOrPark m.tag.ticket
      let r : MRun := ⟨m, 0, s.cycle.toNat + m.op.lead, [], !p.2, false, false, []⟩
      .next (s.modCS core fun _ => { p.1 with mq := rest }.setRun m.op.part (some r))

/-! ### One command after another on the segments (R210) -/

/-- A drain's bytes in its segment: the first offset, the rows, their stride and their size. -/
structure DrainShape where
  off : Nat
  rows : Nat
  stride : Nat
  width : Nat
  deriving DecidableEq, Repr

/-- The last row that reaches an offset: its byte stays. -/
def DrainShape.lastRow (d : DrainShape) (a : Nat) : Option Nat :=
  if a < d.off ∨ d.rows = 0 then none
  else
    let i := if d.stride = 0 then d.rows - 1 else Nat.min (d.rows - 1) ((a - d.off) / d.stride)
    if a < d.off + i * d.stride + d.width then some i else none

/-- The first row that reaches an aligned 8-byte word. -/
def DrainShape.firstRow (d : DrainShape) (w : Nat) : Option Nat :=
  let i :=
    if 8 * w < d.off + d.width then 0
    else if d.stride = 0 then d.rows
    else (8 * w - (d.off + d.width)) / d.stride + 1
  if i < d.rows ∧ d.off + i * d.stride < 8 * w + 8 then some i else none

/-- The offsets written with row i: each aligned 8-byte word is written once, whole, with the first row that reaches it
(R190, R195). -/
def DrainShape.places (d : DrainShape) (i : Nat) : List Nat :=
  let lo := (d.off + i * d.stride) / 8
  let hi := (d.off + i * d.stride + d.width + 7) / 8
  (countFrom lo (hi - lo)).flatMap fun w =>
    if d.firstRow w = some i then (countFrom (8 * w) 8).filter fun a => (d.lastRow a).isSome else []

/-- The shape of a drain. -/
def MOp.shape : MOp → DrainShape
  | .mout _ _ off _ n stride cvt _ => ⟨off, n, stride, 128 * drainWidth cvt⟩
  | _ => ⟨0, 0, 0, 0⟩

/-- The tile row that a drain writes last at an offset. -/
def MOp.drainRow (op : MOp) (a : Nat) : Option Nat :=
  match op with
  | .mout _ _ _ first .. => (op.shape.lastRow a).map fun i => first + i
  | _ => none

/-- The byte that a drain leaves at an offset (R219). -/
def CoreState.drainByte (v : CoreState) (op : MOp) (a : Nat) : Byte :=
  match op with
  | .mout tile _ off first _ stride cvt rm =>
    match op.shape.lastRow a with
    | none => 0
    | some i =>
      let t := (v.tiles[tile]?).getD ⟨[], []⟩
      let b := a - (off + i * stride)
      let w := drainWidth cvt
      (drainElem cvt rm (t.isInt (first + i)) (t.elem (first + i) (b / w))).getD (b % w) 0
  | _ => 0

/-- The segment a command reads or writes. -/
def MOp.seg : MOp → Option Nat
  | .mwld _ _ g .. => some g
  | .mstr _ _ _ _ g .. => some g
  | .mrank _ _ g .. => some g
  | .mout _ g .. => some g
  | .mzero _ => none

/-- The running drain of an earlier command still owes a command's segment the byte at an offset. -/
def CoreState.owed (v : CoreState) (r : MRun) (a : Nat) : Option MRun :=
  match v.drain with
  | some d =>
    if d.cmd.issued < r.cmd.issued && d.cmd.op.seg == r.cmd.op.seg
        && (d.cmd.op.shape.firstRow (a / 8)).any fun i => decide (d.next ≤ i) then
      (d.cmd.op.drainRow a).map fun _ => d
    else none
  | none => none

/-- A byte of its segment as a command of the queue reads it where another has not had its turn: as it stood before a later
drain, or as an earlier drain will leave it (R210). -/
def CoreState.inTurn (v : CoreState) (r : MRun) (a : Nat) : Option Byte :=
  match r.kept.find? fun e => e.1 == a with
  | some e => some e.2
  | none => (v.owed r a).map fun d => v.drainByte d.cmd.op a

/-- Bytes that a row or a granule reads (R189, R210). -/
def CoreState.unitRead (v : CoreState) (r : MRun) (seg off n : Nat) : List Byte :=
  (v.segRead seg off n).zipIdx.map fun e => (v.inTurn r (off + e.2)).getD e.1

/-- The word of a unit's bytes that holds an uncorrectable error: of the segment, or of a tile row still to be drained there:
the array with its index, and the offset. -/
def CoreState.readFlaw (v : CoreState) (r : MRun) (seg off n : Nat) : Option (Option (Nat × Nat) × Nat) :=
  (countFrom off n).findSome? fun a =>
    match v.owed r a with
    | some d =>
      match d.cmd.op.tile, d.cmd.op.drainRow a with
      | some t, some row => if v.flaws.contains (.tile t row) then some (some (1, 256 * t + row), a) else none
      | _, _ => none
    | none => if (v.inTurn r a).isNone && v.flawedAt seg a 1 then some (none, a) else none

/-- The uncorrectable error that the next row or granule of a command reads (R223, R360): the array's number and index,
where R375 has a number for it, and the failing offset of the segment. -/
def CoreState.unitFlaw (v : CoreState) (r : MRun) : Option (Option (Nat × Nat) × Nat) :=
  let i := r.next
  let tileRow := fun (t row : Nat) => v.flaws.contains (.tile t row)
  if !r.unfinished then none
  else
    match r.cmd.op with
    | .mwld _ _ seg off _ => v.readFlaw r seg (off + 256 * i) 256
    | .mstr tile plane acc fmt seg off _ stride row0 _ _ =>
      match v.readFlaw r seg (off + i * stride) (fmt.rowBytes ((v.planes[plane]?).getD ⟨.i8, [], []⟩).fmt.depth) with
      | some e => some e
      | none =>
        if v.flaws.contains (.plane plane) then some (some (2, plane), 0)
        else if acc && (v.rows.all fun q => q.tile != tile || q.row != row0 + i) && tileRow tile (row0 + i) then
          some (some (1, 256 * tile + row0 + i), 0)
        else none
    | .mrank _ fmt seg off _ stride _ _ e => v.readFlaw r seg (off + i * stride) (fmt.rowBytes e)
    | .mout tile .. =>
      (r.cmd.op.shape.places i).findSome? fun a =>
        (r.cmd.op.drainRow a).bind fun row => if tileRow tile row then some (some (1, 256 * tile + row), a) else none
    | .mzero _ => none

/-- The place of a command among the core's matrix commands that have not completed: the oldest stands at 0 (log 62). -/
def CoreState.mPosition (v : CoreState) (r : MRun) : Nat :=
  ([v.load, v.array, v.drain].filter fun q => q.any fun m => decide (m.cmd.issued < r.cmd.issued)).length

/-- A command whose next row or granule is due meets an uncorrectable error: it drops its pins and stays parked until the
supervisor, who is told, resumes it (R222, R223, R351, R360, R375). -/
def State.matrixError (s : State) (core : Nat) (p : MatrixPart) : State :=
  let v := s.cs core
  match v.run p with
  | none => s
  | some r =>
    if r.parked || decide (s.cycle.toNat < r.due) then s
    else
      match v.unitFlaw r with
      | none => s
      | some (array, off) =>
        let drop : CoreState → CoreState := fun v => match r.cmd.tag.ticket with
          | none => v
          | some n => v.modTicket n fun t => t.release false
        let t := s.modCS core fun v => (drop v).setRun p (some { r with parked := true, yield := false, held := true })
        let u := t.notice 5 (s.partOf core) core
          [(8, leBytes 1 0), (9, leBytes 1 memUncorrectable), (12, leBytes 4 (v.mPosition r)), (16, leBytes 8 off)]
        match array with
        | none => u
        | some (a, i) => u.notice 10 (s.partOf core) core [(8, leBytes 1 a), (16, leBytes 8 i)]

/-- A parked command whose ticket has been served goes on by itself (R222). -/
def CoreState.resumable (v : CoreState) (part : MatrixPart) : Bool :=
  (v.run part).any fun r => r.parked && !r.held && v.unparked r.cmd.tag.ticket

/-- MATRIX_CMD_RESUME (R222): the ticket has been served, and the command goes on at its recorded row or granule. Of a command
that an error holds, or whose recall met a fault, the event is the supervisor's resume (R223): it goes on where its segment
is resident, or the recall is tried again (log 57). -/
def execMatrixCmdResume (c : BitVec 9) (part : MatrixPart) (s : State) : Host.Outcome State Fault Refusal :=
  let core := c.toNat
  let v := s.cs core
  match v.run part with
  | none => .next s
  | some r =>
    if r.held then
      let p := v.pinOrPark r.cmd.tag.ticket
      .next (s.modCS core fun _ => p.1.setRun part (some { r with parked := !p.2, yield := false, held := false }))
    else if r.parked && v.unparked r.cmd.tag.ticket then
      .next (s.modCS core fun v => v.setRun part (some { r with parked := false, yield := false }))
    else .next (s.modCS core fun v => v.retryMove (if r.parked then r.cmd.op.seg else none))

/-! ### Progress -/

/-- At a boundary a command whose segment is not resident, or that is asked to yield, parks (R222). -/
def CoreState.boundary (v : CoreState) (p : MatrixPart) (r : MRun) : CoreState × Bool :=
  let away := match r.cmd.op.seg with
    | some id => !v.isResident id
    | none => false
  if r.yield || away then ((v.park r.cmd.tag.ticket).setRun p (some { r with parked := true, yield := false }), false)
  else (v, true)

/-- The element a stream accumulates onto: of the last row under way to its place, else of the tile (R210). -/
def CoreState.accRow (v : CoreState) (tile row : Nat) : Nat → Word :=
  match (v.rows.filter fun r => r.tile == tile && r.row == row).getLast? with
  | some r => fun j => r.vals.getD j 0
  | none => fun j => ((v.tiles[tile]?).getD ⟨[], []⟩).elem row j

/-- Row i of a stream enters the array (R215, R217, R218, R223): it is read once, and lands 130 cycles later. -/
def CoreState.enterRow (v : CoreState) (cycle : Nat) (r : MRun) : CoreState × Nat :=
  let i := r.next
  let fin := if i + 1 = r.cmd.op.total then some r.cmd.tag else none
  match r.cmd.op with
  | .mstr tile plane acc fmt seg off _ stride row0 _ ct =>
    let p := (v.planes[plane]?).getD ⟨.i8, [], []⟩
    let b := fmt.rowBytes p.fmt.depth
    let bs := v.unitRead r seg (off + i * stride) b
    let x := fun k => fmt.element (fun a => bs.getD a 0) k
    let xs := fun n => match fmt with
      | .nib => ((v.latches[n]?).getD 0x20).toNat
      | _ => 0x20
    let old := v.accRow tile (row0 + i)
    let vals := (List.range 128).map fun j => streamElem p fmt ct x xs (if acc then some (old j) else none) j
    ({ v with rows := v.rows ++ [⟨tile, row0 + i, vals, p.fmt.isInt && fmt.isInt, cycle + 130, fin⟩] }, Nat.max 1 ((b + 255) / 256))
  | .mrank tile fmt seg off _ stride row0 _ e =>
    let bs := v.unitRead r seg (off + i * stride) (fmt.rowBytes e)
    let scores := (List.range e).map fun k => fmt.value (fmt.element (fun a => bs.getD a 0) k)
    ({ v with rows := v.rows ++ [⟨tile, row0 + i, rankRow scores, true, cycle + 130, fin⟩] }, 1)
  | _ => (v, 1)

/-- An earlier command with rows or granules left keeps the aligned 8-byte words a later drain writes in as they stood, whole
(R189, R210, R226). -/
def CoreState.keepFor (v : CoreState) (d : MRun) (seg : Nat) (places : List Nat) (r : MRun) : MRun :=
  if r.cmd.issued < d.cmd.issued && r.cmd.op.seg == some seg && r.unfinished then
    let words := (places.map (· / 8)).eraseDups.flatMap fun w => countFrom (8 * w) 8
    { r with kept := r.kept ++ (words.filter fun a => r.kept.all fun e => e.1 != a).map fun a => (a, (v.segRead seg a 1).getD 0 0) }
  else r

/-- A granule loaded or a row drained (R214, R219). -/
def CoreState.moveUnit (v : CoreState) (r : MRun) : CoreState × MRun :=
  let i := r.next
  match r.cmd.op with
  | .mwld _ _ seg off _ => (v, { r with image := r.image.writeBytes (256 * i) (v.unitRead r seg (off + 256 * i) 256) })
  | .mout _ seg .. =>
    let ps := r.cmd.op.shape.places i
    let w := { v with load := v.load.map (v.keepFor r seg ps), array := v.array.map (v.keepFor r seg ps) }
    (w.segWriteAt seg (ps.map fun a => (a, v.drainByte r.cmd.op a)), r)
  | _ => (v, r)

/-- One cycle of a part: a row or granule that is due goes on, or the command parks. -/
def CoreState.partCycle (v : CoreState) (cycle : Nat) (p : MatrixPart) : CoreState :=
  match v.run p with
  | none => v
  | some r =>
    if r.parked || !r.unfinished || decide (cycle < r.due) then v
    else
      let b := v.boundary p r
      if !b.2 then b.1
      else
        match p with
        | .array =>
          let e := b.1.enterRow cycle r
          { e.1 with mon := { e.1.mon with mrows := e.1.mon.mrows + 1 } }.setRun p
            (some { r with next := r.next + 1, due := if r.next + 1 < r.cmd.op.total then cycle + e.2 else cycle + 1 })
        | _ =>
          let e := b.1.moveUnit r
          e.1.setRun p (some { e.2 with next := r.next + 1, due := cycle + 1 })

/-- Latch writes that rows entering now read (R216). -/
def CoreState.settleLatches (v : CoreState) (cycle : Nat) : CoreState :=
  let due := v.latchWrites.filter fun w => decide (w.1 + 6 ≤ cycle)
  { v with
    latchWrites := v.latchWrites.filter fun w => !decide (w.1 + 6 ≤ cycle)
    latches := due.foldl (fun (l : Vector (BitVec 8) 16) (w : Nat × Nat × BitVec 64) => (List.range 8).foldl (fun l n =>
      l.setIfInBounds (w.2.1 + n) ((w.2.2 >>> (8 * n)).setWidth 8)) l) v.latches }

/-- The array input is free in the cycle after the last row has entered (R215). -/
def CoreState.freeArray (v : CoreState) (cycle : Nat) : CoreState :=
  match v.array with
  | some r => if !r.unfinished && decide (r.due ≤ cycle) then { v with array := none } else v
  | none => v

/-- The row at the head of those under way lands (R217). -/
def CoreState.landRow (v : CoreState) : CoreState :=
  match v.rows with
  | [] => v
  | r :: rest =>
    { v with
      rows := rest
      flaws := v.flaws.filter fun f => decide (f ≠ .tile r.tile r.row)
      tiles := v.tiles.setIfInBounds r.tile (((v.tiles[r.tile]?).getD ⟨[], []⟩).setRow r.row r.vals r.int) }

/-- Rows that are due land, up to a command's last row. -/
def CoreState.landRows (v : CoreState) (cycle : Nat) : Nat → CoreState
  | 0 => v
  | n + 1 =>
    match v.rows with
    | r :: _ => if r.lands ≤ cycle ∧ r.final = none then CoreState.landRows v.landRow cycle n else v
    | [] => v

/-! ### Completion (R212) -/

/-- MWLD_COMPLETE (R214): the plane takes the image, the format and the code table of the issue. -/
def execMwldComplete (c : BitVec 9) (s : State) : Host.Outcome State Fault Refusal :=
  let core := c.toNat
  match (s.cs core).load with
  | some ⟨⟨tag, _, .mwld p f _ _ ct⟩, next, due, image, _, _, _, _⟩ =>
    if next < f.imageBytes / 256 ∨ s.cycle.toNat < due then .next s
    else
      .next ((s.modCS core fun v =>
        { v with
          load := none
          flaws := v.flaws.filter fun g => decide (g ≠ .plane p)
          planes := v.planes.setIfInBounds p ⟨f, image, ct⟩ }).complete core
        (s.partOf core) tag)
  | _ => .next s

/-- MSTR_COMPLETE (R212): the last row of a stream lands. -/
def execMstrComplete (c : BitVec 9) (s : State) : Host.Outcome State Fault Refusal :=
  let core := c.toNat
  match (s.cs core).rows with
  | r :: _ =>
    match r.final with
    | some tag =>
      if s.cycle.toNat < r.lands then .next s
      else .next ((s.modCS core fun v => v.landRow).complete core (s.partOf core) tag)
    | none => .next s
  | [] => .next s

/-- Bytes of a drain's rows that lie in a counter's range, each once (R319). -/
def drainBytes (off n stride w : Nat) (l : Landing) : Nat :=
  (List.range n).foldl (fun t i =>
    let fresh := if i = 0 then w else Nat.min stride w
    t + l.overlap (off + i * stride + (w - fresh)) fresh) 0

/-- MOUT_COMPLETE (R219): its bytes are counted now where the segment is a LANDING segment (R319). -/
def execMoutComplete (c : BitVec 9) (s : State) : Host.Outcome State Fault Refusal :=
  let core := c.toNat
  match (s.cs core).drain with
  | some ⟨⟨tag, _, .mout _ seg off _ n stride cvt _⟩, next, _, _, _, _, _, _⟩ =>
    if next < n then .next s
    else
      let cnt := countTable (fun _ l => if l.seg = seg then drainBytes off n stride (128 * drainWidth cvt) l else 0) (s.cs core).landing
      let s1 := s.modCS core fun v => { v with drain := none, landing := cnt.1 }
      let s2 : State := { s1 with actions := cnt.2.map (fun f => Action.fire (0x8000 + f.1) f.2.1 f.2.2) ++ s1.actions }
      .next ((s2.runActions actionFuel).complete core (s.partOf core) tag)
  | _ => .next s

/-- MZERO_COMPLETE (R220). -/
def execMzeroComplete (c : BitVec 9) (s : State) : Host.Outcome State Fault Refusal :=
  let core := c.toNat
  match (s.cs core).drain with
  | some ⟨⟨tag, _, .mzero t⟩, _, due, _, _, _, _, _⟩ =>
    if s.cycle.toNat < due then .next s
    else
      .next ((s.modCS core fun v =>
        { v with
          drain := none
          flaws := v.flaws.filter fun f => match f with
            | .tile u _ => u != t
            | _ => true
          tiles := v.tiles.setIfInBounds t ⟨[], []⟩ }).complete core
        (s.partOf core) tag)
  | _ => .next s

end Sys2Proof.Machine
end

