-- ==== Sys2Proof/Machine/Pier.lean ====
section
/-!
DEFINITION. The piers: submission (R249 to R252), state and instructions (R253 to R257) and the end of a command (R258).
A pier is numbered 64 * site + channel.
-/
namespace Sys2Proof.Machine

/-- PIER_PLACEMENT (R343, R258). -/
def pierPlacement : Nat := 0x14

/-! ### Submission -/

/-- The segment bytes a pier instruction reads at issue: its segment, its offset and 64 bytes, `none` while the segment
is not resident (R244, R251). -/
def State.pierPacket (s : State) (y : BitVec 8) (o : BitVec 6) : Except Halt ((Nat × Seg) × Nat × Option Nat) :=
  if 16 ≤ s.ccs.outbox.length then .error (.blocked .queueFull)
  else do
    let x ← s.readX o
    let off := s.stepped x
    let e ← s.findSeg y.toNat .engine
    -- a segment that is not resident blocks the bundle before its bounds are looked at (R36, R159)
    if e.2.state ≠ .resident then .ok (e, off, none)
    else if e.2.bytes < off + 64 then .error (s.trapHere segBound 0 y.toNat)
    else do
      s.soundSeg e.1 off 64
      .ok (e, off, some (leNat (s.ccs.segRead e.1 off 64)))

/-- The lowest failing bit of a pier packet (R250, R251). -/
def pierPacketBad (v : Nat) : Option Nat :=
  firstFail (mustZero v 7 4 ++ mustZero v 15 14 ++ mustZero v 31 24
    ++ badField (!bitOf v 48 && bitsOf v 47 32 != 0) 32 ++ mustZero v 47 46 ++ mustZero v 63 50 ++ mustZero v 479 320)

/-- The lowest failing bit of a PLOAD descriptor (R252). -/
def pierLoadBad (v : Nat) : Option Nat :=
  firstFail (mustZero v 31 16 ++ badField (decide (256 < bitsOf v 103 96 + bitsOf v 112 104)) 104 ++ mustZero v 127 113
    ++ mustZero v 511 257)

/-- A command with its piers enters the outbox (R249). -/
def State.outEnter (s : State) (op : PierOp) (piers : List Nat) : State :=
  let c := s.command
  let p : PierCmd := ⟨c.2, s.icore, s.partOf s.icore, op⟩
  c.1.modCcs fun v => { v with outbox := v.outbox ++ [⟨p, piers⟩] }

/-- PCMD (R251). -/
def execPcmd (g : BitVec 4) (y : BitVec 8) (o : BitVec 6) (s : State) : Host.Outcome State Fault Refusal :=
  segOp g s do
    let r ← s.pierPacket y o
    let s1 := s.useSeg r.1.1 r.1.2
    match r.2.2 with
    | none => .ok s1
    | some v =>
      match pierPacketBad v with
      | some b => .error (s.trapHere enginePacket 0 b)
      | none =>
        let cr := bitOf v 49
        let u := 64 * bitsOf v 3 0 + bitsOf v 13 8
        if cr ∧ r.1.2.bytes < r.2.1 + 96 then .error (s.trapHere segBound 0 y.toNat)
        else if s.pierOwner.get u ≠ some (s.partOf s.icore) then .error (s.trapHere protection 0 u)
        else
          let args := (List.range 8).map fun n => BitVec.ofNat 32 (v / 2 ^ (64 + 32 * n))
          let op : PierOp := .cmd (bitsOf v 23 16) args (if bitOf v 48 then some (bitsOf v 47 32) else none)
            (if cr then some (r.1.1, r.2.1 + 64) else none) (bitsOf v 511 480)
          .ok ((s1.useSegOpt (if cr then some r.1.1 else none)).outEnter op [u])

/-- The piers a PLOAD names, in ascending number. -/
def loadPiers (v : Nat) : List Nat :=
  (List.range 1024).filter fun u => bitOf v (u / 64) && bitOf v (32 + u % 64)

/-- PLOAD (R252). -/
def execPload (g : BitVec 4) (y : BitVec 8) (o : BitVec 6) (s : State) : Host.Outcome State Fault Refusal :=
  segOp g s do
    let r ← s.pierPacket y o
    let s1 := s.useSeg r.1.1 r.1.2
    match r.2.2 with
    | none => .ok s1
    | some v =>
      let count := bitsOf v 112 104
      let off := r.2.1 + 64
      match pierLoadBad v with
      | some b => .error (s.trapHere enginePacket 0 b)
      | none =>
        if r.1.2.bytes < off + 4 * count then .error (s.trapHere segBound 0 y.toNat)
        else
          let piers := loadPiers v
          match piers.find? fun u => decide (s.pierOwner.get u ≠ some (s.partOf s.icore)) with
          | some u => .error (s.trapHere protection 0 u)
          | none => do
            s.soundSeg r.1.1 off (4 * count)
            let words := (List.range count).map fun i => BitVec.ofNat 32 (leNat (s.ccs.segRead r.1.1 (off + 4 * i) 4))
            let pct := if bitOf v 256 then some ((List.range 16).map fun e => BitVec.ofNat 8 (v / 2 ^ (128 + 8 * e))) else none
            .ok (s1.outEnter (.load (bitsOf v 103 96) words pct) piers)

/-- Piers that still owe a load, by the identity of its command: in queues or the outbox. -/
def State.loadOwed (s : State) (core part id : Nat) : Bool :=
  (s.piers.any fun p => p.2.queue.any fun q => q.tag.id == id)
    || match s.partState core part with
      | some v => v.outbox.any fun e => e.cmd.tag.id == id
      | none => false

/-- The outbox of some core still holds a command to a pier that was issued earlier. -/
def State.earlierTo (s : State) (u id : Nat) : Bool :=
  let holds : CoreState → Bool := fun v => v.outbox.any fun e => decide (e.cmd.tag.id < id) && e.piers.contains u
  s.cores.any fun c => holds c.2.cur || c.2.shadow.any holds

/-- A command is given to its piers in order, as far as their queues have room; the piers left. Commands reach a pier in
the order of their issue events, which R201 asks for where R191 or R196 orders these (log 63). -/
def State.deliver (s : State) (c : PierCmd) : List Nat → State × List Nat
  | [] => (s, [])
  | u :: r =>
    if 64 ≤ (s.pier u).queue.length || s.earlierTo u c.tag.id then (s, u :: r)
    else State.deliver (s.modPier u fun p => { p with queue := p.queue ++ [c] }) c r

/-- PIER_OUTBOX_DELIVER (R249): the head goes to each pier it names; a PLOAD that names none completes (R252). -/
def execPierOutboxDeliver (c : BitVec 9) (s : State) : Host.Outcome State Fault Refusal :=
  let core := c.toNat
  match (s.cs core).outbox with
  | [] => .next s
  | e :: rest =>
    if e.piers = [] then .next ((s.modCS core fun v => { v with outbox := rest }).complete core (s.partOf core) e.cmd.tag)
    else
      let d := s.deliver e.cmd e.piers
      .next (d.1.modCS core fun v => { v with outbox := if d.2 = [] then rest else { e with piers := d.2 } :: rest })

/-! ### Commands of a pier -/

/-- PIER_CMD_START (R254): the record's segment is pinned while the command runs (R244, R251). -/
def execPierCmdStart (u : BitVec 10) (s : State) : Host.Outcome State Fault Refusal :=
  let n := u.toNat
  match (s.pier n).run, (s.pier n).queue with
  | none, c :: rest =>
    match c.op with
    | .load .. => .next s
    | .cmd entry .. =>
      let s1 := s.modPier n fun p =>
        { p with
          queue := rest
          q := .replicate 8 0
          pa := .replicate 16 0
          pl := 0
          users := addTo p.users c.part
          run := some ⟨c, entry, none, [], []⟩ }
      .next (match c.tag.ticket with
        | none => s1
        | some t => s1.modPart c.core c.part fun v => v.modTicket t v.hold)
  | _, _ => .next s

/-- PIER_LOAD_APPLY (R252): between commands. -/
def execPierLoadApply (u : BitVec 10) (s : State) : Host.Outcome State Fault Refusal :=
  let n := u.toNat
  match (s.pier n).run, (s.pier n).queue with
  | none, c :: rest =>
    match c.op with
    | .cmd .. => .next s
    | .load first words pct =>
      let s1 := s.modPier n fun p =>
        { p with
          queue := rest
          loaded := some (c.core, c.part, c.tag.id)
          users := addTo p.users c.part
          words := words.zipIdx.foldl (fun t w => t.write 0 (first + w.2) w.1) p.words
          ct := match pct with
            | some l => p.ct.mapIdx fun i b => l.getD i b
            | none => p.ct }
      .next (if s1.loadOwed c.core c.part c.tag.id then s1 else s1.complete c.core c.part c.tag)
  | _, _ => .next s

/-- A pier's command ends: at its PEND, or with a cause (R258). What it has stored is written, each word of memory once, whole
(R190), before the pier's next command reads (R254). -/
def State.pierEnd (s : State) (u cause : Nat) : State :=
  match (s.pier u).run with
  | none => s
  | some r =>
    let ls := r.stored.map (·.1)
    ((s.spoilAll ls).writeLocs ls (r.stored.map (·.2))).modPier u fun p =>
      { p with run := none, loaded := none, done := p.done ++ [⟨r.cmd, cause, r.sigs, ls⟩] }

/-- PIER_CMD_COMPLETE (R239, R258): count, signals, record. With a record, it waits for the issuing partition to run and
for the record's segment (R244, R354). -/
def execPierCmdComplete (u : BitVec 10) (s : State) : Host.Outcome State Fault Refusal :=
  let n := u.toNat
  match (s.pier n).done with
  | [] => .next s
  | d :: rest =>
    match d.cmd.op with
    | .load .. => .next s
    | .cmd _ _ landing cr seq =>
      let core := d.cmd.core
      let part := d.cmd.part
      let here := decide ((s.cs core).part = some part)
      let ready := match cr with
        | none => true
        | some (seg, _) => here && (s.cs core).isResident seg
      if !ready then
        .next (s.modPart core part fun w => if w.unparked d.cmd.tag.ticket then w.park d.cmd.tag.ticket else w)
      else
        let counted := match landing with
          | some id =>
            if d.cause = 0 then s.countNamed id core part (d.stored.filter (s.counterOf id core part).holdsLoc).length
            else (s, false)
          | none => (s, false)
        let s1 := d.sigs.foldl (fun t e => (t.signal core part e.1 e.2).1) counted.1
        let s2 := match cr with
          | none => s1
          | some (seg, off) => s1.modCS core fun v =>
            v.segWrite seg off (recordBytes (if d.cause = 0 then 1 else 3) d.cause counted.2 0 seq d.stored.length 0 s.cycle.toNat)
        let s3 := (s2.modPier n fun p => { p with done := rest }).modSite (n / 64) fun t => { t with pierCmds := t.pierCmds + 1 }
        .next (s3.complete core part d.cmd.tag)

/-! ### Instructions (R255 to R257) -/

/-- An instruction of the command that the pier of the issue runs; a failure ends the command (R258). A pier that runs
no command does nothing. -/
def pierOp (s : State) (f : Pier → PierRun → Except Nat State) : Host.Outcome State Fault Refusal :=
  let p := s.pier s.issue.pier
  match p.run with
  | none => .next s
  | some r =>
    match f p r with
    | .ok t => .next t
    | .error cause => .next (s.pierEnd s.issue.pier cause)

def State.modPierHere (s : State) (f : Pier → Pier) : State := s.modPier s.issue.pier f

/-- Q[n] and its new value. -/
def Pier.getQ (p : Pier) (n : Nat) : X64 := p.q[n]?.getD 0
def Pier.setQ (p : Pier) (n : Nat) (v : X64) : Pier := { p with q := p.q.setIfInBounds n v }
/-- PA[n] and its new value. -/
def Pier.getPa (p : Pier) (n : Nat) : Word := p.pa[n]?.getD 0
def Pier.setPa (p : Pier) (n : Nat) (v : Word) : Pier := { p with pa := p.pa.setIfInBounds n v }

/-- The n accumulators from PA[i] changed by a function of their number. -/
def Pier.mapPa (p : Pier) (i n : Nat) (f : Nat → Word) : Pier := (countFrom i n).foldl (fun p j => p.setPa j (f j)) p

/-- The count field and the accumulators it reaches are allowed (R255). -/
def paOk (i : BitVec 4) (n : BitVec 5) : Bool := decide (1 ≤ n.toNat) && decide (n.toNat ≤ 16) && decide (i.toNat + n.toNat ≤ 16)

/-- PNOP. -/
def execPnop (s : State) : Host.Outcome State Fault Refusal := pierOp s fun _ _ => .ok s

/-- PEND. -/
def execPend (s : State) : Host.Outcome State Fault Refusal := pierOp s fun _ _ => .ok (s.pierEnd s.issue.pier 0)

/-- PLOOP's body: `r.pc` is the word after the PLOOP. -/
def State.ploop (s : State) (r : PierRun) (count len : Nat) : Except Nat State :=
  if r.body.isSome ∨ len = 0 ∨ 256 < r.pc + len then .error illegalOp
  else if count = 0 then .ok (s.modPierHere fun p => { p with run := some { r with pc := r.pc + len } })
  else .ok (s.modPierHere fun p => { p with pl := count - 1, run := some { r with body := some (r.pc, r.pc + len) } })

/-- PLOOP with a count (R256). -/
def execPloopImm (n : BitVec 13) (l : BitVec 8) (s : State) : Host.Outcome State Fault Refusal :=
  pierOp s fun _ r => s.ploop r n.toNat l.toNat

/-- PLOOP with the count in Q[a], clamped to 8,191 (R256). -/
def execPloopReg (a : BitVec 3) (l : BitVec 8) (s : State) : Host.Outcome State Fault Refusal :=
  pierOp s fun p r => s.ploop r (Nat.min (p.getQ a.toNat).toNat 8191) l.toNat

/-- PARG, PARG.h. -/
def execParg (d : BitVec 3) (n : BitVec 3) (h : BitVec 1) (s : State) : Host.Outcome State Fault Refusal :=
  pierOp s fun p r =>
    let arg : Word := match r.cmd.op with
      | .cmd _ args _ _ _ => args.getD n.toNat 0
      | .load .. => 0
    let v : X64 := if h = 0 then arg.setWidth 64
      else (p.getQ d.toNat &&& 0xFFFFFFFF) ||| (arg.setWidth 64 <<< 32)
    .ok (s.modPierHere fun p => p.setQ d.toNat v)

/-- PADD. -/
def execPadd (d : BitVec 3) (a : BitVec 3) (i : BitVec 20) (s : State) : Host.Outcome State Fault Refusal :=
  pierOp s fun p _ => .ok (s.modPierHere fun q => q.setQ d.toNat (p.getQ a.toNat + i.signExtend 64))

/-- PSETK (R253, R255). -/
def execPsetk (k : BitVec 12) (t : BitVec 1) (f : BitVec 2) (x : BitVec 1) (st : BitVec 10) (s : State) :
    Host.Outcome State Fault Refusal :=
  pierOp s fun _ _ =>
    if st = 0 ∨ x = 1 ∧ 2048 ≤ k.toNat then .error illegalOp
    else .ok (s.modPierHere fun p =>
      { p with k := k.toNat + 1, ts := t == 1, ftype := f.toNat, xf := x == 1, stride := st.toNat })

/-- Bytes a pier reads, with their locations: every one in a CHANNEL page of its own channel (R258). What the command has stored
and not yet written it reads as stored. -/
def State.pierRead (s : State) (u : Nat) (own : Tab Byte) (asid root : Nat) : List Nat → Except Nat (List (Nat × Byte))
  | [] => .ok []
  | a :: r =>
    if 2 ^ 55 ≤ a then .error protection
    else
      match s.leaf none asid root a with
      | .error c => .error c
      | .ok f =>
        match locOfPa f.pa with
        | none => .error protection
        | some l =>
          if f.size ≠ 2 ^ 16 ∨ bitsOf f.pa 45 44 ≠ 2 ∨ l / 2 ^ 30 ≠ 1024 * s.pod.pkgid + u then .error pierPlacement
          else if s.flaws.contains (l / 8) && !(countFrom (l / 8 * 8) 8).all (fun m => (own.get m).isSome) then
            .error memUncorrectable
          else
            match State.pierRead s u own asid root r with
            | .error c => .error c
            | .ok bs => .ok ((l, (own.get l).getD (Memory.read s.mem l)) :: bs)

/-- Consecutive addresses from a register's value. -/
def pierAddrs (q : X64) (n : Nat) : List Nat := (countFrom 0 n).map fun i => (q + BitVec.ofNat 64 i).toNat

/-- n bytes at an address in the address space of the command's partition, read from the DRAM of the site (R154). -/
def State.pierBytes (s : State) (r : PierRun) (q : X64) (n : Nat) : Except Nat (State × List Byte) :=
  match s.partitions.get r.cmd.part with
  | none => .error protection
  | some p =>
    match s.pierRead s.issue.pier r.stored p.asid.toNat p.ptbase.toNat (pierAddrs q n) with
    | .error c => .error c
    | .ok bs => .ok (s.siteLines (bs.map (·.1)) false, bs.map (·.2))

/-- PLDX. -/
def execPldx (a : BitVec 3) (s : State) : Host.Outcome State Fault Refusal :=
  pierOp s fun p r => do
    let b ← s.pierBytes r (p.getQ a.toNat) (p.k * if p.xf then 4 else 2)
    .ok (b.1.modPierHere fun q => { q with pv := q.pv.writeBytes 0 b.2 })

/-- PZER. -/
def execPzer (i : BitVec 4) (n : BitVec 5) (s : State) : Host.Outcome State Fault Refusal :=
  pierOp s fun _ _ =>
    if !paOk i n then .error illegalOp else .ok (s.modPierHere fun q => q.mapPa i.toNat n.toNat fun _ => 0)

/-- Element k of the vector x. -/
def Pier.x (p : Pier) (k : Nat) : Val :=
  let rd := fun (w : Nat) => leNat (readBytes (fun a => p.pv.read 0 a) (w * k) w)
  if p.xf then f32.unpack (rd 4) else bf16.unpack (rd 2)

/-- A row's dot product added to an accumulator (R112, R257). -/
def Pier.rowSum (p : Pier) (row : Nat → Nat) (acc : Word) : Word :=
  let codes := (p.k + 1) / 2
  BitVec.ofNat 32 (dotBlocks (some acc.toNat) ((List.range ((p.k + 31) / 32)).map fun b =>
    let scale := row (codes + b)
    let type := if p.ts then p.ftype else bitsOf scale 7 6
    let ks := countFrom (32 * b) (Nat.min 32 (p.k - 32 * b))
    (ks.map fun k => decodeNib p.ct.toList type (row (k / 2) / 16 ^ (k % 2) % 16), ks.map p.x, scaleExp scale)))

/-- Consecutive rows into consecutive accumulators (R257). -/
def State.pierRows (r : PierRun) (a : Nat) : Nat → Nat → State → Pier → Except Nat (State × Pier)
  | _, 0, s, p => .ok (s, p)
  | i, n + 1, s, p =>
    match s.pierBytes r (p.getQ a) ((p.k + 1) / 2 + (p.k + 31) / 32) with
    | .error c => .error c
    | .ok b =>
      let p1 := p.setPa i (p.rowSum (fun j => (b.2.getD j 0).toNat) (p.getPa i))
      State.pierRows r a (i + 1) n b.1 (p1.setQ a (p.getQ a + BitVec.ofNat 64 (16 * p.stride)))

/-- PROW. -/
def execProw (i : BitVec 4) (a : BitVec 3) (s : State) : Host.Outcome State Fault Refusal :=
  pierOp s fun p r => do
    let q ← State.pierRows r a.toNat i.toNat 1 s p
    .ok (q.1.modPierHere fun _ => q.2)

/-- PROWN. -/
def execPrown (i : BitVec 4) (n : BitVec 5) (a : BitVec 3) (s : State) : Host.Outcome State Fault Refusal :=
  pierOp s fun p r =>
    if !paOk i n then .error illegalOp
    else do
      let q ← State.pierRows r a.toNat i.toNat n.toNat s p
      .ok (q.1.modPierHere fun _ => q.2)

/-- Bytes stored at Q[a], which moves past them; any writable page (R258). They are written at the command's end, each word of
memory once (R190). -/
def State.pierStore (s : State) (p : Pier) (r : PierRun) (a : Nat) (bs : List Byte) : Except Nat State :=
  match s.partitions.get r.cmd.part with
  | none => .error protection
  | some t =>
    match s.xlateAll none t.asid.toNat t.ptbase.toNat true (pierAddrs (p.getQ a) bs.length) with
    | .error e => .error e.1
    | .ok ls =>
      .ok (s.modPierHere fun q =>
        { q.setQ a (p.getQ a + BitVec.ofNat 64 bs.length) with
          run := some { r with stored := (ls.zip bs).foldl (fun t e => t.put e.1 e.2) r.stored } })

/-- PSTO. -/
def execPsto (i : BitVec 4) (n : BitVec 5) (a : BitVec 3) (s : State) : Host.Outcome State Fault Refusal :=
  pierOp s fun p r =>
    if !paOk i n then .error illegalOp
    else s.pierStore p r a.toNat ((countFrom i.toNat n.toNat).flatMap fun j => leBytes 4 (p.getPa j).toNat)

/-- PSTOB: rne_bf16 of each (R256). -/
def execPstob (i : BitVec 4) (n : BitVec 5) (a : BitVec 3) (s : State) : Host.Outcome State Fault Refusal :=
  pierOp s fun p r =>
    if !paOk i n then .error illegalOp
    else s.pierStore p r a.toNat
      ((countFrom i.toNat n.toNat).flatMap fun j => leBytes 2 (bf16.pack .rne false (f32.unpack (p.getPa j).toNat)))

/-- The pier's previous command has reached its completion event: a load completes when every pier it names has applied it
(R252, R256). -/
def State.previousDone (s : State) (p : Pier) : Bool :=
  match p.loaded with
  | some (core, part, id) => !s.loadOwed core part id
  | none => p.done.isEmpty

/-- PWAIT: the instruction stands until the previous command of the pier has completed. -/
def execPwait (s : State) : Host.Outcome State Fault Refusal :=
  pierOp s fun p r =>
    .ok (if s.previousDone p then s else s.modPierHere fun q => { q with run := some { r with pc := r.pc - 1 } })

/-- The RNE integer value of an f32, as f32 (R256): a zero keeps its sign. -/
def rint (w : Nat) : Nat :=
  match f32.unpack w with
  | .nan => f32.nan
  | .inf n => f32.inf n
  | .fin n m e =>
    let r := roundShift .rne n m (-e) false
    if r = 0 then f32.withSign n 0 else f32.round .rne false n r 0 false

/-- PCVT. DESIGN CHOICE (log 64): `.i32` names no rounding (R109, R256); the value is rounded to nearest even, as `.rint` is, and
then saturated. -/
def execPcvt (i : BitVec 4) (n : BitVec 5) (k : BitVec 2) (s : State) : Host.Outcome State Fault Refusal :=
  pierOp s fun p _ =>
    if !paOk i n || k == 3 then .error illegalOp
    else
      let f := fun (w : Nat) => match k.toNat with
        | 0 => f32.pack .rne false (bf16.unpack (bf16.pack .rne false (f32.unpack w)))
        | 1 => rint w
        | _ => bitsOfInt 32 ((f32.unpack w).toInt .rne (-(2 ^ 31)) (2 ^ 31 - 1))
      .ok (s.modPierHere fun q => q.mapPa i.toNat n.toNat fun j => BitVec.ofNat 32 (f (p.getPa j).toNat))

/-- PSIG: a pending signal of the issuing core (R256). -/
def execPsig (y : BitVec 8) (i : BitVec 8) (s : State) : Host.Outcome State Fault Refusal :=
  pierOp s fun _ r =>
    if i = 0 then .error illegalOp
    else .ok (s.modPierHere fun q => { q with run := some { r with sigs := r.sigs ++ [(y.toNat, i.toNat)] } })

/-- PMOV. -/
def execPmov (k : BitVec 2) (x : BitVec 4) (y : BitVec 4) (s : State) : Host.Outcome State Fault Refusal :=
  pierOp s fun p _ =>
    match k.toNat with
    | 0 => if 8 ≤ x.toNat ∨ 8 ≤ y.toNat then .error illegalOp
      else .ok (s.modPierHere fun q => q.setQ x.toNat (p.getQ y.toNat))
    | 1 => if 8 ≤ x.toNat then .error illegalOp
      else .ok (s.modPierHere fun q => q.setQ x.toNat ((p.getPa y.toNat).setWidth 64))
    | 2 => if 8 ≤ y.toNat then .error illegalOp
      else .ok (s.modPierHere fun q => q.setPa x.toNat ((p.getQ y.toNat).setWidth 32))
    | _ => .error illegalOp

end Sys2Proof.Machine
end

