-- ==== Sys2Proof/Machine/Partition.lean ====
section
/-!
DEFINITION. Partitions as wholes: creation (R16, R57, R373), the end (R356), the swap (R352 to R355), shootdown (R302),
freezing (R359), the assignment of counters and piers (R251, R316) and monitor records (R326 to R328).
-/
namespace Sys2Proof.Machine

/-! ### Creation (R16, R57, R373) -/

/-- The cores a mask of 64 bytes names, ascending. -/
def maskCores (m : Nat) : List Nat := (List.range 512).filter fun c => bitOf m c

/-- A core that the configuration record fuses off (R4; log 13); a record of no bytes names none. -/
def State.fusedOff (s : State) (c : Nat) : Bool := !s.mgmt.active[2].isEmpty && Config.fusedOff (s.mgmt.active[2]) c

/-- A core may take one more partition: it exists, is not fused off and carries at most one (R4, R16). -/
def State.coreFree (s : State) (c : Nat) : Bool :=
  !s.fusedOff c && ((s.cs c).part.isNone || (s.core c).shadow.isNone)

/-- A partition's fields as request 0x01 gives them. -/
structure PartRequest where
  part : Nat
  asid : Nat
  quota : Nat
  root : Nat
  ovfBase : Nat
  ovfStride : Nat
  cores : List Nat

/-- The i-th core of a new partition: the running one, or the one in shadow storage of a core that runs another. -/
def State.addCore (s : State) (r : PartRequest) (i c : Nat) : State :=
  let v : CoreState := { CoreState.reset with
    part := some r.part
    ovfptr := BitVec.ofNat 64 (r.ovfBase + i * r.ovfStride)
    asid := BitVec.ofNat 16 r.asid
    ptbase := BitVec.ofNat 64 r.root }
  let v := { v with quota := v.clampQuota (storeGranules (s.core c).cacheKiB) r.quota }
  s.modCore c fun w => if w.cur.part.isNone then { w with cur := v } else { w with shadow := some v }

/-- The packages a partition spans (R379; log 8). -/
def State.spansOf (s : State) (part : Nat) : List Nat :=
  (List.range 64).filter fun p => p == s.pod.pkgid
    || s.pod.inForce && s.pod.routes.getD p 0 != 0 && Config.spans part p

/-- A partition is created (R373): its number is free and every core named can take it. DESIGN CHOICE (log 41): one that has
been launched nothing counts as finished already, and no notice says so (R33). -/
def State.createPart (s : State) (r : PartRequest) : Option State :=
  if (s.partitions.get r.part).isSome || !r.cores.all (fun c => s.coreFree c) then none
  else
    let t := r.cores.zipIdx.foldl (fun t e => t.addCore r e.2 e.1) s
    some { t with
      partitions := t.partitions.put r.part
        ⟨BitVec.ofNat 16 r.asid, BitVec.ofNat 64 r.root, r.quota, r.cores, s.host.featAccept, none, 0, s.spansOf r.part, true⟩ }

/-! ### The end (R356) -/

/-- What a core keeps of a partition that ends: nothing, its translations and lines included (R302). -/
def Core.endPart (v : Core) (part : Nat) (asid : Nat) : Core :=
  { v with
    cur := if v.cur.part = some part then .reset else v.cur
    shadow := v.shadow.filter fun w => decide (w.part ≠ some part)
    l1 := v.l1.filter fun l => l.asid != asid
    tlb := v.tlb.filter fun e => e.asid != asid }

/-- What a pier keeps: commands of the partition are discarded without completion, and a pier that ran any is zeroed. -/
def Pier.endPart (p : Pier) (part : Nat) : Pier :=
  let q : Pier := { p with
    queue := p.queue.filter fun c => c.part != part
    run := p.run.filter fun r => r.cmd.part != part
    done := p.done.filter fun d => d.cmd.part != part }
  if p.users.contains part then
    { q with
      words := []
      ct := .replicate 16 0
      pv := []
      k := Pier.reset.k
      ts := Pier.reset.ts
      ftype := Pier.reset.ftype
      xf := Pier.reset.xf
      stride := Pier.reset.stride
      users := q.users.filter fun u => u != part }
  else q

/-- What a quad keeps. -/
def Quad.endPart (q : Quad) (part asid : Nat) (gone : Nat → Bool) : Quad :=
  { q with
    queue := q.queue.filter fun r => r.part != part
    rings := q.rings.del part
    orphans := q.orphans.filter fun o => !gone o.1
    posts := q.posts.filter fun p => p.part != part
    tlb := q.tlb.filter fun e => e.asid != asid }

/-- A counter of the partition is disarmed. -/
def Landing.endPart (l : Landing) (part : Nat) : Landing :=
  if l.part = part ∧ l.state = .armed then { l with state := .idle } else l

/-- A partition ends: every core, pier and counter it used is freed and zeroed, and nothing of it is announced. -/
def State.endPartition (s : State) (part : Nat) : State :=
  match s.partitions.get part with
  | none => s
  | some p =>
    let gone := fun id => (s.tasks.get id).any fun t => t.part == part
    { s with
      cores := s.cores.map fun e => (e.1, e.2.endPart part p.asid.toNat)
      quads := s.quads.map fun e => (e.1, e.2.endPart part p.asid.toNat gone)
      sites := s.sites.map fun e => (e.1, { e.2 with landing := e.2.landing.map fun l => (l.1, l.2.endPart part) })
      piers := s.piers.map fun e => (e.1, e.2.endPart part)
      barriers := s.barriers.filter fun b => b.key.part != part
      partitions := s.partitions.del part
      tasks := s.tasks.filter fun t => t.2.part != part
      landingOwner := s.landingOwner.filter fun o => o.2 != part
      pierOwner := s.pierOwner.filter fun o => o.2 != part
      host := { s.host with apertures := s.host.apertures.filter fun a => a.2.1 != part }
      failedWrites := s.failedWrites.filter fun w => w.1 != part }

/-- Every partition that satisfies a test ends. -/
def State.endParts (s : State) (f : Nat → Partition → Bool) : State :=
  (s.partitions.filter fun p => f p.1 p.2).foldl (fun t p => t.endPartition p.1) s

/-! ### The swap (R352 to R355) -/

/-- The stop step must wait: a context that runs in an open region, a gang that has not drained (R354, R357). A context that the
supervisor has stopped or the stop token has parked inside a region stands already, and its image keeps the region (R352,
log 31). -/
def CoreState.mustWait (v : CoreState) : Bool :=
  v.ctxs.toList.any (fun c => c.region.isSome && c.stop.isNone && !c.parked) || ((v.gang.any fun q => !q.live.isEmpty) && !v.gangParked)

/-- A drain begins where a gang runs that has not been drained (R274, R354). -/
def CoreState.drainGang (v : CoreState) : CoreState :=
  if v.gangParked then v
  else { v with gang := v.gang.map fun q => if q.stopping then q else { q with stopping := true, stopped := [], put := false } }

/-- The stop step: each context stops at its next bundle boundary, one in an open region at NPRE, a gang member when the
drain has parked it (R354). -/
def CoreState.stopStep (v : CoreState) : CoreState :=
  let w := v.drainGang
  let member := fun k => w.gang.any fun q => q.live.contains k
  { w with ctxs := w.ctxs.mapIdx fun k c =>
      { c with swapStop := c.swapStop || c.region.isNone && !member k || c.parked } }

/-- A context as its image holds it: entries counted in cycles and outstanding loads have landed (R68, R352, R353). -/
def Ctx.saved (c : Ctx) : Ctx := { c.landCycles.arriveAll with swapStop := false }

/-- A matrix command stops at its row or granule (R224). -/
def CoreState.parkRun (v : CoreState) (p : MatrixPart) : CoreState :=
  match v.run p with
  | none => v
  | some r =>
    if r.unfinished && !r.parked then (v.park r.cmd.tag.ticket).setRun p (some { r with parked := true, yield := false }) else v

/-- The packet on the channel: one that names a segment of its core parks, another is abandoned and replayed from byte 0
after the resume, COPY-REDUCE in its apply and a claim of WRITE-ENQUEUE from where they stand (R243, R354). -/
def FRun.swapped (r : FRun) : FRun :=
  match r.state with
  | .running =>
    if r.pkt.srcSeg.isSome || r.pkt.dstSeg.isSome then { r with state := .parked, yield := false, phase := 0 }
    else
      let keep := r.claim.isSome || (decide (fKind r.pkt.bits.toNat = 2) && r.staged.isSome)
      { r with state := .parked, yield := false, phase := 0, replayed := true, pos := if keep then r.pos else 0 }
  | _ => r

/-- Rows under way land, and the streams they end complete. -/
def State.landAllRows (core : Nat) : Nat → State → State
  | 0, s => s
  | n + 1, s =>
    match (s.cs core).rows with
    | [] => s
    | r :: _ =>
      let s1 := s.modCS core fun v => v.landRow
      State.landAllRows core n (match r.final with
        | some tag => s1.complete core (s.partOf core) tag
        | none => s1)

/-- Steps 1 to 3 of the swap on a core whose contexts have stopped. -/
def State.stopCore (s : State) (core : Nat) : State :=
  let s1 := s.landAllRows core (s.cs core).rows.length
  let s2 := match (s1.cs core).ferry with
    | some r => s1.holdPins (r.tickets core) false false
    | none => s1
  s2.modCS core fun v =>
    let w := (((v.parkRun .load).parkRun .array).parkRun .drain).settleSems
    { w with
      ctxs := w.ctxs.map Ctx.saved
      tickets := w.tickets.map fun t => { t with pins := [], on := false, asked := false }
      ferry := w.ferry.map FRun.swapped
      gang := w.gang.map fun q => { q with stopping := false, stopped := [], put := false }
      pipes := w.pipes.map fun p => { p with elems := p.elems.filter Option.isSome } }

/-- Resident segments in ascending name. -/
def insertByName (e : Nat × Seg) : List (Nat × Seg) → List (Nat × Seg)
  | [] => [e]
  | f :: r => if e.2.name < f.2.name then e :: f :: r else f :: insertByName e r

/-- Granules of shadow storage for resident segments: 3,648 KiB (R355). -/
def shadowGranules : Nat := 14592

/-- The resident segments that do not fit in shadow storage (R16, R355). DESIGN CHOICE (log 49): a segment that does not fit
is passed over, and later ones that do are kept; a segment that moves stays in the image as it is. -/
def CoreState.shadowRest (v : CoreState) : List (Nat × Seg) :=
  let l := (v.segs.filter fun e => decide (e.2.role ≠ .instr) && decide (e.2.state = .resident)).foldl
    (fun acc e => insertByName e acc) []
  (l.foldl (fun (acc : Nat × List (Nat × Seg)) e =>
    if shadowGranules < acc.1 + e.2.len then (acc.1, acc.2 ++ [e]) else (acc.1 + e.2.len, acc.2)) (0, [])).2

/-- One of them is pushed out; `none` where its backing address faults. -/
def State.shadowPush (s : State) (core : Nat) (e : Nat × Seg) : Option State :=
  let gone := fun (t : State) => t.modCS core fun v =>
    { (v.modSeg e.1 (fun g => { g with state := .absent, dirty := false, data := [] })).mendAll e.1 with
      mon := { v.mon with pushouts := v.mon.pushouts + 1 } }
  if !e.2.dirty then some (gone s)
  else
    match s.locs core e.2.backing e.2.bytes true with
    | .error _ => none
    | .ok ls => some (gone ((s.writeLocs ls ((s.cs core).segRead e.1 0 e.2.bytes)).engineTouch core true none ls))

/-- The outgoing partition of a core is ready for shadow storage. -/
def State.saveCore (s : State) (core : Nat) : Option State :=
  let s1 := s.stopCore core
  (s1.cs core).shadowRest.foldl (fun t e => t.bind fun t => t.shadowPush core e) (some s1)

/-- A context as it resumes: the volatile range reads as zero, and results of BARX released meanwhile are delivered (R21,
R353). -/
def Ctx.resumed (c : Ctx) : Ctx := { c.owedBarx.foldl Ctx.takeBarx c.clearVolatile with parked := false, owedBarx := [] }

/-- Step 6 on the incoming partition: its contexts resume and parked flags are cleared (R274, R354). -/
def CoreState.resumed (v : CoreState) : CoreState := { v with ctxs := v.ctxs.map Ctx.resumed }

/-- What has been held for an incoming partition is delivered in the order of its firings; a WRITE that waits under a ticket waits
on (R321, R354). A semaphore's increments that announce something are made now (R191). -/
def State.deliverHeld (s : State) (core : Nat) : State :=
  let part := s.partOf core
  let t := s.modCS core fun v => { v with heldActions := [] }
  let t : State := { t with news := t.news.map fun w => match w.place with
    | .sem c p _ => if c == core && p == part then { w with cycle := s.cycle.toNat } else w
    | _ => w }
  (s.cs core).heldActions.foldl (fun t a => match a with
    | .segWrite _ id _ _ _ ticket =>
      if ticket.isSome || (t.cs core).landingWaits id then t.modCS core fun v => { v with heldActions := v.heldActions ++ [a] }
      else (t.doAction a).runActions actionFuel
    | _ => (t.doAction a).runActions actionFuel) t

/-- A shadow image that is read holds an uncorrectable error, which is reported (R360, R375). -/
def State.shadowReport (s : State) (core : Nat) : State :=
  match (s.core core).shadow with
  | none => s
  | some w =>
    if w.flaws.isEmpty && w.ctxs.toList.all (fun c => c.flaws.isEmpty) then s
    else s.notice 10 (w.part.getD 0) core [(8, leBytes 1 3), (16, leBytes 8 core)]

/-- The incoming segments where one of them would reach beyond a store that an SGSPLIT of the other partition has made smaller.
DESIGN CHOICE (log 49): R16 says nothing of the segments and the quota of a partition that comes back to a smaller store; here all
are placed anew from granule 0 on, the PINNED ones first, each by ascending name, and those that do not fit are named (R282). A
move under way has no object then. -/
def CoreState.placedAnew (v : CoreState) (top : Nat) : CoreState × List (Nat × Seg) :=
  let l := (v.segs.filter fun e => e.2.stored).foldl (fun acc e => insertByName e acc) []
  if l.all fun e => decide (e.2.base + e.2.len ≤ top) then (v, [])
  else
    let v := match v.move with
      | some (.compact id _) =>
        { v.modSeg id (fun g => if g.state = .moving then { g with state := .resident } else g) with move := none }
      | _ => v
    let r := (l.filter (fun e => e.2.pinned) ++ l.filter fun e => !e.2.pinned).foldl
      (fun (a : Nat × CoreState × List (Nat × Seg)) e =>
        if a.1 + e.2.len ≤ top then (a.1 + e.2.len, a.2.1.modSeg e.1 fun g => { g with base := a.1 }, a.2.2)
        else (a.1, a.2.1, a.2.2 ++ [e])) (0, v, [])
    ({ r.2.1 with move := r.2.1.move.filter fun m => !r.2.2.any fun e => e.1 == m.seg }, r.2.2)

/-- The store and the quota of an incoming partition agree with the split in force: segments that do not fit are pushed out,
unpinned, and SGQUOTA is clamped (R16, R280, R289; log 49). `none` where a backing address faults. -/
def State.settleStore (s : State) (core : Nat) : Option State :=
  let top := storeGranules (s.core core).cacheKiB
  let r := (s.cs core).placedAnew top
  (r.2.foldl (fun t e => t.bind fun t => t.shadowPush core e) (some (s.modCS core fun _ => r.1))).map fun t =>
    t.modCS core fun v =>
      let w := r.2.foldl (fun v e => v.modSeg e.1 fun g => { g with pinned := false }) v
      { w with quota := w.clampQuota top w.quota }

/-- The exchange of a core with its shadow storage (R16, R354). -/
def State.exchange (s : State) (core : Nat) : Option State :=
  let saved := if (s.cs core).part.isSome then s.saveCore core else some s
  (saved.map fun t => (t.shadowReport core).modCore core fun v =>
    { v with
      cur := match v.shadow with
        | some w => w.resumed
        | none => .reset
      shadow := if v.cur.part.isSome then some v.cur else none }).bind fun t =>
    if (t.cs core).part.isSome then (t.settleStore core).map fun t => t.deliverHeld core else some t

/-- The answer to a request that may have to wait. -/
inductive Answer where
  | done (s : State)
  | refused
  /-- Refused after a wait, with the state it leaves. -/
  | failed (s : State)
  /-- Not yet: the state in which it goes on waiting. -/
  | wait (s : State)

/-- The contexts that a stop step has stopped go on. -/
def CoreState.unstop (v : CoreState) : CoreState := { v with ctxs := v.ctxs.map fun c => { c with swapStop := false } }

/-- A swap of cores (R354). -/
def State.swapCores (s : State) (part : Nat) (cores : List Nat) (out : Bool) : Answer :=
  let fits := fun c =>
    if out then decide ((s.cs c).part = some part)
    else ((s.core c).shadow.map fun w => decide (w.part = some part)).getD false
  if (s.partitions.get part).isNone || !cores.all fits then .refused
  else if cores.any fun c => (s.cs c).mustWait then
    .wait (cores.foldl (fun t c => t.modCS c CoreState.stopStep) s)
  else
    match cores.foldl (fun t c => t.bind fun t => t.exchange c) (some s) with
    | some t => .done t
    | none => .failed (cores.foldl (fun t c => t.modCS c CoreState.unstop) s)

/-! ### Shootdown (R302) -/

/-- Two ranges meet. -/
def meets (a n b m : Nat) : Bool := decide (a < b + m) && decide (b < a + n)

/-- A descriptor reaches global addresses of a range. -/
def FDesc.reaches (d : FDesc) (base len : Nat) : Bool :=
  let a : Int := (d.c1 - 1 : Nat) * d.s1
  let b : Int := (d.c2 - 1 : Nat) * d.s2
  let lo := (d.va : Int) + min 0 a + min 0 b
  let hi := (d.va : Int) + d.c0 + max 0 a + max 0 b
  !d.local && decide (lo < ((base + len : Nat) : Int)) && decide ((base : Int) < hi)

/-- A packet under way has translated addresses of the range. -/
def FRun.translated (r : FRun) (base len : Nat) : Bool :=
  let v := r.pkt.bits.toNat
  let stands := match r.state with
    | .running | .parked => true
    | _ => false
  stands && ((fKind v != 3 && (fSrc v).reaches base len) || (fDst v).reaches base len)

/-- A WRITE-ENQUEUE that has claimed a slot has translated its ring's header and the slot (R236). -/
def State.claimReaches (s : State) (part : Nat) (r : FRun) (base len : Nat) : Bool :=
  let a := fHeader r.pkt.bits.toNat
  match r.claim with
  | none => false
  | some w =>
    meets a 64 base len || match s.partLocs part a 64 false with
      | .ok hl =>
        let h := leNat (s.bytesAt hl)
        meets (bitsOf h 191 128 + 64 * (w % 2 ^ bitsOf h 259 256)) 64 base len
      | .error _ => false

/-- A command that translated through an entry of the range has neither completed nor been abandoned. -/
def State.shootBusy (s : State) (asid base len : Nat) : Bool :=
  let claims : CoreState → FRun → Bool := fun v r => s.claimReaches (v.part.getD 0) r base len
  let busy : CoreState → Bool := fun v =>
    decide (v.asid.toNat = asid) && (v.ferry.any (fun r => r.translated base len || claims v r)
      || v.ferryDone.any (fun d => claims v d.run) || v.ferryDone.any fun d => (fDst d.run.pkt.bits.toNat).reaches base len || (fSrc d.run.pkt.bits.toNat).reaches base len)
  let partHas := fun p => (s.partitions.get p).any fun q => decide (q.asid.toNat = asid)
  s.cores.any (fun e => busy e.2.cur || (e.2.shadow.map busy).getD false)
    || s.piers.any fun p => p.2.run.any (fun r => partHas r.cmd.part) || p.2.done.any fun d => partHas d.cmd.part

/-- The range holds pages of an ARMED landing range (R322). -/
def State.shootArmed (s : State) (asid base len : Nat) : Bool :=
  s.sites.any fun e => e.2.landing.any fun l =>
    decide (l.2.state = .armed) && ((s.partitions.get l.2.part).any fun p => decide (p.asid.toNat = asid))
      && l.2.pages.any fun p => meets p.1 p.2.1 base len

/-- No TLB and no first-level line holds a translation of the range. -/
def State.shootdown (s : State) (asid base len : Nat) : State :=
  let keep : TlbEntry → Bool := fun e => e.asid != asid || !meets e.vbase e.size base len
  { s with
    cores := s.cores.map fun e => (e.1, { e.2 with
      tlb := e.2.tlb.filter keep
      l1 := e.2.l1.filter fun l => l.asid != asid || !meets (64 * l.line) 64 base len })
    quads := s.quads.map fun e => (e.1, { e.2 with tlb := e.2.tlb.filter keep }) }

/-! ### Freezing (R359) -/

/-- A context of a partition is frozen or unfrozen. -/
def State.setFrozen (s : State) (part core k : Nat) (f : Bool) : State :=
  s.modPart core part fun v => v.setCtx k { v.ctx k with frozen := f }

/-- Every context of a scope instance, in one step. -/
def State.freezeScope (s : State) (key : BarKey) (f : Bool) : State :=
  (s.partCtxs key).foldl (fun t c => t.setFrozen key.part (c.1 / 4) (c.1 % 4) f) s

/-! ### Assignments (R251, R316) -/

/-- The numbers named by a bitmap of n bits. -/
def bitmapBits (m n : Nat) : List Nat := (List.range n).filter fun i => bitOf m i

/-- Numbers assigned to a partition; `none` where another has one of them. -/
def assignAll (t : Tab Nat) (part : Nat) (l : List Nat) : Option (Tab Nat) :=
  if l.all fun i => t.get i = none ∨ t.get i = some part then some (l.foldl (fun t i => t.put i part) t) else none

/-- Numbers released by a partition; `none` where it does not have one of them. -/
def releaseAll (t : Tab Nat) (part : Nat) (l : List Nat) : Option (Tab Nat) :=
  if l.all fun i => t.get i = some part then some (l.foldl (fun t i => t.del i) t) else none

/-- A released counter that is ARMED is disarmed. -/
def State.disarmAll (s : State) (l : List Nat) : State :=
  l.foldl (fun t i =>
    let c := t.counter i 0
    if c.state = .armed then t.setCounter i 0 { c with state := .idle } else t) s

/-! ### Monitor records (R326 to R328) -/

/-- The fields of a core record from STAMP on. -/
def CoreState.record (v : CoreState) (cycle : X64) : List X64 :=
  let m := v.mon
  [cycle, m.issued, m.stalled, m.noneReady, m.longWait, m.mrows, m.fbytes, m.recalls, m.pushouts, m.yields, m.l1hit, m.l1miss]

/-- The fields of a site record; WEAR and LIFEDAYS are free values (log 15). -/
def Site.record (v : Site) (cycle : X64) (fresh : Nat) : List X64 :=
  [cycle, v.hits, v.misses, v.flushes, v.pierCmds, v.dramCor, Config.freeValue fresh, Config.freeValue (fresh + 1)]

/-- The fields of a die record; TEMP, POWER, AGEING, WEAR and LIFEDAYS are free values (log 15). -/
def Die.record (v : Die) (cycle : X64) (fresh : Nat) : List X64 :=
  [cycle, v.softcor, v.stretch] ++ (List.range 5).map fun i => Config.freeValue (fresh + i)

/-- The records of a partition, in the order of the area. -/
def State.records (s : State) (part : Nat) (p : Partition) (site die : Bool) : List (List X64) :=
  (p.cores.map fun c => ((s.partState c part).getD .reset).record s.cycle)
    ++ (if site then (List.range 16).map fun n => (s.site n).record s.cycle (s.fresh + 2 * n) else [])
    ++ (if die then (List.range 8).map fun d => (s.die d).record s.cycle (s.fresh + 32 + 5 * d) else [])

/-- One ordinary 8-byte store of the supervisor into the area; none where the address does not translate. -/
def State.areaStore (s : State) (part va : Nat) (v : X64) : State :=
  match s.partLocs part va 8 false with
  | .ok ls => (s.spoilAll ls).gstore ls (leBytes 8 v.toNat)
  | .error _ => s

/-- A record is rewritten (R326): the odd SEQ, every other field, the even SEQ; the words behind the fields are 0. -/
def State.writeRecord (s : State) (part va : Nat) (seq : X64) (fields : List X64) : State :=
  let words := fields ++ List.replicate (31 - fields.length) 0
  let s1 := s.areaStore part va (seq + 1)
  let s2 := words.zipIdx.foldl (fun t e => t.areaStore part (va + 8 + 8 * e.2) e.1) s1
  s2.areaStore part va (seq + 2)

/-- One publication of a partition's records (R326). -/
def State.publish (s : State) (part : Nat) : State :=
  match s.partitions.get part with
  | none => s
  | some p =>
    match p.monitors with
    | none => s
    | some (va, site, die) =>
      let s1 : State := { s with partitions := s.partitions.put part { p with monSeq := p.monSeq + 2 }, fresh := s.fresh + 72 }
      (s.records part p site die).zipIdx.foldl (fun t e => t.writeRecord part (va + 256 * e.2) p.monSeq e.1) s1

/-- MONITOR_PUBLISH (R326): each 65,536 cycles. -/
def execMonitorPublish (p : BitVec 8) (s : State) : Host.Outcome State Fault Refusal := .next (s.publish p.toNat)

end Sys2Proof.Machine
end

