-- ==== Sys2Proof/Machine/Host.lean ====
section
/-!
DEFINITION. The host: the control window (R368 to R371), notices (R374), the mailbox with its requests (R372, R373) and
the device-memory window (R376).
-/
namespace Sys2Proof.Machine

/-! ### Registers of the control window (R368 to R370, R372, R374) -/

/-- STATUS (R369). -/
def State.status (s : State) : Nat :=
  s.host.ready.toNat + 2 * s.host.recov.toNat + 4 * s.host.busy.toNat + 8 * s.pod.inForce.toNat

/-- The 8 bytes at a multiple of 8 in the control window: registers, areas, the pending bits and vectors; a reserved offset
reads 0. DESIGN CHOICE (log 46): DOORBELL reads as the SEQ last accepted, 0 after module reset. -/
def State.controlRead (s : State) (off : Nat) : Nat :=
  let mem := leNat (readBytes (fun a => s.host.window.read 0 a) off 8)
  match off with
  | 0x00 => 0x03000768
  | 0x08 => s.status
  | 0x10 => 1
  | 0x20 => bitsOf s.host.featAccept.toNat 63 0
  | 0x28 => bitsOf s.host.featAccept.toNat 127 64
  | 0x30 => s.host.doorbell.toNat
  | 0x38 => s.host.nwr.toNat + 2 ^ 16 * s.host.nrd.toNat
  | 0x4200 => s.host.pending.toNat
  | _ => if 0x1000 ≤ off ∧ off < 0x4200 ∨ 0x10000 ≤ off ∧ off < 0x18000 then mem else 0

/-- FEAT_ACCEPT written (R370): only bit 0 is offered. -/
def State.acceptFeatures (s : State) (v : BitVec 128) : State :=
  if s.host.ready && s.partitions.isEmpty then { s with host := { s.host with featAccept := v &&& 1 } } else s

/-- FEAT_ACCEPT_WRITE (R370). -/
def execFeatAcceptWrite (v : BitVec 128) (s : State) : Host.Outcome State Fault Refusal := .next (s.acceptFeatures v)

/-- Held notices enter the ring while it has room (R374). -/
def State.releaseNotices (s : State) : State :=
  let held := s.host.heldNotices
  held.foldl (fun t b => t.postBytes b) { s with host := { s.host with heldNotices := [] } }

/-- NOTICE written: NRD alone is RW (R374). -/
def State.ackNotices (s : State) (nrd : BitVec 16) : State :=
  State.releaseNotices { s with host := { s.host with nrd := nrd } }

/-- NOTICE_ACK (R374). -/
def execNoticeAck (nrd : BitVec 16) (s : State) : Host.Outcome State Fault Refusal := .next (s.ackNotices nrd)

/-- A number in the control window. -/
def State.winNat (s : State) (off n : Nat) : Nat := leNat (readBytes (fun a => s.host.window.read 0 a) off n)

/-- DOORBELL written (R372): ignored while BUSY, or where the value is not the header's SEQ. -/
def State.ringDoorbell (s : State) (v : Nat) : State :=
  if s.host.busy || v % 2 ^ 16 != s.winNat 0x1002 2 then s
  else { s with host := { s.host with busy := true, doorbell := BitVec.ofNat 64 (v % 2 ^ 16) } }

/-- Bytes stored in an area of the window. -/
def State.winStore (s : State) (off : Nat) (bs : List Byte) : State :=
  { s with host := { s.host with window := s.host.window.writeBytes off bs } }

/-- The part of a write at [off, off + n) that lies in [lo, hi), stored. -/
def State.winStoreIn (s : State) (lo hi off : Nat) (bs : List Byte) : State :=
  let a := Nat.max lo off
  s.winStore a ((bs.drop (a - off)).take (hi - a))

/-- Pending vectors that the table masks no longer are sent (R368; log 46). -/
def State.sendPending (s : State) : State :=
  (List.range 32).foldl (fun t n =>
    if t.host.pending.getLsbD n && !(t.host.window.read 0 (0x400C + 16 * n)).getLsbD 0 then
      { t with host := { t.host with pending := t.host.pending &&& ~~~(BitVec.ofNat 32 (2 ^ n)), msix := t.host.msix ++ [n] } }
    else t) s

/-- CONTROL_WINDOW_WRITE (R368, R371): areas store the bytes, the aligned 8-byte write of a launch vector's bytes 0 to 7
commits it, a write of a reserved or RO offset is ignored (R7). -/
def execControlWindowWrite (off : BitVec 17) (data : List Byte) (s : State) : Host.Outcome State Fault Refusal :=
  let o := off.toNat
  .next (
    if 0x10000 ≤ o ∧ o % 64 = 0 ∧ data.length = 8 ∧ o < 0x18000 ∧ s.host.ready then
      s.commitLaunch ((o - 0x10000) / 64) (BitVec.ofNat 64 (leNat data))
    else if o = 0x20 then
      s.acceptFeatures (BitVec.ofNat 128 (leNat (data.take 16)))
    else if o = 0x30 then (if 2 ≤ data.length then s.ringDoorbell (leNat (data.take 8)) else s)
    else if o = 0x38 then (if 4 ≤ data.length then s.ackNotices (BitVec.ofNat 16 (leNat ((data.drop 2).take 2))) else s)
    else ((s.winStoreIn 0x1000 0x4200 o data).winStoreIn 0x10000 0x18000 o data).sendPending)

/-! ### The mailbox (R372, R373) -/

/-- Fields of the request's header. -/
def State.reqOp (s : State) : Nat := s.winNat 0x1000 2
def State.reqLen (s : State) : Nat := s.winNat 0x1004 2
/-- A number of the request's payload. -/
def State.pay (s : State) (off n : Nat) : Nat := s.winNat (0x1008 + off) n
/-- Bits of the payload's first 8 bytes. -/
def State.payBits (s : State) (hi lo : Nat) : Nat := bitsOf (s.pay 0 8) hi lo

/-- A request waits for the supervisor. -/
def State.reqWaits (s : State) : Bool := s.host.ready && s.host.busy && s.host.reply.isNone

/-- The supervisor has an answer: STATUS 0 DONE, 1 REFUSED, 2 MALFORMED with the failing offset; another detail code is a
free value (log 15). -/
def State.answer (s : State) (status : Nat) (detail : Option Nat) : State :=
  let d := detail.getD (Config.replyDetail s.fresh).toNat
  { s with host := { s.host with reply := some (status, d) }, fresh := s.fresh + 1 }

/-- One request: `sel` says that it is this one, `bad` gives the offset of the first failing field, `act` carries it out. A
wrong length or header is malformed too, with the first failing field of the payload where there is one (R373). -/
def mailbox (s : State) (op : Nat) (sel : Bool) (len : Nat) (bad : Option Nat) (act : State → Answer) :
    Host.Outcome State Fault Refusal :=
  if !s.reqWaits || s.reqOp != op || !sel then .next s
  else if s.reqLen != len || s.winNat 0x1002 2 == 0 || s.winNat 0x1006 2 != 0 then
    .next (s.answer 2 (bad.filter fun off => decide (off < s.reqLen)))
  else
    match bad with
    | some off => .next (s.answer 2 (some off))
    | none =>
      match act s with
      | .done t => .next (t.answer 0 none)
      | .refused => .next (s.answer 1 none)
      | .failed t => .next (t.answer 1 none)
      | .wait t => .next t

/-- A request that is carried out at once or refused. -/
def Answer.of : Option State → Answer
  | some t => .done t
  | none => .refused

/-- Bits [hi:lo] of the payload's first 8 bytes must be 0: the byte of the lowest that is not. -/
def State.payZero (s : State) (hi lo : Nat) : List Nat := (mustZero (s.pay 0 8) hi lo).map (· / 8)

/-- A field of the payload at an offset fails. -/
def payBad (bad : Bool) (off : Nat) : List Nat := if bad then [off] else []

/-- CREATE_PARTITION. -/
def execCreatePartition (s : State) : Host.Outcome State Fault Refusal :=
  mailbox s 1 true 96
    (firstFail (s.payZero 31 24 ++ payBad (s.pay 16 8 % 256 != 0) 16 ++ payBad (s.pay 24 8 % 256 != 0) 24))
    fun s => .of (s.createPart ⟨s.payBits 7 0, s.payBits 23 8, s.payBits 63 32, s.pay 8 8, s.pay 16 8, s.pay 24 8,
      maskCores (s.pay 32 64)⟩)

/-- LOAD_PATTERN_IMAGE. -/
def execLoadPatternImage (s : State) : Host.Outcome State Fault Refusal :=
  mailbox s 2 true 40 (firstFail (s.payZero 63 8 ++ payBad (s.pay 24 8 % 256 != 0) 24))
    fun s => .of (s.loadPattern (s.payBits 7 0) (s.pay 8 8) (s.pay 16 8) (s.pay 24 8) (s.pay 32 8))

/-- Bytes of one aperture: W/16 (R376). -/
def State.apertureSize (s : State) : Nat := 2 ^ s.host.windowLog2 / 16

/-- The failing field of an aperture request. -/
def State.apertureBad (s : State) : Option Nat :=
  firstFail (s.payZero 7 5 ++ s.payZero 63 16 ++ payBad (s.pay 8 8 % s.apertureSize != 0) 8)

/-- BIND_APERTURE. -/
def execBindAperture (s : State) : Host.Outcome State Fault Refusal :=
  mailbox s 3 (s.payBits 4 4 == 1) 16 s.apertureBad fun s =>
    if (s.partitions.get (s.payBits 15 8)).isNone then .refused
    else .done { s with host := { s.host with
      apertures := s.host.apertures.put (s.payBits 3 0) (s.payBits 15 8, s.pay 8 8) } }

/-- UNBIND_APERTURE. -/
def execUnbindAperture (s : State) : Host.Outcome State Fault Refusal :=
  mailbox s 3 (s.payBits 4 4 == 0) 16 s.apertureBad fun s =>
    .done { s with host := { s.host with apertures := s.host.apertures.del (s.payBits 3 0) } }

/-- The core a ring request names. -/
def State.payCore (s : State) : Nat := 64 * s.payBits 10 8 + s.payBits 16 11

/-- BIND_RING. -/
def execBindRing (s : State) : Host.Outcome State Fault Refusal :=
  mailbox s 4 (s.payBits 19 19 == 1) 16 (firstFail (s.payZero 63 20)) fun s =>
    .of (s.bindRing (s.payBits 7 0) s.payCore (s.payBits 18 17) (s.pay 8 8))

/-- UNBIND_RING. -/
def execUnbindRing (s : State) : Host.Outcome State Fault Refusal :=
  mailbox s 4 (s.payBits 19 19 == 0) 16 (firstFail (s.payZero 63 20)) fun s =>
    .of (s.unbindRing (s.payBits 7 0) s.payCore (s.payBits 18 17) (s.pay 8 8))

/-- SHOOTDOWN. -/
def execShootdown (s : State) : Host.Outcome State Fault Refusal :=
  mailbox s 5 true 24
    (firstFail (s.payZero 63 16 ++ payBad (s.pay 8 8 % 65536 != 0) 8 ++ payBad (s.pay 16 8 % 65536 != 0) 16)) fun s =>
      let asid := s.payBits 15 0
      let base := s.pay 8 8
      let len := s.pay 16 8
      if s.shootArmed asid base len then .refused
      else if s.shootBusy asid base len then .wait s
      else .done (s.shootdown asid base len)

/-- The failing field of request 0x06. -/
def State.assignBad (s : State) : Option Nat := firstFail (s.payZero 63 10)

/-- ASSIGN_LANDING_COUNTERS. -/
def execAssignLandingCounters (s : State) : Host.Outcome State Fault Refusal :=
  mailbox s 6 (s.payBits 9 8 == 2) 2056 s.assignBad fun s =>
    if (s.partitions.get (s.payBits 7 0)).isNone then .refused
    else .of ((assignAll s.landingOwner (s.payBits 7 0) (bitmapBits (s.pay 8 2048) 16384)).map fun t => { s with landingOwner := t })

/-- RELEASE_LANDING_COUNTERS: a counter released while ARMED is disarmed. -/
def execReleaseLandingCounters (s : State) : Host.Outcome State Fault Refusal :=
  mailbox s 6 (s.payBits 9 8 == 0) 2056 s.assignBad fun s =>
    let l := bitmapBits (s.pay 8 2048) 16384
    .of ((releaseAll s.landingOwner (s.payBits 7 0) l).map fun t => State.disarmAll { s with landingOwner := t } l)

/-- ASSIGN_PIERS. -/
def execAssignPiers (s : State) : Host.Outcome State Fault Refusal :=
  mailbox s 6 (s.payBits 9 8 == 3) 136 s.assignBad fun s =>
    if (s.partitions.get (s.payBits 7 0)).isNone then .refused
    else .of ((assignAll s.pierOwner (s.payBits 7 0) (bitmapBits (s.pay 8 128) 1024)).map fun t => { s with pierOwner := t })

/-- RELEASE_PIERS. -/
def execReleasePiers (s : State) : Host.Outcome State Fault Refusal :=
  mailbox s 6 (s.payBits 9 8 == 1) 136 s.assignBad fun s =>
    .of ((releaseAll s.pierOwner (s.payBits 7 0) (bitmapBits (s.pay 8 128) 1024)).map fun t => { s with pierOwner := t })

/-- PUBLISH_MONITORS: the area is written at once and then every 65,536 cycles (R326). -/
def execPublishMonitors (s : State) : Host.Outcome State Fault Refusal :=
  mailbox s 7 true 16 (firstFail (s.payZero 63 10)) fun s =>
    let part := s.payBits 7 0
    match s.partitions.get part with
    | none => .refused
    | some p =>
      let q : Partition := { p with monitors := some (s.pay 8 8, s.payBits 8 8 == 1, s.payBits 9 9 == 1) }
      .done (State.publish { s with partitions := s.partitions.put part q } part)

/-- The failing field of request 0x08: scope codes 5 and 6 name nothing. -/
def State.freezeBad (s : State) : Option Nat :=
  firstFail (payBad (s.payBits 11 9 == 5 || s.payBits 11 9 == 6) 1)

/-- A freeze or its end (R359). -/
def State.freezeRequest (s : State) (f : Bool) : Answer :=
  let part := s.payBits 7 0
  let scope := s.payBits 11 9
  let core := 64 * s.payBits 20 18 + s.payBits 26 21
  if s.payBits 17 12 ≠ s.pod.pkgid ∧ scope ≠ 4 ∨ (s.partitions.get part).isNone then .refused
  else if scope = 7 then
    (if (s.partState core part).isNone then .refused else .done (s.setFrozen part core (s.payBits 28 27) f))
  else .done (s.freezeScope ⟨scope, scopeInst scope core, 0, part⟩ f)

/-- FREEZE. -/
def execFreeze (s : State) : Host.Outcome State Fault Refusal :=
  mailbox s 8 (s.payBits 8 8 == 1) 8 s.freezeBad fun s => s.freezeRequest true

/-- UNFREEZE. -/
def execUnfreeze (s : State) : Host.Outcome State Fault Refusal :=
  mailbox s 8 (s.payBits 8 8 == 0) 8 s.freezeBad fun s => s.freezeRequest false

/-- SWAP_OUT; it answers the reserved code 3 too. -/
def execSwapOut (s : State) : Host.Outcome State Fault Refusal :=
  mailbox s 9 (s.payBits 9 8 == 0 || s.payBits 9 8 == 3) 72 (firstFail (payBad (s.payBits 9 8 == 3) 1)) fun s =>
    s.swapCores (s.payBits 7 0) (maskCores (s.pay 8 64)) true

/-- SWAP_IN. -/
def execSwapIn (s : State) : Host.Outcome State Fault Refusal :=
  mailbox s 9 (s.payBits 9 8 == 1) 72 none fun s => s.swapCores (s.payBits 7 0) (maskCores (s.pay 8 64)) false

/-- END_PARTITION (R356): by request 0x09, or by the supervisor itself (R223, R243, R348). -/
def execEndPartition (p : BitVec 8) (s : State) : Host.Outcome State Fault Refusal :=
  if s.reqWaits && s.reqOp == 9 && s.payBits 9 8 == 2 && s.payBits 7 0 == p.toNat then
    mailbox s 9 true 72 none fun s => if (s.partitions.get p.toNat).isNone then .refused else .done (s.endPartition p.toNat)
  else .next (s.endPartition p.toNat)

/-- A location with its package renamed. -/
def renamePkg (old new loc : Nat) : Nat :=
  if loc / 2 ^ 40 = old then new * 2 ^ 40 + loc % 2 ^ 40 else loc

/-- The failing field of request 0x0A: the entries of this package and of absent ones are 0 (R373). Packages have any distinct
numbers of 0 to 63 (R379), so a pod of n has at most n - 1 entries that are not 0, and the first beyond them names a package that
is absent (log 8). -/
def State.podBad (s : State) : Option Nat :=
  let id := s.payBits 5 0
  let packages := s.payBits 14 8
  let named := fun (p : Nat) => p != id && s.pay (8 + 2 * p) 2 != 0
  firstFail (payBad (packages == 0 || decide (64 < packages)) 1
    ++ (List.range 64).flatMap fun p =>
      payBad (s.pay (8 + 2 * p) 2 != 0
        && (p == id || decide (packages ≤ 1 + ((List.range p).filter named).length))) (8 + 2 * p))

/-- CONFIGURE_POD (R379): the configuration is taken as in force on every package (log 8). The package's bytes keep their
places under its new number. -/
def execConfigurePod (s : State) : Host.Outcome State Fault Refusal :=
  let id := s.payBits 5 0
  let packages := s.payBits 14 8
  let route := fun p => s.pay (8 + 2 * p) 2
  mailbox s 10 true 136 s.podBad fun s =>
      .done { s with
        pod := ⟨id, packages, (List.range 64).map fun p => BitVec.ofNat 16 (route p), true, [], []⟩
        mem := s.mem.foldl (fun m c => Memory.write m (renamePkg s.pod.pkgid id c.1) c.2) []
        flaws := s.flaws.map fun w => renamePkg s.pod.pkgid id (8 * w) / 8 }

/-- Request 0x0B: the image of a partition's memory becomes the inactive copy (R384). -/
def State.stage (s : State) (kind : Nat) : Answer :=
  match s.partLocs (s.payBits 7 0) (s.pay 8 8) (s.pay 16 8) false with
  | .error _ => .refused
  | .ok ls =>
    if (s.soiled ls).isSome then .refused
    else .done { s with mgmt := { s.mgmt with
      inactive := s.mgmt.inactive.setIfInBounds kind (s.bytesAt ls)
      staged := s.mgmt.staged.setIfInBounds kind true } }

/-- STAGE_SUPERVISOR_FIRMWARE; it answers the reserved code 3 too. -/
def execStageSupervisorFirmware (s : State) : Host.Outcome State Fault Refusal :=
  mailbox s 11 (s.payBits 9 8 == 0 || s.payBits 9 8 == 3) 24 (firstFail (payBad (s.payBits 9 8 == 3) 1)) fun s => s.stage 0

/-- STAGE_MANAGEMENT_FIRMWARE. -/
def execStageManagementFirmware (s : State) : Host.Outcome State Fault Refusal :=
  mailbox s 11 (s.payBits 9 8 == 1) 24 none fun s => s.stage 1

/-- STAGE_CONFIG_RECORD. -/
def execStageConfigRecord (s : State) : Host.Outcome State Fault Refusal :=
  mailbox s 11 (s.payBits 9 8 == 2) 24 none fun s => s.stage 2

/-- The reply header written, BUSY cleared and vector 0 raised (R372). -/
def State.sendReply (s : State) (status detail : Nat) : State :=
  let t := s.winStore 0x2000 (leBytes 2 status ++ leBytes 2 (s.winNat 0x1002 2) ++ leBytes 2 0 ++ leBytes 2 detail)
  { t with host := { t.host.raise 0 with busy := false, reply := none } }

/-- MAILBOX_REPLY (R372): a request of no OP of the table is answered UNKNOWN_OP. -/
def execMailboxReply (s : State) : Host.Outcome State Fault Refusal :=
  match s.host.reply with
  | some (status, detail) => .next (if s.host.busy then s.sendReply status detail else s)
  | none =>
    if s.reqWaits && (s.reqOp == 0 || decide (11 < s.reqOp)) then
      .next (State.sendReply { s with fresh := s.fresh + 1 } 3 (Config.replyDetail s.fresh).toNat)
    else .next s

/-! ### The device-memory window (R376) -/

/-- A reply to the host. -/
def State.hostReply (s : State) (r : HostReply) : State := { s with host := { s.host with replies := s.host.replies ++ [r] } }

/-- Where an access at a window offset goes: its aperture, the partition and the virtual address. -/
def State.window (s : State) (off : Nat) : Option (Nat × Nat × Nat) :=
  let a := off / s.apertureSize
  match s.host.apertures.get a with
  | none => none
  | some (part, base) => if off < 2 ^ s.host.windowLog2 then some (a, part, base + off % s.apertureSize) else none

/-- The notice of a failed host access (R375). -/
def State.windowNotice (s : State) (a part cause va : Nat) : State :=
  s.notice 7 part 0 [(8, leBytes 1 a), (9, leBytes 1 cause), (16, leBytes 8 va)]

/-- The size of the aligned access a long request makes at an offset: 8, 4, 2 or 1 bytes. -/
def alignedSize (off len : Nat) : Nat := ([8, 4, 2].find? fun n => off % n == 0 && decide (n ≤ len)).getD 1

/-- Aligned accesses of at most 8 bytes in ascending order. -/
def hostPieces : Nat → Nat → Nat → List (Nat × Nat)
  | 0, _, _ => []
  | fuel + 1, off, len =>
    if len = 0 then []
    else
      let n := alignedSize off len
      (off, n) :: hostPieces fuel (off + n) (len - n)

/-- The division of a request (R376): one of up to 8 bytes is one access. -/
def dividedAccess (off len : Nat) : List (Nat × Nat) := if len ≤ 8 then [(off, len)] else hostPieces len off len

/-- Why an access through the window fails: no aperture is bound there, or its translation fails. -/
inductive WindowFail where
  | unbound
  | failed (a part cause va : Nat)

/-- The locations of an access through the window; every byte is checked before any is accessed (R169), and each byte of an
access over an aperture's end belongs to its own aperture (R376). -/
def State.windowLocs (s : State) (off n : Nat) (write : Bool) : Except WindowFail (List Nat) :=
  match s.window off with
  | none => .error .unbound
  | some (a, part, va) =>
    if off % s.apertureSize + n ≤ s.apertureSize then
      match s.partLocs part va n write with
      | .error (cause, addr) => .error (.failed a part cause addr)
      | .ok ls => .ok ls
    else
      (countFrom off n).mapM fun o => match s.window o with
        | none => .error .unbound
        | some (b, p, v) =>
          match s.partLocs p v 1 write with
          | .error (cause, addr) => .error (.failed b p cause addr)
          | .ok ls => .ok (ls.headD 0)

/-- A read that fails: Unsupported Request, or Completer Abort with a notice (R376). -/
def State.hostFail (s : State) : WindowFail → State
  | .unbound => s.hostReply .unsupported
  | .failed a part cause va => (s.windowNotice a part cause va).hostReply .abort

/-- The accesses of a read, one after another. -/
def State.hostRead (s : State) : List (Nat × Nat) → List Byte → State
  | [], acc => s.hostReply (.data acc)
  | (off, n) :: r, acc =>
    match s.windowLocs off n false with
    | .error e => s.hostFail e
    | .ok ls =>
      match s.soiled ls, s.window off with
      | some l, some (a, part, va) => s.hostFail (.failed a part memUncorrectable (va + ls.findIdx fun m => m == l))
      | _, _ => State.hostRead (s.siteLines ls false) r (acc ++ s.bytesAt ls)

/-- HOST_WINDOW_READ. -/
def execHostWindowRead (place : WindowPlace) (len : BitVec 13) (s : State) : Host.Outcome State Fault Refusal :=
  .next (s.hostRead (dividedAccess place.off.toNat len.toNat) [])

/-- An access is naturally aligned: else it is single-byte accesses (R169). -/
def naturallyAligned (off n : Nat) : Bool := [1, 2, 4, 8].contains n && off % n == 0

/-- An ordinary store of the host: one access, or one for each byte where it is misaligned (R169, R319). -/
def State.hostStore (s : State) (off : Nat) (ls : List Nat) (bs : List Byte) : State :=
  let t := s.spoilAll ls
  if naturallyAligned off ls.length then t.gstore ls bs
  else (ls.zip bs).foldl (fun t e => t.gstore [e.1] [e.2]) t

/-- The accesses of a write, up to the first that fails. -/
def State.hostWrite (s : State) : List (Nat × Nat) → List Byte → State
  | [], _ => s
  | (off, n) :: r, bs =>
    match s.windowLocs off n true with
    | .error .unbound => State.hostWrite s r (bs.drop n)
    | .error (.failed a part cause va) => s.windowNotice a part cause va
    | .ok ls => State.hostWrite (s.hostStore off ls (bs.take n)) r (bs.drop n)

/-- HOST_WINDOW_WRITE. -/
def execHostWindowWrite (place : WindowPlace) (data : List Byte) (s : State) : Host.Outcome State Fault Refusal :=
  .next (s.hostWrite (dividedAccess place.off.toNat data.length) data)

/-- An AtomicOp of n bytes at the home agent (R172, R173): `f` gives the new value, `none` where a compare fails and nothing
is written or counted (R319); the reply is the old value. One that is not aligned is not supported (log 47). -/
def State.hostAtomic (s : State) (off n : Nat) (f : Nat → Option Nat) : State :=
  match s.window off with
  | none => s.hostReply .unsupported
  | some (a, part, va) =>
    if va % n ≠ 0 then s.hostReply .unsupported
    else
      match s.partLocs part va n true with
      | .error (cause, addr) => s.hostFail (.failed a part cause addr)
      | .ok ls =>
        if (s.soiled ls).isSome then s.hostFail (.failed a part memUncorrectable va)
        else
          let old := s.bytesAt ls
          (match f (leNat old) with
          | some v => (s.spoilAll ls).gstore ls (leBytes n v)
          | none => s.siteLines ls false).hostReply (.data old)

/-- The operand size of FetchAdd and Swap. -/
def atomicBytes (wide : Bool) : Nat := if wide then 8 else 4

/-- ATOMIC_FETCHADD. -/
def execAtomicFetchadd (place : WindowPlace) (wide : Bool) (v : BitVec 64) (s : State) :
    Host.Outcome State Fault Refusal :=
  .next (s.hostAtomic place.off.toNat (atomicBytes wide) fun old => some ((old + v.toNat) % 2 ^ 64))

/-- ATOMIC_SWAP. -/
def execAtomicSwap (place : WindowPlace) (wide : Bool) (v : BitVec 64) (s : State) :
    Host.Outcome State Fault Refusal :=
  .next (s.hostAtomic place.off.toNat (atomicBytes wide) fun _ => some v.toNat)

/-- ATOMIC_CAS: size 0 is 32 bits, 1 is 64 bits; 128 bits complete as Unsupported Request (R367). -/
def execAtomicCas (place : WindowPlace) (size : BitVec 2) (cmp v : BitVec 64) (s : State) :
    Host.Outcome State Fault Refusal :=
  .next (
    if 2 ≤ size.toNat then s.hostReply .unsupported
    else
      let n := if size = 0 then 4 else 8
      s.hostAtomic place.off.toNat n fun old => if old = cmp.toNat % 2 ^ (8 * n) then some v.toNat else none)

end Sys2Proof.Machine
end

