-- ==== Sys2Proof/Machine/Manage.lean ====
section
/-!
DEFINITION. Resets (R4, R382, R383), side-band management (R380, R381), firmware (R384), attestation (R385), the clock
(R358), the Ouvra link (R378, R379), cache flushes (R164) and page migration (R168).
-/
namespace Sys2Proof.Machine

/-! ### Notices and the error log -/

/-- The management controller records an error, and vector 2 is raised (R368, R380). -/
def State.logError (s : State) (code detail : Nat) : State :=
  { s with
    mgmt := { s.mgmt with errorLog := s.mgmt.errorLog ++ [(code, detail)] }
    host := s.host.raise 2 }

/-- A thermal or power event: TEMP and POWER are free values (R375; log 15). -/
def State.thermalNotice (s : State) (die what : Nat) : State :=
  let t := s.notice 9 0 (64 * die) [(8, leBytes 1 what), (16, leBytes 4 (Config.freeValue s.fresh).toNat),
    (20, leBytes 4 (Config.freeValue (s.fresh + 1)).toNat)]
  { t with fresh := t.fresh + 2 }

/-- A link event (R375). -/
def State.linkNotice (s : State) (what part n : Nat) : State := s.notice 8 part 0 [(8, leBytes 1 what), (9, leBytes 1 n)]

/-! ### Resets (R382) -/

/-- An image verifies under the active configuration record (R383). -/
def imageOk (config img : List Byte) : Bool :=
  Config.signatureOk img && decide (Config.minimumVersion config ≤ Config.securityVersion img)

/-- A staged copy verifies (R383, R384). -/
def Mgmt.stagedOk (m : Mgmt) (config : List Byte) (k : Nat) : Bool :=
  (m.staged[k]?).getD false && imageOk config ((m.inactive[k]?).getD [])

/-- The configuration record in force after the reset: a staged one that verifies, under the record before it and under itself. -/
def Mgmt.nextRecord (m : Mgmt) : List Byte :=
  if m.stagedOk m.active[2] 2 && m.stagedOk m.inactive[2] 2 then m.inactive[2] else m.active[2]

/-- Which staged copies become active (R384): those that verify, under the record that is then in force; where one does not, the
previous copy runs and the failure is logged. -/
def Mgmt.reboot (m : Mgmt) : Mgmt :=
  let good := fun (k : Nat) => m.stagedOk m.nextRecord k && (k != 2 || m.stagedOk m.active[2] 2)
  { m with
    active := m.active.mapIdx fun k old => if good k then (m.inactive[k]?).getD [] else old
    inactive := m.inactive.mapIdx fun k new => if good k then (m.active[k]?).getD [] else new
    staged := .replicate 3 false
    errorLog := m.errorLog ++ (List.range 3).filterMap fun k =>
      if (m.staged[k]?).getD false && !good k then some (1, k) else none
    powered := true }

/-- Every active copy verifies (R4, R383). -/
def Mgmt.verified (m : Mgmt) : Bool := m.active.toList.all fun img => imageOk (m.active[2]) img

/-- MODULE_RESET (R4, R382 to R384): every reset value; flash and the controller on standby power keep theirs; READY, or
the recovery state. -/
def execModuleReset (s : State) : Host.Outcome State Fault Refusal :=
  let m := s.mgmt.reboot
  let host : HostSide := { HostSide.reset with ready := m.verified, recov := !m.verified }
  .next { State.reset with
    mgmt := m
    -- vector 2 for each error the boot has recorded (R368, R384)
    host := (List.range (m.errorLog.length - s.mgmt.errorLog.length)).foldl (fun h _ => h.raise 2) host
    fresh := s.fresh
    agenda := s.agenda }

/-- What both link resets do (R382): partitions end, FEAT_ACCEPT, apertures, mailbox and NOTICE are reset. -/
def State.linkReset (s : State) : State :=
  let t := s.endParts fun _ _ => true
  { t with host := { t.host with
    featAccept := 0
    busy := false
    doorbell := 0
    reply := none
    nwr := 0
    nrd := 0
    heldNotices := []
    apertures := []
    window := t.host.window.filter fun e => decide (e.1 < 0x1000) || decide (0x3000 ≤ e.1) } }

/-- HOT_RESET of either link. -/
def execHotReset (_link : Bool) (s : State) : Host.Outcome State Fault Refusal := .next s.linkReset

/-- FUNCTION_LEVEL_RESET of either link. -/
def execFunctionLevelReset (_link : Bool) (s : State) : Host.Outcome State Fault Refusal := .next s.linkReset

/-- MGMT_DIE_RESET: the die's partitions end. The supervisor that restarts holds no state of its own (R18). -/
def execMgmtDieReset (d : BitVec 3) (s : State) : Host.Outcome State Fault Refusal :=
  .next (s.endParts fun _ p => p.cores.any fun c => dieOf c == d.toNat)

/-! ### Side-band messages (R380) -/

/-- An answer of the management controller. -/
def State.mgmtReply (s : State) (b : List Byte) : State := { s with mgmt := { s.mgmt with replies := s.mgmt.replies ++ [b] } }

/-- MCTP_CONTROL: EID assignment, or discovery. -/
def execMctpControl (setEid : Option (BitVec 8)) (s : State) : Host.Outcome State Fault Refusal :=
  let e := setEid.getD s.mgmt.eid
  .next (State.mgmtReply { s with mgmt := { s.mgmt with eid := e } } [e])

/-- A sensor of R328 (R380; log 53): of a die 0 SOFTCOR, 1 STRETCH; of site n 0x10 + n MSCHIT, 0x20 + n MSCMISS, 0x30 + n
FLUSHES, 0x40 + n PIERCMD, 0x50 + n DRAMCOR. The values at a moment are free values (log 15). -/
def State.sensor (s : State) (die sensor : Nat) : X64 :=
  let site := s.site (sensor % 16)
  match sensor / 16 with
  | 0 => match sensor with
    | 0 => (s.die die).softcor
    | 1 => (s.die die).stretch
    | _ => Config.freeValue s.fresh
  | 1 => site.hits
  | 2 => site.misses
  | 3 => site.flushes
  | 4 => site.pierCmds
  | 5 => site.dramCor
  | _ => Config.freeValue s.fresh

/-- PLDM_SENSOR_READ. -/
def execPldmSensorRead (d : BitVec 3) (sensor : BitVec 8) (s : State) : Host.Outcome State Fault Refusal :=
  .next (State.mgmtReply { s with fresh := s.fresh + 1 } (leBytes 8 (s.sensor d.toNat sensor.toNat).toNat))

/-- PLDM_FIRMWARE_UPDATE (R384): 0 supervisor, 1 management, 2 configuration record, into the inactive copy. -/
def execPldmFirmwareUpdate (which : BitVec 2) (image : List Byte) (s : State) : Host.Outcome State Fault Refusal :=
  .next (if which = 3 then s
    else { s with mgmt := { s.mgmt with
      inactive := s.mgmt.inactive.setIfInBounds which.toNat image
      staged := s.mgmt.staged.setIfInBounds which.toNat true } })

/-- ERROR_LOG_READ. -/
def execErrorLogRead (s : State) : Host.Outcome State Fault Refusal :=
  .next (s.mgmtReply (s.mgmt.errorLog.flatMap fun e => leBytes 8 e.1 ++ leBytes 8 e.2))

/-- ERROR_LOG_CLEAR. -/
def execErrorLogClear (s : State) : Host.Outcome State Fault Refusal :=
  .next { s with mgmt := { s.mgmt with errorLog := [] } }

/-- SET_POWER_LIMIT (R381): 1.8 to 3.6 kW. -/
def execSetPowerLimit (mw : BitVec 32) (s : State) : Host.Outcome State Fault Refusal :=
  .next (if 1800000 ≤ mw.toNat ∧ mw.toNat ≤ 3600000 then { s with mgmt := { s.mgmt with powerLimit := mw.toNat } } else s)

/-! ### Attestation (R385) -/

/-- GET_VERSION: 1.2 and 1.3. -/
def execGetVersion (s : State) : Host.Outcome State Fault Refusal := .next (s.mgmtReply [0x12, 0x13])

/-- The capability flags of SPDM that R385 gives: certificates, challenges and signed measurements, and no session of any
kind (PRESUMED; log 53). -/
def capabilityFlags : Nat := 0x16

/-- The asymmetric algorithm and the hash of SPDM that R385 gives: ECDSA P-256 and SHA-256 alone (PRESUMED; log 53). -/
def algorithmCodes : Nat × Nat := (0x10, 0x01)

/-- GET_CAPABILITIES: no sessions; what follows the flags is the protocol's (log 13). -/
def execGetCapabilities (s : State) : Host.Outcome State Fault Refusal :=
  .next (s.mgmtReply (leBytes 4 capabilityFlags ++ Config.protocolAnswer 0))

/-- NEGOTIATE_ALGORITHMS: ECDSA P-256 and SHA-256 alone; what follows the codes is the protocol's (log 13). -/
def execNegotiateAlgorithms (s : State) : Host.Outcome State Fault Refusal :=
  .next (s.mgmtReply (leBytes 4 algorithmCodes.1 ++ leBytes 4 algorithmCodes.2 ++ Config.protocolAnswer 1))

/-- A digest's bytes. -/
def digest (b : List Byte) : List Byte := leBytes 32 (Config.sha256 b).toNat

/-- GET_DIGESTS: of the chain in slot 0. -/
def execGetDigests (s : State) : Host.Outcome State Fault Refusal := .next (s.mgmtReply (digest Config.certificateChain))

/-- GET_CERTIFICATE: slot 0 alone holds one. -/
def execGetCertificate (slot : BitVec 3) (s : State) : Host.Outcome State Fault Refusal :=
  .next (s.mgmtReply (if slot = 0 then Config.certificateChain else []))

/-- Measurement index 1 to 4 (R385): the firmware images, the configuration record and FEAT_OFFER. -/
def State.measurement (s : State) (i : Nat) : List Byte :=
  match i with
  | 1 => digest s.mgmt.active[0]
  | 2 => digest s.mgmt.active[1]
  | 3 => digest s.mgmt.active[2]
  | 4 => digest (leBytes 16 1)
  | _ => []

/-- CHALLENGE: the nonce and the measurements, signed by the device identity key. -/
def execChallenge (nonce : BitVec 256) (s : State) : Host.Outcome State Fault Refusal :=
  .next (s.mgmtReply (Config.sign (leBytes 32 nonce.toNat ++ (countFrom 1 4).flatMap s.measurement)))

/-- GET_MEASUREMENTS. -/
def execGetMeasurements (index : BitVec 8) (s : State) : Host.Outcome State Fault Refusal :=
  .next (s.mgmtReply (s.measurement index.toNat))

/-! ### Clock and power (R358, R381) -/

/-- CLOCK_STRETCH_BEGIN. -/
def execClockStretchBegin (d : BitVec 3) (s : State) : Host.Outcome State Fault Refusal :=
  .next (if (s.die d.toNat).stretching then s
    else (s.modDie d.toNat fun v => { v with stretching := true }).thermalNotice d.toNat 0)

/-- CLOCK_STRETCH_END: the cycles lost are a free value (log 15). -/
def execClockStretchEnd (d : BitVec 3) (s : State) : Host.Outcome State Fault Refusal :=
  .next (if (s.die d.toNat).stretching then
      let lost := Config.freeValue s.fresh
      (State.modDie { s with fresh := s.fresh + 1 } d.toNat fun v =>
        { v with stretching := false, stretch := v.stretch + lost }).thermalNotice d.toNat 1
    else s)

/-- OVERTEMP_POWER_OFF: every partition is lost, READY falls, the event is logged. -/
def execOvertempPowerOff (d : BitVec 3) (s : State) : Host.Outcome State Fault Refusal :=
  let t := ((s.endParts fun _ _ => true).thermalNotice d.toNat 2).logError 0 d.toNat
  .next { t with
    host := { t.host with ready := false }
    mgmt := { t.mgmt with powered := false } }

/-! ### The Ouvra link (R378, R379) -/

/-- FLIT_RETRY: seen only as time; counted here. -/
def execFlitRetry (_port : BitVec 4) (s : State) : Host.Outcome State Fault Refusal :=
  .next { s with mgmt := { s.mgmt with flitRetries := s.mgmt.flitRetries + 1 } }

/-- PORT_FAILURE: traffic takes the remaining ports. -/
def execPortFailure (port : BitVec 4) (s : State) : Host.Outcome State Fault Refusal :=
  .next (State.linkNotice { s with pod := { s.pod with failedPorts := addTo s.pod.failedPorts port.toNat } } 0 0 port.toNat)

/-- PACKAGE_UNREACHABLE: every partition that spans it ends. -/
def execPackageUnreachable (pkg : BitVec 6) (s : State) : Host.Outcome State Fault Refusal :=
  let n := pkg.toNat
  let lost := s.partitions.filter fun p => p.2.spans.contains n
  let t := State.linkNotice { s with pod := { s.pod with unreachable := addTo s.pod.unreachable n } } 1 0 n
  .next (lost.foldl (fun t p => (t.endPartition p.1).linkNotice 2 p.1 n) t)

/-! ### Caches and pages -/

/-- MEMORY_SIDE_CACHE_FLUSH (R164): dirty lines are written back; no value changes. -/
def execMemorySideCacheFlush (site : BitVec 4) (s : State) : Host.Outcome State Fault Refusal :=
  .next (s.modSite site.toNat fun v => { v with flushes := v.flushes + 1, lines := v.lines.map fun l => (l.1, false) })

/-- An entry lies in a level-2 table of a partition, so that its leaf is of 512 MiB (R300). -/
def State.bigLeaf (s : State) (entry : Nat) : Bool :=
  s.partitions.any fun p => (List.range 8192).any fun i =>
    let e := s.readPhys (p.2.ptbase.toNat + 8 * i)
    bitOf e 0 && !bitOf e 1 && bitsOf e 51 16 == entry / 2 ^ 16

/-- The size of the page a leaf entry maps. -/
def State.leafSize (s : State) (entry : Nat) : Nat := if s.bigLeaf entry then 2 ^ 29 else 2 ^ 16

/-- The entry is a leaf, and the new place is one its page may have (R168). -/
def State.mayMigrate (s : State) (entry newPa : Nat) : Bool :=
  let e := s.readPhys entry
  let size := s.leafSize entry
  bitOf e 0 && bitOf e 1 && newPa % size == 0 && leafOk newPa size

/-- PAGE_MIGRATION (R168): the move begins; accesses that wait for it are replayed at its end, which is where they take
their place in the order. -/
def execPageMigration (entry newPa : BitVec 52) (s : State) : Host.Outcome State Fault Refusal :=
  .next (if s.mayMigrate entry.toNat newPa.toNat && !s.migrating.any (fun m => m.1 == entry.toNat) then
      { s with migrating := s.migrating ++ [(entry.toNat, newPa.toNat)] }
    else s)

/-- Where a byte of the old page stands after the move. -/
def movedLoc (old new size loc : Nat) : Option Nat :=
  (pasOfLoc loc).findSome? fun a => if old ≤ a ∧ a < old + size then locOfPa (new + (a - old)) else none

/-- A location lies in a page. -/
def inPage (pa size loc : Nat) : Bool :=
  (pasOfLoc loc).any fun a => bitsOf a 45 44 == bitsOf pa 45 44 && decide (pa ≤ a) && decide (a < pa + size)

/-- The bytes of the old page stand in the new one. -/
def moveBytes (m : Memory) (old new size : Nat) : Memory :=
  m.foldl (fun t c => match movedLoc old new size c.1 with
    | some l => Memory.write t l c.2
    | none => t) (m.filter fun c => !inPage new size c.1)

/-- A word with an uncorrectable error moves with its page; what stood at the new place is gone. -/
def moveFlaws (l : List Nat) (old new size : Nat) : List Nat :=
  (l.filter fun w => !inPage new size (8 * w)) ++ l.filterMap fun w => (movedLoc old new size (8 * w)).map (· / 8)

/-- The end of one migration: the page's bytes with their errors, its entry, and every note of its place. DESIGN CHOICE (log 52):
R168 says nothing of a page that several leaf entries map; the entry named alone is rewritten. -/
def State.migrate (s : State) (entry new : Nat) : State :=
  let e := s.readPhys entry
  let size := s.leafSize entry
  let old := bitsOf e 51 16 * 2 ^ 16
  let els := (countFrom entry 8).filterMap locOfPa
  let moved := fun (p : Nat) => if old ≤ p ∧ p < old + size then new + (p - old) else p
  let keep : TlbEntry → Bool := fun t => !(decide (old ≤ t.pa) && decide (t.pa < old + size))
  let at_ := fun (l : Nat) => (movedLoc old new size l).getD l
  { s with
    flaws := moveFlaws s.flaws old new size
    piers := s.piers.map fun p => (p.1, { p.2 with
      run := p.2.run.map fun r => { r with stored := r.stored.foldl (fun t e => t.put (at_ e.1) e.2) [] }
      done := p.2.done.map fun d => { d with stored := d.stored.map at_ } })
    news := s.news.map fun w => match w.place with
      | .word l => { w with place := .word (at_ l) }
      | _ => w
    mem := Memory.writeAll (moveBytes s.mem old new size) els (leBytes 8 (e % 2 ^ 16 + new))
    cores := s.cores.map fun c => (c.1, { c.2 with
      tlb := c.2.tlb.filter keep
      l1 := c.2.l1.filter fun l => !inPage old size (64 * l.loc) })
    quads := s.quads.map fun q => (q.1, { q.2 with tlb := q.2.tlb.filter keep })
    sites := s.sites.map fun n => (n.1, { n.2 with
      landing := n.2.landing.map fun l => (l.1, { l.2 with pages := l.2.pages.map fun p => (p.1, p.2.1, moved p.2.2) }) }) }

/-- PAGE_MIGRATION_END. -/
def execPageMigrationEnd (s : State) : Host.Outcome State Fault Refusal :=
  match s.migrating with
  | [] => .next s
  | (entry, new) :: r => .next (State.migrate { s with migrating := r } entry new)

/-- RESIZABLE_BAR_WRITE (R367): 16 GiB to 1 TiB. -/
def execResizableBarWrite (log2 : BitVec 6) (s : State) : Host.Outcome State Fault Refusal :=
  .next (if 34 ≤ log2.toNat ∧ log2.toNat ≤ 40 then { s with host := { s.host with windowLog2 := log2.toNat } } else s)

end Sys2Proof.Machine
end

