-- ==== Sys2Proof/Machine/Ranked.lean ====
section
/-!
DEFINITION. The ranked-accumulator instructions of the vector slot (R142 to R147).
-/
namespace Sys2Proof.Machine

/-- An update waits for a pending update of its list in interlocked mode (R142). -/
def State.awaitK (s : State) (k : BitVec 3) : Except Halt Unit := s.hazard (.k k.toNat)

/-- KINIT (R144). -/
def execKinit (g : BitVec 4) (k : BitVec 3) (c : BitVec 6) (d : BitVec 1) (t : BitVec 2) (s : State) :
    Host.Outcome State Fault Refusal :=
  slotOp g s do
    let _ ← s.awaitK k
    .ok (s.updateK k (.init (c.toNat + 1) (d == 1) ((KType.ofCode t.toNat).getD .f32)) 2)

/-- KCLR (R144). -/
def execKclr (g : BitVec 4) (k : BitVec 3) (s : State) : Host.Outcome State Fault Refusal :=
  slotOp g s do
    let _ ← s.awaitK k
    .ok (s.updateK k .clear 2)

/-- The spacing rule, and in interlocked mode the wait for updates other than insertions (R142). -/
def State.awaitInsert (s : State) (k : BitVec 3) : Except Halt Unit :=
  let isInsert : FlightEntry → Bool := fun e => match e.val with
    | .k (.insert _ _) => true
    | _ => false
  if s.issue.mode.ilk && s.issue.pendFlight.any fun e => decide (e.reg = .k k.toNat) && !isInsert e then .error .stalled
  else
    match (s.cx.kinsAt[k.toNat]?).join with
    | some c => if s.cycle.toNat < c + 3 then .error .stalled else .ok ()
    | none => .ok ()

/-- One candidate per selected lane. -/
def candidates (m : BitVec 64) (v : VReg) (index : Nat → Word) : List KEntry :=
  ((List.range 64).filter fun i => m.getLsbD i).map fun i => ⟨v.lane i, index i⟩

/-- The update of KINS and KINSI with its write of P7 at the same landing (R145). -/
def State.insertK (s : State) (k : BitVec 3) (cs : List KEntry) : State :=
  let s1 := s.updateK k (.insert s.exposed cs) 8
  let s2 := s1.writeP 7 false 8
  s2.modCx fun c => { c with kinsAt := c.kinsAt.setIfInBounds k.toNat (some s.cycle.toNat) }

/-- KINS (R145). -/
def execKins (g : BitVec 4) (k : BitVec 3) (a b : BitVec 5) (m : BitVec 3) (s : State) :
    Host.Outcome State Fault Refusal :=
  slotOp g s do
    let _ ← s.awaitInsert k
    let sel ← s.readM m
    let x ← s.readV a
    let y ← s.readV b
    .ok (s.insertK k (candidates sel x fun i => y.lane i))

/-- KINSI (R145). -/
def execKinsi (g : BitVec 4) (k : BitVec 3) (a : BitVec 5) (x : BitVec 6) (m : BitVec 3) (s : State) :
    Host.Outcome State Fault Refusal :=
  slotOp g s do
    let _ ← s.awaitInsert k
    let sel ← s.readM m
    let v ← s.readV a
    let w ← s.readX x
    .ok (s.insertK k (candidates sel v fun i => w.setWidth 32 + BitVec.ofNat 32 i))

/-- KMRG (R146): a list of another type or direction raises ILLEGAL_OP with the detail "list mismatch"; a list merged
with itself does not change. -/
def execKmrg (g : BitVec 4) (k a : BitVec 3) (s : State) : Host.Outcome State Fault Refusal :=
  slotOp g s do
    let old ← s.readK k
    let src ← s.readK a
    if src.type ≠ old.type ∨ src.smallest ≠ old.smallest then .error (s.trapHere illegalOp 3 0)
    else if a = k then .ok s
    else .ok (s.updateK k (.merge s.exposed src.entries src.nanDropped) 2)

/-- KOUT (R147). -/
def execKout (g : BitVec 4) (k : BitVec 3) (d : BitVec 5) (s : State) : Host.Outcome State Fault Refusal :=
  slotOp g s do
    let l ← s.readK k
    let vals := lanesOf fun i => ((l.entries[i]?).map (·.value)).getD 0
    let idxs := lanesOf fun i => ((l.entries[i]?).map (·.index)).getD 0
    .ok ((s.writeV d (BitVec.allOnes 64) vals 2).writeV (d + 1) (BitVec.allOnes 64) idxs 2)

/-- KLEN (R147). -/
def execKlen (g : BitVec 4) (k : BitVec 3) (d : BitVec 6) (s : State) : Host.Outcome State Fault Refusal :=
  slotOp g s do
    let l ← s.readK k
    .ok (s.writeX d (BitVec.ofNat 64 l.entries.length) 2)

/-- KTH publishes the threshold of the list as it stands at issue (R147). -/
def execKth (g : BitVec 4) (k : BitVec 3) (s : State) : Host.Outcome State Fault Refusal :=
  slotOp g s do
    let l ← s.readK k
    .ok (s.result (.kth k.toNat) (.kth l.threshold) 2)

end Sys2Proof.Machine
end

