-- ==== Sys2Proof/Machine/Dispatch.lean ====
section
/-!
DEFINITION. The meaning of every instruction: one arm per row of spec/opcode_table.json.
-/
namespace Sys2Proof.Machine

def exec (i : Instr) (s : State) : Host.Outcome State Fault Refusal :=
  match i with
  | .add g d a b => Sys2Proof.Machine.execAdd g d a b s
  | .sub g d a b => Sys2Proof.Machine.execSub g d a b s
  | .and g d a b => Sys2Proof.Machine.execAnd g d a b s
  | .or g d a b => Sys2Proof.Machine.execOr g d a b s
  | .xor g d a b => Sys2Proof.Machine.execXor g d a b s
  | .shl g d a b => Sys2Proof.Machine.execShl g d a b s
  | .shr g d a b => Sys2Proof.Machine.execShr g d a b s
  | .sra g d a b => Sys2Proof.Machine.execSra g d a b s
  | .mul g d a b => Sys2Proof.Machine.execMul g d a b s
  | .mulh g d a b sh => Sys2Proof.Machine.execMulh g d a b sh s
  | .div g d a b u => Sys2Proof.Machine.execDiv g d a b u s
  | .rem g d a b u => Sys2Proof.Machine.execRem g d a b u s
  | .min g d a b u => Sys2Proof.Machine.execMin g d a b u s
  | .max g d a b u => Sys2Proof.Machine.execMax g d a b u s
  | .clz g d a => Sys2Proof.Machine.execClz g d a s
  | .ctz g d a => Sys2Proof.Machine.execCtz g d a s
  | .popc g d a => Sys2Proof.Machine.execPopc g d a s
  | .brev g d a => Sys2Proof.Machine.execBrev g d a s
  | .sext g d a sh => Sys2Proof.Machine.execSext g d a sh s
  | .shadd g d a b sh => Sys2Proof.Machine.execShadd g d a b sh s
  | .addi g d a imm => Sys2Proof.Machine.execAddi g d a imm s
  | .andi g d a imm => Sys2Proof.Machine.execAndi g d a imm s
  | .ori g d a imm => Sys2Proof.Machine.execOri g d a imm s
  | .xori g d a imm => Sys2Proof.Machine.execXori g d a imm s
  | .shli g d a imm => Sys2Proof.Machine.execShli g d a imm s
  | .shri g d a imm => Sys2Proof.Machine.execShri g d a imm s
  | .srai g d a imm => Sys2Proof.Machine.execSrai g d a imm s
  | .movi g d imm => Sys2Proof.Machine.execMovi g d imm s
  | .cmp g p a b c => Sys2Proof.Machine.execCmp g p a b c s
  | .cmpeqi g p a imm => Sys2Proof.Machine.execCmpeqi g p a imm s
  | .cmplti g p a imm => Sys2Proof.Machine.execCmplti g p a imm s
  | .plog g d a b t => Sys2Proof.Machine.execPlog g d a b t s
  | .pmovx g d => Sys2Proof.Machine.execPmovx g d s
  | .xmovp g a => Sys2Proof.Machine.execXmovp g a s
  | .sel g d a b => Sys2Proof.Machine.execSel g d a b s
  | .fadd g d a b r => Sys2Proof.Machine.execFadd g d a b r s
  | .fsub g d a b r => Sys2Proof.Machine.execFsub g d a b r s
  | .fmul g d a b r => Sys2Proof.Machine.execFmul g d a b r s
  | .fmin g d a b r => Sys2Proof.Machine.execFmin g d a b r s
  | .fmax g d a b r => Sys2Proof.Machine.execFmax g d a b r s
  | .fcmp g p a b c => Sys2Proof.Machine.execFcmp g p a b c s
  | .fcvt g d a k r => Sys2Proof.Machine.execFcvt g d a k r s
  | .nop g => Sys2Proof.Machine.execNop g s
  | .br g o => Sys2Proof.Machine.execBr g o s
  | .call g o => Sys2Proof.Machine.execCall g o s
  | .jr g a imm => Sys2Proof.Machine.execJr g a imm s
  | .jalr g d a imm => Sys2Proof.Machine.execJalr g d a imm s
  | .ret g => Sys2Proof.Machine.execRet g s
  | .loop g c e r n => Sys2Proof.Machine.execLoop g c e r n s
  | .loopi g c r n => Sys2Proof.Machine.execLoopi g c r n s
  | .mode g imm => Sys2Proof.Machine.execMode g imm s
  | .yield g => Sys2Proof.Machine.execYield g s
  | .halt g => Sys2Proof.Machine.execHalt g s
  | .bkpt g imm => Sys2Proof.Machine.execBkpt g imm s
  | .trap g imm => Sys2Proof.Machine.execTrap g imm s
  | .sysc g imm => Sys2Proof.Machine.execSysc g imm s
  | .eret g => Sys2Proof.Machine.execEret g s
  | .crd g c d => Sys2Proof.Machine.execCrd g c d s
  | .cwr g c a => Sys2Proof.Machine.execCwr g c a s
  | .ifence g => Sys2Proof.Machine.execIfence g s
  | .isum g d a k => Sys2Proof.Machine.execIsum g d a k s
  | .banksw g a b => Sys2Proof.Machine.execBanksw g a b s
  | .nprb g => Sys2Proof.Machine.execNprb g s
  | .npre g => Sys2Proof.Machine.execNpre g s
  | .bar g sh imm => Sys2Proof.Machine.execBar g sh imm s
  | .efence g => Sys2Proof.Machine.execEfence g s
  | .waits g sh x => Sys2Proof.Machine.execWaits g sh x s
  | .sigs g sh x => Sys2Proof.Machine.execSigs g sh x s
  | .semset g sh x => Sys2Proof.Machine.execSemset g sh x s
  | .waitw g a b => Sys2Proof.Machine.execWaitw g a b s
  | .pstop g a => Sys2Proof.Machine.execPstop g a s
  | .tkwait g => Sys2Proof.Machine.execTkwait g s
  | .tknext g d => Sys2Proof.Machine.execTknext g d s
  | .tkdone g => Sys2Proof.Machine.execTkdone g s
  | .tret g => Sys2Proof.Machine.execTret g s
  | .ld g d b z imm => Sys2Proof.Machine.execLd g d b z imm s
  | .st g sh b z imm => Sys2Proof.Machine.execSt g sh b z imm s
  | .lds8 g d sh o n => Sys2Proof.Machine.execLds8 g d sh o n s
  | .lds4 g d sh o n => Sys2Proof.Machine.execLds4 g d sh o n s
  | .sts8 g x sh o n => Sys2Proof.Machine.execSts8 g x sh o n s
  | .sts4 g x sh o n => Sys2Proof.Machine.execSts4 g x sh o n s
  | .amo g d a b o => Sys2Proof.Machine.execAmo g d a b o s
  | .amo4 g d a b o => Sys2Proof.Machine.execAmo4 g d a b o s
  | .cas g d a b => Sys2Proof.Machine.execCas g d a b s
  | .cas4 g d a b => Sys2Proof.Machine.execCas4 g d a b s
  | .pref g a imm => Sys2Proof.Machine.execPref g a imm s
  | .ctw g a e => Sys2Proof.Machine.execCtw g a e s
  | .vnop g => Sys2Proof.Machine.execVnop g s
  | .vadd g d a b m t => Sys2Proof.Machine.execVadd g d a b m t s
  | .vsub g d a b m t => Sys2Proof.Machine.execVsub g d a b m t s
  | .vmul g d a b m t => Sys2Proof.Machine.execVmul g d a b m t s
  | .vfma g d a b m t => Sys2Proof.Machine.execVfma g d a b m t s
  | .vmin g d a b m t => Sys2Proof.Machine.execVmin g d a b m t s
  | .vmax g d a b m t => Sys2Proof.Machine.execVmax g d a b m t s
  | .vabs g d a m t => Sys2Proof.Machine.execVabs g d a m t s
  | .vneg g d a m t => Sys2Proof.Machine.execVneg g d a m t s
  | .vand g d a b m t => Sys2Proof.Machine.execVand g d a b m t s
  | .vor g d a b m t => Sys2Proof.Machine.execVor g d a b m t s
  | .vxor g d a b m t => Sys2Proof.Machine.execVxor g d a b m t s
  | .vshl g d a b m t => Sys2Proof.Machine.execVshl g d a b m t s
  | .vshr g d a b m t => Sys2Proof.Machine.execVshr g d a b m t s
  | .vsra g d a b m t => Sys2Proof.Machine.execVsra g d a b m t s
  | .vdiv g d a b m t => Sys2Proof.Machine.execVdiv g d a b m t s
  | .vrem g d a b m t => Sys2Proof.Machine.execVrem g d a b m t s
  | .vsqrt g d a m t => Sys2Proof.Machine.execVsqrt g d a m t s
  | .vrec g d a m t => Sys2Proof.Machine.execVrec g d a m t s
  | .vrsq g d a m t => Sys2Proof.Machine.execVrsq g d a m t s
  | .vexp2 g d a m t => Sys2Proof.Machine.execVexp2 g d a m t s
  | .vlog2 g d a m t => Sys2Proof.Machine.execVlog2 g d a m t s
  | .vcmp g m a b c t => Sys2Proof.Machine.execVcmp g m a b c t s
  | .vsel g d a b m t => Sys2Proof.Machine.execVsel g d a b m t s
  | .vmov g d a m t => Sys2Proof.Machine.execVmov g d a m t s
  | .vbcast g v x m => Sys2Proof.Machine.execVbcast g v x m s
  | .viota g d m t => Sys2Proof.Machine.execViota g d m t s
  | .vext g v x l sh => Sys2Proof.Machine.execVext g v x l sh s
  | .vins g v x l => Sys2Proof.Machine.execVins g v x l s
  | .vred g d a o m t => Sys2Proof.Machine.execVred g d a o m t s
  | .vscan g d a o m t => Sys2Proof.Machine.execVscan g d a o m t s
  | .vperm g d a b m t => Sys2Proof.Machine.execVperm g d a b m t s
  | .vpart g d a m => Sys2Proof.Machine.execVpart g d a m s
  | .vcvt g d a f t r m => Sys2Proof.Machine.execVcvt g d a f t r m s
  | .vcv8 g d a e w p o r m => Sys2Proof.Machine.execVcv8 g d a e w p o r m s
  | .vun8 g d a e w p m => Sys2Proof.Machine.execVun8 g d a e w p m s
  | .vdec4 g d a b p t => Sys2Proof.Machine.execVdec4 g d a b p t s
  | .venc4 g d a x p f => Sys2Proof.Machine.execVenc4 g d a x p f s
  | .mlog g d a b t => Sys2Proof.Machine.execMlog g d a b t s
  | .mpop g x m => Sys2Proof.Machine.execMpop g x m s
  | .mfromx g d x => Sys2Proof.Machine.execMfromx g d x s
  | .mtox g x m => Sys2Proof.Machine.execMtox g x m s
  | .kinit g k c d t => Sys2Proof.Machine.execKinit g k c d t s
  | .kins g k a b m => Sys2Proof.Machine.execKins g k a b m s
  | .kinsi g k a x m => Sys2Proof.Machine.execKinsi g k a x m s
  | .kmrg g k a => Sys2Proof.Machine.execKmrg g k a s
  | .kout g k d => Sys2Proof.Machine.execKout g k d s
  | .klen g k d => Sys2Proof.Machine.execKlen g k d s
  | .kth g k => Sys2Proof.Machine.execKth g k s
  | .kclr g k => Sys2Proof.Machine.execKclr g k s
  | .barx g sh imm o v => Sys2Proof.Machine.execBarx g sh imm o v s
  | .wnop g => Sys2Proof.Machine.execWnop g s
  | .vlds g v sh o m => Sys2Proof.Machine.execVlds g v sh o m s
  | .vsts g v sh o m => Sys2Proof.Machine.execVsts g v sh o m s
  | .vldg g v x m => Sys2Proof.Machine.execVldg g v x m s
  | .vstg g v x m => Sys2Proof.Machine.execVstg g v x m s
  | .vgts g v sh imm m => Sys2Proof.Machine.execVgts g v sh imm m s
  | .vscs g v sh imm m => Sys2Proof.Machine.execVscs g v sh imm m s
  | .vgtg g v x imm m => Sys2Proof.Machine.execVgtg g v x imm m s
  | .vscg g v x imm m => Sys2Proof.Machine.execVscg g v x imm m s
  | .ksave g k sh o => Sys2Proof.Machine.execKsave g k sh o s
  | .kload g k sh o => Sys2Proof.Machine.execKload g k sh o s
  | .kmrgs g k sh o => Sys2Proof.Machine.execKmrgs g k sh o s
  | .pget g v p => Sys2Proof.Machine.execPget g v p s
  | .pput g v p => Sys2Proof.Machine.execPput g v p s
  | .enop g => Sys2Proof.Machine.execEnop g s
  | .mwld g sh o p f => Sys2Proof.Machine.execMwld g sh o p f s
  | .mscl g x h => Sys2Proof.Machine.execMscl g x h s
  | .mstr g sh o t a p f => Sys2Proof.Machine.execMstr g sh o t a p f s
  | .mrank g sh o t f => Sys2Proof.Machine.execMrank g sh o t f s
  | .mout g sh o t c r => Sys2Proof.Machine.execMout g sh o t c r s
  | .mzero g t => Sys2Proof.Machine.execMzero g t s
  | .fcmd g sh o => Sys2Proof.Machine.execFcmd g sh o s
  | .pcmd g sh o => Sys2Proof.Machine.execPcmd g sh o s
  | .pload g sh o => Sys2Proof.Machine.execPload g sh o s
  | .sgdef g sh o => Sys2Proof.Machine.execSgdef g sh o s
  | .sgdrop g sh => Sys2Proof.Machine.execSgdrop g sh s
  | .sgpin g sh => Sys2Proof.Machine.execSgpin g sh s
  | .sgunpin g sh => Sys2Proof.Machine.execSgunpin g sh s
  | .sgpush g sh => Sys2Proof.Machine.execSgpush g sh s
  | .sgpull g sh => Sys2Proof.Machine.execSgpull g sh s
  | .sgstat g sh d => Sys2Proof.Machine.execSgstat g sh d s
  | .sgsplit g a => Sys2Proof.Machine.execSgsplit g a s
  | .tkpost g sh o => Sys2Proof.Machine.execTkpost g sh o s
  | .ldarm g sh o => Sys2Proof.Machine.execLdarm g sh o s
  | .ldread g d a => Sys2Proof.Machine.execLdread g d a s
  | .lddis g a => Sys2Proof.Machine.execLddis g a s
  | .pnop => Sys2Proof.Machine.execPnop s
  | .pend => Sys2Proof.Machine.execPend s
  | .ploopImm n l => Sys2Proof.Machine.execPloopImm n l s
  | .ploopReg a l => Sys2Proof.Machine.execPloopReg a l s
  | .parg d n h => Sys2Proof.Machine.execParg d n h s
  | .padd d a imm => Sys2Proof.Machine.execPadd d a imm s
  | .psetk k t f x sh => Sys2Proof.Machine.execPsetk k t f x sh s
  | .pldx a => Sys2Proof.Machine.execPldx a s
  | .pzer imm n => Sys2Proof.Machine.execPzer imm n s
  | .prow imm a => Sys2Proof.Machine.execProw imm a s
  | .prown imm n a => Sys2Proof.Machine.execPrown imm n a s
  | .psto imm n a => Sys2Proof.Machine.execPsto imm n a s
  | .pstob imm n a => Sys2Proof.Machine.execPstob imm n a s
  | .pwait => Sys2Proof.Machine.execPwait s
  | .pcvt imm n k => Sys2Proof.Machine.execPcvt imm n k s
  | .psig sh imm => Sys2Proof.Machine.execPsig sh imm s
  | .pmov k x y => Sys2Proof.Machine.execPmov k x y s
  | .waitwReread c k => Sys2Proof.Machine.execWaitwReread c k s
  | .supervisorResume c k => Sys2Proof.Machine.execSupervisorResume c k s
  | .resumePrivileged c k entry => Sys2Proof.Machine.execResumePrivileged c k entry s
  | .preemptContext c k => Sys2Proof.Machine.execPreemptContext c k s
  | .fixedLatencyLanding c k => Sys2Proof.Machine.execFixedLatencyLanding c k s
  | .globalLoadArrival c k id bad => Sys2Proof.Machine.execGlobalLoadArrival c k id bad s
  | .isumResult c k id => Sys2Proof.Machine.execIsumResult c k id s
  | .tknextResult c k id => Sys2Proof.Machine.execTknextResult c k id s
  | .sgstatResult c k id => Sys2Proof.Machine.execSgstatResult c k id s
  | .ldreadResult c k id => Sys2Proof.Machine.execLdreadResult c k id s
  | .bankswDecision c k => Sys2Proof.Machine.execBankswDecision c k s
  | .issueRunLimit c => Sys2Proof.Machine.execIssueRunLimit c s
  | .watchdog c k => Sys2Proof.Machine.execWatchdog c k s
  | .longWaitEvent c k => Sys2Proof.Machine.execLongWaitEvent c k s
  | .nprOverrun c k => Sys2Proof.Machine.execNprOverrun c k s
  | .taskPromotion q => Sys2Proof.Machine.execTaskPromotion q s
  | .monitorPublish p => Sys2Proof.Machine.execMonitorPublish p s
  | .matrixCmdStart c => Sys2Proof.Machine.execMatrixCmdStart c s
  | .matrixCmdResume c part => Sys2Proof.Machine.execMatrixCmdResume c part s
  | .mwldComplete c => Sys2Proof.Machine.execMwldComplete c s
  | .mstrComplete c => Sys2Proof.Machine.execMstrComplete c s
  | .moutComplete c => Sys2Proof.Machine.execMoutComplete c s
  | .mzeroComplete c => Sys2Proof.Machine.execMzeroComplete c s
  | .ferryPacketStart c => Sys2Proof.Machine.execFerryPacketStart c s
  | .ringPacketTake c ring => Sys2Proof.Machine.execRingPacketTake c ring s
  | .ferryResume c => Sys2Proof.Machine.execFerryResume c s
  | .ferryReplay c => Sys2Proof.Machine.execFerryReplay c s
  | .ferryPacketComplete c id => Sys2Proof.Machine.execFerryPacketComplete c id s
  | .pierOutboxDeliver c => Sys2Proof.Machine.execPierOutboxDeliver c s
  | .pierCmdStart u => Sys2Proof.Machine.execPierCmdStart u s
  | .pierLoadApply u => Sys2Proof.Machine.execPierLoadApply u s
  | .pierCmdComplete u => Sys2Proof.Machine.execPierCmdComplete u s
  | .ticketService c => Sys2Proof.Machine.execTicketService c s
  | .recallEnd c => Sys2Proof.Machine.execRecallEnd c s
  | .pushOutEnd c => Sys2Proof.Machine.execPushOutEnd c s
  | .compactionMoveEnd c => Sys2Proof.Machine.execCompactionMoveEnd c s
  | .sgdropComplete c => Sys2Proof.Machine.execSgdropComplete c s
  | .sgpinComplete c => Sys2Proof.Machine.execSgpinComplete c s
  | .sgpushComplete c => Sys2Proof.Machine.execSgpushComplete c s
  | .sgpullComplete c => Sys2Proof.Machine.execSgpullComplete c s
  | .sgsplitComplete c => Sys2Proof.Machine.execSgsplitComplete c s
  | .tkpostComplete c id => Sys2Proof.Machine.execTkpostComplete c id s
  | .overflowRefill q => Sys2Proof.Machine.execOverflowRefill q s
  | .deferredPost q => Sys2Proof.Machine.execDeferredPost q s
  | .taskReceipt c k => Sys2Proof.Machine.execTaskReceipt c k s
  | .gangStart q => Sys2Proof.Machine.execGangStart q s
  | .pipeEnlarge c => Sys2Proof.Machine.execPipeEnlarge c s
  | .completionWriteRetry n => Sys2Proof.Machine.execCompletionWriteRetry n s
  | .ldarmArmed c k => Sys2Proof.Machine.execLdarmArmed c k s
  | .landingWriteDeferred c => Sys2Proof.Machine.execLandingWriteDeferred c s
  | .launchCommit c word => Sys2Proof.Machine.execLaunchCommit c word s
  | .controlWindowWrite off data => Sys2Proof.Machine.execControlWindowWrite off data s
  | .featAcceptWrite v => Sys2Proof.Machine.execFeatAcceptWrite v s
  | .noticeAck nrd => Sys2Proof.Machine.execNoticeAck nrd s
  | .mailboxReply => Sys2Proof.Machine.execMailboxReply s
  | .createPartition => Sys2Proof.Machine.execCreatePartition s
  | .loadPatternImage => Sys2Proof.Machine.execLoadPatternImage s
  | .bindAperture => Sys2Proof.Machine.execBindAperture s
  | .unbindAperture => Sys2Proof.Machine.execUnbindAperture s
  | .bindRing => Sys2Proof.Machine.execBindRing s
  | .unbindRing => Sys2Proof.Machine.execUnbindRing s
  | .shootdown => Sys2Proof.Machine.execShootdown s
  | .assignLandingCounters => Sys2Proof.Machine.execAssignLandingCounters s
  | .releaseLandingCounters => Sys2Proof.Machine.execReleaseLandingCounters s
  | .assignPiers => Sys2Proof.Machine.execAssignPiers s
  | .releasePiers => Sys2Proof.Machine.execReleasePiers s
  | .publishMonitors => Sys2Proof.Machine.execPublishMonitors s
  | .freeze => Sys2Proof.Machine.execFreeze s
  | .unfreeze => Sys2Proof.Machine.execUnfreeze s
  | .swapOut => Sys2Proof.Machine.execSwapOut s
  | .swapIn => Sys2Proof.Machine.execSwapIn s
  | .endPartition p => Sys2Proof.Machine.execEndPartition p s
  | .configurePod => Sys2Proof.Machine.execConfigurePod s
  | .stageSupervisorFirmware => Sys2Proof.Machine.execStageSupervisorFirmware s
  | .stageManagementFirmware => Sys2Proof.Machine.execStageManagementFirmware s
  | .stageConfigRecord => Sys2Proof.Machine.execStageConfigRecord s
  | .hostWindowRead place len => Sys2Proof.Machine.execHostWindowRead place len s
  | .hostWindowWrite place data => Sys2Proof.Machine.execHostWindowWrite place data s
  | .atomicFetchadd place wide v => Sys2Proof.Machine.execAtomicFetchadd place wide v s
  | .atomicSwap place wide v => Sys2Proof.Machine.execAtomicSwap place wide v s
  | .atomicCas place size cmp v => Sys2Proof.Machine.execAtomicCas place size cmp v s
  | .moduleReset => Sys2Proof.Machine.execModuleReset s
  | .hotReset link => Sys2Proof.Machine.execHotReset link s
  | .functionLevelReset link => Sys2Proof.Machine.execFunctionLevelReset link s
  | .mgmtDieReset d => Sys2Proof.Machine.execMgmtDieReset d s
  | .mctpControl setEid => Sys2Proof.Machine.execMctpControl setEid s
  | .pldmSensorRead d sensor => Sys2Proof.Machine.execPldmSensorRead d sensor s
  | .pldmFirmwareUpdate which image => Sys2Proof.Machine.execPldmFirmwareUpdate which image s
  | .getVersion => Sys2Proof.Machine.execGetVersion s
  | .getCapabilities => Sys2Proof.Machine.execGetCapabilities s
  | .negotiateAlgorithms => Sys2Proof.Machine.execNegotiateAlgorithms s
  | .getDigests => Sys2Proof.Machine.execGetDigests s
  | .getCertificate slot => Sys2Proof.Machine.execGetCertificate slot s
  | .challenge nonce => Sys2Proof.Machine.execChallenge nonce s
  | .getMeasurements index => Sys2Proof.Machine.execGetMeasurements index s
  | .errorLogRead => Sys2Proof.Machine.execErrorLogRead s
  | .errorLogClear => Sys2Proof.Machine.execErrorLogClear s
  | .setPowerLimit mw => Sys2Proof.Machine.execSetPowerLimit mw s
  | .clockStretchBegin d => Sys2Proof.Machine.execClockStretchBegin d s
  | .clockStretchEnd d => Sys2Proof.Machine.execClockStretchEnd d s
  | .overtempPowerOff d => Sys2Proof.Machine.execOvertempPowerOff d s
  | .flitRetry port => Sys2Proof.Machine.execFlitRetry port s
  | .portFailure port => Sys2Proof.Machine.execPortFailure port s
  | .packageUnreachable pkg => Sys2Proof.Machine.execPackageUnreachable pkg s
  | .memorySideCacheFlush site => Sys2Proof.Machine.execMemorySideCacheFlush site s
  | .pageMigration entry newPa => Sys2Proof.Machine.execPageMigration entry newPa s
  | .pageMigrationEnd => Sys2Proof.Machine.execPageMigrationEnd s
  | .stoppedContextWrite c k r v => Sys2Proof.Machine.execStoppedContextWrite c k r v s
  | .resizableBarWrite log2 => Sys2Proof.Machine.execResizableBarWrite log2 s

end Sys2Proof.Machine
end

