-- ==== Sys2Proof/Machine/Issue.lean ====
section
/-!
DEFINITION. The issue of a bundle (R28, R36 to R45), the look-ahead nullifier (R45) and the choice of the issuing context
(R29).
-/
namespace Sys2Proof.Machine

/-! ### Slots (R37 to R44) -/

/-- The broadcast word's value (R43): a register is read whatever the guards. -/
def State.broadcast (s : State) (b : Bundle) : Except Halt X64 :=
  match b.bw with
  | none => .ok 0
  | some w =>
    match bwReg w with
    | none => .ok ((w.setWidth 31).signExtend 64)
    | some n =>
      let r := physX s.issue.rrb n
      match s.hazard (.x r) with
      | .error (.trap c d _ v) => .error (.trap c d 6 v)
      | .error h => .error h
      | .ok _ => .ok (s.cx.getX r)

/-- The wait of the sync pair, met, observes what the count includes (R44, R191). -/
def State.syncObserves (s : State) (core k : Nat) (b : Bundle) : State :=
  match b.sy with
  | some (w0, _) => if w0.getLsbD 31 then s.modCtx core k fun c => c.observe (s.semNews core (bitsOf w0.toNat 29 22)) else s
  | none => s

/-- The issue of a context's bundle begins. -/
def State.beginIssue (s : State) (core k : Nat) (b : Bundle) : State :=
  let x := s.ctx core k
  let signal := match b.sy with
    | some (w0, w1) => if w0.getLsbD 30 && w1.getLsbD 15 then some (bitsOf w1.toNat 31 24, bitsOf w1.toNat 23 16) else none
    | none => none
  { s with issue := { Issue.none with
    core := core
    ctx := k
    pc := b.pc
    next := b.next
    rep := x.rep
    lastRep := decide (b.rep ≤ x.rep)
    rrb := x.rrb
    mode := x.mode
    pendFlight := x.flight
    pendLoads := x.loads
    npc := b.next
    signal := signal
    ticket := x.ticket.getD (s.core core).nextTicket } }

/-- The byte step of a slot (R41). -/
def slotStep (c : Ctx) (v : SlotView) : X64 :=
  let e := c.sticky.get v.cls
  if !v.has Instr.steps then 0
  else if v.kept then BitVec.ofInt 64 ((e.n + 1 : Nat) * e.step.toInt)
  else BitVec.ofInt 64 ((c.rep : Nat) * c.wstep.toInt)

/-- The state in which a slot runs. -/
def State.slotBegins (s : State) (x : Ctx) (bcast : X64) (v : SlotView) : State :=
  s.modIssue fun j => { j with
    slot := v.cls
    bcast := if v.kept then (x.sticky.get v.cls).bcast else bcast
    step := slotStep x v }

/-- The issue notes the segments that a slot has named (R285). -/
def Issue.names (i j : Issue) : Issue :=
  { i with bundleSet := j.bundleSet, cmdSet := j.cmdSet, defined := j.defined, absent := j.absent }

/-- The issuing context with no uncorrectable error in what it reads. -/
def State.faultless (s : State) : State :=
  ((s.modCx fun c => { c with flaws := [] }).modCcs fun v => { v with flaws := [] }).modIssue fun i =>
    { i with pendLoads := i.pendLoads.filter fun l => !l.bad }

/-- A wait that does not turn on the value of a scalar operand. -/
def Halt.holds : Halt → Bool
  | .trap .. | .blocked .waits | .blocked (.waitw _ _) => false
  | _ => true

/-- What a slot that meets an uncorrectable error would else wait for: a block or a stall comes before the error is raised
(R36, R175, R360). -/
def State.laterWait (s : State) (i : Instr) (h : Halt) : Issue × Halt :=
  match h with
  | .trap 0x0B _ _ _ =>
    match exec i s.faultless with
    | .next t =>
      match t.issue.verdict with
      | some w => (s.issue.names t.issue, if w.holds && t.issue.start.isNone then w else h)
      | none => (s.issue.names t.issue, h)
    | _ => (s.issue, h)
  | _ => (s.issue, h)

/-- One slot: the state after it, or its halt and whether it has started something. After a halt the state is the one
before the slot, with the segments the slot names (R285). -/
def State.runSlot (s : State) (x : Ctx) (bcast : X64) (v : SlotView) : State × Option (Halt × Bool) :=
  match v.instr with
  | none => (s, none)
  | some i =>
    let s1 := s.slotBegins x bcast v
    match exec i s1 with
    | .next t =>
      match t.issue.verdict with
      | none => (t, none)
      | some h =>
        let w := (s1.modIssue fun j => j.names t.issue).laterWait i h
        ({ s1 with issue := { w.1 with start := t.issue.start } }, some (w.2, t.issue.start.isSome))
    | _ => (s1, none)

/-- The slots in slot order (R37). -/
def State.runSlots (x : Ctx) (bcast : X64) : List SlotView → State → List (Halt × Bool) → State × List (Halt × Bool)
  | [], s, hs => (s, hs)
  | v :: r, s, hs =>
    let t := s.runSlot x bcast v
    State.runSlots x bcast r t.1 (hs ++ t.2.toList)

/-- What the slots wait for that take a broadcast value which cannot be read: the bundle is blocked on it whatever the value
(R28, R36). Their effects and their faults are not looked at. -/
def State.broadcastWaits (s : State) (x : Ctx) (l : List SlotView) : State × List (Halt × Bool) :=
  l.foldl (fun a v =>
    let t := a.1.runSlot x 0 v
    (a.1.modIssue fun i => { (i.names t.1.issue) with defined := i.defined }, a.2 ++ t.2.toList.filter fun h => h.1.holds)) (s, [])

/-! ### After the slots -/

/-- The sticky entries after an issue of a bundle's slots (R40, R41). -/
def Ctx.keepSlots (c : Ctx) (bcast : X64) (l : List SlotView) : Ctx :=
  { c with sticky := l.foldl (fun st v =>
      if v.cls = .C then st
      else if v.kept then st.set v.cls { st.get v.cls with n := (st.get v.cls).n + 1 }
      else st.set v.cls ⟨v.word, if v.has Instr.usesB then bcast else 0, c.rep, c.wstep⟩) c.sticky }

/-- Effects in force for the next bundle (R86, R89, R90). -/
def State.applyWrite (core k : Nat) (s : State) (a : After) : State :=
  match a with
  | .cwr crn v => s.crnWrite core k crn v
  | .mode ilk vrm => s.modCtx core k fun c => c.setMode ilk vrm
  | .loopEntry => s.modCtx core k Ctx.enterRotation
  | _ => s

/-- What ends the context's run of its code (R91, R267, R347, R349, R350). -/
def State.applyEnd (core k : Nat) (s : State) (a : After) : State :=
  match a with
  | .halt => s.retire core k .halted
  | .tkdone => s.retire core k .idle
  | .tkwait => s.retire core k .idle
  | .trap imm => s.takeTrap core k 0x0D 0 0 imm (s.ctx core k).pc 0
  | .service imm =>
    let pc := (s.ctx core k).pc
    (s.modCtx core k fun c => { c with tpc := BitVec.ofNat 64 pc, stop := some ⟨.service, pc, 0⟩ }).notice 4 (s.partOf core) core
      [(8, leBytes 1 k), (9, leBytes 1 imm), (16, leBytes 8 pc)]
  | .tret => s.returnFrom core k
  | .eret => s.returnFrom core k
  | _ => s

/-- The region's count after an issue (R357). -/
def countRegion (before : Ctx) (npre : Bool) (after : Option Nat) : Option Nat :=
  if before.region.isSome && before.held.isEmpty && !npre then after.map (· + 1) else after

/-- The PC and the loops after the bundle (R42, R83, R87). -/
def Ctx.advance (c : Ctx) (i : Issue) : Ctx :=
  if !i.lastRep then { c with rep := c.rep + 1 }
  else if i.taken then { c with rep := 0, pc := i.npc }
  else
    let r := c.closeLoops c.loops i.npc
    { r.1 with rep := 0, pc := r.2 }

/-- The tickets after an issue (R284): one is drawn where a segment is named, the command keeps it, the bundle's ends. -/
def Core.settleTicket (v : Core) (i : Issue) (waiting : Option Nat) : Core :=
  { v with
    nextTicket := if i.named then Nat.max v.nextTicket (i.ticket + 1) else v.nextTicket
    cur := if i.drawn then v.cur else v.cur.endTicket waiting }

/-- The signal of the sync pair that is made at issue (R44). -/
def Bundle.signalNow (b : Bundle) (i : Issue) : Option (Nat × Nat) :=
  match b.sy with
  | some (w0, w1) =>
    if w0.getLsbD 30 && !(w1.getLsbD 15 && i.issuedCmd) then some (bitsOf w1.toNat 31 24, bitsOf w1.toNat 23 16) else none
  | none => none

/-- The bundle issues: `x` is its context before it, `t` the state after its slots. A CWR to RRB in the bundle that closes a
rotating loop writes RRB before the close rotates the written bases (log 17: R61 and R87 give no order). -/
def State.commit (t : State) (x : Ctx) (b : Bundle) (l : List SlotView) (bcast : X64) : State :=
  let core := t.issue.core
  let k := t.issue.ctx
  let i := t.issue
  let t1 := match b.signalNow i with
    | some e => t.modCS core fun v => v.addSem e.1 e.2
    | none => t
  let t2 := t1.modCore core fun v => v.settleTicket i x.ticket
  let t3 := t2.modCtx core k fun c => { (c.keepSlots bcast l) with
    bcount := c.bcount + 1
    region := countRegion x (holdsNpre l) c.region
    barAt := if c.arrivals.isEmpty then c.barAt else (b.pc, x.rep)
    ticket := none
    wait := if c.arrivals.isEmpty then .none else .barrier
    waitCycles := 0
    waitCounted := false }
  let t4 := i.after.foldl (State.applyWrite core k) t3
  let t5 := t4.modCtx core k fun c =>
    let c1 := (c.advance i).stepBundles
    if c1.mode.ilk && !x.mode.ilk then c1.landBundles else c1
  i.after.foldl (State.applyEnd core k) t5

/-! ### The attempt to issue (R28, R36) -/

/-- What comes of a context's next bundle in a cycle. -/
inductive Tried where
  | notReady
  | blocked (s : State) (r : WaitReason)
  | issued (s : State)
  | stalled (s : State)
  | trapped (s : State)

/-- A context whose next bundle may be fetched. -/
def Ctx.mayFetch (c : Ctx) (cycle : Nat) : Bool :=
  decide (c.run = .running) && c.stop.isNone && !c.frozen && !c.parked && !c.swapStop && c.arrivals.isEmpty
    && decide (c.readyAt ≤ cycle)

/-- A bundle blocked on a segment: its ticket is drawn or keeps its number, and is parked (R159, R284, R286). -/
def State.parkBundle (s : State) (core k : Nat) (i : Issue) : State :=
  let s1 := s.modCore core fun v =>
    { v with
      nextTicket := Nat.max v.nextTicket (i.ticket + 1)
      cur := { v.cur with tickets := (v.cur.tickets.filter fun t => t.num != i.ticket)
        ++ [⟨i.ticket, i.bundleSet, i.cmdSet, false, true, [], false, false, false, false, i.defined⟩] } }
  s1.modCtx core k fun c => { c with ticket := some i.ticket }

/-- A bundle blocked for another reason is not parked (R286). -/
def State.unparkBundle (s : State) (core k : Nat) : State :=
  match (s.ctx core k).ticket with
  | none => s
  | some n => s.modCS core fun v => v.modTicket n fun t => { t with parked := false }

/-- A trap of the bundle of a context. -/
def State.trapBundle (s : State) (core k : Nat) (x : Ctx) (h : Halt) : Tried :=
  match h with
  | .trap cause dcode slot value => .trapped (s.takeTrap core k cause dcode slot value x.pc x.rep)
  | .blocked r => .blocked s r
  | .stalled => .stalled s

/-- The reason among the halts for which the bundle is blocked, segments apart; a PSTOP that starts comes last. -/
def blockOf (hs : List (Halt × Bool)) : Option WaitReason :=
  hs.findSome? fun h => match h with
    | (.blocked .segment, _) => none
    | (.blocked r, false) => some r
    | _ => none

/-- A slot stalls. -/
def stallOf (hs : List (Halt × Bool)) : Bool := hs.any fun h => match h with
  | (.stalled, false) => true
  | _ => false

/-- A trap is the known set's overflow, raised where the whole set exceeds SGQUOTA (R285). -/
def setTrap (exceeds : Bool) : Halt → Bool
  | .trap 8 _ _ _ => exceeds
  | _ => false

/-- The first trap of the slots, the known set's overflow apart. -/
def trapOf (exceeds : Bool) (hs : List (Halt × Bool)) : Option Halt :=
  hs.findSome? fun h => match h.1 with
    | .trap c d n v => if setTrap exceeds h.1 then none else some (.trap c d n v)
    | _ => none

/-- The trap of an overflow: the first slot that exceeds, the whole sum (R343). -/
def overTrap (hs : List (Halt × Bool)) (sum : Nat) : Halt :=
  match hs.find? fun h => setTrap true h.1 with
  | some (.trap c d n _, _) => .trap c d n sum
  | _ => .trap 8 0 7 sum

/-- The bundle's outcome once its slots have run (R28, R36, R100, R159, R274, R285, R357). `s` is the state before it. -/
def State.decideIssue (s t : State) (core k : Nat) (x : Ctx) (b : Bundle) (l : List SlotView) (bcast : X64)
    (hs : List (Halt × Bool)) : Tried :=
  let i := t.issue
  let sum := (s.cs core).issueSum i
  let exceeds := decide ((s.cs core).quota < sum) && i.named
  let overrun := x.overruns && !holdsNpre l
  let fault := fun (h : Halt) => if overrun then Tried.trapped (s.overrun core k) else s.trapBundle core k x h
  match blockOf hs with
  | some r => .blocked (s.unparkBundle core k) r
  | none =>
    if i.absent then (if exceeds then fault (overTrap hs sum) else .blocked (s.parkBundle core k i) .segment)
    else if stallOf hs then .stalled s
    else
      match i.start with
      | some (.banksw w) => .stalled (s.modCtx core k fun c => { c with bank := some w })
      | some (.pstop target) => .blocked (s.beginDrain target) .pstop
      | none =>
        if overrun then .trapped (s.overrun core k)
        else
          match trapOf exceeds hs with
          | some h => s.trapBundle core k x h
          | none => if exceeds then s.trapBundle core k x (overTrap hs sum) else .issued (t.commit x b l bcast)

/-- Entries counted in cycles hold an exposed-mode context (R69). -/
def Ctx.modeStalls (c : Ctx) : Bool := !c.mode.ilk && c.flight.any fun e => e.cycles

/-- A context that stalls for a change of ILK holds its core, at a barrier too (R69). -/
def Ctx.holdsCore (c : Ctx) : Bool :=
  c.modeStalls && decide (c.run = .running) && c.stop.isNone && !c.frozen && !c.swapStop

/-- A context's next bundle in this cycle. Where the broadcast register cannot be read, the slots that do not take its value
are asked for blocks, stalls and faults of their own, the others for what they wait for (R28, R36, R43). -/
def State.tryIssue (s : State) (core k : Nat) : Tried :=
  let x := s.ctx core k
  if !x.mayFetch s.cycle.toNat then .notReady
  else
    match (s.cs core).fetch x with
    | .error h => s.trapBundle core k x h
    | .ok b =>
      match b.check x.mode.priv (s.feature core) with
      | some h => s.trapBundle core k x h
      | none =>
        if x.modeStalls then .stalled s
        else if s.syncWaits core b then .blocked (s.unparkBundle core k) .sync
        else
          let s1 := ((s.syncObserves core k b).beginIssue core k b).modCS core fun v => { v with yielded := false }
          let l := b.views
          match s1.broadcast b with
          | .ok bcast =>
            let r := State.runSlots x bcast l s1 []
            s.decideIssue r.1 core k x b l bcast r.2
          | .error h =>
            let takes := fun (v : SlotView) => !v.kept && v.has Instr.usesB
            let w := s1.broadcastWaits x (l.filter takes)
            let r := State.runSlots x 0 (l.filter fun v => !takes v) w.1 w.2
            s.decideIssue r.1 core k x b l 0 (r.2 ++ [(h, false)])

/-! ### The look-ahead nullifier (R45) and a return to a withdrawn arrival (R94) -/

/-- A register is the pending destination of an earlier bundle. -/
def Ctx.pending (c : Ctx) (r : Reg) : Bool :=
  c.flight.any (fun e => decide (e.reg = r)) || c.loads.any fun l => l.dests.any fun d => decide (d.1 = r)

/-- A slot that surely does nothing. -/
def Ctx.slotNull (c : Ctx) (v : SlotView) : Bool :=
  match v.instr with
  | none => false
  | some i =>
    let r := physP c.rrb i.guard
    !i.isSel && !c.getP r && !c.pending (.p r)

/-- A bundle is null. -/
def Ctx.isNull (c : Ctx) (b : Bundle) : Bool :=
  !b.slots.isEmpty && b.sy.isNone && b.views.all (fun v => c.slotNull v)
    && (match b.bw.bind bwReg with
      | some n => !c.pending (.x (physX c.rrb n))
      | none => true)

/-- The broadcast value of a skipped repetition (R43). -/
def Ctx.nullBroadcast (c : Ctx) (b : Bundle) : X64 :=
  match b.bw with
  | none => 0
  | some w => match bwReg w with
    | none => (w.setWidth 31).signExtend 64
    | some n => c.getX (physX c.rrb n)

/-- A null bundle is skipped with the repetitions it has left: step indices advance, and a loop that ends there closes. -/
def Ctx.skip (c : Ctx) (b : Bundle) : Ctx :=
  let c1 := (countFrom c.rep (b.rep + 1 - c.rep)).foldl (fun d n => { d with rep := n }.keepSlots (c.nullBroadcast b) b.views) c
  let r := c1.closeLoops c1.loops b.next
  { r.1 with rep := 0, pc := r.2 }

/-- A context back at the bundle, at the level of handlers, whose arrivals WATCHDOG withdrew (R94). -/
def Ctx.returned (c : Ctx) (cycle : Nat) : Bool :=
  match c.withdrawn with
  | [] => false
  | w :: _ => c.mayFetch cycle && w.level == c.held.length && c.pc == w.pc && c.rep == w.rep

/-- Null bundles of a context are skipped, one after another. -/
def State.skipNulls (core k : Nat) : Nat → State → State
  | 0, s => s
  | n + 1, s =>
    let x := s.ctx core k
    if !x.mode.ilk || !x.mayFetch s.cycle.toNat || x.returned s.cycle.toNat then s
    else
      match (s.cs core).fetch x with
      | .error _ => s
      | .ok b =>
        if (b.check x.mode.priv (s.feature core)).isSome || !x.isNull b then s
        else State.skipNulls core k n (s.modCtx core k fun c => c.skip b)

/-- More null bundles than any context skips one after another: each lies at least a word further on in 2^15 words of code,
but where a loop closes, and a close takes from the LC or EC of one of four levels that no null bundle sets again (R84,
R87). -/
def nullFuel : Nat := 2 ^ 52

/-- An arrival may be made again: a BARX meets no other operation (R94, R153). -/
def State.mayArrive (s : State) (a : Arrival) : Bool :=
  match a.barx with
  | none => true
  | some (op, _, _) => (s.barrier a.key).op.getD op == op

/-- A context at the level of handlers at which arrivals were withdrawn, but at another bundle: they are forgotten (R94). -/
def Ctx.forget (c : Ctx) (cycle : Nat) : Ctx :=
  match c.withdrawn with
  | [] => c
  | w :: r => if c.mayFetch cycle && w.level == c.held.length && !c.returned cycle then { c with withdrawn := r } else c

/-- A context back at the bundle of withdrawn arrivals makes them again and goes on where it stood (R94); a BARX that meets
another operation traps (R153). -/
def State.rearrive (s : State) (core k : Nat) : State :=
  let x := s.ctx core k
  match x.withdrawn with
  | [] => s
  | w :: r =>
    if !x.returned s.cycle.toNat then s
    else if w.arrivals.all fun a => s.mayArrive a then
      let s1 := s.modCtx core k fun c => { c with withdrawn := r, pc := w.contPc, rep := w.contRep, barAt := (w.pc, w.rep) }
      w.arrivals.foldl (fun t a => t.arriveBar core k a) s1
    else s.takeTrap core k 2 5 2 0 x.pc x.rep

/-! ### The issuing context (R29) -/

/-- A context's wait as this cycle finds it (R62, R275). -/
def Ctx.noteWait (c : Ctx) (r : WaitReason) : Ctx :=
  if c.wait = r then { c with waitCycles := c.waitCycles + 1 }
  else { c with wait := r, waitCycles := 1, waitCounted := false }

/-- Each context's bundle is tried, waits are noted, and the ready contexts are listed; one that makes withdrawn arrivals
again issues nothing. -/
def State.survey (core : Nat) : List Nat → State × List Nat → State × List Nat
  | [], a => a
  | k :: r, (s, ready) =>
    State.survey core r (if (s.ctx core k).returned s.cycle.toNat then (s, ready)
      else match s.tryIssue core k with
        | .notReady => (s, ready)
        | .blocked t w => (t.modCtx core k fun c => c.noteWait w, ready)
        | _ => (s.modCtx core k fun c => { c with wait := .none, waitCycles := 0, waitCounted := false }, ready ++ [k]))

/-- The order of selection: the last issuer goes on until it stops being ready, issues YIELD or reaches the run limit. -/
def CoreState.order (v : CoreState) (ready : List Nat) : List Nat :=
  let last := v.lastIssuer
  let search := [(last + 1) % 4, (last + 2) % 4, (last + 3) % 4, last]
  let limit := decide (65536 ≤ v.runCount) && (v.ctx last).rep == 0 && ready.any fun k => k != last
  if v.yielded || v.runOver || limit then search else last :: search

/-- The last issuer's run is over once it is not ready (R29). -/
def CoreState.noteRun (v : CoreState) (ready : List Nat) : CoreState :=
  { v with runOver := v.runOver || !ready.contains v.lastIssuer }

/-- The bundles in a row after an issue of a context. -/
def CoreState.countRun (before after : CoreState) (k : Nat) : CoreState :=
  { after with
    lastIssuer := k
    runOver := false
    runCount := if k = before.lastIssuer ∧ ¬ before.yielded then before.runCount + 1 else 1 }

/-- A stall keeps its context selected (R66). -/
def CoreState.stall (v : CoreState) (k : Nat) : CoreState :=
  { v with
    lastIssuer := k
    runOver := false
    runCount := if k = v.lastIssuer ∧ ¬ v.yielded then v.runCount else 0
    yielded := false
    mon := { v.mon with stalled := v.mon.stalled + 1 } }

/-- The selected context's bundle acts. -/
def State.act (s : State) (core k : Nat) : State :=
  let v := s.cs core
  match s.tryIssue core k with
  | .issued t => t.modCS core fun w => { v.countRun w k with mon := { w.mon with issued := w.mon.issued + 1 } }
  | .stalled t => t.modCS core fun w => w.stall k
  | .trapped t => t
  | _ => if (s.ctx core k).holdsCore then s.modCS core fun w => w.stall k else s

/-- The state in which a core chooses the context that issues, and the contexts that are ready (R29, R32, R45, R94). -/
def State.surveyed (s : State) (core : Nat) : State × List Nat :=
  let s1 := s.modCS core fun v => (List.range 4).foldl CoreState.settlePreempt v
  let s2 := (List.range 4).foldl (fun t k =>
    State.skipNulls core k nullFuel (t.modCtx core k fun c => c.forget t.cycle.toNat)) s1
  let r := State.survey core (List.range 4) (s2, [])
  (r.1.modCS core fun v => v.noteRun r.2, r.2)

/-- A context in WAITW reads its word again (R92). -/
def State.reread (s : State) (core k : Nat) : State :=
  match exec (.waitwReread (BitVec.ofNat 9 core) (BitVec.ofNat 2 k)) s with
  | .next t => t
  | _ => s

/-- The context whose bundle acts: one that stalls for a change of ILK holds the core (R69). -/
def State.chosen (s : State) (core : Nat) (ready : List Nat) : Option Nat :=
  match [0, 1, 2, 3].find? fun k => (s.ctx core k).holdsCore with
  | some k => some k
  | none => ((s.cs core).order ready).find? fun k => ready.contains k

/-- A core stalls for the landing of step 2 of a trap entry (R344). -/
def State.entryStalls (s : State) (core : Nat) : Bool :=
  decide ((s.cs core).stallTo ≠ 0) && decide (s.cycle.toNat ≤ (s.cs core).stallTo)

/-- What contexts that issue nothing do in a cycle, in their order: withdrawn arrivals are made again, WAITW reads again
(R92, R94). -/
def State.waitTurn (s : State) (core : Nat) (l : List Nat) : State := l.foldl (fun t k => (t.rearrive core k).reread core k) s

/-- A core's turn in a cycle (R28, R29). Each context's accesses come in context order, those of a WAITW among them: what it
reads takes effect in the next cycle (R153, R186). In a stall of a trap entry the core issues nothing (R344). -/
def State.issueTurn (s : State) (core : Nat) : State :=
  let r := s.surveyed core
  if s.entryStalls core then
    (r.1.waitTurn core (List.range 4)).modCS core fun w => { w with mon := { w.mon with stalled := w.mon.stalled + 1 } }
  else match r.1.chosen core r.2 with
    | some k => ((r.1.waitTurn core (List.range k)).act core k).waitTurn core (countFrom (k + 1) (3 - k))
    | none => (r.1.waitTurn core (List.range 4)).modCS core fun w => { w with mon := { w.mon with noneReady := w.mon.noneReady + 1 } }

end Sys2Proof.Machine
end

