-- ==== Sys2Proof/Machine/Schedule.lean ====
section
/-!
DEFINITION. The turns of a cycle (log 2): results that are due, the issue of each core, one instruction of each pier,
what engines, supervisor and management do by themselves, and the end of the cycle.
-/
namespace Sys2Proof.Machine

/-- Releases that follow from one another. -/
def releaseFuel : Nat := 64

/-- Everything that an effect brings about at once: landing actions and barrier releases (R94, R320, R321). -/
def State.settle (s : State) : State := (s.runActions actionFuel).releaseAll releaseFuel

/-- The state after an outcome, with what it brings about; an event that has none leaves the state. -/
def State.after (s : State) (o : Host.Outcome State Fault Refusal) : State :=
  match o with
  | .next t => t.settle
  | _ => s

/-- An event happens. -/
def State.fire (s : State) (i : Instr) : State := s.after (exec i s)

/-- Events happen one after another. -/
def State.fireAll (s : State) (l : List Instr) : State := l.foldl State.fire s

/-- Cores that run a partition, in ascending number. -/
def State.liveCores (s : State) : List Nat := s.coreNums.filter fun c => (s.cs c).part.isSome

/-- The four contexts. -/
def ctxNums : List Nat := [0, 1, 2, 3]

/-! ### Results (R67, R68, R99) -/

/-- The event that delivers an outstanding result now, if one does. -/
def Load.arrival (l : Load) (core k cycle : Nat) : Option Instr :=
  let c := BitVec.ofNat 9 core
  let x := BitVec.ofNat 2 k
  match l.kind with
  | .memory | .segment => if l.bad then none else some (.globalLoadArrival c x l.id false)
  | .isum => if l.due ≤ cycle then some (.isumResult c x l.id) else none
  | .tknext => some (.tknextResult c x l.id)
  | .sgstat => some (.sgstatResult c x l.id)
  | .ldread => some (.ldreadResult c x l.id)

/-- What arrives in a context. -/
def Ctx.arrivals_ (x : Ctx) (core k cycle : Nat) : List Instr :=
  (if x.flight.any fun e => e.cycles && e.left == 0 then [.fixedLatencyLanding (BitVec.ofNat 9 core) (BitVec.ofNat 2 k)] else [])
    ++ x.loads.filterMap fun l => l.arrival core k cycle

/-- What is due in every context of the running cores. -/
def State.arrivalsTurn (s : State) : State :=
  s.fireAll (s.liveCores.flatMap fun c => ctxNums.flatMap fun k => (s.ctx c k).arrivals_ c k s.cycle.toNat)

/-! ### Piers (R254 to R258) -/

/-- The end of a loop body: the body runs again while PL is not 0 (R256). -/
def Pier.closeLoop (p : Pier) (r : PierRun) : Pier × PierRun :=
  match r.body with
  | some (first, stop) =>
    if r.pc = stop then
      (if p.pl = 0 then (p, { r with body := none }) else ({ p with pl := p.pl - 1 }, { r with pc := first }))
    else (p, r)
  | none => (p, r)

/-- One instruction of a pier's command: a PC past the buffer and an undecodable word end it (R255, R258). -/
def State.pierTurn (s : State) (u : Nat) : State :=
  let p := s.pier u
  match p.run with
  | none => s
  | some r =>
    let e := p.closeLoop r
    let at_ := fun (run : PierRun) => s.modPier u fun _ => { e.1 with run := some run }
    if 255 < e.2.pc then (at_ e.2).pierEnd u illegalOp
    else
      match decode .P (p.words.read 0 e.2.pc) with
      | .error _ => (at_ e.2).pierEnd u illegalOp
      | .ok i => ((at_ { e.2 with pc := e.2.pc + 1 }).modIssue fun j => { j with slot := .P, pier := u }).fire i

/-! ### Engines of a core -/

/-- Rows that are due land, and a stream whose last row has landed completes. -/
def State.landDueRows (s : State) (core : Nat) : State :=
  (s.modCS core fun v => CoreState.landRows v s.cycle.toNat v.rows.length).fire (.mstrComplete (BitVec.ofNat 9 core))

/-- The matrix unit's cycle (R211 to R222). DESIGN CHOICE (log 34): an MOUT still runs in the cycle in which it completes, so
that a stream on its tile starts in the next cycle at the earliest. -/
def State.matrixTurn (s : State) (core : Nat) : State :=
  let c := BitVec.ofNat 9 core
  let now := s.cycle.toNat
  let s1 := (s.modCS core fun v => v.settleLatches now).fireAll [.mwldComplete c, .mzeroComplete c]
  let s2 := s1.modCS core fun v => v.freeArray now
  let s2 := s2.fireAll (([MatrixPart.load, .array, .drain].filter fun p => (s2.cs core).resumable p).map (.matrixCmdResume c)
    ++ [.matrixCmdStart c, .matrixCmdStart c, .matrixCmdStart c])
  let s2 := [MatrixPart.load, .array, .drain].foldl (fun t p => t.matrixError core p) s2
  let s3 := s2.modCS core fun v => ((v.partCycle now .load).partCycle now .array).partCycle now .drain
  ((s3.fire (.moutComplete c)).landDueRows core).landDueRows core

/-- The ferry's cycle (R240, R242). -/
def State.ferryTurn (s : State) (core : Nat) : State :=
  let c := BitVec.ofNat 9 core
  let s1 := s.fireAll [.ferryResume c, .ferryPacketStart c, .ringPacketTake c 0, .ringPacketTake c 1, .ringPacketTake c 2,
    .ringPacketTake c 3]
  let s2 := (s1.ferryCycle core).settle
  s2.fireAll ((s2.cs core).ferryDone.map fun d => .ferryPacketComplete c d.run.pkt.tag.id)

/-- TKPOST commands of a core that wait for their completion event (R264). -/
def State.postsOf (s : State) (core : Nat) : List Nat :=
  s.quads.flatMap fun q => q.2.posts.filterMap fun p => match p.tag with
    | some (c, tag) => if c = core then some tag.id else none
    | none => none

/-- The segment manager and what else a core does by itself. -/
def State.coreTurn (s : State) (core : Nat) : State :=
  let c := BitVec.ofNat 9 core
  let s1 := ((s.matrixTurn core).ferryTurn core).fire (.pierOutboxDeliver c)
  let held := (s1.cs core).move.any SmMove.waits
  let s2 := s1.fireAll ((if held then [] else [.recallEnd c, .pushOutEnd c, .compactionMoveEnd c])
    ++ [.sgdropComplete c, .sgpinComplete c, .sgpushComplete c, .sgpullComplete c, .sgsplitComplete c, .ticketService c])
  let s3 := s2.fireAll ((s2.postsOf core).map fun id => .tkpostComplete c id)
  let s4 := s3.fire (.landingWriteDeferred c)
  let s5 := s4.fireAll (ctxNums.flatMap fun k =>
    let x := BitVec.ofNat 2 k
    [.bankswDecision c x, .ldarmArmed c x, .longWaitEvent c x])
  (s5.fireAll [.issueRunLimit c, .pipeEnlarge c]).modCS core CoreState.drainStep

/-! ### Supervisor, quads and host -/

/-- Quads with a running core or with state of their own. -/
def State.quadNums (s : State) : List Nat := (s.quads.map (·.1)).foldl addTo ((s.liveCores.map quadOf).foldl addTo [])

/-- A quad's events: records reach the queue, and idle contexts receive parts in ascending number, a gang where the core's
contexts 0, 1 and 2 come to its record (R25, R27, R263, R269). -/
def State.quadTurn (s : State) (q : Nat) : State :=
  let b := BitVec.ofNat 7 q
  let s1 := s.fireAll [.overflowRefill b, .deferredPost b, .taskPromotion b]
  s1.fireAll ((countFrom (4 * q) 4).flatMap fun core =>
    if (s1.cs core).part.isSome then
      .gangStart b :: ctxNums.map fun k => .taskReceipt (BitVec.ofNat 9 core) (BitVec.ofNat 2 k)
    else [])

/-- The event of the mailbox request that waits (R373), the end of a partition apart. -/
def State.requestEvent (s : State) : Option Instr :=
  match s.reqOp with
  | 1 => some .createPartition
  | 2 => some .loadPatternImage
  | 3 => some (if s.payBits 4 4 = 1 then .bindAperture else .unbindAperture)
  | 4 => some (if s.payBits 19 19 = 1 then .bindRing else .unbindRing)
  | 5 => some .shootdown
  | 6 => some (match s.payBits 9 8 with
    | 0 => .releaseLandingCounters
    | 1 => .releasePiers
    | 2 => .assignLandingCounters
    | _ => .assignPiers)
  | 7 => some .publishMonitors
  | 8 => some (if s.payBits 8 8 = 1 then .freeze else .unfreeze)
  | 9 => some (match s.payBits 9 8 with
    | 1 => .swapIn
    | _ => .swapOut)
  | 10 => some .configurePod
  | 11 => some (match s.payBits 9 8 with
    | 1 => .stageManagementFirmware
    | 2 => .stageConfigRecord
    | _ => .stageSupervisorFirmware)
  | _ => none

/-- The supervisor handles the request that waits. -/
def State.requestTurn (s : State) : State :=
  if !s.reqWaits then s
  else if s.reqOp == 9 && s.payBits 9 8 == 2 then s.after (execEndPartition (BitVec.ofNat 8 (s.payBits 7 0)) s)
  else s.fireAll s.requestEvent.toList

/-- No engine of a core has a command in flight. -/
def CoreState.enginesIdle (v : CoreState) : Bool :=
  v.ctxs.toList.all (fun c => c.inflight.isEmpty) && v.mq.isEmpty && v.load.isNone && v.array.isNone && v.drain.isNone
    && v.rows.isEmpty && v.fq.isEmpty && v.ferry.isNone && v.ferryDone.isEmpty && v.outbox.isEmpty && v.smq.isEmpty

/-- A partition is finished (R33). -/
def State.isFinished (s : State) (part : Nat) (p : Partition) : Bool :=
  (p.cores.all fun c => match s.partState c part with
    | none => true
    | some v => decide (v.busyMask = 0) && v.enginesIdle)
    && s.quads.all (fun q => q.2.queue.all (fun r => r.part != part) && (q.2.rings.read [] part).isEmpty
      && q.2.posts.all (fun w => w.part != part)
      && q.2.orphans.all fun o => (s.tasks.get o.1).all fun t => t.part != part)
    && s.piers.all fun u => u.2.queue.all (fun c => c.part != part) && (u.2.run.all fun r => r.cmd.part != part)
      && u.2.done.all fun d => d.cmd.part != part

/-- A partition that has become finished is reported once (R33, R375). -/
def State.noteFinished (s : State) (part : Nat) : State :=
  match s.partitions.get part with
  | none => s
  | some p =>
    let f := s.isFinished part p
    if f = p.finished then s
    else
      let s1 : State := { s with partitions := s.partitions.put part { p with finished := f } }
      if f then s1.notice 1 part 0 [] else s1

/-- The engines' turn. -/
def State.enginesTurn (s : State) : State :=
  let s1 := s.liveCores.foldl State.coreTurn s
  let s2 := (s1.piers.map (·.1)).foldl (fun t u =>
    t.fireAll [.pierCmdComplete (BitVec.ofNat 10 u), .pierLoadApply (BitVec.ofNat 10 u), .pierCmdStart (BitVec.ofNat 10 u)]) s1
  let s3 := s2.quadNums.foldl State.quadTurn s2
  let s5 := s3.requestTurn.fire .mailboxReply
  let s6 := if s5.cycle.toNat % 65536 = 0 then
      s5.fireAll (s5.partitions.map fun p => .monitorPublish (BitVec.ofNat 8 p.1))
    else s5
  let s7 := s6.fire .pageMigrationEnd
  -- a release of the cycle wins over a timeout (R94)
  let s8 := s7.fireAll (s7.liveCores.flatMap fun core => ctxNums.map fun k => .watchdog (BitVec.ofNat 9 core) (BitVec.ofNat 2 k))
  (s8.partitions.map (·.1)).foldl State.noteFinished s8

/-! ### The end of a cycle -/

/-- A cycle of a context: entries counted in cycles step, and a wait at a barrier grows (R68, R94, R359). -/
def Ctx.tick (x : Ctx) : Ctx :=
  let y := x.stepCycle
  if y.arrivals.isEmpty || y.frozen || y.stop.isSome then y else { y with barCycles := y.barCycles + 1 }

/-- A soft error strikes (R360): a corrected one is counted, another stands in its word. -/
def State.struck (s : State) : Strike → State
  | .sram d => s.modDie d fun v => { v with softcor := v.softcor + 1 }
  | .dram n => s.modSite n fun v => { v with dramCor := v.dramCor + 1 }
  | .reg c k r => s.modCtx c k fun x => { x with flaws := r :: x.flaws }
  | .core c f => s.modCS c fun v => { v with flaws := f :: v.flaws }
  | .shadow c f => s.modCore c fun v => { v with shadow := v.shadow.map fun w => { w with flaws := f :: w.flaws } }
  | .word w => { s with flaws := w :: s.flaws }

/-- The soft errors of the cycle that ends (R360, log 43). -/
def State.strikeAll (s : State) : State :=
  let due := s.strikes.filter fun e => decide (e.1 ≤ s.cycle.toNat)
  due.foldl (fun t e => t.struck e.2) { s with strikes := s.strikes.filter fun e => !decide (e.1 ≤ s.cycle.toNat) }

/-- The end of a cycle: increments of completion events are made (R314), and CYCLE counts (R62). -/
def State.tickTurn (s : State) : State :=
  let s1 := s.liveCores.foldl (fun t c => t.modCS c fun v => { v.settleSems with ctxs := v.settleSems.ctxs.map Ctx.tick }) s
  { s1.strikeAll with cycle := s1.cycle + 1 }

/-! ### Turns -/

/-- What a turn does. -/
def State.turn (s : State) : Turn → State
  | .arrivals => s.arrivalsTurn.settle
  | .issue core => (s.issueTurn core).settle
  | .pier u => s.pierTurn u
  | .engines => s.enginesTurn.settle
  | .tick => s.tickTurn

/-- The turns of a new cycle after its arrivals. -/
def State.cycleTurns (s : State) : List Turn :=
  s.liveCores.map Turn.issue
    ++ (s.piers.filter fun p => p.2.run.isSome).map (fun p => Turn.pier p.1) ++ [.engines, .tick]

/-- The machine's next turn. -/
def State.nextTurn (s : State) : State :=
  match s.todo with
  | [] => State.turn { s with todo := s.cycleTurns } .arrivals
  | t :: r => State.turn { s with todo := r } t

/-- The link of a host access through the device-memory window (R367). -/
def Instr.windowLink (i : Instr) : Option Bool :=
  match i with
  | .hostWindowRead p .. | .hostWindowWrite p .. | .atomicFetchadd p .. | .atomicSwap p .. | .atomicCas p .. => some p.link
  | _ => none

/-- Every context has had its turn in the cycle under way. -/
def State.contextsDone (s : State) : Bool :=
  !s.todo.isEmpty && s.todo.all fun t => match t with
    | .arrivals | .issue _ => false
    | _ => true

/-- The first of the window accesses that stand at the head of the agenda to come from link 0, with the agenda it leaves. -/
def linkZeroFirst : List Instr → Option (Instr × List Instr)
  | [] => none
  | i :: r =>
    match Instr.windowLink i with
    | none => none
    | some false => some (i, r)
    | some true => (linkZeroFirst r).map fun e => (e.1, i :: e.2)

/-- The step from outside that comes next, with the agenda it leaves: a window access of the host comes after every context of
its cycle, and one of link 0 before those of link 1 (R186, R367). -/
def State.nextEvent (s : State) : Option (Instr × List Instr) :=
  match s.agenda with
  | [] => none
  | i :: r =>
    if (Instr.windowLink i).isNone then some (i, r)
    else if s.mgmt.powered && !s.contextsDone then none
    else some ((linkZeroFirst (i :: r)).getD (i, r))

/-- An attempt to issue tells whether a context's bundle would issue beyond its region's limit (R357). -/
def State.wouldIssue (s : State) (core k : Nat) : Bool :=
  !s.entryStalls core && match s.tryIssue core k with
    | .trapped _ => true
    | _ => false

/-- A step from outside: slot and pier instructions are no such step, and NPR_OVERRUN is raised where the bundle would
issue. -/
def outside (i : Instr) (s : State) : Host.Outcome State Fault Refusal :=
  if i.code.isSome then .next s
  else
    match i with
    | .nprOverrun c k =>
      let note := fun (b : Bool) (t : State) => t.modCtx c.toNat k.toNat fun x => { x with wouldIssue := b }
      .next (note false (((note (s.wouldIssue c.toNat k.toNat) s).fire i)))
    | _ =>
      match exec i s with
      | .next t => .next t.settle
      | o => o

/-! ### One instruction, placed and next to run -/

/-- A context with a bundle at address 0 to run (log 3). -/
def Ctx.placed (x : Ctx) (priv : Bool) : Ctx :=
  { x with
    run := .running
    pc := 0
    rep := 0
    mode := { x.mode with priv := x.mode.priv || priv }
    stop := none
    frozen := false
    parked := false
    swapStop := false
    arrivals := []
    readyAt := 0 }

/-- A header with one slot and, where the slot reads it, a broadcast word of 0. -/
def headerOf (c : SlotClass) (b : Bool) : Word := BitVec.ofNat 32 (0xA0000000 + 2 ^ c.number + if b then 512 else 0)

/-- A one-slot bundle at address 0 of core 0, whose context 0 issues next; core 0 runs a partition that has accepted
feature 0. -/
def State.placeSlot (s : State) (c : SlotClass) (i : Option Instr) (w : Word) : State :=
  let priv := i.any Instr.privileged
  let part := s.partOf 0
  let bytes := leBytes 4 (headerOf c (i.any Instr.usesB)).toNat ++ leBytes 4 w.toNat ++ leBytes 4 0
  let s1 := s.modCS 0 fun v =>
    { (v.setCtx 0 ((v.ctx 0).placed priv)) with
      part := some part
      resident := v.resident.writeBytes 0 bytes
      stallTo := 0 }
  let p := (s.partitions.get part).getD ⟨0, 0, 0, [0], 1, none, 0, [], false⟩
  { s1 with
    partitions := s1.partitions.put part { p with feats := p.feats ||| 1 }
    todo := [.issue 0, .engines, .tick] }

/-- A pier word at word 0 of pier 0, whose command runs it next. -/
def State.placePier (s : State) (w : Word) : State :=
  let cmd : PierCmd := ⟨⟨s.nextId, 0, none, none⟩, 0, s.partOf 0, .cmd 0 [] none none 0⟩
  let s1 := s.modPier 0 fun p => { p with words := p.words.write 0 0 w, run := some ⟨cmd, 0, none, [], []⟩ }
  { s1 with todo := [.pier 0, .engines, .tick] }

/-- One instruction placed where the next step fetches it. -/
def State.placeWord (s : State) (w : Word) : State :=
  let t : State := { s with agenda := [], actions := [], mgmt := { s.mgmt with powered := true } }
  match decodeAny w tableClasses with
  | none => t.placeSlot .C none w
  | some (.P, _) => t.placePier w
  | some (c, i) => t.placeSlot c (some i) w

end Sys2Proof.Machine
end

