-- ==== Sys2Proof/Machine/Step.lean ====
section
/-!
DEFINITION. One step of the machine (log 2): a step chosen from outside, or else the next turn of the cycle.
-/
namespace Sys2Proof.Machine

/-- One step. Without power nothing but a step from outside happens (R381). -/
def step (s : State) : Host.Outcome State Fault Refusal :=
  match s.nextEvent with
  | some (i, r) => outside i { s with agenda := r }
  | none => if s.mgmt.powered then .next s.nextTurn else .fault .unpowered

/-- The instruction of a table row placed where the next step fetches and runs it (log 3). -/
def State.withFetchWord (s : State) (_nbits w : Nat) : State := s.placeWord (BitVec.ofNat 32 w)

end Sys2Proof.Machine
end

