-- ==== Sys2Proof/Safety.lean ====
section
/-!
DEFINITION. What claims call a safe run: a run that no step stops, the invariant of the memory's canonical form
(R166, R184), and the terms statements share.
-/
namespace Sys2Proof

/-- An instruction of the piers (R255). -/
def Instr.isPier (i : Instr) : Bool :=
  match i.code with
  | some (.P, _) => true
  | _ => false

/-- Neighbours of a list stand in rank order (R139). -/
def KList.inOrder (k : KList) : List KEntry → Bool
  | a :: b :: r => k.precedes a b && KList.inOrder k (b :: r)
  | _ => true

/-- A ranked list: at most its capacity of entries, in rank order, each a value that may enter (R138 to R140). -/
def KList.ranked (k : KList) : Bool :=
  decide (k.entries.length ≤ k.cap) && k.inOrder k.entries
    && k.entries.all fun e => decide (k.type.enter false e.value = some e.value)

/-! ### Destinations, for the frames -/

/-- A scalar destination: none for X0 (R56, R59). -/
def destX (r : Machine.Rrb) (d : BitVec 6) : List Machine.Reg := if d = 0 then [] else [.x (Machine.physX r d.toNat)]
/-- A predicate destination: none for P0. -/
def destP (r : Machine.Rrb) (n : Nat) : List Machine.Reg := if n = 0 then [] else [.p (Machine.physP r n)]
def destV (r : Machine.Rrb) (d : BitVec 5) : List Machine.Reg := [.v (Machine.physV r d.toNat)]
/-- A mask destination: none for M0. -/
def destM (d : BitVec 3) : List Machine.Reg := if d = 0 then [] else [.m d.toNat]

/-- The destination registers of an instruction whose only effect is on registers of its context; `none` for any other. -/
def Instr.destRegs (r : Machine.Rrb) : Instr → Option (List Machine.Reg)
  | .nop _ | .vnop _ | .wnop _ | .enop _ => some []
  | .movi _ d _ | .pmovx _ d | .crd _ _ d | .vext _ _ d _ _ | .mpop _ d _ | .mtox _ d _ | .klen _ _ d => some (destX r d)
  | .clz _ d _ | .ctz _ d _ | .popc _ d _ | .brev _ d _ => some (destX r d)
  | .add _ d _ _ | .sub _ d _ _ | .and _ d _ _ | .or _ d _ _ | .xor _ d _ _ | .shl _ d _ _ | .shr _ d _ _ | .sra _ d _ _
  | .mul _ d _ _ | .sel _ d _ _ | .sext _ d _ _ | .addi _ d _ _ | .andi _ d _ _ | .ori _ d _ _ | .xori _ d _ _
  | .shli _ d _ _ | .shri _ d _ _ | .srai _ d _ _ => some (destX r d)
  | .mulh _ d _ _ _ | .div _ d _ _ _ | .rem _ d _ _ _ | .min _ d _ _ _ | .max _ d _ _ _ | .shadd _ d _ _ _
  | .fadd _ d _ _ _ | .fsub _ d _ _ _ | .fmul _ d _ _ _ | .fmin _ d _ _ _ | .fmax _ d _ _ _ | .fcvt _ d _ _ _
  | .vred _ d _ _ _ _ => some (destX r d)
  | .cmp _ p _ _ _ | .cmpeqi _ p _ _ | .cmplti _ p _ _ | .fcmp _ p _ _ _ => some (destP r p.toNat)
  | .plog _ d _ _ _ => some (destP r d.toNat)
  | .xmovp _ _ => some ((countFrom 1 15).flatMap (destP r))
  | .vadd _ d _ _ _ _ | .vsub _ d _ _ _ _ | .vmul _ d _ _ _ _ | .vfma _ d _ _ _ _ | .vmin _ d _ _ _ _ | .vmax _ d _ _ _ _
  | .vand _ d _ _ _ _ | .vor _ d _ _ _ _ | .vxor _ d _ _ _ _ | .vshl _ d _ _ _ _ | .vshr _ d _ _ _ _ | .vsra _ d _ _ _ _
  | .vdiv _ d _ _ _ _ | .vrem _ d _ _ _ _ | .vsel _ d _ _ _ _ | .vscan _ d _ _ _ _ | .vperm _ d _ _ _ _ | .vdec4 _ d _ _ _ _
  | .venc4 _ d _ _ _ _ => some (destV r d)
  | .vabs _ d _ _ _ | .vneg _ d _ _ _ | .vsqrt _ d _ _ _ | .vrec _ d _ _ _ | .vrsq _ d _ _ _ | .vexp2 _ d _ _ _
  | .vlog2 _ d _ _ _ | .vmov _ d _ _ _ | .vbcast _ d _ _ | .viota _ d _ _ | .vins _ d _ _ | .vpart _ d _ _
  | .vcvt _ d _ _ _ _ _ | .vcv8 _ d _ _ _ _ _ _ _ | .vun8 _ d _ _ _ _ _ => some (destV r d)
  | .vcmp _ d _ _ _ _ | .mlog _ d _ _ _ | .mfromx _ d _ => some (destM d)
  | .kinit _ k _ _ _ | .kclr _ k | .kmrg _ k _ => some [.k k.toNat]
  | .kins _ k _ _ _ | .kinsi _ k _ _ _ => some (.k k.toNat :: destP r 7)
  | .kout _ _ d => some (destV r d ++ destV r (d + 1))
  | .kth _ k => some [.kth k.toNat]
  | _ => none

/-- The registers a load writes: its destination, and the offset register of an incremented form; `none` for any other
instruction. -/
def Instr.loadRegs (r : Machine.Rrb) : Instr → Option (List Machine.Reg)
  | .ld _ d _ _ _ | .isum _ d _ _ => some (destX r d)
  | .lds8 _ d _ o n | .lds4 _ d _ o n => some (destX r d ++ if n = 1 then destX r o else [])
  | .vlds _ v _ o m => some (destV r v ++ if m = 1 then destX r o else [])
  | .vldg _ v _ _ | .vgts _ v _ _ _ | .vgtg _ v _ _ _ => some (destV r v)
  | .kload _ k _ _ | .kmrgs _ k _ _ => some [.k k.toNat]
  | .pref _ _ _ => some []
  | _ => none

/-- The registers a command of the E slot or a segment or landing-counter instruction writes at its issue: the destination
of SGSTAT and LDREAD; `none` for any other instruction. -/
def Instr.commandRegs (r : Machine.Rrb) : Instr → Option (List Machine.Reg)
  | .mwld _ _ _ _ _ | .mscl _ _ _ | .mstr _ _ _ _ _ _ _ | .mrank _ _ _ _ _ | .mout _ _ _ _ _ _ | .mzero _ _
  | .fcmd _ _ _ | .pcmd _ _ _ | .pload _ _ _ | .tkpost _ _ _ | .ldarm _ _ _ | .lddis _ _
  | .sgdef _ _ _ | .sgdrop _ _ | .sgpin _ _ | .sgunpin _ _ | .sgpush _ _ | .sgpull _ _ | .sgsplit _ _ => some []
  | .sgstat _ _ d | .ldread _ d _ => some (destX r d)
  | _ => none

namespace Machine

/-- The invariant of plain memory: locations rise strictly and no entry equals what an unlisted byte reads as. -/
def State.Inv (s : State) : Prop := Memory.wf s.mem = true

/-- The machine can take `n` steps from a state. -/
def State.runs (s : State) (n : Nat) : Prop := ∃ t, Host.Core.run Sys2Proof.core n s = .next t

/-- An instruction has an effect at a state: it neither faults nor refuses. -/
def Acts (i : Instr) (s : State) : Prop := ∃ t, exec i s = .next t

/-- The state in which the slots of a context's bundle begin to act (R37). -/
def State.issues (s : State) (core k : Nat) (b : Bundle) : State :=
  ((s.syncObserves core k b).beginIssue core k b).modCS core fun v => { v with yielded := false }

/-- Slots act one after another, each by its instruction, and none ends in a halt (R37, R38): the states after each of them. -/
def State.slotsAct (s : State) (x : Ctx) (bcast : X64) : List SlotView → List State → Prop
  | [], [] => True
  | v :: l, t :: ts =>
    (∃ i, v.dec = .ok i ∧ exec i (s.slotBegins x bcast v) = .next t ∧ t.issue.verdict = none) ∧ State.slotsAct t x bcast l ts
  | _, _ => False

/-- No landing counter waits to fire and no action is owed, so that a write is only a write (R318, R320). -/
def State.quiet (s : State) : Prop := s.actions = [] ∧ ∀ c ∈ s.counters, c.2.2.state ≠ .armed

/-- A name that the issuing bundle may reach with a segment of an access role, resident, with no uncorrectable error in
it, and with which its set stays within SGQUOTA (R155, R156, R159, R285, R360). -/
def State.segReady (s : State) (name id : Nat) (g : Seg) : Prop :=
  s.ccs.segNamed name = some (id, g) ∧ SegPath.access.allows g.role = true ∧ (s.useSeg id g).issue.absent = false
    ∧ s.ccs.issueSum (s.useSeg id g).issue ≤ s.ccs.quota ∧ s.ccs.sound id = true

/-- The segment of a name is the stack's, and the overflow path of R158 leads from an offset to an address. -/
def State.overflowsTo (s : State) (g : Seg) (off va : Nat) : Prop :=
  g.role = .stack ∧ g.bytes ≤ off ∧ va = (s.ccs.ovfptr + BitVec.ofNat 64 (off - g.bytes)).toNat

/-- What the completion event of a command of a core's running partition leaves: EFENCE counts it no longer, its ticket
has ended and its AT = 1 signal is made at the end of the cycle (R31, R44, R93, R284, R314). -/
def State.completed (s t : State) (core : Nat) (tag : CmdTag) : Prop :=
  ((t.cs core).ctx tag.ctx).inflight = ((s.cs core).ctx tag.ctx).inflight.filter (fun i => i != tag.id)
    ∧ (t.cs core).tickets = (s.cs core).tickets.filter (fun k => decide (tag.ticket ≠ some k.num))
    ∧ (t.cs core).incs = (s.cs core).incs ++ tag.signal.toList

/-- The same of a command whose completion makes signals of its own too, which come before the AT = 1 signal (R239, R258). -/
def State.completedWith (s t : State) (core : Nat) (tag : CmdTag) (signals : List (Nat × Nat)) : Prop :=
  ((t.cs core).ctx tag.ctx).inflight = ((s.cs core).ctx tag.ctx).inflight.filter (fun i => i != tag.id)
    ∧ (t.cs core).tickets = (s.cs core).tickets.filter (fun k => decide (tag.ticket ≠ some k.num))
    ∧ (t.cs core).incs = (s.cs core).incs ++ signals ++ tag.signal.toList

/-- VALUE of a failed translation (R343, R360): the page and the lane, or for an uncorrectable error in an entry of the walk
the bundle's address bits and the granule of the entry. Above bit 47, where TINFO ends, stands the line of the entry within its
granule, which the notice tells (log 43). -/
def State.pageValue (s : State) (core pc cause va lane : Nat) : Nat :=
  if cause = 0x0B then let e := s.walkFlaw (s.cs core).ptbase.toNat va
    pc / 4 % 2 ^ 15 + 2 ^ 15 * (e / 2 ^ 20 % 2 ^ 32) + 2 ^ 48 * (e / 2 ^ 6 % 2 ^ 14)
  else va / 2 ^ 16 % 2 ^ 39 + 2 ^ 40 * lane

/-- A mailbox request of an OP and a LEN waits for the supervisor with a header R372 accepts. -/
def State.asked (s : State) (op len : Nat) : Prop :=
  s.reqWaits = true ∧ s.reqOp = op ∧ s.reqLen = len ∧ s.winNat 0x1002 2 ≠ 0 ∧ s.winNat 0x1006 2 = 0

/-- Between two states of the issuing context only pending results differ: new ones are of the registers listed, and those
of other registers stand. -/
def State.onlyRegs (s t : State) (regs : List Reg) : Prop :=
  t.cx = { s.cx with flight := t.cx.flight, loads := t.cx.loads, seq := t.cx.seq, kinsAt := t.cx.kinsAt }
    ∧ (∀ e ∈ t.cx.flight, e ∈ s.cx.flight ∨ e.reg ∈ regs ∧ s.cx.seq ≤ e.seq)
    ∧ (∀ e ∈ s.cx.flight, e.reg ∉ regs → e ∈ t.cx.flight)
    ∧ (∀ l ∈ t.cx.loads, (∃ m ∈ s.cx.loads, l = { m with dests := l.dests } ∧ ∀ d ∈ l.dests, d ∈ m.dests)
      ∨ (∀ d ∈ l.dests, d.1 ∈ regs) ∧ s.cx.seq ≤ l.seq)
    ∧ ∀ m ∈ s.cx.loads, ∃ l ∈ t.cx.loads, l = { m with dests := l.dests } ∧ ∀ d ∈ m.dests, d.1 ∉ regs → d ∈ l.dests

/-- The same of what reads global memory: the read may observe completion events, so that old words of a bank are known to be
out of date (R191, R198). -/
def State.onlyRead (s t : State) (regs : List Reg) : Prop :=
  (∃ l : List (Nat × Nat), t.cx.stale = s.cx.stale.map fun w => { w with seen := w.seen || l.contains (w.core, w.id) })
    ∧ (s.modCx fun c => { c with stale := t.cx.stale }).onlyRegs t regs

/-- Nothing of any other context differs. -/
def State.othersKept (s t : State) : Prop := ∀ d j, d ≠ s.issue.core ∨ j ≠ s.issue.ctx → t.ctx d j = s.ctx d j

end Machine

end Sys2Proof
end

