-- ==== Sys2Proof/Certificates/Slice0/Obligations.lean ====
section
/-!
DEFINITION. The statements of this model: what the spec's rules say the machine does, as propositions about `exec`, `step`
and the operations they are made of. OBLIGATIONS.json lists them with the rules they rest on.
-/

open Sys2Proof Sys2Proof.Machine

/-- A core's turn with one ready context issues that context's bundle: the contexts before it make withdrawn arrivals
again and read WAITW words again, the bundle issues, and then the contexts behind it do the same. An attempt fails
with a trap of the fetch or of the checks of R36, stalls for a change of ILK, waits for its sync pair, and else runs
its slots in slot order, each by exec of the instruction its word decodes to; none commits where one blocks or the
first that faults traps. A bundle passes the checks exactly where every slot decodes, accepts its fields and names no
reserved register, #B without a broadcast word, earlier slot's destination or privileged opcode in user mode, and the
repeat, broadcast and pair words have their forms. A kept slot has the word, broadcast value and step of its sticky
entry; a repetition short of the last stays at the bundle; a pair signals at the issue or with the command; null
bundles are skipped in interlocked mode. The order of the slots' notes within the model's turn is log entry 2. (R28,
R29, R36, R37, R39, R40, R41, R42, R43, R44, R45, R186) -/
def Obligations.StepRunsSlotWord : Prop :=
  (∀ (s u t : State) (core k : Nat) (r : List Turn), s.agenda = [] → s.mgmt.powered = true → s.todo = .issue core :: r →
    (s.cs core).stallTo = 0 → State.surveyed { s with todo := r } core = (u, [k]) → k < 4 → (u.cs core).lastIssuer < 4 →
    (∀ j < 4, (u.ctx core j).holdsCore = false) →
    let waits := fun (l : List Nat) (v : State) => l.foldl (fun w j => (w.rearrive core j).reread core j) v
    let w := waits (List.range k) u
    w.tryIssue core k = .issued t →
    step s = .next (waits (countFrom (k + 1) (3 - k)) (t.modCS core fun v =>
      { (w.cs core).countRun v k with mon := { v.mon with issued := v.mon.issued + 1 } })).settle)
  ∧ (∀ (s : State) (core k : Nat), let x := s.ctx core k
    x.mayFetch s.cycle.toNat = true →
    let trapped := fun (c d n v : Nat) => s.tryIssue core k = .trapped (s.takeTrap core k c d n v x.pc x.rep)
    (∀ c d n v, (s.cs core).fetch x = .error (.trap c d n v) → trapped c d n v)
    ∧ ∀ b, (s.cs core).fetch x = .ok b → let s1 := s.issues core k b
      (∀ c d n v, b.check x.mode.priv (s.feature core) = some (.trap c d n v) → trapped c d n v)
      ∧ (b.check x.mode.priv (s.feature core) = none →
        (x.modeStalls = true → s.tryIssue core k = .stalled s)
        ∧ (x.modeStalls = false → s.syncWaits core b = true → s.tryIssue core k = .blocked (s.unparkBundle core k) .sync)
        ∧ (x.modeStalls = false → s.syncWaits core b = false → ∀ bc ts, s1.broadcast b = .ok bc → s1.slotsAct x bc b.views ts →
          let t := ts.getLastD s1
          t.issue.start = none → t.issue.absent = false →
          t.issue.named = false ∨ (s.cs core).issueSum t.issue ≤ (s.cs core).quota → x.overruns = false ∨ holdsNpre b.views = true →
          s.tryIssue core k = .issued (t.commit x b b.views bc))))
  ∧ (∀ (s t : State) (core k : Nat) (x : Ctx) (b : Bundle) (l : List SlotView) (bc : X64) (hs : List (Halt × Bool)),
    (∀ w, (.blocked w, false) ∈ hs → w ≠ .segment → ∃ v, s.decideIssue t core k x b l bc hs = .blocked (s.unparkBundle core k) v)
    ∧ (∀ c d n v, hs.head? = some (.trap c d n v, false) → c ≠ 8 → (∀ h ∈ hs, ∃ c d n v, h = (.trap c d n v, false)) →
      t.issue.start = none → t.issue.absent = false → x.overruns = false →
      s.decideIssue t core k x b l bc hs = .trapped (s.takeTrap core k c d n v x.pc x.rep)))
  ∧ (∀ (b : Bundle) (priv feature : Bool), let l := b.views
    let dests := fun (v : SlotView) => match v.dec with
      | .ok i => i.dests
      | .error _ => []
    b.check priv feature = none ↔
      (∀ v ∈ l, ∃ i, v.dec = .ok i ∧ feature = true ∧ i.fieldsOk = true ∧ i.loopEndOk b.len = true ∧ i.badDest = false
        ∧ i.reservedReg = none ∧ (i.privileged = true → priv = true) ∧ (v.cls = .C → sameBarrier l = false)
        ∧ (v.kept = false → (i.usesB = true → b.bw ≠ none) ∧ (b.rep ≠ 0 → v.unrepeatable = false)))
      ∧ l.Pairwise (fun v w => ∀ d ∈ dests w, d ∉ dests v)
      ∧ (∀ w, b.bw = some w → w.getLsbD 31 = true → bitsOf w.toNat 30 6 = 0 ∧ bitsOf w.toNat 5 0 < 48)
      ∧ ∀ w0 w1, b.sy = some (w0, w1) → bitsOf w0.toNat 5 0 = 0 ∧ bitsOf w1.toNat 14 0 = 0
        ∧ (w0.getLsbD 30 = true ↔ bitsOf w1.toNat 23 16 ≠ 0)
        ∧ (w1.getLsbD 15 = true → w0.getLsbD 30 = true ∧ ∃ e ∈ b.slots, e.1 = .E))
  ∧ (∀ (s : State) (core k : Nat) (b : Bundle), let x := s.ctx core k
    let reg := fun (n : Nat) => s.hazard (.x (physX s.issue.rrb n))
    (b.bw = none → s.broadcast b = .ok 0)
    ∧ (∀ w, b.bw = some w → w.getLsbD 31 = false → s.broadcast b = .ok ((w.setWidth 31).signExtend 64))
    ∧ (∀ w n, b.bw = some w → w.getLsbD 31 = true → bitsOf w.toNat 5 0 = n →
      (reg n = .ok () → s.broadcast b = .ok (s.cx.getX (physX s.issue.rrb n)))
      ∧ (∀ v, reg n = .error (.blocked v) → s.broadcast b = .error (.blocked v))
      ∧ (reg n = .error .stalled → s.broadcast b = .error .stalled)
      ∧ (∀ c d m v, reg n = .error (.trap c d m v) → s.broadcast b = .error (.trap c d 6 v)))
    ∧ (s.syncWaits core b = true ↔ ∃ w0 w1, b.sy = some (w0, w1) ∧ w0.getLsbD 31 = true
      ∧ ((s.cs core).sems.read 0 (bitsOf w0.toNat 29 22) - BitVec.ofNat 16 (bitsOf w0.toNat 21 6)).toInt < 0)
    ∧ (k < 4 → let i := (s.issues core k b).issue
      i.core = core ∧ i.ctx = k ∧ i.pc = b.pc ∧ i.npc = b.pc + 4 * b.len ∧ i.rep = x.rep ∧ i.lastRep = decide (b.rep ≤ x.rep)
      ∧ i.rrb = x.rrb ∧ i.mode = x.mode ∧ i.after = [] ∧ i.taken = false)
    ∧ (∀ i : Issue, b.signalNow i = match b.sy with
        | some (w0, w1) => if w0.getLsbD 30 = true ∧ ¬ (w1.getLsbD 15 = true ∧ i.issuedCmd = true) then
            some (bitsOf w1.toNat 31 24, bitsOf w1.toNat 23 16) else none
        | none => none))
  ∧ (∀ (x : Ctx) (bc : X64) (v : SlotView) (l : List SlotView), let e := x.sticky.get v.cls
    (x.keepSlots bc (v :: l) = (x.keepSlots bc [v]).keepSlots bc l ∧ x.keepSlots bc [] = x
      ∧ let f : Sticky := if v.kept then { e with n := e.n + 1 } else ⟨v.word, if v.has Instr.usesB then bc else 0, x.rep, x.wstep⟩
        x.keepSlots bc [v] = { x with sticky := if v.cls = .C then x.sticky else x.sticky.set v.cls f })
    ∧ ∀ s : State, s.slotBegins x bc v = s.modIssue fun j => { j with
        slot := v.cls
        bcast := if v.kept then e.bcast else bc
        step := if v.has Instr.steps = false then 0
          else if v.kept then BitVec.ofInt 64 ((e.n + 1 : Nat) * e.step.toInt) else BitVec.ofInt 64 (x.rep * x.wstep.toInt) })
  ∧ (∀ (word : Nat → Word) (st : StickySet) (h a : Nat) (c : SlotClass) (r : List SlotClass), slotsOf word st h (c :: r) a
    = if bitOf h c.number then (c, false, word a) :: slotsOf word st h r (a + 4)
      else if bitOf h (15 + c.number) then (c, true, (st.get c).word) :: slotsOf word st h r a else slotsOf word st h r a)
  ∧ (∀ (t : State) (x : Ctx) (b : Bundle) (l : List SlotView) (bc : X64), let i := t.issue
    let c := t.ctx i.core i.ctx
    let u := t.commit x b l bc
    let y := u.ctx i.core i.ctx
    i.after = [] → i.ctx < 4 → c.mode = x.mode →
    y.sticky = (c.keepSlots bc l).sticky ∧ y.bcount = c.bcount + 1 ∧ u.mem = t.mem
    ∧ (i.lastRep = false → y.rep = c.rep + 1 ∧ y.pc = c.pc ∧ y.loops = c.loops)
    ∧ (i.lastRep = true → y.rep = 0 ∧ (i.taken = true → y.pc = i.npc ∧ y.loops = c.loops)
      ∧ (i.taken = false → c.loops = [] → y.pc = i.npc ∧ y.loops = []))
    ∧ (u.cs i.core).sems = match b.signalNow i with
      | some (sem, inc) => (t.cs i.core).sems.write 0 sem ((t.cs i.core).sems.read 0 sem + BitVec.ofNat 16 inc)
      | none => (t.cs i.core).sems)
  ∧ ∀ (s : State) (core k n : Nat), let x := s.ctx core k
    (x.mode.ilk = false ∨ x.mayFetch s.cycle.toNat = false → State.skipNulls core k n s = s)
    ∧ (x.mode.ilk = true → x.mayFetch s.cycle.toNat = true → x.returned s.cycle.toNat = false → ∀ b, (s.cs core).fetch x = .ok b →
      let ok := b.check x.mode.priv (s.feature core) = none
      (x.isNull b = true → ok → State.skipNulls core k (n + 1) s = State.skipNulls core k n (s.modCtx core k fun c => c.skip b))
      ∧ (x.isNull b = false ∨ ¬ ok → State.skipNulls core k (n + 1) s = s)
      ∧ (x.isNull b = true ↔ b.slots ≠ [] ∧ b.sy = none
        ∧ (∀ v ∈ b.views, ∃ i, v.dec = .ok i ∧ i.isSel = false ∧ x.getP (physP x.rrb i.guard) = false
          ∧ x.pending (.p (physP x.rrb i.guard)) = false)
        ∧ ∀ w, b.bw = some w → w.getLsbD 31 = true → x.pending (.x (physX x.rrb (bitsOf w.toNat 5 0))) = false)
      ∧ (x.loops = [] → (x.skip b).rep = 0 ∧ (x.skip b).pc = b.pc + 4 * b.len ∧ (x.skip b).bcount = x.bcount)
      ∧ ∀ v, b.views = [v] → v.kept = true → v.cls ≠ .C → x.loops = [] → (x.skip b).sticky
        = x.sticky.set v.cls { x.sticky.get v.cls with n := (x.sticky.get v.cls).n + (b.rep + 1 - x.rep) })

/-- At a pier's turn, after the loop close, the word at a PC of at most 255 that decodes to i is run: the step is exec
of i with the PC one word on, followed by what its effects bring about; a PC past the buffer or an undecodable word
ends the command with cause ILLEGAL_OP. (R254, R255, R256, R258) -/
def Obligations.StepRunsPierWord : Prop :=
  ∀ (s : State) (u : Nat) (r : List Turn) (run : PierRun),
    s.agenda = [] → s.mgmt.powered = true → s.todo = .pier u :: r → (s.pier u).run = some run →
    let e := (s.pier u).closeLoop run
    let at_ := fun (q : PierRun) => State.modPier { s with todo := r } u fun _ => { e.1 with run := some q }
    (∀ (i : Instr) (t : State), e.2.pc ≤ 255 → decode .P ((s.pier u).words.read 0 e.2.pc) = .ok i →
      exec i ((at_ { e.2 with pc := e.2.pc + 1 }).modIssue fun j => { j with slot := .P, pier := u }) = .next t →
      step s = .next t.settle)
    ∧ (255 < e.2.pc → step s = .next ((at_ e.2).pierEnd u illegalOp))
    ∧ (∀ x, e.2.pc ≤ 255 → decode .P ((s.pier u).words.read 0 e.2.pc) = .error x → step s = .next ((at_ e.2).pierEnd u illegalOp))

/-- An instruction at the head of the agenda is run by the step, NPR_OVERRUN with the note whether an attempt to issue
ends in a trap; a window access of the host waits there until every context has had its turn in the cycle, and one of
link 0 comes before those of link 1. With an empty agenda the step is the machine's next turn while the stacks have
power. The agenda is the model's own (log entry 2), and that an unpowered machine answers the fault unpowered is the
model's reading (log entry 55), no rule of the spec. (R186, R367, R381, 19_host_link_management.md) -/
def Obligations.StepTakesOutsideFirst : Prop :=
  ∀ (s : State),
    (∀ (i : Instr) (l : List Instr) (t : State), s.agenda = i :: l → i.code = none → Instr.windowLink i = none →
      (∀ c k, i ≠ .nprOverrun c k) → exec i { s with agenda := l } = .next t → step s = .next t.settle)
    ∧ (∀ (c : BitVec 9) (k : BitVec 2) (l : List Instr) (t : State), s.agenda = .nprOverrun c k :: l →
      let u : State := { s with agenda := l }
      let note := fun (b : Bool) (v : State) => v.modCtx c.toNat k.toNat fun x => { x with wouldIssue := b }
      (u.wouldIssue c.toNat k.toNat = true ↔ u.entryStalls c.toNat = false ∧ ∃ v, u.tryIssue c.toNat k.toNat = .trapped v)
      ∧ (exec (.nprOverrun c k) (note (u.wouldIssue c.toNat k.toNat) u) = .next t → step s = .next (note false t.settle)))
    ∧ (∀ (i : Instr) (l : List Instr) (a : Bool), s.agenda = i :: l → Instr.windowLink i = some a →
      (s.mgmt.powered = true → s.contextsDone = false → step s = .next s.nextTurn)
      ∧ (s.mgmt.powered = false ∨ s.contextsDone = true →
        let other := fun (j : Instr) => Instr.windowLink j = some true
        (∀ t, a = false → exec i { s with agenda := l } = .next t → step s = .next t.settle)
        ∧ (∀ x j y t, a = true → l = x ++ j :: y → (∀ e ∈ x, other e) → Instr.windowLink j = some false →
          exec j { s with agenda := i :: (x ++ y) } = .next t → step s = .next t.settle)
        ∧ (∀ x y t, a = true → l = x ++ y → (∀ e ∈ x, other e) → (∀ j z, y = j :: z → Instr.windowLink j = none) →
          exec i { s with agenda := l } = .next t → step s = .next t.settle)))
    ∧ (s.contextsDone = true ↔ s.todo ≠ [] ∧ ∀ e ∈ s.todo, e ≠ .arrivals ∧ ∀ core, e ≠ .issue core)
    ∧ (s.agenda = [] → s.mgmt.powered = true → step s = .next s.nextTurn)
    ∧ (s.agenda = [] → s.mgmt.powered = false → step s = .fault .unpowered)

/-- For every instruction that has a word, with every operand at every value of its field, the decoder of its class
reads its encoding as that instruction. (R38, R46, R48, R49, R50, R51, R52, R53, R54, R255) -/
def Obligations.DecodeOfEncode : Prop :=
  ∀ (i : Instr) (c : SlotClass) (op g : Nat) (fs : List (Nat × Nat)) (w : Word),
    i.code = some (c, op, g, fs) → encode i = some w → decode c w = .ok i

/-- In every class, a word that decodes to an instruction is that instruction's encoding: no bit of a word is ignored
and no instruction has two words in a class. (R38, R46, R48, R49, R255) -/
def Obligations.EncodeOfDecode : Prop :=
  ∀ (c : SlotClass) (w : Word) (i : Instr), decode c w = .ok i → encode i = some w

/-- One or more words of every class, as the spec prints them, decode to the instructions they are printed for, and a
word of an unassigned opcode and one with a reserved field set are refused by name. (R38, R46, R49, R51, R52, R53,
R54, R255) -/
def Obligations.SpecWordsDecode : Prop :=
  decode .C 0x0A818601#32 = .ok (.addi 0 3 3 1)
    ∧ decode .C 0x0BC489FF#32 = .ok (.cmplti 0 9 4 0x1FF)
    ∧ decode .C 0x00C09405#32 = .ok (.loop 0 1 2 1 5)
    ∧ decode .S 0x8090008D#32 = .ok (.lds4 8 32 1 6 1)
    ∧ decode .V 0x90902142#32 = .ok (.vfma 9 16 4 5 0 2)
    ∧ decode .V 0x06488390#32 = .ok (.kinsi 0 2 4 7 1)
    ∧ decode .W 0x00240118#32 = .ok (.vlds 0 4 1 6 0)
    ∧ decode .W 0x01401460#32 = .ok (.kload 0 0 5 6)
    ∧ decode .E 0x02008300#32 = .ok (.fcmd 0 4 6)
    ∧ decode .E 0x00602422#32 = .ok (.mstr 0 1 8 1 0 0 2)
    ∧ decode .P 0x18800000#32 = .ok (.pldx 1)
    ∧ decode .P 0x24200000#32 = .ok (.prown 0 16 0)
    ∧ decode .C 0x0FE00000#32 = .error .unassigned
    ∧ decode .C 0x08000001#32 = .error .reserved

/-- For every instruction and every state, exec answers a next state: an instruction acts, waits or takes the
exception the spec describes, and none ends in a fault or a refusal. The step answers a next state wherever a step
from outside waits or the stacks have power. (R28, R36, R341, R343, R381, 95_what_each_step_holds.md) -/
def Obligations.EveryInstructionActs : Prop :=
  (∀ (i : Instr) (s : State), Acts i s) ∧ ∀ (s : State), s.agenda ≠ [] ∨ s.mgmt.powered = true → ∃ t, step s = .next t

/-- For every slot instruction but SEL, a false guard that can be read leaves the state as it is: no register, memory,
queue or trap changes, whatever the other fields name. (R38, R37) -/
def Obligations.FalseGuardDoesNothing : Prop :=
  ∀ (i : Instr) (s : State), i.code.isSome = true → i.isPier = false → i.isSel = false →
    s.issue.bundleSet = [] → s.issue.cmdSet = [] → s.issue.defined = 0 → s.issue.absent = false →
    s.readP i.guard = .ok false → exec i s = .next s

/-- After module reset the cycle counter is 0, every context is halted with PC 0, its registers at their reset values
(RRB, EC, LC, TVEC, WSTEP at 0, interlocked mode, P0 true, M0 all ones, X0 zero, empty loop stack and flight record),
semaphores read 0, memory has no byte other than 0 listed, and the host must set up the module before READY. The spec
gives no value for PC 0, the X registers, P1 to P15, the empty loop stack and in-flight lists, and does not say that a
reset leaves no byte of memory written: these are the model's choice (log entry 1). (R56, R58, R62, R63, R382, log
entry 1) -/
def Obligations.ResetState : Prop :=
  State.reset.cycle = 0 ∧ State.reset.mem = [] ∧ State.reset.agenda = [] ∧ State.reset.host.ready = false
    ∧ ∀ core k, let x := State.reset.ctx core k
      x.run = .halted ∧ x.pc = 0 ∧ x.loops = [] ∧ x.flight = [] ∧ x.loads = [] ∧ x.held = [] ∧ x.rrb = ⟨0, 0, 0⟩
      ∧ x.mode = ⟨true, 0, false⟩ ∧ x.tvec = 0 ∧ x.wstep = 0 ∧ x.bcount = 0 ∧ x.nprlim = 65536
      ∧ (∀ n, x.getX n = 0) ∧ (∀ n, x.getP n = decide (n = 0)) ∧ x.getM 0 = BitVec.allOnes 64
      ∧ (∀ n, (State.reset.cs core).sems.read 0 n = 0) ∧ (State.reset.cs core).part = none

/-- State.reset meets the invariant of memory that every step keeps. (R184, R382) -/
def Obligations.ResetInvariant : Prop :=
  State.reset.Inv

/-- From every state whose memory lists its bytes in rising order of location with no byte 0, a step that answers a
next state leaves memory in that form: equal memories stay equal data. (R166, R184, 06_memories.md) -/
def Obligations.StepKeepsMemoryForm : Prop :=
  ∀ (s t : State), s.Inv → step s = .next t → t.Inv

/-- A scalar source field reads the broadcast value at code 63, raises REG_RESERVED naming the code at codes 48 to 62,
and otherwise reads the physical register its name rotates to: X0 as zero; blocked while a load owes it a value,
MEM_UNCORRECTABLE where that load's data came with an uncorrectable error (VALUE from the loading bundle and the
granule; above bit 47, where TINFO ends, the model keeps the line within the granule for the notice, log entry 43) or
the register holds one (DCODE sram), stalled in interlocked mode while a fixed-latency result is owed, and in exposed
mode the value as it stands. (R43, R47, R56, R59, R66, R67, R175, R342, R360) -/
def Obligations.ScalarSourceReads : Prop :=
  ∀ (s : State) (a : BitVec 6),
    let r := Reg.x (physX s.issue.rrb a.toNat)
    let owed := s.issue.pendLoads.find? fun l => l.dests.any fun d => decide (d.1 = r)
    (a.toNat = 63 → s.readX a = .ok s.issue.bcast)
    ∧ (48 ≤ a.toNat → a.toNat ≤ 62 → s.readX a = .error (.trap 3 0 s.issue.slot.number a.toNat))
    ∧ (a.toNat < 48 →
      (∀ l, owed = some l → l.bad = false → s.readX a = .error (.blocked .load))
      ∧ (∀ l, owed = some l → l.bad = true →
        s.readX a = .error (.trap 0x0B 0 s.issue.slot.number (l.bundle / 4 % 2 ^ 15 + 2 ^ 15 * (l.phys / 2 ^ 20 % 2 ^ 32)
          + 2 ^ 48 * (l.phys / 2 ^ 6 % 2 ^ 14))))
      ∧ (owed = none → s.issue.mode.ilk = true → (∃ e ∈ s.issue.pendFlight, e.reg = r) → s.readX a = .error .stalled)
      ∧ (owed = none → (s.issue.mode.ilk = false ∨ ∀ e ∈ s.issue.pendFlight, e.reg ≠ r) →
        (r ∉ s.cx.flaws → s.readX a = .ok (if a = 0 then 0 else s.cx.getX (physX s.issue.rrb a.toNat)))
        ∧ (r ∈ s.cx.flaws → ∃ n, s.readX a = .error (.trap 0x0B 15 s.issue.slot.number n))))

/-- X0 reads as zero, P0 as true and M0 as all ones in every state, and a result for any of them changes nothing.
(R56, R122) -/
def Obligations.HardwiredRegisters : Prop :=
  ∀ (s : State) (c : Ctx) (x : X64) (b : Bool) (m : BitVec 64) (lat : Nat),
    c.getX 0 = 0 ∧ c.getP 0 = true ∧ c.getM 0 = BitVec.allOnes 64
    ∧ s.writeX 0 x lat = s ∧ s.writeP 0 b lat = s ∧ s.writeM 0 m lat = s
    ∧ c.setX 0 x = c ∧ c.setP 0 b = c ∧ c.setM 0 m = c

/-- One rotation lowers each base by one modulo its size: what a rotating name below the highest meant before the
rotation is what the next name means after it, the highest name becomes the lowest, and names outside the rotating
ranges keep their registers. (R59, R61) -/
def Obligations.RotationShiftsNames : Prop :=
  ∀ (r : Rrb) (n : Nat),
    (32 ≤ n → n < 47 → physX r.rotate (n + 1) = physX r n) ∧ physX r.rotate 32 = physX r 47
    ∧ (16 ≤ n → n < 31 → physV r.rotate (n + 1) = physV r n) ∧ physV r.rotate 16 = physV r 31
    ∧ (8 ≤ n → n < 15 → physP r.rotate (n + 1) = physP r n) ∧ physP r.rotate 8 = physP r 15
    ∧ (n < 32 → physX r n = n) ∧ (n < 16 → physV r n = n) ∧ (n < 8 → physP r n = n)

/-- In exposed mode a scalar result of latency L that enters an empty flight record leaves the register with its old
value through the next L - 1 issues of the context and gives it the new value at the L-th. (R64, R65, R68) -/
def Obligations.ResultLandsAfterLatency : Prop :=
  ∀ (c : Ctx) (n lat k : Nat) (v : X64), c.flight = [] → 0 < n → n < 48 → 0 < lat →
    let after := fun j => (List.range j).foldl (fun c _ => Ctx.stepBundles c) (c.enter false (.x n) (.x v) lat)
    (k < lat → (after k).getX n = c.getX n) ∧ (after lat).getX n = v ∧ (after lat).flight = []

/-- With its guard true and both sources readable, each of ADD, SUB, AND, OR, XOR, SHL, SHR, SRA, MIN, MAX and SHADD
answers the state in which X[d] is owed the value the rule gives, with latency 1; a destination X0 is owed nothing.
(R71) -/
def Obligations.ScalarIntegerResults : Prop :=
  ∀ (s : State) (g : BitVec 4) (d a b : BitVec 6) (x y : X64) (k : BitVec 3),
    s.readP g.toNat = .ok true → s.readX a = .ok x → s.readX b = .ok y →
    exec (.add g d a b) s = .next (s.writeX d (x + y) 1)
    ∧ exec (.sub g d a b) s = .next (s.writeX d (x - y) 1)
    ∧ exec (.and g d a b) s = .next (s.writeX d (x &&& y) 1)
    ∧ exec (.or g d a b) s = .next (s.writeX d (x ||| y) 1)
    ∧ exec (.xor g d a b) s = .next (s.writeX d (x ^^^ y) 1)
    ∧ exec (.shl g d a b) s = .next (s.writeX d (x <<< (y.toNat % 64)) 1)
    ∧ exec (.shr g d a b) s = .next (s.writeX d (x >>> (y.toNat % 64)) 1)
    ∧ exec (.sra g d a b) s = .next (s.writeX d (x.sshiftRight (y.toNat % 64)) 1)
    ∧ exec (.min g d a b 0) s = .next (s.writeX d (if y.toInt < x.toInt then y else x) 1)
    ∧ exec (.min g d a b 1) s = .next (s.writeX d (if y.toNat < x.toNat then y else x) 1)
    ∧ exec (.max g d a b 0) s = .next (s.writeX d (if x.toInt < y.toInt then y else x) 1)
    ∧ exec (.max g d a b 1) s = .next (s.writeX d (if x.toNat < y.toNat then y else x) 1)
    ∧ exec (.shadd g d a b k) s = .next (s.writeX d ((x <<< k.toNat) + y) 1)

/-- With its guard true and both sources readable, MUL owes X[d] the low 64 bits of the product and MULH the high 64
bits of the 128-bit product, both operands signed, both unsigned, or the first signed (latency 3). DIV owes X[d] the
quotient rounded toward zero and REM the remainder, signed or unsigned (latency 20): a divisor of 0 gives all ones and
the dividend, the most negative number by -1 gives itself and 0. Nothing traps. (R72, R73) -/
def Obligations.MultiplyAndDivideResults : Prop :=
  ∀ (s : State) (g : BitVec 4) (d a b : BitVec 6) (x y : X64),
    s.readP g.toNat = .ok true → s.readX a = .ok x → s.readX b = .ok y →
    let div := fun (u : BitVec 1) (q : X64) => exec (.div g d a b u) s = .next (s.writeX d q 20)
    let rem := fun (u : BitVec 1) (r : X64) => exec (.rem g d a b u) s = .next (s.writeX d r 20)
    exec (.mul g d a b) s = .next (s.writeX d (BitVec.ofNat 64 (x.toNat * y.toNat)) 3)
    ∧ exec (.mulh g d a b 0) s = .next (s.writeX d (BitVec.ofInt 64 (x.toInt * y.toInt / 2 ^ 64)) 3)
    ∧ exec (.mulh g d a b 1) s = .next (s.writeX d (BitVec.ofNat 64 (x.toNat * y.toNat / 2 ^ 64)) 3)
    ∧ exec (.mulh g d a b 2) s = .next (s.writeX d (BitVec.ofInt 64 (x.toInt * (y.toNat : Int) / 2 ^ 64)) 3)
    ∧ (y = 0 → ∀ u, div u 0xFFFFFFFFFFFFFFFF#64 ∧ rem u x)
    ∧ (x.toInt = -2 ^ 63 → y.toInt = -1 → div 0 x ∧ rem 0 0)
    ∧ (y ≠ 0 → ¬ (x.toInt = -2 ^ 63 ∧ y.toInt = -1) → ∃ q : X64, q.toInt = x.toInt.tdiv y.toInt ∧ div 0 q ∧ rem 0 (x - q * y))
    ∧ (y ≠ 0 → ∃ q : X64, q.toNat = x.toNat / y.toNat ∧ div 1 q ∧ rem 1 (x - q * y))

/-- With its guard true and its source readable, each of CLZ, CTZ, POPC, BREV, SEXT and the immediate forms owes X[d]
the value the rule gives with latency 1; MOVI reads no register. The counts and the reversal are those of the bits:
leading zeros stand above the highest set bit, trailing zeros below the lowest, and bit n of BREV is bit 63 - n. (R71) -/
def Obligations.ScalarUnaryAndImmediateResults : Prop :=
  ∀ (s : State) (g : BitVec 4) (d a : BitVec 6) (x : X64) (i : BitVec 9) (j : BitVec 15),
    s.readP g.toNat = .ok true → s.readX a = .ok x →
    (∀ n, n < 64 → (bitReverse x).getLsbD n = x.getLsbD (63 - n))
    ∧ (x = 0 → leadingZeros x = 64 ∧ trailingZeros x = 64)
    ∧ (∀ n, n < 64 → x.getLsbD n = true → (∀ m, n < m → x.getLsbD m = false) → leadingZeros x = 63 - n)
    ∧ (∀ n, n < 64 → x.getLsbD n = true → (∀ m, m < n → x.getLsbD m = false) → trailingZeros x = n)
    ∧ popcount 64 x = ((List.range 64).filter fun n => x.getLsbD n).length
    ∧ exec (.clz g d a) s = .next (s.writeX d (BitVec.ofNat 64 (leadingZeros x)) 1)
    ∧ exec (.ctz g d a) s = .next (s.writeX d (BitVec.ofNat 64 (trailingZeros x)) 1)
    ∧ exec (.popc g d a) s = .next (s.writeX d (BitVec.ofNat 64 (popcount 64 x)) 1)
    ∧ exec (.brev g d a) s = .next (s.writeX d (bitReverse x) 1)
    ∧ exec (.sext g d a 0) s = .next (s.writeX d ((x.setWidth 8).signExtend 64) 1)
    ∧ exec (.sext g d a 1) s = .next (s.writeX d ((x.setWidth 16).signExtend 64) 1)
    ∧ exec (.sext g d a 2) s = .next (s.writeX d ((x.setWidth 32).signExtend 64) 1)
    ∧ exec (.addi g d a i) s = .next (s.writeX d (x + i.signExtend 64) 1)
    ∧ exec (.andi g d a i) s = .next (s.writeX d (x &&& i.signExtend 64) 1)
    ∧ exec (.ori g d a i) s = .next (s.writeX d (x ||| i.signExtend 64) 1)
    ∧ exec (.xori g d a i) s = .next (s.writeX d (x ^^^ i.signExtend 64) 1)
    ∧ exec (.shli g d a i) s = .next (s.writeX d (x <<< i.toNat) 1)
    ∧ exec (.shri g d a i) s = .next (s.writeX d (x >>> i.toNat) 1)
    ∧ exec (.srai g d a i) s = .next (s.writeX d (x.sshiftRight i.toNat) 1)
    ∧ exec (.movi g d j) s = .next (s.writeX d (j.signExtend 64) 1)

/-- CMP by each condition and CMPEQI and CMPLTI owe P[p] the comparison; XMOVP owes P1 to P15 the bits of the source;
PMOVX owes X[d] the sixteen predicates as bits; each with latency 1, a P0 destination discarded. (R74, R76) -/
def Obligations.PredicateResults : Prop :=
  ∀ (s : State) (g : BitVec 4) (d p a b : BitVec 6) (i : BitVec 9) (x y : X64),
    s.readX a = .ok x → s.readX b = .ok y →
    (s.readP g.toNat = .ok true →
      exec (.cmp g p a b 0) s = .next (s.writeP p.toNat (decide (x = y)) 1)
      ∧ exec (.cmp g p a b 1) s = .next (s.writeP p.toNat (decide (x ≠ y)) 1)
      ∧ exec (.cmp g p a b 2) s = .next (s.writeP p.toNat (decide (x.toInt < y.toInt)) 1)
      ∧ exec (.cmp g p a b 3) s = .next (s.writeP p.toNat (decide (x.toInt ≤ y.toInt)) 1)
      ∧ exec (.cmp g p a b 4) s = .next (s.writeP p.toNat (decide (x.toNat < y.toNat)) 1)
      ∧ exec (.cmp g p a b 5) s = .next (s.writeP p.toNat (decide (x.toNat ≤ y.toNat)) 1)
      ∧ exec (.cmpeqi g p a i) s = .next (s.writeP p.toNat (decide (x = i.signExtend 64)) 1)
      ∧ exec (.cmplti g p a i) s = .next (s.writeP p.toNat (decide (x.toInt < i.toInt)) 1)
      ∧ exec (.xmovp g a) s = .next ((countFrom 1 15).foldl (fun t n => t.writeP n (x.getLsbD n) 1) s))
    ∧ (∀ f : Nat → Bool, s.readP g.toNat = .ok true → (∀ n, n < 16 → s.readP n = .ok (f n)) →
      ∃ w : X64, (∀ n, w.getLsbD n = (decide (n < 16) && f n)) ∧ exec (.pmovx g d) s = .next (s.writeX d w 1))

/-- SEL always executes: X[d] is owed X[a] where the guard is true and X[b] where it is false; with guard P0 always
X[a]. With its guard true, PLOG owes P[q] the bit of tt at 2 * P[e] + P[f]: AND, OR, XOR, NOT of the first, the first,
0 and 1 for the tables the rule lists; a P0 destination is owed nothing. (R75, R77) -/
def Obligations.SelectAndTruthTable : Prop :=
  ∀ (s : State) (g q e f t : BitVec 4) (d a b : BitVec 6) (x y : X64) (u v w : Bool),
    s.readX a = .ok x → s.readX b = .ok y → s.readP g.toNat = .ok w → s.readP e.toNat = .ok u → s.readP f.toNat = .ok v →
    exec (.sel g d a b) s = .next (s.writeX d (if w then x else y) 1)
    ∧ (g = 0 → exec (.sel g d a b) s = .next (s.writeX d x 1))
    ∧ (w = true → exec (.plog g q e f t) s = .next (s.writeP q.toNat (t.getLsbD (2 * u.toNat + v.toNat)) 1))
    ∧ (w = true →
      let plog := fun (t : BitVec 4) (r : Bool) => exec (.plog g q e f t) s = .next (s.writeP q.toNat r 1)
      plog 0b1000 (u && v) ∧ plog 0b1110 (u || v) ∧ plog 0b0110 (u ^^ v) ∧ plog 0b0011 (!u) ∧ plog 0b1100 u ∧ plog 0b0000 false
        ∧ plog 0b1111 true)

/-- With its guard true and its sources readable, FADD, FSUB and FMUL owe X[d] the f32 result of the low halves under
the rounding mode of the word, FMIN and FMAX the lesser and the greater, FCMP owes P[p] the condition and FCVT owes
X[d] the conversion, with latency 3; in exposed mode subnormals are flushed. (R78, R79, R80, R81, R110) -/
def Obligations.ScalarFloatResults : Prop :=
  ∀ (s : State) (g : BitVec 4) (d p a b : BitVec 6) (r : BitVec 2) (c : BitVec 3) (k : BitVec 4) (x y : X64),
    s.readP g.toNat = .ok true → s.readX a = .ok x → s.readX b = .ok y →
    let m := x.toNat % 2 ^ 32
    let n := y.toNat % 2 ^ 32
    let e := !s.issue.mode.ilk
    exec (.fadd g d a b r) s = .next (s.writeX d (BitVec.ofNat 64 (f32.add (rmOf r) e m n)) 3)
    ∧ exec (.fsub g d a b r) s = .next (s.writeX d (BitVec.ofNat 64 (f32.sub (rmOf r) e m n)) 3)
    ∧ exec (.fmul g d a b r) s = .next (s.writeX d (BitVec.ofNat 64 (f32.mul (rmOf r) e m n)) 3)
    ∧ exec (.fmin g d a b r) s = .next (s.writeX d (BitVec.ofNat 64 (f32.min e m n)) 3)
    ∧ exec (.fmax g d a b r) s = .next (s.writeX d (BitVec.ofNat 64 (f32.max e m n)) 3)
    ∧ exec (.fcmp g p a b c) s = .next (s.writeP p.toNat (fcmpCond c e m n) 3)
    ∧ exec (.fcvt g d a k r) s = .next (s.writeX d (fcvt k.toNat (rmOf r) e x) 3)

/-- With its guard true, BR and CALL continue at the bundle's address plus four times the offset, JR and JALR at the
source plus four times the immediate, RET at LINK; CALL writes the address of the next word to LINK, JALR to X[d]
after reading its source; BR and JR pop the loop levels that leave out the target, CALL, JALR and RET none. (R82, R83,
R88) -/
def Obligations.TransferTargets : Prop :=
  ∀ (s : State) (g : BitVec 4) (d a : BitVec 6) (o : BitVec 21) (i : BitVec 9) (x : X64),
    s.readP g.toNat = .ok true → s.readX a = .ok x →
    let rel := (BitVec.ofNat 64 s.issue.pc + BitVec.ofInt 64 (4 * o.toInt)).toNat
    let ind := (x + BitVec.ofInt 64 (4 * i.toInt)).toNat
    let go := fun (t : State) (n : Nat) => t.modIssue fun j => { j with npc := n, taken := true }
    let pop := fun (n : Nat) => s.modCx fun c => { c with loops := c.loops.dropWhile fun l => !(decide (l.start ≤ n) && decide (n < l.stop)) }
    exec (.br g o) s = .next (go (pop rel) rel)
    ∧ exec (.call g o) s = .next (go (s.modCx fun c => { c with link := BitVec.ofNat 64 s.issue.next }) rel)
    ∧ exec (.jr g a i) s = .next (go (pop ind) ind)
    ∧ exec (.jalr g d a i) s = .next (go (s.writeX d (BitVec.ofNat 64 s.issue.next) 1) ind)
    ∧ exec (.ret g) s = .next (go s s.cx.link.toNat)

/-- With its guard true, LOOP takes the lesser of X[c] and 2^32 - 1 trips and LOOPI its immediate. No trips continue
at the end address; four levels already raise LOOP_DEPTH and change nothing else; otherwise a level is pushed with LC
one below the trips, and a rotating loop's entry (EC from the word, 1 for LOOPI) is noted to reset the rotation. (R84,
R85, R86) -/
def Obligations.LoopEntry : Prop :=
  ∀ (s : State) (g : BitVec 4) (c : BitVec 6) (e : BitVec 4) (r : BitVec 1) (m n : BitVec 10) (x : X64),
    s.readP g.toNat = .ok true → s.readX c = .ok x →
    let stop := s.issue.pc + 4 * n.toNat
    let push := fun (k : Nat) (ec : BitVec 4) =>
      let t := s.modCx fun y => { y with loops := ⟨s.issue.next, stop, BitVec.ofNat 32 (k - 1), if r = 1 then ec else 0, r == 1⟩ :: y.loops }
      if r = 1 then t.modIssue fun i => { i with after := i.after ++ [.loopEntry] } else t
    let outcome := fun (k : Nat) (ec : BitVec 4) =>
      if k = 0 then Host.Outcome.next (s.modIssue fun i => { i with npc := stop })
      else if 4 ≤ s.cx.loops.length then Host.Outcome.next (s.halt (.trap 0x13 0 s.issue.slot.number 0))
      else Host.Outcome.next (push k ec)
    exec (.loop g c e r n) s = outcome (Nat.min x.toNat (2 ^ 32 - 1)) e ∧ exec (.loopi g m r n) s = outcome m.toNat 1

/-- A bundle that ends at the innermost level's end address closes it: with LC left the count falls and the body is
entered again, a rotating loop rotating with a true P8; with LC 0 a rotating loop with EC above 1 drains one trip with
a false P8; otherwise the level is popped, and the level outside is asked in the same way. At any other address
nothing changes. (R59, R84, R87) -/
def Obligations.LoopClose : Prop :=
  ∀ (c : Ctx) (l : LoopLevel) (r : List LoopLevel) (pc : Nat),
    c.closeLoops [] pc = ({ c with loops := [] }, pc)
    ∧ (pc ≠ l.stop → c.closeLoops (l :: r) pc = ({ c with loops := l :: r }, pc))
    ∧ (pc = l.stop → l.lc ≠ 0 → c.closeLoops (l :: r) pc
      = ({ (if l.rot then c.rotated true else c) with loops := { l with lc := l.lc - 1 } :: r }, l.start))
    ∧ (pc = l.stop → l.lc = 0 → l.rot = true → 1 < l.ec.toNat → c.closeLoops (l :: r) pc
      = ({ c.rotated false with loops := { l with ec := l.ec - 1 } :: r }, l.start))
    ∧ (pc = l.stop → l.lc = 0 → (l.rot = false ∨ l.ec.toNat ≤ 1) → c.closeLoops (l :: r) pc = c.closeLoops r pc)
    ∧ (∀ b, (c.rotated b).rrb = c.rrb.rotate ∧ (c.rotated b).getP (physP c.rrb.rotate 8) = b)

/-- With its guard true: MODE, HALT, TRAP, SYSC, TKDONE and TKWAIT note the effect that follows the bundle; YIELD ends
the run after the bundle; TRET in a user handler and ERET in privileged mode note the return; NPRB outside a region
opens one with no bundle counted and NPRE closes it; EFENCE with no command in flight, and the four no-operations
change nothing; IFENCE discards the words fetched ahead but those of packets still open (log entry 5). After the
slots, MODE leaves ILK and VRM as noted, a rotating loop's entry leaves RRB 0, P8 true and P9 to P15 false, TRAP takes
TRAP_INSN at the next bundle and SYSC stops the context with TPC there; HALT, TKDONE and TKWAIT land every pending
result, close the region and end the part: chunks left become an orphaned part, the last part ends the task, and its
action is made but for HALT (log entry 29). (R22, R86, R89, R91, R93, R98, R267, R276, R347, R350, R357, R391) -/
def Obligations.ControlResults : Prop :=
  (∀ (s : State) (g : BitVec 4) (i : BitVec 8), s.readP g.toNat = .ok true →
    let note := fun (a : After) => Host.Outcome.next (s.modIssue fun j => { j with after := j.after ++ [a] })
    exec (.mode g i) s = note (.mode (i.getLsbD 0) ((i >>> 1).setWidth 2))
    ∧ exec (.halt g) s = note .halt
    ∧ exec (.trap g i) s = note (.trap i.toNat)
    ∧ exec (.sysc g i) s = note (.service i.toNat)
    ∧ exec (.tkwait g) s = note .tkwait
    ∧ (s.cx.task.isSome = true → exec (.tkdone g) s = note .tkdone)
    ∧ exec (.yield g) s = .next (s.modCcs fun v => { v with yielded := true })
    ∧ (∀ h r, s.cx.held = h :: r → h.priv = false → exec (.tret g) s = note .tret)
    ∧ (s.issue.mode.priv = true → exec (.eret g) s = note .eret)
    ∧ (s.cx.region = none → exec (.nprb g) s = .next (s.modCx fun c => { c with region := some 0 }))
    ∧ exec (.npre g) s = .next (s.modCx fun c => { c with region := none })
    ∧ (s.cx.inflight = [] → exec (.efence g) s = .next (s.modCx fun c =>
        c.observe (s.newsAt fun p => decide (p = .issuer s.issue.core s.issue.ctx))))
    ∧ exec (.ifence g) s = .next (s.modCx fun c => { c with stale := c.stale.filter fun w => !w.seen })
    ∧ (∀ (c : Ctx) l, (c.observe l).stale = c.stale.map (fun w => { w with seen := w.seen || l.contains (w.core, w.id) })
      ∧ ({ c.observe l with stale := c.stale } : Ctx) = c)
    ∧ exec (.nop g) s = .next s ∧ exec (.vnop g) s = .next s ∧ exec (.wnop g) s = .next s
    ∧ exec (.enop g) s = .next s)
  ∧ ∀ (s : State) (core k : Nat), k < 4 →
    let x := s.ctx core k
    let keeps := fun (t : State) (y : Ctx) => t.ctx core k = y ∧ t.mem = s.mem ∧ ∀ c j, c ≠ core ∨ j ≠ k → t.ctx c j = s.ctx c j
    (∀ ilk vrm, keeps (State.applyWrite core k s (.mode ilk vrm)) { x with mode := ⟨ilk, vrm, x.mode.priv⟩ })
    ∧ (∃ y : Ctx, keeps (State.applyWrite core k s .loopEntry) y ∧ y = { x with rrb := ⟨0, 0, 0⟩, p := y.p }
      ∧ ∀ n < 16, y.getP n = if n < 8 then x.getP n else decide (n = 8))
    ∧ (∀ imm, State.applyEnd core k s (.trap imm) = s.takeTrap core k 0x0D 0 0 imm x.pc 0)
    ∧ (∀ imm, keeps (State.applyEnd core k s (.service imm)) { x with tpc := BitVec.ofNat 64 x.pc, stop := some ⟨.service, x.pc, 0⟩ })
    ∧ ∀ e ∈ [(After.halt, Run.halted), (.tkdone, .idle), (.tkwait, .idle)],
      let t := State.applyEnd core k s e.1
      let y : Ctx := { x.landCycles.landBundles.arriveAll with run := e.2, region := none, task := none }
      y.flight = [] ∧ (∀ l ∈ y.loads, l.bad = true)
      ∧ (x.task = none → keeps t y)
      ∧ ∀ id task, x.task = some id → (s.cs core).gang = none → s.tasks.get id = some task →
        (x.tklo.toInt < x.tkhi.toInt → keeps t y ∧ t.tasks = s.tasks
          ∧ (t.quad (quadOf core)).orphans = (s.quad (quadOf core)).orphans ++ [(id, x.tklo, x.tkhi)])
        ∧ (x.tkhi.toInt ≤ x.tklo.toInt → 1 < task.parts → keeps t y ∧ t.tasks = s.tasks.put id { task with parts := task.parts - 1 })
        ∧ (x.tkhi.toInt ≤ x.tklo.toInt → task.parts ≤ 1 → ∃ u, keeps u y ∧ u.tasks = s.tasks.del id
          ∧ t = if e.2 = .halted then u else u.taskAction core task)

/-- With its guard true: BKPT raises BREAKPOINT with its immediate; TKDONE with no part raises ILLEGAL_OP with DCODE
6, TRET outside a user handler with DCODE 17, NPRB inside a region with DCODE 14 and BAR of no participant with DCODE
18; ERET and PSTOP in user mode raise PRIV with their opcodes; EFENCE with a command in flight is blocked. (R93, R94,
R267, R274, R342, R343, R347, R349, R350, R357) -/
def Obligations.ControlTraps : Prop :=
  ∀ (s : State) (g : BitVec 4) (i : BitVec 8) (y : BitVec 3) (z a : BitVec 6) (x : X64), s.readP g.toNat = .ok true → s.readX a = .ok x →
    let trap := fun (cause dcode value : Nat) => Host.Outcome.next (s.halt (.trap cause dcode s.issue.slot.number value))
    exec (.bkpt g i) s = trap 0x0C 0 i.toNat
    ∧ (s.cx.task = none → exec (.tkdone g) s = trap 2 6 0)
    ∧ ((∀ h r, s.cx.held = h :: r → h.priv = true) → exec (.tret g) s = trap 2 17 0)
    ∧ (s.cx.region.isSome = true → exec (.nprb g) s = trap 2 14 0)
    ∧ (s.cx.participant = false → exec (.bar g y z) s = trap 2 18 0)
    ∧ (s.issue.mode.priv = false → exec (.eret g) s = trap 4 0 0x0E ∧ exec (.pstop g a) s = trap 4 0 0x1C)
    ∧ (s.cx.inflight ≠ [] → exec (.efence g) s = .next (s.halt (.blocked .fence)))

/-- With its guard true and its mask and sources readable, each of VADD, VSUB, VMUL, VMIN, VMAX, VAND, VOR, VXOR,
VSHL, VSHR, VSRA, VDIV and VREM owes V[d], in the lanes the mask selects, the element-wise result in the type of the
word (floating under VRM, flushed in exposed mode; shifts by the amount modulo the width; division with the corners of
the scalar one), and VFMA the fused a*b+d; latency 2, 4 for floating types, 8 for VDIV and VREM. (R110, R124, R125,
R126, R127, R128) -/
def Obligations.VectorArithmeticResults : Prop :=
  ∀ (s : State) (g : BitVec 4) (d a b : BitVec 5) (m t : BitVec 3) (k : BitVec 64) (x y z : VReg),
    s.readP g.toNat = .ok true → s.readM m = .ok k → s.readV a = .ok x → s.readV b = .ok y →
    let e := Elem.ofCode t
    let rm := rmOf s.issue.mode.vrm
    let ex := !s.issue.mode.ilk
    let two := fun (lat : Nat) (f : Nat → Nat → Nat) =>
      Host.Outcome.next (φ := Fault) (ρ := Refusal) (s.writeV d k (lanesOf fun i => e.map2 f (x.lane i) (y.lane i)) lat)
    exec (.vadd g d a b m t) s = two e.lat (e.combine (fun f => f.add rm ex) (fun u v => u + v))
    ∧ exec (.vsub g d a b m t) s = two e.lat (e.combine (fun f => f.sub rm ex) (fun u v => u - v))
    ∧ exec (.vmul g d a b m t) s = two e.lat (e.combine (fun f => f.mul rm ex) (fun u v => u * v))
    ∧ exec (.vmin g d a b m t) s = two e.lat (e.combine (fun f => f.min ex) e.imin)
    ∧ exec (.vmax g d a b m t) s = two e.lat (e.combine (fun f => f.max ex) e.imax)
    ∧ exec (.vand g d a b m t) s = two 2 (fun u v => u &&& v)
    ∧ exec (.vor g d a b m t) s = two 2 (fun u v => u ||| v)
    ∧ exec (.vxor g d a b m t) s = two 2 (fun u v => u ^^^ v)
    ∧ exec (.vshl g d a b m t) s = two 2 (e.shift fun u n => u <<< n)
    ∧ exec (.vshr g d a b m t) s = two 2 (e.shift fun u n => u >>> n)
    ∧ exec (.vsra g d a b m t) s = two 2 (e.shift fun u n => u.sshiftRight n)
    ∧ exec (.vdiv g d a b m t) s = two 8 (e.combine (fun f => f.div rm ex) (Sys2Proof.divide (!e.signed)))
    ∧ exec (.vrem g d a b m t) s = two 8 (e.combine (fun _ u _ => u) (Sys2Proof.remainder (!e.signed)))
    ∧ (s.readV d = .ok z → exec (.vfma g d a b m t) s = .next (s.writeV d k (lanesOf fun i =>
        e.lane fun h => e.fma rm ex (e.get (x.lane i) h) (e.get (y.lane i) h) (e.get (z.lane i) h)) e.lat))

/-- With its guard true and its operands readable, each of VABS, VNEG, VSQRT, VREC, VRSQ, VEXP2, VLOG2, VMOV, VBCAST,
VIOTA, VINS, VPERM, VPART, VSEL and VEXT owes its destination the lanes the rule gives, in the selected lanes where
the mask selects and in all lanes for VPART and VSEL. (R124, R125, R126, R127, R129, R131, R132, R133, R134) -/
def Obligations.VectorUnaryResults : Prop :=
  ∀ (s : State) (g : BitVec 4) (d a b : BitVec 5) (m t : BitVec 3) (c l : BitVec 6) (k : BitVec 64) (x y : VReg) (w : X64),
    s.readP g.toNat = .ok true → s.readM m = .ok k → s.readV a = .ok x → s.readV b = .ok y → s.readX c = .ok w →
    let e := Elem.ofCode t
    let rm := rmOf s.issue.mode.vrm
    let ex := !s.issue.mode.ilk
    let lanes := fun (sel : BitVec 64) (lat : Nat) (f : Nat → Word) =>
      Host.Outcome.next (φ := Fault) (ρ := Refusal) (s.writeV d sel (lanesOf f) lat)
    let one := fun (lat : Nat) (f : Nat → Nat) => lanes k lat fun i => e.map1 f (x.lane i)
    exec (.vabs g d a m t) s = one e.lat (e.apply (fun f => f.signOp ex fun _ => false) (fun u => if u.msb then -u else u))
    ∧ exec (.vneg g d a m t) s = one e.lat (e.apply (fun f => f.signOp ex fun n => !n) (fun u => -u))
    ∧ exec (.vsqrt g d a m t) s = one 8 (e.apply (fun f => f.sqrt rm ex) id)
    ∧ exec (.vrec g d a m t) s = one 8 (e.apply (fun f => f.div rm ex f.one) id)
    ∧ exec (.vrsq g d a m t) s = one 8 (e.apply (fun f => f.rsqrt rm ex) id)
    ∧ exec (.vexp2 g d a m t) s = one 8 (e.apply (fun f => f.exp2 rm ex) id)
    ∧ exec (.vlog2 g d a m t) s = one 8 (e.apply (fun f => f.log2 rm ex) id)
    ∧ exec (.vmov g d a m t) s = lanes k 2 x.lane
    ∧ exec (.vbcast g d c m) s = lanes k 2 (fun _ => w.setWidth 32)
    ∧ exec (.viota g d m t) s = lanes k 2 (fun i => e.lane fun h => e.perLane * i + h)
    ∧ exec (.vins g d c l) s = lanes (BitVec.twoPow 64 l.toNat) 2 (fun _ => w.setWidth 32)
    ∧ exec (.vperm g d a b m t) s = lanes k 4 (fun i => x.lane ((y.lane i).toNat % 64))
    ∧ exec (.vpart g d a m) s = lanes (BitVec.allOnes 64) 4 (fun i => x.lane
        (((List.range 64).filter (fun j => k.getLsbD j) ++ (List.range 64).filter (fun j => !k.getLsbD j)).getD i 0))
    ∧ exec (.vsel g d a b m t) s = lanes (BitVec.allOnes 64) 2 (fun i => if k.getLsbD i then x.lane i else y.lane i)
    ∧ exec (.vext g a c l 0) s = .next (s.writeX c ((x.lane l.toNat).setWidth 64) 2)
    ∧ exec (.vext g a c l 1) s = .next (s.writeX c ((x.lane l.toNat).signExtend 64) 2)

/-- When a vector result lands, each lane its mask selects holds the new value and each other lane the value it had.
(R125, R60) -/
def Obligations.SelectedLanesOnly : Prop :=
  ∀ (c : Ctx) (n i : Nat) (mask : BitVec 64) (l : VReg), n < 32 → i < 64 →
    ((c.land (.v n) (.v mask l)).getV n).lane i = (if mask.getLsbD i then l.lane i else (c.getV n).lane i)
    ∧ ∀ j, j ≠ n → (c.land (.v n) (.v mask l)).getV j = c.getV j

/-- With its guard true and its operands readable, VRED owes X[d] the value of the fixed tree over the elements,
unselected ones replaced by the identity, with latency 6; VSCAN owes V[d] the running values; VCMP owes M[m] one bit a
lane; MLOG owes M[d] the truth table bit by bit, MPOP owes X[x] the count of set bits, MFROMX and MTOX move a mask.
(R126, R130, R135, R136, R137) -/
def Obligations.ReductionAndMaskResults : Prop :=
  ∀ (s : State) (g : BitVec 4) (d c : BitVec 6) (v a b : BitVec 5) (o m n t u : BitVec 3) (f : BitVec 4) (k q : BitVec 64) (x y : VReg) (w : X64),
    s.readP g.toNat = .ok true → s.readM m = .ok k → s.readM n = .ok q → s.readV a = .ok x → s.readV b = .ok y → s.readX c = .ok w →
    let e := Elem.ofCode t
    let step := e.reduce o.toNat (rmOf s.issue.mode.vrm) (!s.issue.mode.ilk)
    exec (.vred g d a o m t) s = .next (s.writeX d (e.toX ((treeReduce step 8 (e.leaves o.toNat k x)).headD 0)) 6)
    ∧ exec (.vscan g v a o m t) s = .next (s.writeV v k (lanesOf fun i => e.lane fun h =>
        (prefixes step (e.identity o.toNat) (e.leaves o.toNat k x)).getD (e.perLane * i + h) 0) 6)
    ∧ exec (.vcmp g u a b o t) s = .next (s.writeM u
        (bitsOfLanes fun i => vcmpCond o t (!s.issue.mode.ilk) (x.lane i) (y.lane i)) 2)
    ∧ exec (.mpop g d m) s = .next (s.writeX d (BitVec.ofNat 64 (popcount 64 k)) 2)
    ∧ exec (.mfromx g u c) s = .next (s.writeM u w 2)
    ∧ exec (.mtox g d m) s = .next (s.writeX d k 2)
    ∧ ∃ r : BitVec 64, (∀ i, i < 64 → r.getLsbD i = f.getLsbD (2 * (k.getLsbD i).toNat + (q.getLsbD i).toNat))
      ∧ exec (.mlog g u m n f) s = .next (s.writeM u r 2)

/-- With its guard true and its operands readable, VCVT owes the selected lanes each element converted under the
word's rounding mode, elements beyond the common count cleared; VCV8 owes them the FP8 codes at the word's position
with the other bytes kept; VUN8 the FP8 codes widened; VDEC4 owes all lanes the decoded nib elements of the part, and
VENC4 the register with the part's codes encoded and the others kept; latency 4. (R106, R115, R116, R117, R118, R119,
R120, R121) -/
def Obligations.ConversionResults : Prop :=
  ∀ (s : State) (g : BitVec 4) (d a b : BitVec 5) (f t m p : BitVec 3) (r w q : BitVec 2) (e1 o1 : BitVec 1) (c : BitVec 6)
      (k : BitVec 64) (x y old : VReg) (sc : X64),
    s.readP g.toNat = .ok true → s.readM m = .ok k → s.readV a = .ok x → s.readV b = .ok y → s.readV d = .ok old → s.readX c = .ok sc →
    let ex := !s.issue.mode.ilk
    let src := Elem.ofCode f
    let dst := Elem.ofCode t
    let wide := wideElem w
    exec (.vcvt g d a f t r m) s = .next (s.writeV d k (lanesOf fun i => dst.lane fun h =>
      if h < Nat.min src.perLane dst.perLane then convertElem src dst (rmOf r) ex (src.get (x.lane i) h) else 0) 4)
    ∧ exec (.vcv8 g d a e1 w q o1 r m) s = .next (s.writeV d k (lanesOf fun i => laneOfBytes fun n =>
        if q.toNat ≤ n ∧ n < q.toNat + wide.perLane then
          toFp8 (wideFmt w) (fp8Fmt e1) (o1 == 1) (rmOf r) ex (wide.get (x.lane i) (n - q.toNat))
        else laneByte (old.lane i) n) 4)
    ∧ exec (.vun8 g d a e1 w q m) s = .next (s.writeV d k (lanesOf fun i => wide.lane fun h =>
        fromFp8 (wideFmt w) (fp8Fmt e1) ex (laneByte (x.lane i) (q.toNat + h))) 4)
    ∧ exec (.vdec4 g d a b p t) s = .next (s.writeV d (BitVec.allOnes 64) (lanesOf fun i => dst.lane fun h =>
        let j := 64 * dst.perLane * p.toNat + dst.perLane * i + h
        (dst.fmt.getD f32).flush ex ((dst.fmt.getD f32).pack .rne false
          (nibValue s.ccs.ct.toList (vregByte y (j / 32)) (nibCode x j)))) 4)
    ∧ exec (.venc4 g d a c p w) s = .next (s.writeV d (BitVec.allOnes 64) (lanesOf fun i => laneOfBytes fun n =>
        let code := fun j =>
          if 64 * wide.perLane * p.toNat ≤ j ∧ j < 64 * wide.perLane * p.toNat + 64 * wide.perLane then
            let z := j - 64 * wide.perLane * p.toNat
            encodeNib s.ccs.ct.toList (sc.toNat / 2 ^ (8 * (z / 32)) % 256)
              ((wideFmt w).unpack ((wideFmt w).flush ex (wide.get (x.lane (z / wide.perLane)) (z % wide.perLane))))
          else nibCode old j
        code (8 * i + 2 * n) + 16 * code (8 * i + 2 * n + 1)) 4)

/-- With its guard true: KINIT, KCLR and KMRG owe K[k] their update with latency 2, and KINS and KINSI the insertion
of one candidate a selected lane with latency 8, when no update stands in the way; KINSI counts the indices up from
the scalar; KMRG of a list with itself changes nothing; KOUT owes V[d] and V[d+1] the values and indices in rank
order, KLEN the length and KTH the threshold of the list as it stands. (R142, R143, R144, R145, R146, R147) -/
def Obligations.RankedListResults : Prop :=
  ∀ (s : State) (g : BitVec 4) (k j m : BitVec 3) (c : BitVec 6) (u : BitVec 1) (t : BitVec 2) (a b d : BitVec 5) (x e : BitVec 6)
      (sel : BitVec 64) (v w : VReg) (z : X64) (l q : KList),
    s.readP g.toNat = .ok true → s.hazard (.k k.toNat) = .ok () → s.awaitInsert k = .ok () → s.readM m = .ok sel →
    s.readV a = .ok v → s.readV b = .ok w → s.readX x = .ok z → s.readK k = .ok l → s.readK j = .ok q →
    let ex := !s.issue.mode.ilk
    let owed := fun (upd : KUpdate) (lat : Nat) => s.result (.k k.toNat) (.k upd) lat
    let insert := fun (f : Nat → Word) =>
      let cs := ((List.range 64).filter fun i => sel.getLsbD i).map fun i => (⟨v.lane i, f i⟩ : KEntry)
      ((owed (.insert ex cs) 8).writeP 7 false 8).modCx fun y => { y with kinsAt := y.kinsAt.setIfInBounds k.toNat (some s.cycle.toNat) }
    exec (.kinit g k c u t) s = .next (owed (.init (c.toNat + 1) (u == 1) ((KType.ofCode t.toNat).getD .f32)) 2)
    ∧ exec (.kclr g k) s = .next (owed .clear 2)
    ∧ exec (.kins g k a b m) s = .next (insert w.lane)
    ∧ exec (.kinsi g k a x m) s = .next (insert fun i => z.setWidth 32 + BitVec.ofNat 32 i)
    ∧ (j ≠ k → q.type = l.type → q.smallest = l.smallest → exec (.kmrg g k j) s = .next (owed (.merge ex q.entries q.nanDropped) 2))
    ∧ (j = k → exec (.kmrg g k j) s = .next s)
    ∧ (q.type ≠ l.type ∨ q.smallest ≠ l.smallest → exec (.kmrg g k j) s = .next (s.halt (.trap 2 3 s.issue.slot.number 0)))
    ∧ exec (.kout g k d) s = .next ((s.writeV d (BitVec.allOnes 64) (lanesOf fun i => ((l.entries[i]?).map (·.value)).getD 0) 2).writeV
        (d + 1) (BitVec.allOnes 64) (lanesOf fun i => ((l.entries[i]?).map (·.index)).getD 0) 2)
    ∧ exec (.klen g k e) s = .next (s.writeX e (BitVec.ofNat 64 l.entries.length) 2)
    ∧ exec (.kth g k) s = .next (s.result (.kth k.toNat) (.kth l.threshold) 2)

/-- Whatever update is applied to a list that holds at most its capacity in rank order, each value one that may enter,
the list after it holds at most its capacity and stands in rank order with such values. (R138, R139, R140, R142) -/
def Obligations.RankedListStaysRanked : Prop :=
  ∀ (l : KList) (u : KUpdate), l.ranked = true → (u.apply l).ranked = true

/-- A participant's BAR, its guard true, arrives at the barrier of its scope instance, number and partition; its BARX
arrives with lanes 0 to 15 of V[v] and the operation where the generation has no other; with another operation BARX
raises ILLEGAL_OP with DCODE 5, and a context that is no participant DCODE 18. The arrival stands in the barrier and
in the context, which waits. A barrier is full when every participant that has not halted and every counter armed with
ARRIVE on it has arrived. Its release gives every waiter the cycle of its figure and, after BARX, lanes 0 to 15 of
V[v] reduced over the contributions in the order of context numbers, pairs at each level (owed while its partition
does not run); memory, other contexts and other lanes keep their values, and the generation is over. (R94, R95, R151,
R152, R153, R321, R342, R353) -/
def Obligations.BarrierArrivals : Prop :=
  (∀ (s : State) (g : BitVec 4) (y o : BitVec 3) (i : BitVec 6) (v : BitVec 5) (x : VReg),
    s.readP g.toNat = .ok true → s.readV v = .ok x →
    let key : BarKey := ⟨y.toNat, scopeInst y.toNat s.issue.core, i.toNat, s.partOf s.issue.core⟩
    (s.cx.participant = true →
      exec (.bar g y i) s = .next (s.arriveBar s.issue.core s.issue.ctx ⟨key, none⟩)
      ∧ ((s.barrier key).op.getD o.toNat = o.toNat → exec (.barx g y i o v) s = .next (s.arriveBar s.issue.core s.issue.ctx
          ⟨key, some (o.toNat, physV s.issue.rrb v.toNat, (List.range 16).map x.lane)⟩))
      ∧ ((s.barrier key).op.getD o.toNat ≠ o.toNat → exec (.barx g y i o v) s = .next (s.halt (.trap 2 5 s.issue.slot.number 0))))
    ∧ (s.cx.participant = false → exec (.barx g y i o v) s = .next (s.halt (.trap 2 18 s.issue.slot.number 0)))
    ∧ ∀ (c k : Nat) (a : Arrival), k < 4 → ((s.arriveBar c k a).ctx c k).arrivals = (s.ctx c k).arrivals ++ [a]
      ∧ ((s.arriveBar c k a).barrier a.key).arrivals = (s.barrier a.key).arrivals ++ [(4 * c + k, a.barx.map (·.2.2))])
  ∧ (∀ (s : State) (b : Barrier) (c k r : Nat) (w : Option (List Word)) (p : Option (Nat × List Word)),
    (s.barrierMet b = true ↔ (b.arrivals ≠ [] ∨ b.landings ≠ [])
      ∧ (∀ e ∈ s.partCtxs b.key, e.2.participant = true → e.2.run ≠ .halted → ∃ a ∈ b.arrivals, a.1 = e.1)
      ∧ ∀ l ∈ s.expectedLandings b.key, l ∈ b.landings)
    ∧ (∀ n, ((∀ e ∈ s.barriers, s.barrierMet e = false) → s.releaseAll n = s)
      ∧ (s.barriers.find? (fun e => s.barrierMet e) = some b → s.releaseAll (n + 1) = (s.release b).releaseAll n))
    ∧ (k < 4 → b.arrivals.filter (fun a => a.1 == 4 * c + k) = [(4 * c + k, w)] → (s.cs c).part = some b.key.part →
      let x := s.ctx c k
      let y := (s.release b).ctx c k
      let ready := Nat.max x.readyAt (s.cycle.toNat + releaseCycles b.op.isSome b.key.scope)
      x.arrivals = [⟨b.key, p.map fun e => (r, e)⟩] →
        y = { x.observe (s.barrierNews b.key) with arrivals := [], readyAt := ready, wait := .none, waitCycles := 0, v := y.v }
        ∧ (p = none → y.v = x.v)
        ∧ (∀ e, p = some e → e.1 < 32 → (∀ n, n ≠ e.1 → y.getV n = x.getV n)
          ∧ ∀ l < 64, (y.getV e.1).lane l = if l < 16 then b.result l else (x.getV e.1).lane l))
    ∧ (∀ v e, k < 4 → b.arrivals.filter (fun a => a.1 == 4 * c + k) = [(4 * c + k, w)] → s.partState c b.key.part = some v →
      (s.cs c).part ≠ some b.key.part → (v.ctx k).arrivals = [⟨b.key, some (r, e)⟩] → ∃ u, (s.release b).partState c b.key.part = some u
      ∧ (u.ctx k).owedBarx = (v.ctx k).owedBarx ++ [(e.1, (List.range 16).map b.result)] ∧ (u.ctx k).v = (v.ctx k).v
      ∧ (u.ctx k).arrivals = [])
    ∧ (s.release b).mem = s.mem
    ∧ (b.heldLandings = [] → (s.release b).barriers = s.barriers.filter fun e => decide (e.key ≠ b.key))
    ∧ (∀ d j, (∀ a ∈ b.arrivals, a.1 ≠ 4 * d + j) → j < 4 → (s.release b).ctx d j = s.ctx d j))
  ∧ (∀ b : Barrier, (b.leaves.map (·.1)).Pairwise (· ≤ ·) ∧ b.leaves.Perm (b.arrivals.filterMap fun a => a.2.map fun l => (a.1, l)))
  ∧ (∀ (b : Barrier) (i op : Nat) (w x y z v : List Word) (n : Fin 5 → Nat), b.op = some op →
    let at_ := fun (l : List Word) => l.getD i 0
    let f := barxStep op
    (b.leaves = [(n 0, w)] → b.result i = at_ w)
    ∧ (b.leaves = [(n 0, w), (n 1, x)] → b.result i = f (at_ w) (at_ x))
    ∧ (b.leaves = [(n 0, w), (n 1, x), (n 2, y)] → b.result i = f (f (at_ w) (at_ x)) (at_ y))
    ∧ (b.leaves = [(n 0, w), (n 1, x), (n 2, y), (n 3, z)] → b.result i = f (f (at_ w) (at_ x)) (f (at_ y) (at_ z)))
    ∧ (b.leaves = [(n 0, w), (n 1, x), (n 2, y), (n 3, z), (n 4, v)] → b.result i = f (f (f (at_ w) (at_ x)) (f (at_ y) (at_ z))) (at_ v)))
  ∧ (∀ a b : Word, barxStep 1 a b = a + b ∧ barxStep 6 a b = a &&& b ∧ barxStep 7 a b = a ||| b
    ∧ (barxStep 4 a b).toInt = max a.toInt b.toInt ∧ (barxStep 5 a b).toInt = min a.toInt b.toInt
    ∧ barxStep 0 a b = BitVec.ofNat 32 (f32.add .rne false a.toNat b.toNat)
    ∧ (f32.isNan a.toNat = true ∨ f32.isNan b.toNat = true → barxStep 2 a b = BitVec.ofNat 32 f32.nan ∧ barxStep 3 a b = BitVec.ofNat 32 f32.nan)
    ∧ (f32.isNan a.toNat = false → f32.isNan b.toNat = false → barxStep 2 a b = BitVec.ofNat 32 (f32.max false a.toNat b.toNat)
      ∧ barxStep 3 a b = BitVec.ofNat 32 (f32.min false a.toNat b.toNat)))
  ∧ (List.range 4).map (releaseCycles false) = [2, 6, 24, 120] ∧ (List.range 4).map (releaseCycles true) = [4, 10, 40, 200]

/-- With its guard true, CRD owes X[d] the register the map names, zero-extended: the context's and the core's
registers by their numbers, KTH0 to KTH7 once no publication is pending, and in privileged mode SGQUOTA, OVFPTR, ASID
and PTBASE. CWR of a listed register notes the write of X[a] that follows the bundle's slots. A number the map does
not list raises ILLEGAL_OP with either, and a privileged one in user mode PRIV with the opcode. (R62, R90, R147) -/
def Obligations.ControlRegisterAccess : Prop :=
  ∀ (s : State) (g : BitVec 4) (d a : BitVec 6) (x : X64), s.readP g.toNat = .ok true → s.readX a = .ok x →
    let c := s.cx
    let v := s.ccs
    let user : List (BitVec 8 × X64) :=
      [(0x00, c.link), (0x01, ((c.loops.head?.map LoopLevel.lc).getD 0).setWidth 64), (0x02, ((c.loops.head?.map LoopLevel.ec).getD 0).setWidth 64),
        (0x03, c.rrb.xb.setWidth 64 ||| c.rrb.vb.setWidth 64 <<< 8 ||| c.rrb.pb.setWidth 64 <<< 16),
        (0x08, BitVec.ofNat 64 (c.mode.ilk.toNat + 2 * c.mode.vrm.toNat + 256 * c.mode.priv.toNat)), (0x09, c.tvec), (0x0A, c.tpc),
        (0x0B, c.tcause.setWidth 64), (0x0C, c.tinfo), (0x0D, c.tsave), (0x10, c.wstep.setWidth 64), (0x11, BitVec.ofNat 64 (v.part.getD 0)),
        (0x20, s.cycle), (0x21, c.bcount), (0x28, BitVec.ofNat 64 (s.issue.core % 64)), (0x29, BitVec.ofNat 64 s.issue.ctx),
        (0x2A, BitVec.ofNat 64 (s.issue.core % 64 / 4)), (0x2B, BitVec.ofNat 64 (s.issue.core / 64)), (0x2C, BitVec.ofNat 64 s.pod.pkgid),
        (0x30, c.tklo), (0x31, c.tkhi), (0x32, c.tkgrain), (0x33, c.tkarg), (0x34, c.tkid),
        (0x38, BitVec.ofNat 64 (v.fwpos + 2 ^ 32 * v.fwseq.toNat + 2 ^ 48 * v.fwrun.toNat)),
        (0x40, BitVec.ofNat 64 c.nprlim), (0x41, c.barto.setWidth 64), (0x42, c.waitto.setWidth 64)]
    let priv : List (BitVec 8 × X64) :=
      [(0x80, BitVec.ofNat 64 v.quota), (0x81, v.ovfptr), (0x82, v.asid.setWidth 64), (0x83, v.ptbase)]
    let note := fun (n : BitVec 8) => Host.Outcome.next (s.modIssue fun j => { j with after := j.after ++ [.cwr n.toNat x] })
    let trap := fun (cause value : Nat) => Host.Outcome.next (s.halt (.trap cause 0 s.issue.slot.number value))
    (∀ e ∈ user, exec (.crd g e.1 d) s = .next (s.writeX d e.2 1) ∧ exec (.cwr g e.1 a) s = note e.1)
    ∧ (∀ n : BitVec 8, 0x18 ≤ n.toNat → n.toNat ≤ 0x1F → s.hazard (.kth (n.toNat - 0x18)) = .ok () →
      exec (.crd g n d) s = .next (s.writeX d ((c.kth[n.toNat - 0x18]?.getD 0).setWidth 64) 1) ∧ exec (.cwr g n a) s = note n)
    ∧ (∀ e ∈ priv, (s.issue.mode.priv = true → exec (.crd g e.1 d) s = .next (s.writeX d e.2 1) ∧ exec (.cwr g e.1 a) s = note e.1)
      ∧ (s.issue.mode.priv = false → exec (.crd g e.1 d) s = trap 4 0x0F ∧ exec (.cwr g e.1 a) s = trap 4 0x10))
    ∧ (∀ n : BitVec 8, n ∉ user.map (·.1) → n ∉ priv.map (·.1) → ¬ (0x18 ≤ n.toNat ∧ n.toNat ≤ 0x1F) →
      exec (.crd g n d) s = trap 2 0 ∧ exec (.cwr g n a) s = trap 2 0)

/-- A write of a value by number leaves LINK, TVEC, TPC, TSAVE and BCOUNT with the value, WSTEP, BARTO and WAITTO with
its low 32 bits, RRB with the three bases and its reserved bits 0, MODE with ILK and VRM from it and PRIV as it was,
NPRLIM with the value clamped to 1 to 65,536 (that bits above its field count in the clamp is the model's choice, log
entry 1), and LC and EC of the innermost level with their bits; OVFPTR, ASID and PTBASE of the core likewise, and
SGQUOTA with the value clamped to at most the store less the PINNED total and, within that, to at least the largest
known-set sum of an outstanding ticket. A read-only register keeps its value whatever is written to it, and a write
changes no memory. (R7, R61, R62, R63, R84, R90, R289) -/
def Obligations.ControlRegisterWrites : Prop :=
  ∀ (s : State) (core k : Nat) (x : X64), k < 4 →
    let w := fun (n : Nat) => s.crnWrite core k n x
    let reads := fun (n : Nat) => (w n).crnRead core k n
    reads 0x00 = some x ∧ reads 0x09 = some x ∧ reads 0x0A = some x ∧ reads 0x0D = some x ∧ reads 0x21 = some x
    ∧ reads 0x10 = some (x &&& 0xFFFFFFFF) ∧ reads 0x41 = some (x &&& 0xFFFFFFFF) ∧ reads 0x42 = some (x &&& 0xFFFFFFFF)
    ∧ reads 0x03 = some (x &&& 0x70F0F)
    ∧ reads 0x08 = some ((x &&& 7) ||| (if (s.ctx core k).mode.priv then 256 else 0))
    ∧ reads 0x40 = some (BitVec.ofNat 64 (Nat.max 1 (Nat.min 65536 x.toNat)))
    ∧ ((s.ctx core k).loops ≠ [] → reads 0x01 = some (x &&& 0xFFFFFFFF) ∧ reads 0x02 = some (x &&& 15))
    ∧ ((s.ctx core k).loops = [] → reads 0x01 = some 0 ∧ reads 0x02 = some 0)
    ∧ reads 0x81 = some x ∧ reads 0x82 = some (x &&& 0xFFFF) ∧ reads 0x83 = some x
    ∧ (let v := s.cs core
      let most := storeGranules (s.core core).cacheKiB - v.pinnedTotal
      let sum := fun (t : Ticket) => v.setSum t.known + t.extra
      let q := ((w 0x80).cs core).quota
      reads 0x80 = some (BitVec.ofNat 64 q) ∧ q ≤ most ∧ (most ≤ x.toNat → q = most)
      ∧ ((∀ t ∈ v.tickets, sum t ≤ x.toNat) → x.toNat ≤ most → q = x.toNat)
      ∧ ∀ t ∈ v.tickets, (∀ u ∈ v.tickets, sum u ≤ sum t) → x.toNat ≤ sum t → sum t ≤ most → q = sum t)
    ∧ (∀ n, n ∈ [0x0B, 0x0C, 0x11, 0x18, 0x19, 0x1A, 0x1B, 0x1C, 0x1D, 0x1E, 0x1F, 0x20, 0x28, 0x29, 0x2A, 0x2B, 0x2C, 0x30, 0x31, 0x32,
        0x33, 0x34, 0x38] → ∀ m, (w n).crnRead core k m = s.crnRead core k m)
    ∧ ∀ n, (w n).mem = s.mem ∧ State.applyWrite core k s (.cwr n x) = w n

/-- With its guard true: WAITS goes on, changing nothing but which completions the context has observed (R191; log
entry 5), when the signed 16-bit difference of the count and X[x] is not negative, and is blocked otherwise; SIGS adds
X[x][15:0] to the count modulo 2^16; SEMSET sets it. WAITW of a word that translates and still equals X[b] is blocked;
of one that differs it goes on, with no byte of memory changed; once its wait has ended it goes on; an address that
does not translate takes the trap with the page in VALUE, and an uncorrectable error in the word or in an entry of its
walk raises MEM_UNCORRECTABLE (the model's reading, log entry 43). (R44, R92, R313, R315, R343, R360) -/
def Obligations.SemaphoreWaits : Prop :=
  ∀ (s : State) (g : BitVec 4) (y : BitVec 8) (a b : BitVec 6) (x v : X64), s.readP g.toNat = .ok true → s.readX a = .ok x → s.readX b = .ok v →
    let count := s.ccs.sems.read 0 y.toNat
    let put := fun (t : State) (n : BitVec 16) => Host.Outcome.next (t.modCcs fun w => { w with sems := w.sems.write 0 y.toNat n })
    let va := x.toNat / 8 * 8
    (0 ≤ (count - x.setWidth 16).toInt → exec (.waits g y a) s = .next (s.modCx fun c => c.observe (s.semNews s.issue.core y.toNat)))
    ∧ ((count - x.setWidth 16).toInt < 0 → exec (.waits g y a) s = .next (s.halt (.blocked .waits)))
    ∧ exec (.sigs g y a) s = put s (BitVec.ofNat 16 (count.toNat + x.toNat % 2 ^ 16))
    ∧ exec (.semset g y a) s = put (s.forgetSem s.issue.core y.toNat) (x.setWidth 16)
    ∧ (s.cx.waitwEnded = true → exec (.waitw g a b) s = .next (s.modCx fun c => { c with waitwEnded := false }))
    ∧ (s.cx.waitwEnded = false → s.cx.wait = .waitw va v → exec (.waitw g a b) s = .next (s.halt (.blocked (.waitw va v))))
    ∧ (s.cx.waitwEnded = false → s.cx.wait ≠ .waitw va v →
      (∀ ls, s.locs s.issue.core va 8 false = .ok ls → s.soiled ls = none →
        (leNat (s.bytesAt ls) = v.toNat → exec (.waitw g a b) s = .next (s.halt (.blocked (.waitw va v))))
        ∧ (leNat (s.bytesAt ls) ≠ v.toNat → ∃ t, exec (.waitw g a b) s = .next t ∧ t.mem = s.mem ∧ t.issue = s.issue))
      ∧ (∀ ls, s.locs s.issue.core va 8 false = .ok ls → (s.soiled ls).isSome → exec (.waitw g a b) s
        = .next (s.halt (.trap 0x0B 0 s.issue.slot.number (memErrorValue s.issue.pc (s.physOf va)))))
      ∧ (∀ cause f, s.locs s.issue.core va 8 false = .error (cause, f) →
        exec (.waitw g a b) s = .next (s.halt (.trap cause 0 s.issue.slot.number (s.pageValue s.issue.core s.issue.pc cause f 0)))))

/-- With its guard true and no uncorrectable error in the words summed: ISUM owes X[d] the checksum of the first X[a]
words of a bank, due ceil(n / 16) + 4 cycles later; above 16,384 words it raises SEG_BOUND naming the bank. BANKSW
starts the sum of the idle bank and stalls; decided equal it swaps the banks, decided unequal it raises CHECKSUM with
the sum. TKNEXT owes X[d] and X[d+1] the next chunk of the part and moves TKLO to its end, its bounds both TKHI when
none is left, 0 without a part. Privileged PSTOP goes on at a core with no gang or with all three members parked,
starts the drain of a gang, waits while a member has not parked, and then drops the tokens left (log entry 31). That
ISUM and BANKSW sum the words as they stand when ISUM issues and when the sum starts, and that the swap discards words
fetched ahead, is log entry 5: both are the model's choice. (R96, R97, R99, R100, R198, R266, R274) -/
def Obligations.BankSumsAndParts : Prop :=
  ∀ (s : State) (g : BitVec 4) (d a b : BitVec 6) (k : BitVec 1) (x y : X64), s.readP g.toNat = .ok true → s.readX a = .ok x → s.readX b = .ok y →
    let now := s.cycle.toNat
    let trap := fun (cause value : Nat) => Host.Outcome.next (s.halt (.trap cause 0 s.issue.slot.number value))
    let owe := fun (t : State) (kind : LoadKind) (l : List (Reg × RegVal)) (due : Nat) => Host.Outcome.next (t.loadResult kind l due 0)
    let bank := fun (i : Bool) => if i then s.ccs.bank1 else s.ccs.bank0
    let idle := !s.ccs.active
    let core := 64 * (s.issue.core / 64) + x.toNat
    (x.toNat ≤ 16384 → s.ccs.codeFlawed (1 + k.toNat) x.toNat = false → exec (.isum g d a k) s = owe s .isum (s.xDest d ((checksum (bank (k == 1)) x.toNat).setWidth 64))
      (now + ((x.toNat + 15) / 16 + 4)))
    ∧ (16384 < x.toNat → exec (.isum g d a k) s = trap 7 (0xFE + k.toNat))
    ∧ (s.cx.bank = none → y.toNat ≤ 16384 → s.ccs.codeFlawed (1 + idle.toNat) y.toNat = false → exec (.banksw g a b) s = .next (s.modIssue fun i => { i with
        start := some (.banksw ⟨s.issue.pc, s.issue.rep, checksum (bank idle) y.toNat, x.setWidth 32, now + ((y.toNat + 15) / 16 + 4)⟩)
        verdict := some .stalled }))
    ∧ (s.cx.bank = none → 16384 < y.toNat → exec (.banksw g a b) s = trap 7 (0xFE + idle.toNat))
    ∧ (∀ w, s.cx.bank = some w → w.pc = s.issue.pc → w.rep = s.issue.rep →
      (now < w.due → exec (.banksw g a b) s = .next (s.halt (.blocked .banksw)))
      ∧ (w.due ≤ now → w.sum ≠ w.expect → exec (.banksw g a b) s = trap 0x0E w.sum.toNat)
      ∧ (w.due ≤ now → w.sum = w.expect →
        exec (.banksw g a b) s = .next ((s.modCx fun c => { c with bank := none, stale := c.stale.filter fun w => !w.seen }).modCcs
          fun v => { v with active := !v.active })))
    ∧ (let c := s.cx
      let next := fun (lo e cursor : X64) =>
        owe (s.modCx fun c => { c with tklo := cursor }) .tknext (s.xDest d lo ++ s.xDest (d + 1) e) 0
      (c.task = none → exec (.tknext g d) s = next 0 0 c.tklo)
      ∧ (c.task.isSome = true → c.tkhi.toInt ≤ c.tklo.toInt → exec (.tknext g d) s = next c.tkhi c.tkhi c.tklo)
      ∧ (c.task.isSome = true → c.tklo.toInt < c.tkhi.toInt → ∃ e : X64,
        e.toInt = min (c.tklo.toInt + c.tkgrain.toNat) c.tkhi.toInt ∧ exec (.tknext g d) s = next c.tklo e e))
    ∧ (s.issue.mode.priv = true → 64 ≤ x.toNat → exec (.pstop g a) s = trap 2 0)
    ∧ (s.issue.mode.priv = true → x.toNat < 64 →
      ((s.cs core).gang = none → exec (.pstop g a) s = .next s)
      ∧ (∀ q, (s.cs core).gang = some q → q.stopping = false → (s.cs core).gangParked = false → exec (.pstop g a) s = .next (s.modIssue fun i =>
          { i with start := some (.pstop core), verdict := some (.blocked .pstop) }))
      ∧ (∀ q, (s.cs core).gang = some q → q.stopping = false → (s.cs core).gangParked = true → exec (.pstop g a) s = .next (s.modCS core id))
      ∧ ((s.cs core).gangParked = true ↔ (s.cs core).gang.isSome = true ∧ ∀ k < 3, ((s.cs core).ctx k).parked = true)
      ∧ (∀ q, (s.cs core).gang = some q → q.stopping = true → (s.cs core).gangParked = false →
        exec (.pstop g a) s = .next (s.halt (.blocked .pstop)))
      ∧ (∀ q, (s.cs core).gang = some q → q.stopping = true → 3 ≤ q.stopped.length → (s.cs core).gangParked = true →
        exec (.pstop g a) s = .next (s.modCS core fun v => { v with
          gang := some { q with stopping := false }, pipes := v.pipes.map fun p => { p with elems := p.elems.filter Option.isSome } })))

/-- A trap writes TCAUSE, TPC and TINFO (value, slot, repetition, detail). A user cause of a context in user mode,
outside a handler and with a handler address, holds aside MODE, loops, sticky slots and the entries counted in
bundles, and goes on at TVEC at repetition 0, interlocked, rounding to nearest even, with an empty loop stack, empty
sticky slots and an empty flight record. A supervisor cause, a user cause with TVEC 0 (DCODE 16) or in privileged mode
stops the context where it is. A user cause in a handler stops it with the first trap's registers kept. Entries
counted in cycles land first; memory and the other contexts keep their values; a halt of an issuing slot takes the
trap at its bundle. (R341, R343, R344, R345, R346, R348, R349) -/
def Obligations.TrapEntry : Prop :=
  ∀ (s : State) (core k cause dcode slot value pc rep : Nat), k < 4 →
    let t := s.takeTrap core k cause dcode slot value pc rep
    let x := s.ctx core k
    let y := t.ctx core k
    let user := cause ∉ [0x04, 0x09, 0x0A, 0x0B, 0x0F]
    let handler := x.held.any fun h => !h.priv
    let info := fun (d : Nat) => BitVec.ofNat 64 (value % 2 ^ 48 + 2 ^ 48 * slot + 2 ^ 51 * rep + 2 ^ 54 * d)
    let saved := fun (d : Nat) => y.tcause = BitVec.ofNat 8 cause ∧ y.tpc = BitVec.ofNat 64 pc ∧ y.tinfo = info d
    let stays := y.pc = x.pc ∧ y.rep = x.rep ∧ y.mode = x.mode ∧ y.loops = x.loops ∧ y.sticky = x.sticky ∧ y.held = x.held
      ∧ y.flight = x.flight.filter fun e => !e.cycles
    (user → handler = false → x.mode.priv = false → x.tvec ≠ 0 →
      saved dcode ∧ y.pc = x.tvec.toNat ∧ y.rep = 0 ∧ y.mode = ⟨true, 0, false⟩ ∧ y.loops = [] ∧ y.sticky = .nop ∧ y.flight = []
        ∧ y.held = ⟨false, x.mode, x.loops, x.sticky, x.flight.filter (fun e => !e.cycles), some pc, none⟩ :: x.held ∧ y.stop = x.stop)
    ∧ (user → handler = false → x.mode.priv = false → x.tvec = 0 → saved 16 ∧ stays ∧ y.stop = some ⟨.trap, pc, rep⟩)
    ∧ (¬ user ∨ x.mode.priv = true → saved dcode ∧ stays ∧ y.stop = some ⟨.trap, pc, rep⟩)
    ∧ (user → handler = true → x.mode.priv = false →
      y.tcause = x.tcause ∧ y.tpc = x.tpc ∧ y.tinfo = x.tinfo ∧ stays ∧ y.stop = some ⟨.nested, pc, rep⟩)
    ∧ (x.flight.all (fun e => !e.cycles) = true → y.x = x.x ∧ y.p = x.p ∧ y.v = x.v ∧ y.m = x.m ∧ y.k = x.k ∧ y.kth = x.kth)
    ∧ y.rrb = x.rrb ∧ y.link = x.link ∧ y.wstep = x.wstep ∧ y.bcount = x.bcount ∧ y.tvec = x.tvec ∧ y.tsave = x.tsave ∧ y.loads = x.loads
    ∧ t.mem = s.mem ∧ (∀ c j, c ≠ core ∨ j ≠ k → t.ctx c j = s.ctx c j)
    ∧ s.halt (.trap cause dcode slot value) = (s.takeTrap s.issue.core s.issue.ctx cause dcode slot value s.issue.pc s.issue.rep).modIssue
        fun i => { i with verdict := some (.trap cause dcode slot value) }

/-- A return lands every pending result of the routine, restores MODE, loops, sticky slots and the frozen entries of
the innermost environment, and goes on at TPC: at repetition TINFO.REP when TPC is the address recorded at entry, at
repetition 0 otherwise (log entry 39: after SYSC no address is recorded, and names follow the RRB). With nothing
pending the registers keep the values the routine left. Entering an environment and returning at once gives back MODE,
loops, sticky slots, the environments beneath and the entries counted in bundles. That ERET, as TRET, lets the context
issue in the fourth cycle after is the model's choice (log entry 33). (R347, R349) -/
def Obligations.TrapReturn : Prop :=
  ∀ (c : Ctx) (h : Held) (r : List Held) (priv : Bool) (entry : Option Nat) (target : Nat),
    (c.held = h :: r →
      let y := c.leaveEnv
      y.held = r ∧ y.mode = h.mode ∧ y.loops = h.loops ∧ y.sticky = h.sticky ∧ y.flight = h.frozen ∧ y.pc = c.tpc.toNat
        ∧ (h.entry ≠ some c.tpc.toNat → y.rep = 0)
        ∧ (h.entry = some c.tpc.toNat → y.rep = c.tinfo.toNat / 2 ^ 51 % 8)
        ∧ (h.entry ≠ some c.tpc.toNat → y.ticket = none ∧ c.leftTicket = h.ticket)
        ∧ (h.entry = some c.tpc.toNat → y.ticket = h.ticket ∧ c.leftTicket = none)
        ∧ y.tcause = c.tcause ∧ y.tpc = c.tpc ∧ y.tinfo = c.tinfo ∧ y.link = c.link ∧ y.rrb = c.rrb
        ∧ (c.flight = [] → y.x = c.x ∧ y.p = c.p ∧ y.v = c.v ∧ y.m = c.m ∧ y.k = c.k))
    ∧ (let y := (c.enterEnv priv entry target).leaveEnv
      y.mode = c.mode ∧ y.loops = c.loops ∧ y.sticky = c.sticky ∧ y.held = c.held ∧ y.flight = c.flight.filter (fun e => !e.cycles)
        ∧ y.x = c.x ∧ y.pc = c.tpc.toNat ∧ y.ticket = if entry = some c.tpc.toNat then c.ticket else none)
    ∧ (∀ (s : State) (core k : Nat), k < 4 → (s.ctx core k).lastLanding = 0 →
      State.applyEnd core k s .tret = (s.modCtx core k fun x => { x.leaveEnv with readyAt := s.cycle.toNat + 4 }).modCS core
        (fun v => { v with tickets := v.tickets.filter fun t => decide ((s.ctx core k).leftTicket ≠ some t.num) })
      ∧ State.applyEnd core k s .eret = State.applyEnd core k s .tret)

/-- With its guard true, its operands readable, every byte translating and no uncorrectable error in the words read:
LD owes X[d] the bytes at X[b] + imm * size, extended by its type; ST stores the low bytes of X[y]; AMO and AMO4 owe
X[d] the old value and store what the op makes of it; CAS and CAS4 store where the old value equals the expected one.
An atomic off its size's alignment raises MISALIGNED; a byte that does not translate traps with its page in VALUE (or,
at an uncorrectable error in an entry of the walk, the bundle and the granule) and nothing is accessed; that such an
entry fails the access, and the line within the granule kept above bit 47, are the model's (log entry 43). PREF
changes no memory and never traps; CTW sets the entry of the code table. X0 as destination discards the value. LD of a
word with such an error leaves X[d] pending with the load marked. (R106, R169, R170, R172, R173, R174, R175, R303,
R343, R360) -/
def Obligations.ScalarMemoryResults : Prop :=
  ∀ (s : State) (g : BitVec 4) (d a b : BitVec 6) (z o : BitVec 3) (i : BitVec 6) (e : BitVec 9) (x y w : X64),
    s.readP g.toNat = .ok true → s.readX a = .ok x → s.readX b = .ok y →
    let core := s.issue.core
    let size : Nat := [1, 2, 4, 8, 1, 2, 4].getD z.toNat 1
    let va := (x + BitVec.ofInt 64 (i.toInt * size)).toNat
    let at_ := fun (ls : List Nat) => leNat (s.bytesAt ls)
    let owed := fun (t : State) (ls : List Nat) (v : X64) (a : Nat) =>
      Host.Outcome.next ((t.observeWords core s.issue.ctx ls).loadResult .memory (s.xDest d v) 0 (s.physOf a))
    let fails := fun (cause f : Nat) => Host.Outcome.next (s.halt (.trap cause 0 s.issue.slot.number (s.pageValue core s.issue.pc cause f 0)))
    let atomic := fun (i : Instr) (n : Nat) (f : Nat → Option Nat) =>
      (x.toNat % n ≠ 0 → exec i s = .next (s.halt (.trap 5 0 s.issue.slot.number (x.toNat % 2 ^ 48))))
      ∧ (x.toNat % n = 0 →
        (∀ ls, s.locs core x.toNat n true = .ok ls → s.soiled ls = none → exec i s = owed (match f (at_ ls) with
          | some v => (s.observeWords core s.issue.ctx ls).storeAt x.toNat n ls (leBytes n v)
          | none => (s.observeWords core s.issue.ctx ls).touchAll core x.toNat n ls true) ls (BitVec.ofNat 64 (at_ ls)) x.toNat)
        ∧ (∀ c f, s.locs core x.toNat n true = .error (c, f) → exec i s = fails c f))
    (∀ ls, s.locs core va size false = .ok ls → s.soiled ls = none → exec (.ld g d a z i) s = owed (s.touchAll core va size ls false) ls
        (if z.toNat < 4 then BitVec.ofNat 64 (at_ ls) else BitVec.ofInt 64 (sextNat (8 * size) (at_ ls))) va)
    ∧ (∀ ls, s.locs core va size false = .ok ls → (s.soiled ls).isSome → d ≠ 0 → s.issue.ctx < 4 →
      ∃ t l, exec (.ld g d a z i) s = .next t ∧ t.mem = s.mem ∧ t.cx.loads.getLast? = some l
        ∧ l.err = true ∧ l.dests.map (·.1) = [.x (physX s.issue.rrb d.toNat)])
    ∧ (∀ c f, s.locs core va size false = .error (c, f) → exec (.ld g d a z i) s = fails c f)
    ∧ (s.readX d = .ok w → ∀ ls, s.locs core va size true = .ok ls → exec (.st g d a z i) s = .next (s.storeAt va size ls (leBytes size w.toNat)))
    ∧ (s.readX d = .ok w → ∀ c f, s.locs core va size true = .error (c, f) → exec (.st g d a z i) s = fails c f)
    ∧ atomic (.amo g d a b o) 8 (fun old => some (amoValue o (BitVec.ofNat 64 old) y).toNat)
    ∧ atomic (.amo4 g d a b o) 4 (fun old => some (amoValue o (BitVec.ofNat 32 old) (y.setWidth 32)).toNat)
    ∧ (s.readX d = .ok w → atomic (.cas g d a b) 8 (fun old => if old = w.toNat then some y.toNat else none)
      ∧ atomic (.cas4 g d a b) 4 (fun old => if old = w.toNat % 2 ^ 32 then some (y.toNat % 2 ^ 32) else none))
    ∧ (∃ t, exec (.pref g a e) s = .next t ∧ t.mem = s.mem ∧ t.issue = s.issue ∧ t.cores = s.cores)
    ∧ exec (.ctw g a e) s = .next (s.modCcs fun v => { v with ct := v.ct.setIfInBounds e.toNat (x.setWidth 8) })

/-- With its guard true, its operands readable and a segment of the name that is resident, within SGQUOTA, of an
access role and free of uncorrectable errors: LDS8 and LDS4 owe X[d] the bytes at the offset X[o] zero-extended with
latency 4 and VLDS owes V[v] 256 bytes with latency 6; STS8, STS4 and VSTS write theirs; an incremented form owes X[o]
the offset plus the size. An access that passes the end raises SEG_BOUND naming the segment, a vector's with the
lowest lane that passes it; at the stack's end or beyond, the access goes to OVFPTR plus the excess instead, and a
vector's page that fails is told with its lane. That the sum is taken modulo 2^64 and that the stack's segment is
counted in the bundle's known set and waited for is the model's choice (log entry 61). VGTS owes the selected lanes
the words at their offsets and VSCS writes them in ascending order; a lane out of bounds raises SEG_BOUND with the
lowest such lane. (Stores: no landing counter armed.) (R124, R156, R157, R158, R159, R171, R176, R177, R179, R285) -/
def Obligations.SegmentAccessResults : Prop :=
  ∀ (s : State) (gd : BitVec 4) (r o : BitVec 6) (y : BitVec 8) (n : BitVec 1) (v j : BitVec 5) (m : BitVec 2) (k : BitVec 3)
      (x w : X64) (q idx : VReg) (sel : BitVec 64) (id : Nat) (g : Seg),
    s.readP gd.toNat = .ok true → s.readX o = .ok x → s.readX r = .ok w → s.readV v = .ok q → s.readV j = .ok idx → s.readM k = .ok sel →
    s.segReady y.toNat id g → s.ccs.seg id = some g → m.toNat ≤ 1 →
    let u := s.useSeg id g
    let core := s.issue.core
    let len := 256 * g.len
    let read := fun (off n : Nat) => s.ccs.segRead id off n
    let inc := fun (t : State) (one : Bool) (size : Nat) => if one then t.writeX o (x + BitVec.ofNat 64 size) 1 else t
    let bound := fun (value : Nat) => Host.Outcome.next (s.halt (.trap 7 0 s.issue.slot.number value))
    let off := x.toNat
    let voff := (x + s.issue.step).toNat
    let lane := fun (l : Nat) => ((idx.lane l).setWidth 64 + s.issue.step).toNat
    let lanes := (List.range 64).filter fun l => sel.getLsbD l
    let loads := fun (i : Instr) (one : Bool) (va n : Nat) (dests : List Nat → List (Reg × RegVal)) =>
      ∀ ls, s.locs core va n false = .ok ls → s.soiled ls = none → exec i s = .next
        (inc (((u.touchAll core va n ls false).observeWords core s.issue.ctx ls).loadResult .memory (dests ls) 0 (s.physOf va)) one n)
    let stores := fun (i : Instr) (one : Bool) (va n : Nat) (bs : List Byte) =>
      s.quiet → ∀ ls, s.locs core va n true = .ok ls → exec i s = .next (inc (u.storeAt va n ls bs) one n)
    let fails := fun (i : Instr) (va : Nat) (write : Bool) => ∀ c f, s.locs core va 256 write = .error (c, f) →
      exec i s = .next (s.halt (.trap c 0 s.issue.slot.number (s.pageValue core s.issue.pc c f ((f - va) / 4))))
    (off + 8 ≤ len → exec (.lds8 gd r y o n) s = .next (inc (u.writeX r (BitVec.ofNat 64 (leNat (read off 8))) 4) (n == 1) 8))
    ∧ (off + 4 ≤ len → exec (.lds4 gd r y o n) s = .next (inc (u.writeX r (BitVec.ofNat 64 (leNat (read off 4))) 4) (n == 1) 4))
    ∧ (voff + 256 ≤ len → exec (.vlds gd v y o m) s = .next (inc (u.writeV v (BitVec.allOnes 64) (vregOfBytes (read voff 256)) 6) (m == 1) 256))
    ∧ (s.quiet →
      (off + 8 ≤ len → exec (.sts8 gd r y o n) s = .next (inc (u.sstore core id off (leBytes 8 w.toNat)) (n == 1) 8))
      ∧ (off + 4 ≤ len → exec (.sts4 gd r y o n) s = .next (inc (u.sstore core id off (leBytes 4 w.toNat)) (n == 1) 4))
      ∧ (voff + 256 ≤ len → exec (.vsts gd v y o m) s = .next (inc (u.sstore core id voff (vregBytes q)) (m == 1) 256))
      ∧ ((∀ l ∈ lanes, lane l + 4 ≤ len) → exec (.vscs gd v y j k) s
        = .next (lanes.foldl (fun t l => t.sstore core id (lane l) (leBytes 4 (q.lane l).toNat)) u)))
    ∧ ((∀ l ∈ lanes, lane l + 4 ≤ len) → exec (.vgts gd v y j k) s = .next (u.loadResult .segment
        [(.v (physV s.issue.rrb v.toNat), .v sel (lanesOf fun l => BitVec.ofNat 32 (leNat (read (lane l) 4))))] 0 0))
    ∧ (∀ l, lanes.find? (fun l => decide (len < lane l + 4)) = some l →
      exec (.vgts gd v y j k) s = bound (y.toNat + 2 ^ 8 * l) ∧ exec (.vscs gd v y j k) s = bound (y.toNat + 2 ^ 8 * l))
    ∧ (len < off + 8 → g.role ≠ .stack ∨ off < len → exec (.lds8 gd r y o n) s = bound y.toNat ∧ exec (.sts8 gd r y o n) s = bound y.toNat)
    ∧ (len < off + 4 → g.role ≠ .stack ∨ off < len → exec (.lds4 gd r y o n) s = bound y.toNat ∧ exec (.sts4 gd r y o n) s = bound y.toNat)
    ∧ (len < voff + 256 → g.role ≠ .stack ∨ voff < len →
      let value := y.toNat + 2 ^ 8 * ((len - voff) / 4)
      exec (.vlds gd v y o m) s = bound value ∧ exec (.vsts gd v y o m) s = bound value)
    ∧ (∀ va, (s.overflowsTo g off va →
        loads (.lds8 gd r y o n) (n == 1) va 8 (fun ls => s.xDest r (BitVec.ofNat 64 (leNat (s.bytesAt ls))))
        ∧ loads (.lds4 gd r y o n) (n == 1) va 4 (fun ls => s.xDest r (BitVec.ofNat 64 (leNat (s.bytesAt ls))))
        ∧ stores (.sts8 gd r y o n) (n == 1) va 8 (leBytes 8 w.toNat) ∧ stores (.sts4 gd r y o n) (n == 1) va 4 (leBytes 4 w.toNat))
      ∧ (s.overflowsTo g voff va →
        loads (.vlds gd v y o m) (m == 1) va 256
          (fun ls => [(.v (physV s.issue.rrb v.toNat), .v (BitVec.allOnes 64) (vregOfBytes (s.bytesAt ls)))])
        ∧ stores (.vsts gd v y o m) (m == 1) va 256 (vregBytes q)
        ∧ fails (.vlds gd v y o m) va false ∧ fails (.vsts gd v y o m) va true))

/-- With its guard true, its operands readable and every selected lane's four bytes translating, and for the loads no
uncorrectable error in them: VLDG and VGTG owe the selected lanes of V[v] the words at X[x] + 4 * lane, or at X[x]
plus the lane's signed index; VSTG and VSCG store the selected lanes there in ascending order. The lowest selected
lane that does not translate traps with its page and its number in VALUE (or, at an uncorrectable error in an entry of
the walk, the bundle, the granule and above bit 47 its line: the model's reading, log entry 43), before any lane is
accessed. (R125, R176, R178, R180, R343, R360) -/
def Obligations.GatherAndScatterResults : Prop :=
  ∀ (s : State) (gd : BitVec 4) (v j : BitVec 5) (x : BitVec 6) (m : BitVec 3) (a : X64) (q idx : VReg) (k : BitVec 64) (f : Nat → List Nat),
    s.readP gd.toNat = .ok true → s.readX x = .ok a → s.readV v = .ok q → s.readV j = .ok idx → s.readM m = .ok k →
    let core := s.issue.core
    let lanes := (List.range 64).filter fun l => k.getLsbD l
    let straight := fun (l : Nat) => (a + BitVec.ofNat 64 (4 * l)).toNat
    let indexed := fun (l : Nat) => (a + (idx.lane l).signExtend 64).toNat
    let gathers := fun (i : Instr) (addr : Nat → Nat) => (∀ l ∈ lanes, s.soiled (f l) = none) → ∃ ph,
      exec i s = .next (((lanes.foldl (fun t l => t.touchAll core (addr l) 4 (f l) false) s).observeWords core s.issue.ctx
        (lanes.flatMap f)).loadResult .memory
        [(.v (physV s.issue.rrb v.toNat), .v k (lanesOf fun l => if k.getLsbD l then BitVec.ofNat 32 (leNat (s.bytesAt (f l))) else 0))] 0 ph)
    let scatters := fun (i : Instr) (addr : Nat → Nat) =>
      exec i s = .next (lanes.foldl (fun t l => t.storeAt (addr l) 4 (f l) (leBytes 4 (q.lane l).toNat)) s)
    let traps := fun (i : Instr) (addr : Nat → Nat) (write : Bool) => ∀ l cause va, l ∈ lanes →
      (∀ n ∈ lanes, n < l → s.locs core (addr n) 4 write = .ok (f n)) → s.locs core (addr l) 4 write = .error (cause, va) →
      exec i s = .next (s.halt (.trap cause 0 s.issue.slot.number (s.pageValue core s.issue.pc cause va l)))
    ((∀ l ∈ lanes, s.locs core (straight l) 4 false = .ok (f l)) → gathers (.vldg gd v x m) straight)
    ∧ ((∀ l ∈ lanes, s.locs core (indexed l) 4 false = .ok (f l)) → gathers (.vgtg gd v x j m) indexed)
    ∧ ((∀ l ∈ lanes, s.locs core (straight l) 4 true = .ok (f l)) → scatters (.vstg gd v x m) straight)
    ∧ ((∀ l ∈ lanes, s.locs core (indexed l) 4 true = .ok (f l)) → scatters (.vscg gd v x j m) indexed)
    ∧ traps (.vldg gd v x m) straight false ∧ traps (.vgtg gd v x j m) indexed false
    ∧ traps (.vstg gd v x m) straight true ∧ traps (.vscg gd v x j m) indexed true

/-- With its guard true and its operands readable, at a resident segment with room for the image: KSAVE writes the 520
bytes of K[k] (no landing counter armed); KLOAD owes K[k] the list of a well-formed image and KMRGS its entries for a
list of the same type and direction, with latency 6; another header raises ILLEGAL_OP with DCODE 4, an image past the
end SEG_BOUND, one that holds an uncorrectable error MEM_UNCORRECTABLE with DCODE sram (KLOAD). PGET takes the first
element of a bound pipe into V[v] and is blocked at an empty pipe or a token; PPUT appends V[v] and is blocked at a
full pipe; a pipe with no segment raises SEG_UNDEFINED. (R148, R149, R150, R181, R271, R272, R274, R360) -/
def Obligations.ImagesAndPipes : Prop :=
  ∀ (s : State) (gd : BitVec 4) (k p : BitVec 3) (y : BitVec 8) (o : BitVec 6) (v : BitVec 5) (l : KList) (x : X64) (q : VReg),
    s.readP gd.toNat = .ok true → s.readK k = .ok l → s.readX o = .ok x → s.readV v = .ok q →
    let core := s.issue.core
    let off := (x + s.issue.step).toNat
    let ends := Host.Outcome.next (φ := Fault) (ρ := Refusal)
    (∀ id g, s.segReady y.toNat id g → s.ccs.seg id = some g → off + 520 ≤ 256 * g.len →
      let u := s.useSeg id g
      let bytes := s.ccs.segRead id off 520
      let h := KHeader.ofBytes bytes
      let bad := ends (s.halt (.trap 2 4 s.issue.slot.number 0))
      (s.quiet → exec (.ksave gd k y o) s = .next (u.sstore core id off l.image))
      ∧ (∀ t, KType.ofCode h.type = some t → 1 ≤ h.cap → h.cap ≤ 64 → h.len ≤ 64 → h.dir ≤ 1 → exec (.kload gd k y o) s
        = .next (u.result (.k k.toNat) (.k (.load (!s.issue.mode.ilk) h.cap (h.dir == 1) t (imageEntries bytes h.len) h.nanDropped)) 6))
      ∧ (KType.ofCode h.type = none ∨ h.cap = 0 ∨ 64 < h.cap ∨ 64 < h.len ∨ 1 < h.dir → exec (.kload gd k y o) s = bad)
      ∧ (h.dir = l.smallest.toNat → h.type = l.type.code → h.len ≤ 64 → exec (.kmrgs gd k y o) s
        = .next (u.result (.k k.toNat) (.k (.merge (!s.issue.mode.ilk) (imageEntries bytes h.len) h.nanDropped)) 6))
      ∧ (h.dir ≠ l.smallest.toNat ∨ h.type ≠ l.type.code ∨ 64 < h.len → exec (.kmrgs gd k y o) s = bad))
    ∧ (∀ id g, s.ccs.segNamed y.toNat = some (id, g) → SegPath.access.allows g.role = true → s.ccs.seg id = some g → g.state = .resident →
        off + 520 ≤ 256 * g.len → s.ccs.flawedAt id off 520 = true → ∃ n, exec (.kload gd k y o) s = ends (s.halt (.trap 0x0B 15 s.issue.slot.number n)))
    ∧ (∀ id g, s.segReady y.toNat id g → 256 * g.len < off + 520 →
      let bound := ends (s.halt (.trap 7 0 s.issue.slot.number y.toNat))
      exec (.ksave gd k y o) s = bound ∧ exec (.kload gd k y o) s = bound ∧ exec (.kmrgs gd k y o) s = bound)
    ∧ (∀ (e : Pipe) id g, s.ccs.pipes[p.toNat]? = some e → e.seg = some id → s.ccs.seg id = some g → (s.useSeg id g).issue.absent = false →
        s.ccs.issueSum (s.useSeg id g).issue ≤ s.ccs.quota →
      let u := s.useSeg id g
      (∀ w r, e.elems = some w :: r → exec (.pget gd v p) s = .next ((u.modCcs fun c => c.pipeTake p.toNat e r).loadResult .segment
        [(.v (physV s.issue.rrb v.toNat), .v (BitVec.allOnes 64) w)] 0 0))
      ∧ (e.elems = [] ∨ (∃ r, e.elems = none :: r) → exec (.pget gd v p) s = .next (s.halt (.blocked (.pipeGet p.toNat))))
      ∧ ((e.elems.filter Option.isSome).length < e.cap → ∃ t, exec (.pput gd v p) s = .next t
        ∧ t.ccs.pipes[p.toNat]? = some { e with elems := e.elems ++ [some q], writer := some s.issue.ctx }
        ∧ t.mem = s.mem ∧ t.issue = u.issue)
      ∧ (e.cap ≤ (e.elems.filter Option.isSome).length → exec (.pput gd v p) s = .next (s.halt (.blocked (.pipePut p.toNat)))))
    ∧ (∀ e : Pipe, s.ccs.pipes[p.toNat]? = some e → e.seg = none → ∃ n,
      exec (.pget gd v p) s = .next (s.halt (.trap 6 0 s.issue.slot.number n))
      ∧ exec (.pput gd v p) s = .next (s.halt (.trap 6 0 s.issue.slot.number n)))

/-- With its guard true and its operands readable, room in the matrix queue, a segment of the name that R156 lets an
engine reach with room for the rows, and a known set within SGQUOTA: MWLD, MSTR, MRANK, MOUT and MZERO append their
command to the queue, which EFENCE counts, and change no memory; MSCL writes the eight latches of its half (log 40). A
full queue blocks the five; a row count, ROW0 or reserved bit outside R215 or R219 raises ILLEGAL_OP with DCODE 1; a
row past the end of the segment raises SEG_BOUND. (R156, R209, R214, R215, R216, R218, R219, R220, R221, R285) -/
def Obligations.MatrixCommandResults : Prop :=
  ∀ (s : State) (gd : BitVec 4) (y : BitVec 8) (o : BitVec 6) (t : BitVec 2) (h a p : BitVec 1) (f c : BitVec 3) (rm : BitVec 2) (x : X64),
    s.readP gd.toNat = .ok true → s.readX o = .ok x → s.issue.ctx < 4 →
    let now := s.cycle.toNat
    let off := (x + s.issue.step).toNat
    let fmt := MFmt.ofCode f
    let ct := s.ccs.ct.toList
    let full := fun (i : Instr) => 16 ≤ s.ccs.mq.length → exec i s = .next (s.halt (.blocked .queueFull))
    let enters := fun (i : Instr) (op : MOp) => ∃ tag u, exec i s = .next u ∧ u.ccs.mq = s.ccs.mq ++ [⟨tag, now, op⟩]
      ∧ tag.id = s.nextId ∧ tag.ctx = s.issue.ctx ∧ tag.signal = s.issue.signal
      ∧ u.cx.inflight = s.cx.inflight ++ [s.nextId] ∧ u.mem = s.mem
    let traps := fun (i : Instr) (cause dcode value : Nat) => exec i s = .next (s.halt (.trap cause dcode s.issue.slot.number value))
    let reaches := fun (id : Nat) (g : Seg) => s.findSeg y.toNat .engine = .ok (id, g) ∧ s.issue.absent = false
      ∧ s.ccs.issueSum (s.useSegLater id).issue ≤ s.ccs.quota
    full (.mwld gd y o p f) ∧ full (.mstr gd y o t a p f) ∧ full (.mrank gd y o t f) ∧ full (.mout gd y o t c rm) ∧ full (.mzero gd t)
    ∧ (∃ u, exec (.mscl gd o h) s = .next u ∧ u.ccs.latchWrites = s.ccs.latchWrites ++ [(now, 8 * h.toNat, x)] ∧ u.mem = s.mem
        ∧ u.ccs.mq = s.ccs.mq)
    ∧ (s.ccs.mq.length < 16 →
      (s.issue.absent = false → s.ccs.issueSum s.issue ≤ s.ccs.quota → enters (.mzero gd t) (.mzero t.toNat))
      ∧ (∀ id g, reaches id g → (off + fmt.imageBytes ≤ 256 * g.len → enters (.mwld gd y o p f) (.mwld p.toNat fmt id off ct))
        ∧ (256 * g.len < off + fmt.imageBytes → traps (.mwld gd y o p f) 7 0 y.toNat))
      ∧ ∀ n st ctl : X64, s.readX (o + 1) = .ok n → s.readX (o + 2) = .ok st →
        let k := n.toNat
        let stride := st.toNat
        let cw := ctl.toNat
        let row0 := bitsOf cw 7 0
        let delay := bitsOf cw 11 8
        let e := bitsOf cw 22 16
        let good := 1 ≤ k ∧ k ≤ 256 ∧ row0 + k ≤ 256 ∧ bitsOf cw 15 12 = 0 ∧ bitsOf cw 63 23 = 0
        let row := fmt.rowBytes (s.ccs.latestFmt p.toNat).depth
        let first := bitsOf k 7 0
        let rows := bitsOf k 16 8
        let goodOut := 1 ≤ rows ∧ first + rows ≤ 256 ∧ bitsOf k 63 17 = 0
        let last := off + (rows - 1) * stride + 128 * drainWidth c.toNat
        (∀ id g, reaches id g → goodOut →
          (last ≤ 256 * g.len → enters (.mout gd y o t c rm) (.mout t.toNat id off first rows stride c.toNat (rmOf rm)))
          ∧ (256 * g.len < last → traps (.mout gd y o t c rm) 7 0 y.toNat))
        ∧ (¬ goodOut → traps (.mout gd y o t c rm) 2 1 0)
        ∧ (s.readX (o + 3) = .ok ctl →
          (∀ id g, reaches id g → good →
            (e = 0 → off + (k - 1) * stride + row ≤ 256 * g.len → enters (.mstr gd y o t a p f)
              (.mstr t.toNat p.toNat (a == 1) fmt id off k stride row0 delay ct))
            ∧ (e = 0 → 256 * g.len < off + (k - 1) * stride + row → traps (.mstr gd y o t a p f) 7 0 y.toNat)
            ∧ (off + (k - 1) * stride + fmt.rowBytes (e + 1) ≤ 256 * g.len → enters (.mrank gd y o t f)
              (.mrank t.toNat fmt id off k stride row0 delay (e + 1)))
            ∧ (256 * g.len < off + (k - 1) * stride + fmt.rowBytes (e + 1) → traps (.mrank gd y o t f) 7 0 y.toNat))
          ∧ (¬ (good ∧ e = 0) → traps (.mstr gd y o t a p f) 2 1 0) ∧ (¬ good → traps (.mrank gd y o t f) 2 1 0)))

/-- With its guard true, its operands readable and a known set within SGQUOTA: SGDEF of a free name and an allowed
word defines an ABSENT segment with its backing, a pipe segment bound to its pipe; SGDROP frees the name at once,
unbinds its pipe, takes the storage out of the PINNED total and queues the removal; SGPIN, SGPUSH, SGPULL and SGSPLIT
queue their request; SGUNPIN unpins at issue; SGSTAT owes X[d] the descriptor, 0 for a name with no segment. SGPIN is
refused when the PINNED total, that of queued SGPINs included, and SGQUOTA would pass the store; SGDEF's new segment
and SGUNPIN's count in the bundle's known set, and a sum above SGQUOTA raises SEG_SET_OVERFLOW. A full queue blocks
(SGSPLIT in privileged mode); a reserved or undefined name raises SEG_UNDEFINED, a fixed one ILLEGAL_OP with DCODE 8,
a pinned one for SGPUSH DCODE 9, a refused definition DCODE 7, SGSPLIT in user mode PRIV. Nothing changes memory.
(R278, R280, R285, R291, R292, R293, R294, R295, R296, R297, R298, R299) -/
def Obligations.SegmentInstructionResults : Prop :=
  ∀ (s : State) (gd : BitVec 4) (y : BitVec 8) (o d : BitVec 6) (x b : X64),
    s.readP gd.toNat = .ok true → s.readX o = .ok x → s.issue.absent = false → s.ccs.issueSum s.issue ≤ s.ccs.quota →
    let v := s.ccs
    let w := x.toNat
    let traps := fun (i : Instr) (cause dcode value : Nat) => exec i s = .next (s.halt (.trap cause dcode s.issue.slot.number value))
    let full := fun (i : Instr) => 16 ≤ v.smq.length → exec i s = .next (s.halt (.blocked .queueFull))
    let queues := fun (i : Instr) (op : SmOp) (before : List Nat) (u : State) => exec i s = .next u ∧ u.mem = s.mem
      ∧ ∃ tag, u.ccs.smq = v.smq ++ [⟨tag, op, before, []⟩] ∧ tag.id = s.nextId ∧ tag.ctx = s.issue.ctx ∧ tag.signal = s.issue.signal
    let len := bitsOf w 16 0
    let role := bitsOf w 19 17
    let pipe := bitsOf w 22 20
    let good := 1 ≤ len ∧ len ≤ 65536 ∧ role ≤ 2 ∧ bitsOf w 63 24 = 0 ∧ (role ≠ 1 → pipe = 0)
      ∧ (role = 1 → ((v.pipes[pipe]?).getD .unbound).seg = none) ∧ b.toNat ≠ 0 ∧ b.toNat % 256 = 0 ∧ b.toNat < 2 ^ 55
    let exceeds := fun (i : Instr) (sum : Nat) => ∃ j, exec i s = .next (({ s with issue := j } : State).halt (.trap 8 0 s.issue.slot.number sum))
      ∧ j.core = s.issue.core ∧ j.ctx = s.issue.ctx ∧ j.pc = s.issue.pc ∧ j.rep = s.issue.rep
    full (.sgdrop gd y) ∧ full (.sgpin gd y) ∧ full (.sgpush gd y) ∧ full (.sgpull gd y)
    ∧ (s.issue.mode.priv = true → full (.sgsplit gd o))
    ∧ (s.readX (o + 1) = .ok b → segReserved y.toNat = true → traps (.sgdef gd y o) 6 0 y.toNat)
    ∧ (s.readX (o + 1) = .ok b → segReserved y.toNat = false →
      (v.segNamed y.toNat = none → good → v.nextSeg ∉ s.issue.knownSet → v.setSum s.issue.knownSet + len ≤ v.quota → ∃ u, exec (.sgdef gd y o) s = .next u ∧ u.mem = s.mem
        ∧ u.ccs.segs = v.segs.put v.nextSeg
          ⟨y.toNat, len, .absent, false, roleOf role, false, bitOf w 23, pipe, 0, b.toNat, [], false⟩
        ∧ u.ccs.nextSeg = v.nextSeg + 1
        ∧ (role = 1 → u.ccs.pipes[pipe]? = some ⟨some v.nextSeg, len, [], none, 0⟩) ∧ (role ≠ 1 → u.ccs.pipes = v.pipes))
      ∧ ((v.segNamed y.toNat).isSome ∨ ¬ good → traps (.sgdef gd y o) 2 7 0)
      ∧ (v.segNamed y.toNat = none → good → v.nextSeg ∉ s.issue.knownSet → v.quota < v.setSum s.issue.knownSet + len →
        exceeds (.sgdef gd y o) (v.setSum s.issue.knownSet + len)))
    ∧ (∀ id g, v.segNamed y.toNat = some (id, g) → segReserved y.toNat = false → y.toNat ∉ [0xF8, 0xFE, 0xFF] →
      v.quota < v.issueSum (s.useSegLater id).issue → exceeds (.sgunpin gd y) (v.issueSum (s.useSegLater id).issue))
    ∧ (∀ id g, v.segNamed y.toNat = some (id, g) → segReserved y.toNat = false →
      v.issueSum (s.useSegLater id).issue ≤ v.quota →
      let before := v.holders id
      let ahead := v.splitAhead (storeGranules (s.core s.issue.core).cacheKiB)
      let free := y.toNat ∉ [0xF8, 0xFE, 0xFF]
      (free → ∃ u, exec (.sgunpin gd y) s = .next u ∧ u.mem = s.mem
        ∧ u.ccs.seg id = (v.seg id).map (fun g => { g with pinned := false }))
      ∧ (¬ free → traps (.sgunpin gd y) 2 8 0)
      ∧ (v.smq.length < 16 →
        (free → y.toNat ≠ 0xF9 → ∃ u, queues (.sgdrop gd y) (.drop id) before u
          ∧ u.ccs.seg id = (v.seg id).map (fun g => { g with detached := true, pinned := false })
          ∧ ∀ (n : Nat) (q : Pipe), v.pipes[n]? = some q → u.ccs.pipes[n]? = some (if q.seg = some id then .unbound else q))
        ∧ (free → (g.pinned = true ∨ ∃ r ∈ v.smq, r.op = .pin id) ∨ v.pinnedTotal + g.len + max ahead.2 g.len ≤ ahead.1 → ∃ u, queues (.sgpin gd y) (.pin id) [] u)
        ∧ (free → g.pinned = false → (∀ r ∈ v.smq, r.op ≠ .pin id) → ahead.1 < v.pinnedTotal + g.len + max ahead.2 g.len →
          traps (.sgpin gd y) 8 0 g.len)
        ∧ (free → g.pinned = false → ∃ u, queues (.sgpush gd y) (.push id) before u)
        ∧ (free → g.pinned = true → traps (.sgpush gd y) 2 9 0)
        ∧ (free → ∃ u, queues (.sgpull gd y) (.pull id) [] u)
        ∧ (¬ free ∨ y.toNat = 0xF9 → traps (.sgdrop gd y) 2 8 0)
        ∧ (¬ free → traps (.sgpin gd y) 2 8 0 ∧ traps (.sgpush gd y) 2 8 0 ∧ traps (.sgpull gd y) 2 8 0)))
    ∧ (v.segNamed y.toNat = none ∨ segReserved y.toNat = true → traps (.sgunpin gd y) 6 0 y.toNat
      ∧ (v.smq.length < 16 → traps (.sgdrop gd y) 6 0 y.toNat ∧ traps (.sgpin gd y) 6 0 y.toNat ∧ traps (.sgpush gd y) 6 0 y.toNat
        ∧ traps (.sgpull gd y) 6 0 y.toNat)
      ∧ ∃ u, exec (.sgstat gd y d) s = .next u ∧ u.mem = s.mem ∧ u.cx = (s.loadResult .sgstat (s.xDest d 0) 0 0).cx)
    ∧ (∀ id g, v.segNamed y.toNat = some (id, g) → segReserved y.toNat = false → g.len < 2 ^ 17 → g.pipe < 8 → ∃ u n,
      exec (.sgstat gd y d) s = .next u ∧ u.mem = s.mem
      ∧ u.cx = (s.loadResult .sgstat (s.xDest d (BitVec.ofNat 64 n)) 0 0).cx ∧ n < 2 ^ 42 ∧ bitsOf n 16 0 = g.len
      ∧ bitsOf n 18 17 = (match g.state with | .absent => 1 | .resident => 2 | .moving => 3)
      ∧ bitOf n 19 = g.pinned ∧ bitsOf n 22 20 = g.role.code ∧ bitOf n 23 = g.dirty ∧ bitOf n 24 = g.zf ∧ bitsOf n 27 25 = g.pipe
      ∧ (g.state = .resident → bitsOf n 41 28 = g.base % 2 ^ 14))
    ∧ (let split := fun (r : SmReq) => ∃ kib, r.op = .split kib
      ∀ n, ((∀ r ∈ v.smq, ¬ split r) → v.splitAhead n = (n, v.quota))
        ∧ ∀ r l kib, v.smq = r :: l → r.op = .split kib → (∀ r ∈ l, ¬ split r) →
          v.splitAhead n = (storeGranules kib, v.clampQuota (storeGranules kib) v.quota))
    ∧ (v.smq.length < 16 → let need := v.tickets.foldl (fun n t => Nat.max n (v.setSum (t.cmd.foldl addTo t.bundle) + t.extra)) 0
      let kib := [0, 256, 512, 1024].getD w 0
      (s.issue.mode.priv = false → traps (.sgsplit gd o) 4 0 0x27)
      ∧ (s.issue.mode.priv = true → 4 ≤ w → traps (.sgsplit gd o) 2 0 0)
      ∧ (s.issue.mode.priv = true → w < 4 → v.pinnedTotal + need ≤ storeGranules kib → ∃ u, queues (.sgsplit gd o) (.split kib) [] u)
      ∧ (s.issue.mode.priv = true → w < 4 → storeGranules kib < v.pinnedTotal + need → traps (.sgsplit gd o) 8 0 need))

/-- With its guard true, its operands readable, its segment resident and free of uncorrectable errors and its known
set within SGQUOTA: FCMD and PCMD or PLOAD with a well-formed packet enter the ferry queue and the pier outbox, TKPOST
the posts of the quad it names, all counted by EFENCE and with memory unchanged; LDARM arms a counter that is not
ARMED (a global one once its home is reached, and blocked until then; that a core range's segment need not be RESIDENT
is log 32's reading); LDREAD owes X[d] the status word and LDDIS makes the counter IDLE. A full queue blocks, a packet
or record with a failing bit raises ENGINE_PACKET naming the bit, a pier of another partition PROTECTION with its
number, for PLOAD the lowest. A counted write adds its bytes in an ARMED counter's range to COUNT, which fires the
counter at each TOTAL reached and re-arms it under REARM, and sets OVERSHOOT of a FIRED one; a ferry or pier command
counts once in the counter it names. A firing arrives at its barrier, posts its record, signals its semaphore or
stores AV; one that fails sets AFAIL or leaves the store owed, and one whose segment is not RESIDENT waits under a
ticket. (R244, R251, R252, R264, R318, R319, R320, R321, R322, R323, R324, R325) -/
def Obligations.EngineCommandResults : Prop :=
  (∀ (s : State) (gd : BitVec 4) (y : BitVec 8) (o d : BitVec 6) (x : X64),
    s.readP gd.toNat = .ok true → s.readX o = .ok x → s.issue.absent = false → s.issue.ctx < 4 →
    let v := s.ccs
    let part := s.partOf s.issue.core
    let off := (x + s.issue.step).toNat
    let traps := fun (i : Instr) (cause dcode value : Nat) => exec i s = .next (s.halt (.trap cause dcode s.issue.slot.number value))
    let blocks := fun (i : Instr) (w : WaitReason) => exec i s = .next (s.halt (.blocked w))
    let counts := fun (i : Instr) (u : State) (tag : CmdTag) => exec i s = .next u ∧ u.mem = s.mem ∧ tag.id = s.nextId
      ∧ tag.ctx = s.issue.ctx ∧ tag.signal = s.issue.signal ∧ u.cx.inflight = s.cx.inflight ++ [s.nextId]
    let fits := fun (t : State) => s.ccs.issueSum t.issue ≤ s.ccs.quota
    (32 ≤ v.fq.length → blocks (.fcmd gd y o) .queueFull)
    ∧ (16 ≤ v.outbox.length → blocks (.pcmd gd y o) .queueFull ∧ blocks (.pload gd y o) .queueFull)
    ∧ (∀ id g, s.findSeg y.toNat .engine = .ok (id, g) → g.state = .resident → v.sound id = true → off + 64 ≤ 256 * g.len →
      let u := s.useSeg id g
      let pkt := leNat (v.segRead id off 64)
      (v.fq.length < 32 →
        (∀ n, packetBad pkt = some n → traps (.fcmd gd y o) 0x11 0 n)
        ∧ ∀ a b, packetBad pkt = none → (fCr pkt = true → off + 96 ≤ 256 * g.len) → s.packetSegs s.issue.core pkt = .ok (a, b) →
          fits (((u.useSegOpt (if fCr pkt then some id else none)).useSegOpt a).useSegOpt b) → ∃ t tag, counts (.fcmd gd y o) t tag
          ∧ t.ccs.fq = v.fq ++ [⟨tag, .fcmd id (off + 64), BitVec.ofNat 512 pkt, a, b⟩])
      ∧ (v.outbox.length < 16 →
        let chan := 64 * bitsOf pkt 3 0 + bitsOf pkt 13 8
        let cr := bitOf pkt 49
        let count := bitsOf pkt 112 104
        (∀ n, pierPacketBad pkt = some n → traps (.pcmd gd y o) 0x11 0 n)
        ∧ (∀ n, pierLoadBad pkt = some n → traps (.pload gd y o) 0x11 0 n)
        ∧ (pierPacketBad pkt = none → (cr = true → off + 96 ≤ 256 * g.len) →
          (s.pierOwner.get chan ≠ some part → traps (.pcmd gd y o) 0x0A 0 chan)
          ∧ (s.pierOwner.get chan = some part → fits (u.useSegOpt (if cr then some id else none)) → ∃ t tag, counts (.pcmd gd y o) t tag
            ∧ t.ccs.outbox = v.outbox ++ [⟨⟨tag, s.issue.core, part, .cmd (bitsOf pkt 23 16)
              ((List.range 8).map fun n => BitVec.ofNat 32 (pkt / 2 ^ (64 + 32 * n))) (if bitOf pkt 48 then some (bitsOf pkt 47 32) else none)
              (if cr then some (id, off + 64) else none) (bitsOf pkt 511 480)⟩, [chan]⟩]))
        ∧ (pierLoadBad pkt = none → off + 64 + 4 * count ≤ 256 * g.len →
          ∀ n, (loadPiers pkt).find? (fun n => decide (s.pierOwner.get n ≠ some part)) = some n → traps (.pload gd y o) 0x0A 0 n)
        ∧ (pierLoadBad pkt = none → off + 64 + 4 * count ≤ 256 * g.len → (∀ n ∈ loadPiers pkt, s.pierOwner.get n = some part) → fits u →
          ∃ t tag, counts (.pload gd y o) t tag ∧ t.ccs.outbox = v.outbox ++ [⟨⟨tag, s.issue.core, part, .load (bitsOf pkt 103 96)
            ((List.range count).map fun n => BitVec.ofNat 32 (leNat (v.segRead id (off + 64 + 4 * n) 4)))
            (if bitOf pkt 256 then some ((List.range 16).map fun n => BitVec.ofNat 8 (pkt / 2 ^ (128 + 8 * n))) else none)⟩, loadPiers pkt⟩])))
    ∧ (∀ id g, s.segReady y.toNat id g → v.isResident id = true →
      let u := s.useSeg id g
      let task := leNat (v.segRead id off 64)
      let quad := recQuad task (quadOf s.issue.core)
      let bits := leNat (v.segRead id off 32)
      (off + 64 ≤ 256 * g.len →
        (s.room quad part = false → blocks (.tkpost gd y o) .queueFull)
        ∧ (s.room quad part = true → (∀ n, recordBad task = some n → traps (.tkpost gd y o) 0x11 0 n)
          ∧ (recordBad task = none → ∃ t tag, counts (.tkpost gd y o) t tag ∧ (t.quad quad).posts
            = (s.quad quad).posts ++ [⟨quad, part, BitVec.ofNat 512 task, some (s.issue.core, tag)⟩])))
      ∧ (∀ z n, s.readX (o + 1) = .ok z → s.namedCounter z = .ok n →
        ((s.counter n s.issue.core).state = .armed → traps (.ldarm gd y o) 2 11 0)
        ∧ ((s.counter n s.issue.core).state ≠ .armed → off + 32 ≤ 256 * g.len →
          (∀ b, descriptorBad bits (decide (0x8000 ≤ n)) = some b → traps (.ldarm gd y o) 0x11 0 b)
          ∧ (descriptorBad bits (decide (0x8000 ≤ n)) = none →
            (∀ rid, 0x8000 ≤ n → s.rangeSeg bits = .ok rid → fits (u.useSegLater rid) → ∃ t, exec (.ldarm gd y o) s = .next t ∧ t.mem = s.mem
              ∧ t.counter n s.issue.core = armedCounter (BitVec.ofNat 256 bits) s.issue.core part rid [])
            ∧ (∀ pages, n < 0x8000 → fits u → s.rangePages (bitsOf bits 95 64 / 65536 + 2) (bitsOf bits 54 0)
                (bitsOf bits 54 0 + bitsOf bits 95 64) = .ok pages →
              (s.cx.armed = false → blocks (.ldarm gd y o) .arm)
              ∧ (s.cx.armed = true → ∃ t, exec (.ldarm gd y o) s = .next t ∧ t.mem = s.mem
                ∧ t.counter n s.issue.core = armedCounter (BitVec.ofNat 256 bits) s.issue.core part 0 pages))))))
    ∧ (∀ n, s.namedCounter x = .ok n → let l := s.counter n s.issue.core
      (∃ t w, exec (.ldread gd d o) s = .next t ∧ t.mem = s.mem ∧ t.cx = (s.loadResult .ldread (s.xDest d (BitVec.ofNat 64 w)) 0 0).cx
        ∧ bitsOf w 47 0 = l.count % 2 ^ 48 ∧ bitsOf w 49 48 = (match l.state with | .idle => 0 | .armed => 1 | .fired => 2)
        ∧ bitOf w 50 = l.overshoot ∧ bitOf w 51 = l.afail ∧ bitOf w 52 = l.rearm ∧ bitsOf w 55 53 = 0 ∧ bitsOf w 63 56 = l.gen.toNat)
      ∧ ∃ t, exec (.lddis gd o) s = .next t ∧ t.mem = s.mem ∧ t.counter n s.issue.core = { l with state := .idle }))
  ∧ (∀ (l : Landing) (n : Nat),
    (l.state = .idle → l.counted n = (l, 0)) ∧ (l.state = .fired → l.counted n = ({ l with overshoot := true }, 0))
    ∧ (l.state = .armed → l.total ≠ 0 → let c := min (l.count + n) (2 ^ 48 - 1)
      (c < l.total → l.counted n = ({ l with count := c }, 0))
      ∧ (∀ f, l.rearm = true → 1 ≤ f → f * l.total ≤ c → c < (f + 1) * l.total →
        l.counted n = ({ l with count := c - f * l.total, gen := l.gen + BitVec.ofNat 8 f }, f))
      ∧ (l.total ≤ c → l.rearm = false →
        l.counted n = ({ l with count := c, state := .fired, gen := l.gen + 1, overshoot := l.overshoot || decide (l.total < c) }, 1))))
  ∧ (∀ (s : State) (core part seg off id n : Nat) (ls : List Nat) (bs : List Byte) (skip : Option Nat) (e : Action),
    let l := s.counter id core
    let inRange := if id < 0x8000 then (ls.filter l.holdsLoc).length
      else min (off + bs.length) (bitsOf l.base 39 8 + l.len) - max off (bitsOf l.base 39 8)
    let after := if skip = some id ∨ inRange = 0 then l else (l.counted inRange).1
    let named := s.counterOf id core part
    let ran := fun (u v : State) => v = State.runActions actionFuel u
    (id < 0x8000 → (s.putGlobal ls bs skip).counter id core = after)
    ∧ (0x8000 ≤ id → (s.putSeg core seg off bs skip).counter id core = if l.seg = seg then after else l)
    ∧ (∀ i c, s.actions = [] → (s.cs core).landing = [(i, c)] → id = 0x8000 + i → (s.putSeg core seg off bs skip).actions
      = if skip = some id ∨ c.seg ≠ seg ∨ inRange = 0 ∨ (c.counted inRange).2 = 0 then [] else [.fire id (c.counted inRange).2 c])
    ∧ ran (s.putSeg core seg off bs none) (s.sstore core seg off bs) ∧ ran (s.putGlobal ls bs none) (s.gstore ls bs)
    ∧ (s.countNamed id core part n).2 = decide (named.state ≠ .armed)
    ∧ (s.countNamed id core part 0).1 = s
    ∧ (1 ≤ n → s.actions = [] →
      let u := s.setCounterOf id core part (named.counted n).1
      ran (if (named.counted n).2 = 0 then u else { u with actions := [.fire id (named.counted n).2 named] }) (s.countNamed id core part n).1)
    ∧ (∀ u : State, (u.actions = [] → State.runActions actionFuel u = u)
      ∧ ∀ m r, u.actions = e :: r → State.runActions (m + 1) u = State.runActions m (State.doAction { u with actions := r } e))
    ∧ (∀ c, s.doAction (.fire id 0 c) = s
      ∧ (id < 0x8000 ∨ (∀ v, s.partState c.core c.part = some v → v.landingWaits id = false) →
        s.doAction (.fire id (n + 1) c) = ({ s with actions := if n = 0 then s.actions else .fire id n c :: s.actions } : State).fireOnce id c)))
  ∧ (∀ (s : State) (id : Nat) (l : Landing) (ls : List Nat) (g : Seg),
    let fails := fun (s : State) (cause addr : Nat) =>
      (s.setCounterOf id l.core l.part { s.counterOf id l.core l.part with afail := true }).actionNotice l.part l.core true cause id 0 addr
    let told := s.newsAt fun p => decide (p = .counter id (if 0x8000 ≤ id then l.core else 0) l.part)
    let r := leNat (s.bytesAt ls) % 2 ^ 512
    let target := 64 * bitsOf l.aw 8 6 + bitsOf l.aw 5 0
    let w := 8 * sextNat 32 l.aw
    let at_ := ((((l.base / 8 * 8 : Nat) : Int) + w) % (2 ^ 64 : Nat)).toNat
    let place := ((bitsOf l.base 39 8 / 8 * 8 : Nat) : Int) + w
    (l.act = 0 → let b := s.barrier l.barKey
      let me := (id, if 0x8000 ≤ id then l.core else 0)
      (s.fireOnce id l).barrier l.barKey = if me ∈ b.landings then { b with heldLandings := b.heldLandings ++ [me] }
        else { b with landings := b.landings ++ [me] })
    ∧ (l.act = 1 → (s.partLocs l.part l.av.toNat 64 false = .ok ls → s.soiled ls = none → let u := s.siteLines ls false
        (recordBad r = none → s.fireOnce id l
          = (u.postOrWait (recQuad r (quadOf l.core)) l.part (BitVec.ofNat 512 r)).announce (.task (BitVec.ofNat 512 r) l.part) told)
        ∧ (∀ n, recordBad r = some n → s.fireOnce id l = fails u 0x11 l.av.toNat))
      ∧ (∀ c a, s.partLocs l.part l.av.toNat 64 false = .error (c, a) → s.fireOnce id l = fails s c a))
    ∧ (l.act = 2 →
      ((s.cs target).part = some l.part → s.fireOnce id l
        = (s.modCS target fun v => v.addSemLater (bitsOf l.aw 16 9) (bitsOf l.aw 24 17)).announce (.sem target l.part (bitsOf l.aw 16 9)) told)
      ∧ (s.partState target l.part = none → s.fireOnce id l = fails s 0x0A 0)
      ∧ (∀ v, (s.cs target).part ≠ some l.part → s.partState target l.part = some v → (s.fireOnce id l).partState target l.part
        = some { v with heldActions := v.heldActions ++ [.signal target (some l.part) (bitsOf l.aw 16 9) (bitsOf l.aw 24 17)] }))
    ∧ (l.act = 3 → l.sp = false →
      (s.partLocs l.part at_ 8 true = .ok ls → s.fireOnce id l
        = ((s.spoilAll ls).putGlobal ls (leBytes 8 l.av.toNat) (some id)).announceWords ls told)
      ∧ (∀ c a, s.partLocs l.part at_ 8 true = .error (c, a) → (s.fireOnce id l).mem = s.mem
        ∧ (s.fireOnce id l).failedWrites = s.failedWrites ++ [(l.part, at_, l.av, some (id, l.core))]))
    ∧ (l.act = 3 → l.sp = true → (s.cs l.core).part = some l.part → (s.cs l.core).seg l.seg = some g →
      (0 ≤ place → place + 8 ≤ 256 * g.len → g.state = .resident →
        s.fireOnce id l = s.putSeg l.core l.seg place.toNat (leBytes 8 l.av.toNat) (some id))
      ∧ (place < 0 ∨ (256 * g.len : Int) < place + 8 → s.fireOnce id l = s.setCounter id l.core { s.counter id l.core with afail := true })
      ∧ (0 ≤ place → place + 8 ≤ 256 * g.len → g.state ≠ .resident → (s.cs l.core).quota < g.len →
        s.fireOnce id l = s.setCounter id l.core { s.counter id l.core with afail := true })
      ∧ (0 ≤ place → place + 8 ≤ 256 * g.len → g.state ≠ .resident → g.len ≤ (s.cs l.core).quota → ∃ n, (s.fireOnce id l).cs l.core = { s.cs l.core with
        tickets := (s.cs l.core).tickets ++ [⟨n, [l.seg], [], false, true, [], false, false, false, false, 0⟩]
        heldActions := (s.cs l.core).heldActions ++ [.segWrite l.core id l.seg place l.av (some n)] })))

/-- On a pier that runs a command: PNOP changes nothing and PEND ends the command; PLOOP with a body of 1 or more
words inside the program runs it count times, skips it for a count of 0 and is illegal inside a body; PARG, PADD,
PMOV, PSETK, PLDX and PZER write the registers of R255; PROW adds the dot product of one row to PA[i] and moves Q[a]
by 16 * the stride, PROWN does so for consecutive rows; PSTO and PSTOB store accumulators at Q[a] and move it past
them; PCVT converts, PCVT.i32 to the nearest with ties to even (R256 names no mode: the model's choice, log 64), PSIG
adds a pending signal, PWAIT stands while the previous command of the pier has not completed: a command until its
record and signals are made, a load until every pier it names has applied it. A forbidden field, page or address ends
the command with its cause. What a command has stored is kept in the run and written at the command's end, each word
once, and its own reads find it (when it is written is the model's choice, log 5). (R112, R252, R253, R255, R256,
R257, R258) -/
def Obligations.PierInstructionResults : Prop :=
  ∀ (s : State) (p : Pier) (r : PierRun) (a b : BitVec 3) (i j : BitVec 4) (n : BitVec 5) (k : BitVec 2) (ts xf : BitVec 1) (c13 : BitVec 13)
      (l z : BitVec 8) (m20 : BitVec 20) (dim : BitVec 12) (st : BitVec 10),
    s.pier s.issue.pier = p → p.run = some r →
    let now := fun (e : Instr) (q : Pier) => exec e s = .next (s.modPier s.issue.pier fun _ => q)
    let kept := r.stored.map (·.1)
    let ends := fun (e : Instr) (cause : Nat) => exec e s = .next (((s.spoilAll kept).writeLocs kept (r.stored.map (·.2))).modPier s.issue.pier fun _ =>
      { p with run := none, loaded := none, done := p.done ++ [⟨r.cmd, cause, r.sigs, kept⟩] })
    let reads := fun (e : Instr) (u : State) (q : Pier) => exec e s = .next (u.modPier s.issue.pier fun _ => q)
    let q := fun (d : BitVec 3) => p.getQ d.toNat
    let loop := fun (e : Instr) (count : Nat) =>
      (r.body = none → l ≠ 0 → r.pc + l.toNat ≤ 256 →
        (count = 0 → now e { p with run := some { r with pc := r.pc + l.toNat } })
        ∧ (0 < count → now e { p with pl := count - 1, run := some { r with body := some (r.pc, r.pc + l.toNat) } }))
      ∧ (r.body.isSome ∨ l = 0 ∨ 256 < r.pc + l.toNat → ends e 2)
    let accs := fun (e : Instr) (f : Word → Word) => ∃ t : Pier, now e t ∧ t = { p with pa := t.pa }
      ∧ ∀ m < 16, t.getPa m = if i.toNat ≤ m ∧ m < i.toNat + n.toNat then f (p.getPa m) else p.getPa m
    let good := 1 ≤ n.toNat ∧ n.toNat ≤ 16 ∧ i.toNat + n.toNat ≤ 16
    let stores := fun (e : Instr) (bs : List Byte) => ∀ t, s.partitions.get r.cmd.part = some t →
      (∀ ls, s.xlateAll none t.asid.toNat t.ptbase.toNat true (pierAddrs (q a) bs.length) = .ok ls →
        now e { p.setQ a.toNat (q a + BitVec.ofNat 64 bs.length) with
          run := some { r with stored := (ls.zip bs).foldl (fun t e => t.put e.1 e.2) r.stored } })
      ∧ (∀ f, s.xlateAll none t.asid.toNat t.ptbase.toNat true (pierAddrs (q a) bs.length) = .error f → ends e f.1)
    let rowLen := (p.k + 1) / 2 + (p.k + 31) / 32
    exec .pnop s = .next s ∧ ends .pend 0
    ∧ loop (.ploopImm c13 l) c13.toNat ∧ loop (.ploopReg a l) (Nat.min (q a).toNat 8191)
    ∧ (∀ entry args landing cr seq, r.cmd.op = .cmd entry args landing cr seq →
      let w : Word := args.getD b.toNat 0
      now (.parg a b 0) (p.setQ a.toNat (w.setWidth 64)) ∧ now (.parg a b 1) (p.setQ a.toNat ((w ++ (q a).setWidth 32 : BitVec 64))))
    ∧ now (.padd a b m20) (p.setQ a.toNat (q b + m20.signExtend 64))
    ∧ (st ≠ 0 → xf = 0 ∨ dim.toNat < 2048 → now (.psetk dim ts k xf st)
      { p with k := dim.toNat + 1, ts := ts == 1, ftype := k.toNat, xf := xf == 1, stride := st.toNat })
    ∧ (st = 0 ∨ xf = 1 ∧ 2048 ≤ dim.toNat → ends (.psetk dim ts k xf st) 2)
    ∧ (∀ u bs, s.pierBytes r (q a) (p.k * if p.xf then 4 else 2) = .ok (u, bs) → reads (.pldx a) u { p with pv := p.pv.writeBytes 0 bs })
    ∧ (∀ f, s.pierBytes r (q a) (p.k * if p.xf then 4 else 2) = .error f → ends (.pldx a) f)
    ∧ (∀ u bs, s.pierBytes r (q a) rowLen = .ok (u, bs) →
      let t := (p.setPa i.toNat (p.rowSum (fun m => (bs.getD m 0).toNat) (p.getPa i.toNat))).setQ a.toNat (q a + BitVec.ofNat 64 (16 * p.stride))
      reads (.prow i a) u t ∧ reads (.prown i 1 a) u t)
    ∧ (∀ f, s.pierBytes r (q a) rowLen = .error f → ends (.prow i a) f)
    ∧ (∀ n u bs, s.pierBytes r (q a) n = .ok (u, bs) → ∃ cells : List (Nat × Byte), u = s.siteLines (cells.map (·.1)) false ∧ bs = cells.map (·.2)
      ∧ cells.length = n ∧ ∀ c ∈ cells, c.2 = (r.stored.get c.1).getD (Memory.read s.mem c.1))
    ∧ (good → accs (.pzer i n) (fun _ => 0)
      ∧ (∀ u t, State.pierRows r a.toNat i.toNat n.toNat s p = .ok (u, t) → reads (.prown i n a) u t)
      ∧ stores (.psto i n a) ((countFrom i.toNat n.toNat).flatMap fun m => leBytes 4 (p.getPa m).toNat)
      ∧ stores (.pstob i n a) ((countFrom i.toNat n.toNat).flatMap fun m => leBytes 2 (bf16.pack .rne false (f32.unpack (p.getPa m).toNat)))
      ∧ accs (.pcvt i n 0) (fun w => BitVec.ofNat 32 (f32.pack .rne false (bf16.unpack (bf16.pack .rne false (f32.unpack w.toNat)))))
      ∧ accs (.pcvt i n 1) (fun w => BitVec.ofNat 32 (rint w.toNat))
      ∧ accs (.pcvt i n 2) (fun w => BitVec.ofInt 32 ((f32.unpack w.toNat).toInt .rne (-(2 ^ 31)) (2 ^ 31 - 1)))
      ∧ ends (.pcvt i n 3) 2)
    ∧ (¬ good → ends (.pzer i n) 2 ∧ ends (.prown i n a) 2 ∧ ends (.psto i n a) 2 ∧ ends (.pstob i n a) 2 ∧ ends (.pcvt i n k) 2)
    ∧ (let stands := now .pwait { p with run := some { r with pc := r.pc - 1 } }
      (∀ c t m, p.loaded = some (c, t, m) → (s.loadOwed c t m = false → exec .pwait s = .next s) ∧ (s.loadOwed c t m = true → stands))
      ∧ (p.loaded = none → (p.done = [] → exec .pwait s = .next s) ∧ (p.done ≠ [] → stands)))
    ∧ (z ≠ 0 → now (.psig l z) { p with run := some { r with sigs := r.sigs ++ [(l.toNat, z.toNat)] } }) ∧ ends (.psig l 0) 2
    ∧ (i.toNat < 8 → now (.pmov 1 i j) (p.setQ i.toNat ((p.getPa j.toNat).setWidth 64))
      ∧ (j.toNat < 8 → now (.pmov 0 i j) (p.setQ i.toNat (p.getQ j.toNat))))
    ∧ (8 ≤ j.toNat → ends (.pmov 0 i j) 2 ∧ ends (.pmov 2 i j) 2)
    ∧ (8 ≤ i.toNat → ends (.pmov 0 i j) 2 ∧ ends (.pmov 1 i j) 2)
    ∧ (j.toNat < 8 → now (.pmov 2 i j) (p.setPa i.toNat ((p.getQ j.toNat).setWidth 32)))
    ∧ ends (.pmov 3 i j) 2

/-- A plain resume clears the stop and reissues at TPC and TINFO.REP (after SYSC at repetition 0, after a nested cause
or a pre-emption at the place of the stop); a privileged resume lands what is counted in cycles, holds MODE, loop
stack, sticky slots and frozen entries aside, with the bundle that TINFO.REP belongs to (none after SYSC: log 39's
reading), and starts the firmware bundle with PRIV = 1 once the last result has landed; pre-emption stops a context at
its bundle, waits while a region is open, drains a gang and stops a member already parked (a gang's part is the
model's reading, log entry 31); results counted in cycles land, loads arrive, ending what was issued before them,
frozen results too, or, with an uncorrectable error, stay owed and are marked, and ISUM, TKNEXT, SGSTAT and LDREAD
deliver; BANKSW decides (NPR_OVERRUN in place of CHECKSUM where the bundle is beyond its region's limit); the run
limit acts; WATCHDOG names SLOT 0 for BAR and 2 for BARX, the model's choice (log 22); LONGWAIT counts once;
NPR_OVERRUN with SLOT 7, the model's choice (log 11), stops a bundle beyond the limit that passes its checks, waits
for nothing and holds no NPRE; a stopped context's registers are written by their names (where none holds such an
error; which registers, K by an image's header and entries and the read-only ones too, is the model's choice, log
entry 39); WAITW reads again, and an uncorrectable error in its word or its walk traps (the model's reading, log entry
43). (R29, R32, R62, R67, R68, R92, R94, R99, R100, R348, R357, R360) -/
def Obligations.ContextEvents : Prop :=
  ∀ (s : State) (c : BitVec 9) (k : BitVec 2) (x : Ctx), s.ctx c.toNat k.toNat = x →
    let core := c.toNat
    let n := k.toNat
    let now := s.cycle.toNat
    let v := s.cs core
    let becomes := fun (i : Instr) (y : Ctx) => ∃ t, exec i s = .next t ∧ t.ctx core n = y ∧ t.mem = s.mem
      ∧ ∀ d j, d ≠ core ∨ j ≠ n → t.ctx d j = s.ctx d j
    let traps := fun (i : Instr) (cause slot value pc rep : Nat) => exec i s = .next (s.takeTrap core n cause 0 slot value pc rep)
    let frozen := x.flight.filter fun e => !e.cycles
    let resumed : Ctx := { x with stop := none, preempt := false, wait := .none, waitCycles := 0, waitCounted := false, waitwEnded := false }
    let landed : Ctx := Ctx.landList { resumed with flight := frozen } (byLanding (x.flight.filter fun e => e.cycles))
    let place := fun (st : Stop) => match st.cause with
      | .trap => (x.tpc.toNat, bitsOf x.tinfo.toNat 53 51)
      | .service => (x.tpc.toNat, 0)
      | .nested | .preempt => (st.pc, st.rep)
    let beyond := ∃ b, x.region = some b ∧ x.nprlim ≤ b ∧ x.held = []
    let overrun := fun (i : Instr) => ∃ u : State, exec i s = .next (u.takeTrap core n 0x10 0 7 x.nprlim x.pc x.rep)
      ∧ u.ctx core n = { x with region := none } ∧ u.mem = s.mem
    (∀ st, x.stop = some st →
      becomes (.supervisorResume c k) { resumed with pc := (place st).1, rep := (place st).2 }
      ∧ (∀ e : BitVec 17, 0xC00 ≤ e.toNat → e.toNat < 0x1000 → e.toNat % 4 = 0 → becomes (.resumePrivileged c k e)
        { landed with
          tpc := BitVec.ofNat 64 (place st).1
          held := ⟨true, x.mode, x.loops, x.sticky, frozen, if st.cause = .service then none else some (place st).1, x.ticket⟩ :: x.held
          ticket := none
          mode := ⟨true, 0, true⟩, loops := [], sticky := .nop, flight := [], pc := e.toNat, rep := 0
          readyAt := max x.readyAt (now + x.lastLanding) })
      ∧ (x.flaws = [] →
        (∀ (r : BitVec 6) (w : X64), r.toNat < 48 → becomes (.stoppedContextWrite c k (.x r) w) (x.setX (physX x.rrb r.toNat) w))
        ∧ (∀ (r : BitVec 4) (w : X64), becomes (.stoppedContextWrite c k (.p r) w) (x.setP (physP x.rrb r.toNat) (w.getLsbD 0)))
        ∧ (∀ (r : BitVec 3) (w : X64), becomes (.stoppedContextWrite c k (.m r) w) (x.setM r.toNat w))
        ∧ (∀ (r : BitVec 8) (w : X64), 0x18 ≤ r.toNat → r.toNat ≤ 0x1F → becomes (.stoppedContextWrite c k (.control r) w)
          { x with kth := x.kth.setIfInBounds (r.toNat - 0x18) (w.setWidth 32) }))
      ∧ (∀ (r : BitVec 5) (l : BitVec 6) (w : X64), becomes (.stoppedContextWrite c k (.lane r l) w)
        { x with v := x.v.setIfInBounds (physV x.rrb r.toNat) ((x.getV (physV x.rrb r.toNat)).setIfInBounds l.toNat (w.setWidth 32)) })
      ∧ (∀ (r : BitVec 3) (es : List (BitVec 64)) (w : X64),
        let h := KHeader.ofBytes (leBytes 8 w.toNat)
        let i := Instr.stoppedContextWrite c k (.k r es) w
        let ok := 1 ≤ h.cap ∧ h.cap ≤ 64 ∧ h.len ≤ 64 ∧ h.dir ≤ 1
        (∀ t, KType.ofCode h.type = some t → ok → becomes i (x.land (.k r.toNat) (.k (.load false h.cap (h.dir == 1) t
          (imageEntries (leBytes 8 0 ++ es.flatMap fun e => leBytes 8 e.toNat) h.len) h.nanDropped))))
        ∧ (KType.ofCode h.type = none ∨ ¬ ok → becomes i x))
      ∧ (∀ w : X64, let put := fun (r : BitVec 8) => becomes (.stoppedContextWrite c k (.control r) w)
        put 0x0B { x with tcause := w.setWidth 8 } ∧ put 0x0C { x with tinfo := w } ∧ put 0x30 { x with tklo := w }
        ∧ put 0x31 { x with tkhi := w } ∧ put 0x32 { x with tkgrain := w } ∧ put 0x33 { x with tkarg := w } ∧ put 0x34 { x with tkid := w })
      ∧ (∀ (r : BitVec 8) (w : X64), r.toNat ∉ [0x0B, 0x0C, 0x30, 0x31, 0x32, 0x33, 0x34] ++ countFrom 0x18 8 → ∃ t,
        exec (.stoppedContextWrite c k (.control r) w) s = .next t ∧ t.mem = s.mem
        ∧ let u := s.crnWrite core n r.toNat w
          ∀ d j, t.ctx d j = u.ctx d j ∧ ∀ m, t.crnRead d j m = u.crnRead d j m))
    ∧ (x.stop = none → (∀ q, v.gang = some q → q.live.contains n = false) →
      (x.region = none → becomes (.preemptContext c k) { x with preempt := false, stop := some ⟨.preempt, x.pc, x.rep⟩ })
      ∧ (x.region.isSome → becomes (.preemptContext c k) { x with preempt := true }))
    ∧ (∀ q, v.gang = some q → q.live.contains n = true → q.stopping = false → x.parked = false → x.stop = none → ∃ t,
      exec (.preemptContext c k) s = .next t ∧ t.ctx core n = { x with preempt := true }
      ∧ (t.cs core).gang = some { q with stopping := true, stopped := [], put := false })
    ∧ (∀ q, v.gang = some q → q.live.contains n = true → x.parked = true → x.stop = none →
      (x.region = none → becomes (.preemptContext c k) { x with preempt := false, stop := some ⟨.preempt, x.pc, x.rep⟩ })
      ∧ (x.region.isSome → becomes (.preemptContext c k) { x with preempt := true }))
    ∧ (let due := fun (e : FlightEntry) => e.cycles && e.left == 0
      becomes (.fixedLatencyLanding c k)
        (Ctx.landList { x with flight := x.flight.filter fun e => !due e } (x.flight.filter due)))
    ∧ (∀ id l, x.loads.find? (fun m => m.id == id) = some l →
      let old := fun (e : FlightEntry) => (l.dests.map (·.1)).contains e.reg && decide (e.seq < l.seq)
      let arrives := l.dests.foldl (fun y d => y.land d.1 d.2)
        { x with
          loads := x.loads.filter (fun m => m.id != id), flight := x.flight.filter fun e => !old e
          held := x.held.map fun h => { h with frozen := h.frozen.filter fun e => !old e } }
      (l.kind = .memory ∨ l.kind = .segment → l.bad = false →
        let marked : Ctx := { x with loads := x.loads.map fun m => if m.id = id then { m with bad := true } else m }
        (l.err = false → becomes (.globalLoadArrival c k id false) arrives)
        ∧ (l.err = true → becomes (.globalLoadArrival c k id false) marked) ∧ becomes (.globalLoadArrival c k id true) marked)
      ∧ (l.due ≤ now → (l.kind = .isum → becomes (.isumResult c k id) arrives) ∧ (l.kind = .tknext → becomes (.tknextResult c k id) arrives)
        ∧ (l.kind = .sgstat → becomes (.sgstatResult c k id) arrives) ∧ (l.kind = .ldread → becomes (.ldreadResult c k id) arrives)))
    ∧ (∀ w, x.bank = some w → w.due ≤ now → w.sum ≠ w.expect → x.run = .running → x.stop = none → x.frozen = false → x.swapStop = false →
      (¬ beyond → traps (.bankswDecision c k) 0x0E 0 w.sum.toNat w.pc w.rep) ∧ (beyond → overrun (.bankswDecision c k)))
    ∧ (65536 ≤ v.runCount → (v.ctx v.lastIssuer).rep = 0 → (∃ j < 4, j ≠ v.lastIssuer ∧ (v.ctx j).looksReady = true ∧ (v.ctx j).readyAt ≤ now) →
      exec (.issueRunLimit c) s = .next (s.modCS core fun w => { w with runOver := true }))
    ∧ (x.arrivals ≠ [] → x.barto ≠ 0 → x.barto.toNat < x.barCycles → x.stop = none → x.frozen = false → ∃ u : State,
      exec (.watchdog c k) s = .next (u.takeTrap core n 0x12 0 (if x.arrivals.any fun a => a.barx.isNone then 0 else 2) x.barCycles
        x.barAt.1 x.barAt.2) ∧ (u.ctx core n).arrivals = [] ∧ u.mem = s.mem)
    ∧ (x.wait = .sync ∨ x.wait = .waits ∨ (∃ a w, x.wait = .waitw a w) → x.waitto ≠ 0 → x.waitto.toNat ≤ x.waitCycles → x.waitCounted = false →
      ∃ t, exec (.longWaitEvent c k) s = .next t ∧ t.ctx core n = { x with waitCounted := true }
        ∧ (t.cs core).mon.longWait = v.mon.longWait + 1)
    ∧ (∀ b, beyond → x.wouldIssue = true → v.fetch x = .ok b → b.check x.mode.priv (s.feature core) = none →
      holdsNpre b.views = false → overrun (.nprOverrun c k))
    ∧ (∀ a w, x.wait = .waitw a w → x.run = .running → x.stop = none → x.frozen = false → x.waitwEnded = false →
      (∀ ls, s.locs core a 8 false = .ok ls → s.soiled ls = none → becomes (.waitwReread c k)
        (if leNat (s.bytesAt ls) = w.toNat then x else { (s.observeWords core n ls).ctx core n with waitwEnded := true }))
      ∧ (∀ ls, s.locs core a 8 false = .ok ls → (s.soiled ls).isSome → ∃ u : State, exec (.waitwReread c k) s
        = .next (u.takeTrap core n 0x0B 0 0 (x.pc / 4 % 2 ^ 15 + 2 ^ 15 * (s.physAt core a / 2 ^ 20 % 2 ^ 32)
          + 2 ^ 48 * (s.physAt core a / 2 ^ 6 % 2 ^ 14)) x.pc x.rep)
        ∧ u.ctx core n = x ∧ u.mem = s.mem)
      ∧ (∀ cause f, s.locs core a 8 false = .error (cause, f) → traps (.waitwReread c k) cause 0 (s.pageValue core x.pc cause f 0) x.pc x.rep))

/-- A record that has waited 2^16 cycles is promoted; a ring's oldest record refills the queue; TKPOST completes and a
waiting post is made when there is room; a context in TKWAIT receives an orphaned part, the best record or the upper
half of the grains of the part with most left; a gang record that is the best starts contexts 0, 1 and 2 of its host
in one event, also from the receipt of context 0, 1 or 2 (the order of receipts and the host are the model's choice,
log 59); a blocked gang's smallest full pipe is enlarged from the pool or GANG_DEADLOCK stops context 0 (SLOT 3 in
PPUT and 7 otherwise is the model's choice, log 11); LDARM's counter is armed at its home; completion writes and
deferred landing writes are made; a launch vector that is refused starts nothing (the checks and their codes are the
model's reading, log 41), and an accepted one starts the named contexts with X1 to X4, makes bank 0 active and clears
the semaphores (that a context which the latest vector does not name is no participant is the same reading); a monitor
record takes the odd sequence number, its fields in order and the even one by 8-byte stores (the increment of 2 and
the order of the fields are the model's choice, log 48). (R25, R27, R263, R264, R265, R268, R269, R273, R306, R321,
R322, R326) -/
def Obligations.TaskEvents : Prop :=
  ∀ (s : State) (c : BitVec 9) (k : BitVec 2) (q : BitVec 7),
    let core := c.toNat
    let now := s.cycle.toNat
    let u := s.quad q.toNat
    let v := s.cs core
    let entered := fun (a b : Quad) (r : QueueRec) => if a.queue.length < 64 then b.queue = a.queue ++ [r] ∧ b.rings = a.rings
      else b.queue = a.queue ∧ b.rings.read [] r.part = a.rings.read [] r.part ++ [r]
    let gets := fun (t : State) (n id bits entry : Nat) (lo hi : X64) => let y := t.ctx core n
      y.run = .running ∧ y.task = some id ∧ y.pc = entry ∧ y.rep = 0 ∧ y.tklo = lo ∧ y.tkhi = hi
      ∧ y.tkgrain = BitVec.ofNat 64 (bitsOf bits 223 192) ∧ y.tkarg = BitVec.ofNat 64 (bitsOf bits 191 128)
      ∧ y.tkid = BitVec.ofNat 64 (bitsOf bits 479 448)
    (∃ t, exec (.taskPromotion q) s = .next t ∧ t.mem = s.mem ∧ (t.quad q.toNat).queue = u.queue.map fun r =>
        if r.prio < 3 ∧ r.raised + 65536 ≤ now then { r with prio := r.prio + 1, raised := r.raised + 65536 } else r)
    ∧ (∀ part r, u.queue.length < 64 → u.oldestRing = some (part, r) → ∃ t, exec (.overflowRefill q) s = .next t ∧ t.mem = s.mem
      ∧ (t.quad q.toNat).queue = u.queue ++ [r] ∧ (t.quad q.toNat).rings.read [] part = (u.rings.read [] part).drop 1)
    ∧ (∀ w i, (u.posts.zipIdx).find? (fun p => p.1.tag.isNone && s.room q.toNat p.1.part) = some (w, i) → ∃ t,
      exec (.deferredPost q) s = .next t ∧ t.mem = s.mem ∧ (t.quad q.toNat).posts = u.posts.eraseIdx i
      ∧ entered u (t.quad q.toNat) ⟨w.bits, w.part, now, recPrio w.bits.toNat, now⟩)
    ∧ (∀ id n i w tag part, s.findPost core id = some (n, i, w) → w.tag = some (core, tag) → w.part = part → s.room n part = true →
      v.part = some part → ∃ t, exec (.tkpostComplete c id) s = .next t ∧ t.mem = s.mem ∧ (t.quad n).posts = (s.quad n).posts.eraseIdx i
      ∧ entered (s.quad n) (t.quad n) ⟨w.bits, part, now, recPrio w.bits.toNat, now⟩ ∧ s.completed t core tag)
    ∧ (∀ part, v.part = some part → s.mayReceive core k.toNat = true →
      let nq := quadOf core
      (∀ i id lo hi task, s.orphan nq part = some (i, id, lo, hi, task) → ∃ t, exec (.taskReceipt c k) s = .next t ∧ t.mem = s.mem
        ∧ (t.quad nq).orphans = (s.quad nq).orphans.eraseIdx i
        ∧ gets t k.toNat id task.bits.toNat (bitsOf task.bits.toNat 240 224) lo hi)
      ∧ (∀ i r, s.orphan nq part = none → (s.quad nq).best part (k != 3 && s.mayHost core) = some (i, r) → bitOf r.bits.toNat 243 = false →
        ∃ t, exec (.taskReceipt c k) s = .next t ∧ t.mem = s.mem ∧ (t.quad nq).queue = (s.quad nq).queue.eraseIdx i
        ∧ t.tasks.get s.nextTask = some ⟨r.bits, r.part, 1⟩ ∧ gets t k.toNat s.nextTask r.bits.toNat (bitsOf r.bits.toNat 240 224)
          (BitVec.ofNat 64 r.bits.toNat) (BitVec.ofNat 64 (bitsOf r.bits.toNat 127 64)))
      ∧ (∀ i r host j g, s.orphan nq part = none → (s.quad nq).best part (k != 3 && s.mayHost core) = some (i, r) →
        bitOf r.bits.toNat 243 = true → s.gangHost nq = some (host, j, g) →
        (host = core → exec (.taskReceipt c k) s = .next (s.startGang core j g)) ∧ (host ≠ core → exec (.taskReceipt c k) s = .next s))
      ∧ (∀ a b id task, s.orphan nq part = none → (s.quad nq).best part (k != 3 && s.mayHost core) = none → s.victim nq part = some (a, b) →
        (s.ctx a b).task = some id → s.tasks.get id = some task →
        let x := s.ctx a b
        let mid := x.tklo + BitVec.ofNat 64 (x.tkgrain.toNat * ((x.grains + 1) / 2))
        ∃ t, exec (.taskReceipt c k) s = .next t ∧ t.mem = s.mem ∧ (t.ctx a b).tkhi = mid ∧ t.tasks.get id = some { task with parts := task.parts + 1 }
          ∧ gets t k.toNat id task.bits.toNat (bitsOf task.bits.toNat 240 224) mid x.tkhi))
    ∧ (∀ i r, s.gangHost q.toNat = some (core, i, r) → quadOf core = q.toNat → let b := r.bits.toNat
      ∃ t, exec (.gangStart q) s = .next t ∧ t = s.startGang core i r ∧ t.mem = s.mem ∧ (t.cs core).gang = some ⟨s.nextTask, [0, 1, 2], false, [], false⟩
      ∧ (t.quad q.toNat).queue = u.queue.eraseIdx i
      ∧ gets t 0 s.nextTask b (bitsOf b 240 224) (BitVec.ofNat 64 b) (BitVec.ofNat 64 (bitsOf b 127 64))
      ∧ gets t 1 s.nextTask b (bitsOf b 272 256) (BitVec.ofNat 64 b) (BitVec.ofNat 64 (bitsOf b 127 64))
      ∧ gets t 2 s.nextTask b (bitsOf b 289 273) (BitVec.ofNat 64 b) (BitVec.ofNat 64 (bitsOf b 127 64)))
    ∧ (∀ n p, v.gangBlocked = true → v.fullPipe = some (n, p) →
      (v.poolFree = 0 → exec (.pipeEnlarge c) s = .next (s.takeTrap core 0 0x0F 0 (match (v.ctx 0).wait with | .pipePut _ => 3 | _ => 7) n
        (v.ctx 0).pc (v.ctx 0).rep))
      ∧ (0 < v.poolFree → let gain := Nat.min p.cap v.poolFree
        exec (.pipeEnlarge c) s = .next (s.modCS core fun w => { w with
          pipes := w.pipes.setIfInBounds n { p with cap := p.cap + gain, extra := p.extra + gain }, poolFree := w.poolFree - gain })))
    ∧ (∀ n part va w l ls, s.quiet → s.failedWrites[n]? = some (part, va, w, l) → s.partLocs part va 8 true = .ok ls → ∃ t,
      exec (.completionWriteRetry n) s = .next t ∧ t.mem = Memory.writeAll s.mem ls (leBytes 8 w.toNat)
      ∧ t.failedWrites = s.failedWrites.eraseIdx n ∧ ∀ d j, t.ctx d j = s.ctx d j)
    ∧ ((s.ctx core k.toNat).wait = .arm → exec (.ldarmArmed c k) s = .next (s.modCtx core k.toNat fun y => { y with armed := true }))
    ∧ (∀ a n seg off w tk i g, s.quiet → (v.heldActions.zipIdx).find? (fun e => v.writeReady e.1) = some (.segWrite a n seg off w tk, i) →
      v.seg seg = some g → g.state = .resident → 0 ≤ off → off + 8 ≤ ((256 * g.len : Nat) : Int) → heldFires n v.heldActions = [] → ∃ t,
      exec (.landingWriteDeferred c) s = .next t ∧ (t.cs core).segRead seg off.toNat 8 = leBytes 8 w.toNat
      ∧ (t.cs core).heldActions = v.heldActions.eraseIdx i ∧ t.mem = s.mem)
    ∧ (∀ word : X64, s.host.ready = true →
      let win := s.host.window.writeBytes (0x10000 + 64 * core) (leBytes 8 word.toNat)
      let bits := leNat (readBytes (fun a => win.read 0 a) (0x10000 + 64 * core) 64)
      let part := bitsOf bits 31 24
      let running := (s.cs core).busyMask
      (∀ reason, launchRefusal (s.partState core part) running bits = some reason → ∃ t, exec (.launchCommit c word) s = .next t ∧ t.mem = s.mem
        ∧ t.cores = s.cores)
      ∧ (∀ w0, launchRefusal (s.partState core part) running bits = none → s.partState core part = some w0 →
        let stack := stackLen (w0.kernelAt (bitsOf bits 16 0))
        let pool := if bitsOf bits 47 32 = 0 then w0.poolLen else bitsOf bits 47 32
        ∃ t w, exec (.launchCommit c word) s = .next t ∧ t.partState core part = some w
        ∧ (((w0.undefine 0xF8).undefine 0xF9).unpinned + w0.launchNeed stack pool ≤ w0.quota → t.mem = s.mem)
        ∧ w.sems = [] ∧ w.active = false ∧ ∀ n < 4, let y := w.ctx n
          if bitOf bits (20 + n) then y.run = .running ∧ y.pc = bitsOf bits 16 0 ∧ y.rep = 0 ∧ y.participant = true
            ∧ ∀ j < 4, y.getX (j + 1) = BitVec.ofNat 64 (bits / 2 ^ (64 + 64 * j))
          else y.run = .idle ∧ y.participant = false))
    ∧ (∀ (p : BitVec 8) e va, s.partitions.get p.toNat = some e → e.monitors = some (va, false, false) → e.cores = [core] →
      let fields := ((s.partState core p.toNat).getD .reset).record s.cycle
      let store := fun (t : State) (i : Nat) (x : X64) => t.areaStore p.toNat (va + 8 * i) x
      let s1 := { s with partitions := s.partitions.put p.toNat { e with monSeq := e.monSeq + 2 }, fresh := s.fresh + 72 }
      let odd := store s1 0 (e.monSeq + 1)
      let full := (fields ++ List.replicate (31 - fields.length) 0).zipIdx.foldl (fun t (x : X64 × Nat) => store t (1 + x.2) x.1) odd
      exec (.monitorPublish p) s = .next (store full 0 (e.monSeq + 2))
      ∧ (∀ a x ls, s.quiet → s.partLocs p.toNat a 8 false = .ok ls →
        (s.areaStore p.toNat a x).mem = Memory.writeAll s.mem ls (leBytes 8 x.toNat)))

/-- The head of the queue starts when its part is free and the conditions of R211 hold: it takes its part with its
first row due after DELAY (16 cycles for MZERO; the cycle of the first row or granule and the due times are the
model's reading, log 34), parked where its segment is not resident, and never while a started command is parked; a
parked command goes on once its ticket is served, one that an error holds when the supervisor resumes it (log 57). A
row of MSTR enters the array with the dot products of R112 or R114 over the plane's columns as stored (R213), one of
MRANK with the ranks of its scores, and lands 130 cycles later. MWLD completes when all granules are loaded: the plane
takes image, format and code table. MSTR and MRANK complete as their last row lands in the tile. MOUT completes after
its last row, MZERO clears the tile. A completion ends the ticket, EFENCE's count and makes the AT = 1 signal. (MOUT:
no landing counter armed.) (R112, R211, R212, R213, R214, R215, R217, R218, R219, R220, R222, R223) -/
def Obligations.MatrixEvents : Prop :=
  (∀ (s : State) (c : BitVec 9) (part : MatrixPart) (p : Nat),
    let core := c.toNat
    let now := s.cycle.toNat
    let v := s.cs core
    v.part = some p →
    (∀ m rest, v.mq = m :: rest → m.issued + 2 ≤ now → v.run m.op.part = none → (∀ q r, v.run q = some r → r.parked = false) →
      (∀ w f g off ct, m.op = .mwld w f g off ct → ∀ r, v.array = some r → r.unfinished = true → r.cmd.op.plane ≠ some w) →
      (m.op.part = .array → (∀ r, v.load = some r → m.op.plane.isSome → r.cmd.op.plane ≠ m.op.plane)
        ∧ ∀ r, v.drain = some r → r.cmd.op.tile ≠ m.op.tile) →
      (m.op.part = .drain → (∀ r, v.array = some r → r.unfinished = true → r.cmd.op.tile ≠ m.op.tile)
        ∧ ∀ r ∈ v.rows, some r.tile ≠ m.op.tile) →
      let away := !(v.pinOrPark m.tag.ticket).2
      ∃ t, exec (.matrixCmdStart c) s = .next t ∧ (t.cs core).mq = rest ∧ (t.cs core).run m.op.part = some ⟨m, 0, now + m.op.lead, [], away, false, false, []⟩
        ∧ t.mem = s.mem)
    ∧ (∀ r, v.run part = some r → r.held = false → r.parked = true → v.unparked r.cmd.tag.ticket = true → ∃ t,
      exec (.matrixCmdResume c part) s = .next t ∧ (t.cs core).run part = some { r with parked := false, yield := false } ∧ t.mem = s.mem)
    ∧ (∀ r, v.run part = some r → r.held = true → ∃ t, exec (.matrixCmdResume c part) s = .next t ∧ t.mem = s.mem
      ∧ (t.cs core).run part = some { r with parked := !(v.pinOrPark r.cmd.tag.ticket).2, yield := false, held := false })
    ∧ (∀ r fmt seg off n stride row0 d f, v.array = some r → r.parked = false → r.yield = false → r.next < n → r.due ≤ now → v.isResident seg = true →
      v.drain = none → r.kept = [] → f = (if r.next + 1 = n then some r.cmd.tag else none) →
      let row := fun (size : Nat) => v.segRead seg (off + r.next * stride) size
      (∀ tile plane acc ct pl, r.cmd.op = .mstr tile plane acc fmt seg off n stride row0 d ct → v.planes[plane]? = some pl →
        let bs := row (fmt.rowBytes pl.fmt.depth)
        let scale := fun (b : Nat) => if fmt = .nib then ((v.latches[b]?).getD 0x20).toNat else 0x20
        let old := fun (j : Nat) => if acc then some (v.accRow tile (row0 + r.next) j) else none
        let e : MRow := ⟨tile, row0 + r.next, (List.range 128).map fun j =>
          streamElem pl fmt ct (fmt.element fun a => bs.getD a 0) scale (old j) j, pl.fmt.isInt && fmt.isInt, now + 130, f⟩
        (v.partCycle now .array).rows = v.rows ++ [e])
      ∧ (∀ tile size, r.cmd.op = .mrank tile fmt seg off n stride row0 d size →
        let bs := row (fmt.rowBytes size)
        let e : MRow := ⟨tile, row0 + r.next, rankRow ((List.range size).map fun k => fmt.value (fmt.element (fun a => bs.getD a 0) k)),
          true, now + 130, f⟩
        (v.partCycle now .array).rows = v.rows ++ [e]))
    ∧ (∀ r plane f g off ct, v.load = some r → r.cmd.op = .mwld plane f g off ct → f.imageBytes / 256 ≤ r.next → r.due ≤ now → plane < 2 →
      ∃ t, exec (.mwldComplete c) s = .next t ∧ s.completed t core r.cmd.tag ∧ (t.cs core).load = none
        ∧ (t.cs core).planes[plane]? = some ⟨f, r.image, ct⟩ ∧ t.mem = s.mem)
    ∧ (∀ r rest tag, v.rows = r :: rest → r.final = some tag → r.lands ≤ now → r.tile < 4 → ∃ t, exec (.mstrComplete c) s = .next t
      ∧ s.completed t core tag ∧ (t.cs core).rows = rest
      ∧ (t.cs core).tiles[r.tile]? = some (((v.tiles[r.tile]?).getD ⟨[], []⟩).setRow r.row r.vals r.int) ∧ t.mem = s.mem)
    ∧ (∀ r tile g off first n stride cvt rm, s.quiet → v.drain = some r → r.cmd.op = .mout tile g off first n stride cvt rm → n ≤ r.next →
      ∃ t, exec (.moutComplete c) s = .next t ∧ s.completed t core r.cmd.tag ∧ (t.cs core).drain = none ∧ t.mem = s.mem)
    ∧ (∀ r tile, v.drain = some r → r.cmd.op = .mzero tile → r.due ≤ now → tile < 4 → ∃ t, exec (.mzeroComplete c) s = .next t
      ∧ s.completed t core r.cmd.tag ∧ (t.cs core).drain = none
      ∧ (∃ e, (t.cs core).tiles[tile]? = some e ∧ ∀ row j, e.elem row j = 0 ∧ e.isInt row = false) ∧ t.mem = s.mem))
  ∧ (∀ (pl : Plane) (k j b : Nat), let byte := fun (a : Nat) => (pl.image.read 0 a).toNat
    (pl.fmt.width = 16 → pl.code k j = byte (256 * k + 2 * j) + 256 * byte (256 * k + 2 * j + 1))
    ∧ (pl.fmt.width = 8 → pl.code k j = byte (128 * k + j))
    ∧ (pl.fmt = .nib → pl.code k j = (if j % 2 = 0 then byte (64 * k + j / 2) % 16 else byte (64 * k + j / 2) / 16)
      ∧ pl.scaleByte b j = byte (32768 + 128 * b + j)))
  ∧ (∀ (pl : Plane) (f : MFmt) (ct : List (BitVec 8)) (x xs : Nat → Nat) (acc : Option Word) (j : Nat),
    let num := fun (g : MFmt) (a : Nat) => if g = .i8 then sextNat 8 a else (a : Int)
    let w := fun (i : Nat) => pl.code i j
    (pl.fmt.isInt = true → f.isInt = true → streamElem pl f ct x xs acc j
      = BitVec.ofInt 32 ((acc.map BitVec.toInt).getD 0 + ((List.range pl.fmt.depth).map fun i => num f (x i) * num pl.fmt (w i)).sum))
    ∧ (¬ (pl.fmt.isInt = true ∧ f.isInt = true) → streamElem pl f ct x xs acc j = BitVec.ofNat 32 (dotBlocks (acc.map BitVec.toNat)
      ((List.range (pl.fmt.depth / 32)).map fun b => let ks := countFrom (32 * b) 32
        (ks.map fun i => pl.fmt.blockValue pl.ct (pl.scaleByte b j) (w i), ks.map fun i => f.blockValue ct (xs b) (x i),
          ((pl.scaleByte b j % 64 : Nat) : Int) - 32 + (((xs b % 64 : Nat) : Int) - 32))))))
  ∧ ∀ (scores : List Val) (i : Nat), i < 128 → let sc := fun (n : Nat) => scores.getD n .nan
    let better := fun (a b : Val) => (b = .nan ∧ a ≠ .nan) ∨ b.lt a = true
    (rankRow scores)[i]? = some (if scores.length ≤ i then 128 else BitVec.ofNat 32 ((List.range scores.length).filter fun n =>
      decide (better (sc n) (sc i) ∨ (¬ better (sc n) (sc i) ∧ ¬ better (sc i) (sc n) ∧ n < i))).length)

/-- The channel takes the head of the ferry queue (FWPOS restarts at 0) or the published slot of a ring, whose RIDX it
stores; a malformed ring packet completes with STATUS 2 and its bit (CAUSE 0 is the model's choice, log entry 37); a
parked packet goes on when every segment its next step touches is resident; an abandoned one is replayed from stream
byte 0, a COPY-REDUCE in its apply from where it stands. A granule writes each aligned word of the destination that it
is the first to reach, every byte with the highest stream byte that lands on it (once and whole with its first
granule: the model's choice, log entry 5; a space-3 descriptor goes through the partition's own tables, log entry 8):
with the source's bytes (COPY), the pattern (FILL) or the elements combined with the staged source (COPY-REDUCE), or
the packet is abandoned with the cause; WRITE-ENQUEUE writes its payload, claims a slot and publishes the packet once
the ring has room. A packet completes with its landing count, its record in the named segment with NC, its signal and
its completion. The outbox delivers to each pier (in the order of issue, the model's choice, log 63); a pier command
starts at its entry with Q and PA zero, a load writes its words and table, and a command completes with its landing
count, its pending signals and its record. (Where a counter is named, it does not fire: that is O47's.) (R230, R233,
R234, R235, R236, R238, R239, R240, R243, R248, R252, R258) -/
def Obligations.FerryAndPierEvents : Prop :=
  (∀ (s : State) (c : BitVec 9) (ring : BitVec 2) (u : BitVec 10) (part : Nat),
    let core := c.toNat
    let v := s.cs core
    let p := s.pier u.toNat
    v.part = some part →
    (∀ f rest, v.ferry = none → s.nextSource core = some 0 → v.fq = f :: rest → v.mayBegin f.bits.toNat = true → ∃ t,
      exec (.ferryPacketStart c) s = .next t ∧ (t.cs core).fq = rest ∧ (t.cs core).rr = 1 ∧ t.mem = s.mem
      ∧ (t.cs core).ferry = some ⟨f, 0, 0, .running, false, 0, none, none, none, none, false⟩
      ∧ (t.cs core).fwpos = 0 ∧ (t.cs core).fwseq = BitVec.ofNat 16 (bitsOf f.bits.toNat 511 480) ∧ (t.cs core).fwrun = true)
    ∧ (∀ b pkt hl, s.quiet → v.ferry = none → s.nextSource core = some (ring.toNat + 1) → (∀ d ∈ v.ferryDone, d.run.replayed = false) →
      s.ringSlot core ring.toNat = some (b, pkt, hl) → ∃ t, exec (.ringPacketTake c ring) s = .next t
      ∧ t.mem = Memory.writeAll s.mem hl (leBytes 8 (b.ridx + 1)) ∧ (t.cs core).rr = (ring.toNat + 2) % 5
      ∧ (t.cs core).rings[ring.toNat]? = some (some { b with ridx := (b.ridx + 1) % 2 ^ 64, told := false })
      ∧ (∀ n, packetBad pkt = some n → ∃ d, (t.cs core).ferryDone = v.ferryDone ++ [d] ∧ d.status = 2 ∧ d.cause = 0 ∧ d.detail = n)
      ∧ (packetBad pkt = none → (fCr pkt = true → b.cmpla ≠ 0) → s.packetSegs core pkt = .ok (none, none) → v.mayBegin pkt = true →
        ∃ r, (t.cs core).ferry = some r ∧ r.pkt.bits = BitVec.ofNat 512 pkt ∧ r.pos = 0 ∧ r.state = .running))
    ∧ (∀ r, v.ferry = some r → r.state = .parked → (r.touches.1 = true → (fSrc r.pkt.bits.toNat).space ≠ 1) →
      (r.touches.2 = true → (fDst r.pkt.bits.toNat).space ≠ 1) → s.ticketsReady core r = true → s.mayTouch core r = true → r.yield = false → ∃ t,
      exec (.ferryResume c) s = .next t ∧ (t.cs core).ferry = some { r with state := .running } ∧ t.mem = s.mem)
    ∧ (∀ r cause addr, v.ferry = some r → r.state = .abandoned cause addr → 
      let pos := if fKind r.pkt.bits.toNat = 2 ∧ r.staged.isSome then r.pos else 0
      let again : FRun := { r with state := .running, phase := 0, replayed := true, pos := pos }
      exec (.ferryReplay c) s = .next (s.modCS core fun w => { w with ferry := some again }))
    ∧ (∀ id d, v.ferryDone.find? (fun e => e.run.pkt.tag.id == id) = some d → d.status = 1 → d.cause = 0 → d.run.srcFar = none → d.run.dstFar = none →
      let f := d.run.pkt.bits.toNat
      let land := bitsOf f 463 448
      let l := s.counter land core
      let n := s.ferryCounted core d.run l
      fTp f = false → s.actions = [] →
      (fLe f = true → land < 0x8000 ∧ ((fDst f).space ≠ 3 ∨ (fDst f).pkg = s.pod.pkgid) ∧ (l.counted n).2 = 0) →
      (fCr f = true → ∃ seg off, d.run.pkt.src = .fcmd seg off ∧ v.isResident seg = true) → ∃ t, exec (.ferryPacketComplete c id) s = .next t
      ∧ t.mem = s.mem ∧ s.completedWith t core d.run.pkt.tag (if fSg f then [(bitsOf f 439 432, bitsOf f 447 440)] else [])
      ∧ (t.cs core).ferryDone = v.ferryDone.filter (fun e => e.run.pkt.tag.id != id)
      ∧ (fLe f = true → t.counter land core = if n = 0 then l else (l.counted n).1)
      ∧ (∀ seg off, fCr f = true → d.run.pkt.src = .fcmd seg off →
        let nc := if fLe f ∧ l.state ≠ .armed then 1 else 0
        (t.cs core).segRead seg off 32 = leBytes 1 1 ++ leBytes 1 0 ++ leBytes 2 (nc + 2 * d.detail) ++ leBytes 4 (bitsOf f 511 480)
          ++ leBytes 8 d.run.bytes ++ leBytes 2 (bitsOf f 431 416) ++ leBytes 6 0 ++ leBytes 8 s.cycle.toNat))
    ∧ (∀ e rest, v.outbox = e :: rest →
      (e.piers = [] → ∃ t, exec (.pierOutboxDeliver c) s = .next t ∧ (t.cs core).outbox = rest ∧ s.completed t core e.cmd.tag)
      ∧ (e.piers = [u.toNat] → p.queue.length < 64 → s.earlierTo u.toNat e.cmd.tag.id = false → ∃ t, exec (.pierOutboxDeliver c) s = .next t ∧ (t.cs core).outbox = rest
        ∧ t.pier u.toNat = { p with queue := p.queue ++ [e.cmd] } ∧ t.mem = s.mem))
    ∧ (∀ cmd rest, p.run = none → p.queue = cmd :: rest →
      (∀ entry args l cr seq, cmd.op = .cmd entry args l cr seq → ∃ t, exec (.pierCmdStart u) s = .next t ∧ t.mem = s.mem
        ∧ (let fresh : Pier := { p with queue := rest, q := .replicate 8 0, pa := .replicate 16 0, pl := 0 }
          t.pier u.toNat = { fresh with users := addTo p.users cmd.part, run := some ⟨cmd, entry, none, [], []⟩ }))
      ∧ (∀ first words pct, cmd.op = .load first words pct → ∃ t, exec (.pierLoadApply u) s = .next t ∧ t.mem = s.mem
        ∧ (t.pier u.toNat).queue = rest ∧ (∀ n w, words[n]? = some w → (t.pier u.toNat).words.read 0 (first + n) = w)
        ∧ ∀ n < 16, (t.pier u.toNat).ct[n]? = match pct with | some l => (p.ct[n]?).map (l.getD n) | none => p.ct[n]?))
    ∧ (∀ d rest entry args land cr seq, p.done = d :: rest → d.cmd.op = .cmd entry args land cr seq → d.cmd.core = core → d.cmd.part = part →
      (∀ e, cr = some e → v.isResident e.1 = true) → s.actions = [] →
      let l := fun (id : Nat) => s.counter id core
      let n := fun (id : Nat) => (d.stored.filter (l id).holdsLoc).length
      (∀ id, land = some id → id < 0x8000 ∧ ((l id).counted (n id)).2 = 0) →
      ∃ t, exec (.pierCmdComplete u) s = .next t ∧ t.mem = s.mem ∧ s.completedWith t core d.cmd.tag d.sigs ∧ (t.pier u.toNat).done = rest
        ∧ (t.site (u.toNat / 64)).pierCmds = (s.site (u.toNat / 64)).pierCmds + 1
        ∧ (∀ id, land = some id → t.counter id core = if d.cause ≠ 0 ∨ n id = 0 then l id else ((l id).counted (n id)).1)
        ∧ (∀ seg off, cr = some (seg, off) →
          let nc := if d.cause = 0 ∧ ∃ id, land = some id ∧ (l id).state ≠ .armed then 1 else 0
          (t.cs core).segRead seg off 32 = leBytes 1 (if d.cause = 0 then 1 else 3) ++ leBytes 1 d.cause ++ leBytes 2 nc ++ leBytes 4 seq
            ++ leBytes 8 d.stored.length ++ leBytes 2 0 ++ leBytes 6 0 ++ leBytes 8 s.cycle.toNat))
    ∧ (∀ r, v.ferry = some r →
      let f := r.pkt.bits.toNat
      let d := fDst f
      let src := fSrc f
      let e := min d.total ((r.pos / 256 + 1) * 256)
      let ws := d.granuleWrites r.pos (e - r.pos)
      let from_ := ws.map fun w => src.place w.2
      let r1 : FRun := { r with pos := e, reach := max r.reach e, phase := 0 }
      let t := s.ferryMove core r
      let moved := (t.cs core).fwpos = max v.fwpos (if e = d.total then e else e / 256 * 256)
        ∧ if e = d.total then (t.cs core).ferry = none ∧ (t.cs core).ferryDone = v.ferryDone ++ [⟨r1, 1, 0, 0, false⟩]
          else (t.cs core).ferry = some r1
      let abandoned := fun (cause addr : Nat) => (t.cs core).ferry = some { r with state := .abandoned cause addr, phase := 0 } ∧ t.mem = s.mem
      let gives := fun (bs : List Byte) => ∃ a, s.granuleData core r ws = .ok (a, bs)
      let size := if fRop f = 1 then 2 else 4
      (r.state = .running → r.claim = none → r.phase ≠ 0 → s.mayTouch core r = true → s.ferryCycle core = t)
      ∧ (fKind f = 3 → gives (ws.map fun w => BitVec.ofNat 8 (bitsOf f 95 32 / 2 ^ (8 * (w.2 % 8)))))
      ∧ (fKind f = 1 → 2 ≤ src.space → (∀ sl, s.farLocs core src from_ false = .ok sl → s.soiled sl = none → gives (s.bytesAt sl))
        ∧ ∀ x, s.farLocs core src from_ false = .error x → abandoned x.1 x.2)
      ∧ (∀ id, fKind f = 1 → src.space = 0 → r.pkt.srcSeg = some id → (∀ a ∈ from_, v.flawedAt id a.toNat 1 = false) →
        gives (from_.map fun a => (v.segRead id a.toNat 1).headD 0))
      ∧ (∀ staged, fKind f = 2 → r.staged = some staged → 2 ≤ d.space → ∀ dl, s.farLocs core d (ws.map (·.1)) false = .ok dl → s.soiled dl = none →
        let elem := fun (bs : List Byte) (k : Nat) => leNat ((bs.drop (size * k)).take size)
        let mine := ws.map fun w => (staged.drop r.pos).getD (w.2 - r.pos) 0
        gives ((List.range (ws.length / size)).flatMap fun k => leBytes size (ropStep (fRop f) (elem (s.bytesAt dl) k) (elem mine k))))
      ∧ (∀ a bs, s.granuleData core r ws = .ok (a, bs) →
        (2 ≤ d.space → (∀ ls, s.farLocs core d (ws.map (·.1)) true = .ok ls → t.mem = Memory.writeAll s.mem ls bs ∧ moved)
          ∧ ∀ x, s.farLocs core d (ws.map (·.1)) true = .error x → abandoned x.1 x.2)
        ∧ (∀ id, d.space = 0 → r.pkt.dstSeg = some id → t.mem = s.mem ∧ moved ∧ ∀ seg off n, (t.cs core).segRead seg off n
          = (v.segWriteAt id ((ws.zip bs).map fun w => (w.1.1.toNat, w.2))).segRead seg off n))
      ∧ (fKind f = 2 → 2 ≤ src.space → ∀ sl, s.farLocs core src (src.places 0 src.total) false = .ok sl → s.soiled sl = none →
        ((s.ferryFetch core r).cs core).ferry = some { r with staged := some (s.bytesAt sl), phase := 0 } ∧ (s.ferryFetch core r).mem = s.mem)
      ∧ (let at_ := fun (a n : Nat) (w : Bool) => s.farLocs core d ((countFrom a n).map Int.ofNat) w
        let head := bitsOf f 415 352
        ∀ hl ls, at_ head 64 true = .ok hl → s.soiled hl = none →
        let h := leNat (s.bytesAt hl)
        let size := 2 ^ bitsOf h 259 256
        (∀ sl pl, 2 ≤ src.space → s.farLocs core src (src.places 0 src.total) false = .ok sl → s.soiled sl = none → at_ d.va d.c0 true = .ok pl →
          let w := bitsOf h 63 0
          at_ (bitsOf h 191 128 + 64 * (w % size)) 64 true = .ok ls →
          let q := s.ferryEnqueue core r
          q.mem = Memory.writeAll (Memory.writeAll s.mem pl ((s.bytesAt sl).take d.c0)) (hl.take 8) (leBytes 8 (w + 1))
          ∧ (q.cs core).ferry = some { r with pos := d.c0, reach := d.c0, claim := some w, staged := some ((s.bytesAt sl).drop d.c0) })
        ∧ (∀ w pkt, at_ head 64 false = .ok hl → r.staged = some pkt → at_ (bitsOf h 191 128 + 64 * (w % size)) 64 true = .ok ls →
          (fCr (leNat pkt) = false ∨ bitsOf h 255 192 = 0) →
          let q := s.ferryPublish core r w
          ((bitsOf h 127 64 + size) % 2 ^ 64 ≤ w → q = s)
          ∧ (w < (bitsOf h 127 64 + size) % 2 ^ 64 → q.mem = Memory.writeAll s.mem ls (pkt.take 60 ++ leBytes 4 (w + 1))
            ∧ (q.cs core).ferry = none ∧ (q.cs core).ferryDone = v.ferryDone ++ [⟨r, 1, 0, 0, false⟩])))))
  ∧ ∀ (d : FDesc) (a n : Nat), 0 < d.c0 → 0 < d.c1 →
    (∀ w ∈ d.granuleWrites a n, w.2 < d.total ∧ w.1 = d.place w.2 ∧ ∀ m < d.total, d.place m = w.1 → m ≤ w.2)
    ∧ ((d.granuleWrites a n).map (·.1)).Nodup
    ∧ ∀ m, a ≤ m → m < a + n → m < d.total → (∃ w ∈ d.granuleWrites a n, w.1 = d.place m) ∨ ∃ q < a, d.place q / 8 = d.place m / 8

/-- With an empty queue, SGQUOTA kept, no move or compaction under way and no command stopped for one, the oldest
parked ticket is served: with every member resident it resumes and its command's RESIDENT members are pinned; an
absent member that fits goes into the lowest free run and is recalled. A recall brings zeros under ZF, else the
backing copy; a push-out writes a dirty segment to its backing copy and leaves it ABSENT, or RESIDENT and clean where
it was PINNED (neither copy with an uncorrectable error); compaction moves it; a recall pins it for the running
commands that name it. SGDROP frees the segment once the earlier commands that hold it are done, and disarms the
counters ranged in it; SGPIN and SGPULL complete with a RESIDENT segment, SGPUSH with one that is ABSENT, or PINNED
and clean, SGSPLIT when nothing lies above the new store, with SGQUOTA clamped (that it waits for tickets drawn since
whose sets the new store cannot hold, and empties the pipes of the segments it has moved or pushed out, is the model's
reading, log entry 28). (R279, R282, R283, R285, R286, R287, R291, R292, R294, R295, R296) -/
def Obligations.SegmentManagerEvents : Prop :=
  ∀ (s : State) (c : BitVec 9) (p : Nat),
    let core := c.toNat
    let v := s.cs core
    v.part = some p →
    (∀ w, v.move = none → v.smq = [] → v.compacting = none → (∀ k ∈ v.tickets, k.paused = false) → v.unpinned ≤ v.quota → v.oldestParked = some w →
      (v.firstMissing w.members = none → ∃ t, exec (.ticketService c) s = .next t ∧ t.mem = s.mem
        ∧ (t.cs core).tickets = v.tickets.map fun k => if k.num = w.num then
            if k.issued then { k with parked := false, asked := false, on := true, paused := false, pins := k.members.filter v.isResident }
            else { k with parked := false, asked := false } else k)
      ∧ (∀ id g base, v.firstMissing w.members = some (id, g) → v.seg id = some g → v.unpinned + g.len ≤ v.quota →
        v.lowestRun id g.len (16384 - 4 * (s.core core).cacheKiB) = some base → ∃ t, exec (.ticketService c) s = .next t ∧ t.mem = s.mem
        ∧ (t.cs core).seg id = some { g with state := .moving, base := base } ∧ (t.cs core).move = some (.recall id false))
      ∧ (∀ id g vic h, v.firstMissing w.members = some (id, g) → v.quota < v.unpinned + g.len → v.victim w.members = some vic → v.seg vic = some h → h.pinned = false →
        ∃ t, exec (.ticketService c) s = .next t ∧ t.mem = s.mem ∧ (t.cs core).seg vic = some { h with state := .moving }
        ∧ (t.cs core).move = some (.push vic false)))
    ∧ (∀ id told g, v.move = some (.recall id told) → v.seg id = some g →
      let back := fun (t : State) (data : Tab Byte) => exec (.recallEnd c) s = .next t ∧ t.mem = s.mem ∧ (t.cs core).move = none
        ∧ (t.cs core).seg id = some { g with state := .resident, dirty := g.zf, zf := false, data := data }
        ∧ (t.cs core).mon.recalls = v.mon.recalls + 1
        ∧ (t.cs core).tickets = v.tickets.map fun k => if k.on = true ∧ id ∈ k.members then { k with pins := addTo k.pins id } else k
      (g.zf = true → ∃ t, back t [])
      ∧ (∀ ls, g.zf = false → s.locs core g.backing (256 * g.len) false = .ok ls → s.soiled ls = none → ∃ t, back t (Tab.writeBytes [] 0 (s.bytesAt ls))))
    ∧ (∀ id told g, v.move = some (.push id told) → v.seg id = some g →
      let stays := fun (t : State) => exec (.pushOutEnd c) s = .next t ∧ (t.cs core).move = none
        ∧ (t.cs core).seg id = some { g with dirty := false } ∧ (t.cs core).mon = v.mon
      let out := fun (t : State) => exec (.pushOutEnd c) s = .next t ∧ (t.cs core).move = none
        ∧ (t.cs core).seg id = some { g with state := .absent, dirty := false, data := [] }
        ∧ (t.cs core).mon.pushouts = v.mon.pushouts + 1
      (g.dirty = false → ∃ t, t.mem = s.mem ∧ if g.state = .moving then out t else stays t)
      ∧ (∀ ls, g.dirty = true → v.sound id = true → s.locs core g.backing (256 * g.len) true = .ok ls → ∃ t,
        t.mem = Memory.writeAll s.mem ls (v.segRead id 0 (256 * g.len)) ∧ if g.state = .moving then out t else stays t))
    ∧ (∀ id base g, v.move = some (.compact id base) → v.seg id = some g → g.state = .moving → ∃ t, exec (.compactionMoveEnd c) s = .next t ∧ t.mem = s.mem
      ∧ (t.cs core).move = none ∧ (t.cs core).seg id = some { g with state := .resident, base := base })
    ∧ (∀ tag b mv rest id g, (∃ op, v.smq = ⟨tag, op, b, mv⟩ :: rest) →
      let op := fun (x : SmOp) => v.smq = ⟨tag, x, b, mv⟩ :: rest
      let held := v.tickets.any fun k => b.contains k.num
      let done := fun (i : Instr) (t : State) => exec i s = .next t ∧ t.mem = s.mem ∧ (t.cs core).smq = rest ∧ s.completed t core tag
      (op (.drop id) → held = false → v.move = none → ∃ t, done (.sgdropComplete c) t ∧ (t.cs core).seg id = none
        ∧ ∀ n, let l := s.counter (0x8000 + n) core
          t.counter (0x8000 + n) core = if l.seg = id ∧ l.sp = true ∧ l.state = .armed then { l with state := .idle } else l)
      ∧ (v.seg id = some g → g.state = .resident →
        (op (.pin id) → ∃ t, done (.sgpinComplete c) t ∧ (t.cs core).seg id = some { g with pinned := !g.detached })
        ∧ (op (.pull id) → ∃ t, done (.sgpullComplete c) t ∧ (t.cs core).segs = v.segs))
      ∧ (v.seg id = some g → g.state = .absent ∨ g.state = .resident ∧ g.pinned = true ∧ g.dirty = false → op (.push id) → held = false → ∃ t, done (.sgpushComplete c) t ∧ (t.cs core).segs = v.segs)
      ∧ (∀ kib, op (.split kib) → v.move = none →
        (∀ e ∈ v.segs, e.2.role = .instr ∨ e.2.state = .absent ∨ e.2.base + e.2.len ≤ 16384 - 4 * kib) →
        let sets := 0 :: (v.tickets.filter fun k => v.smq.all fun r => r.tag.ticket != some k.num).map fun k => v.setSum k.known + k.extra
        ((∀ n ∈ sets, v.pinnedTotal + n ≤ 16384 - 4 * kib) → ∃ t, done (.sgsplitComplete c) t
          ∧ (t.core core).cacheKiB = kib ∧ (t.cs core).quota = v.clampQuota (16384 - 4 * kib) v.quota
          ∧ (t.cs core).pipes = v.pipes.map fun p =>
            if p.seg.any mv.contains then { p with elems := p.elems.filter Option.isNone } else p)
        ∧ (∀ n ∈ sets, 16384 - 4 * kib < v.pinnedTotal + n → exec (.sgsplitComplete c) s = .next s)))

/-- A waiting request with the LEN of its OP and no failing field is carried out and answered DONE, or REFUSED: a
partition is created on its cores with the reset state, its ASID, root, OVFPTR and clamped SGQUOTA; a pattern image is
loaded; apertures and rings are bound and unbound (DONE for an aperture that is not bound, and the header a ring is
unbound with, are the model's choice, log 45); a shootdown of a range with an ARMED counter is refused, waits for
commands under way and drops the translations; counters and piers are assigned and released (REFUSED for one the
partition does not have: log 45); a monitor area is published; a context is frozen and unfrozen; cores are swapped; a
partition ends; a pod is configured, in force at once on every package, where the routes of this package and of absent
ones are 0 (that a pod of n packages has at most n - 1 other routes, and the first beyond them fails, is log 8's
reading); images are staged. A wrong LEN is answered MALFORMED for every OP, with the offset of a failing field where
there is one. (R16, R246, R251, R302, R316, R326, R354, R356, R359, R373, R376, R377) -/
def Obligations.PartitionRequests : Prop :=
  ∀ s : State,
    let answers := fun (i : Instr) (t : State) => exec i s = .next (t.answer 0 none)
    let refused := fun (i : Instr) => exec i s = .next (s.answer 1 none)
    let f := s.payBits
    let part := f 7 0
    let exists_ := fun (n : Nat) => (s.partitions.get n).isSome = true
    (s.asked 1 96 → f 31 24 = 0 → s.pay 16 8 % 256 = 0 → s.pay 24 8 % 256 = 0 →
      let r : PartRequest := ⟨part, f 23 8, f 63 32, s.pay 8 8, s.pay 16 8, s.pay 24 8, maskCores (s.pay 32 64)⟩
      (s.createPart r = none → refused .createPartition) ∧ (∀ t, s.createPart r = some t → answers .createPartition t)
      ∧ (∀ c, s.partitions.get part = none → r.cores = [c] → s.coreFree c = true → (s.cs c).part = none → ∃ t, answers .createPartition t
        ∧ (t.cs c) = { CoreState.reset with
            part := some part
            ovfptr := BitVec.ofNat 64 (s.pay 16 8)
            asid := BitVec.ofNat 16 (f 23 8)
            ptbase := BitVec.ofNat 64 (s.pay 8 8)
            quota := Nat.min (f 63 32) (16384 - 4 * (s.core c).cacheKiB) }
        ∧ ∃ p, t.partitions.get part = some p ∧ p.cores = [c] ∧ p.feats = s.host.featAccept))
    ∧ (s.asked 2 40 → f 63 8 = 0 → s.pay 24 8 % 256 = 0 → let r := s.loadPattern part (s.pay 8 8) (s.pay 16 8) (s.pay 24 8) (s.pay 32 8)
      (r = none → refused .loadPatternImage) ∧ ∀ t, r = some t → answers .loadPatternImage t)
    ∧ (s.asked 3 16 → f 7 5 = 0 → f 63 16 = 0 → s.pay 8 8 % s.apertureSize = 0 →
      (f 4 4 = 1 → exists_ (f 15 8) → ∃ t, answers .bindAperture t ∧ t.host.apertures = s.host.apertures.put (f 3 0) (f 15 8, s.pay 8 8)
        ∧ t.mem = s.mem)
      ∧ (f 4 4 = 1 → s.partitions.get (f 15 8) = none → refused .bindAperture)
      ∧ (f 4 4 = 0 → ∃ t, answers .unbindAperture t ∧ t.host.apertures.get (f 3 0) = none ∧ t.mem = s.mem))
    ∧ (s.asked 4 16 → f 63 20 = 0 → let core := 64 * f 10 8 + f 16 11
      (f 19 19 = 1 → ((∀ t, s.bindRing part core (f 18 17) (s.pay 8 8) = some t → answers .bindRing t)
        ∧ (s.bindRing part core (f 18 17) (s.pay 8 8) = none → refused .bindRing)))
      ∧ (f 19 19 = 0 → (∀ v r, s.partState core part = some v → v.rings[f 18 17]? = some (some r) → r.header = s.pay 8 8 → ∃ t w,
          answers .unbindRing t ∧ t.partState core part = some w ∧ w.rings[f 18 17]? = some none)
        ∧ (s.unbindRing part core (f 18 17) (s.pay 8 8) = none → refused .unbindRing)))
    ∧ (s.asked 5 24 → f 63 16 = 0 → s.pay 8 8 % 65536 = 0 → s.pay 16 8 % 65536 = 0 →
      let asid := f 15 0
      let base := s.pay 8 8
      let len := s.pay 16 8
      (s.shootArmed asid base len = true → refused .shootdown)
      ∧ (s.shootArmed asid base len = false → s.shootBusy asid base len = true → exec .shootdown s = .next s)
      ∧ (s.shootArmed asid base len = false → s.shootBusy asid base len = false → ∃ t, answers .shootdown t ∧ t.mem = s.mem
        ∧ (∀ e ∈ t.cores, ∀ x ∈ e.2.tlb, x.asid = asid → meets x.vbase x.size base len = false)
        ∧ ∀ e ∈ t.quads, ∀ x ∈ e.2.tlb, x.asid = asid → meets x.vbase x.size base len = false))
    ∧ (f 63 10 = 0 → let counters := bitmapBits (s.pay 8 2048) 16384
      let piers := bitmapBits (s.pay 8 128) 1024
      (s.asked 6 2056 → f 9 8 = 2 → exists_ part →
        ((∀ n ∈ counters, s.landingOwner.get n = none ∨ s.landingOwner.get n = some part) → ∃ t, answers .assignLandingCounters t
          ∧ ∀ n ∈ counters, t.landingOwner.get n = some part)
        ∧ ((∃ n ∈ counters, s.landingOwner.get n ≠ none ∧ s.landingOwner.get n ≠ some part) → refused .assignLandingCounters))
      ∧ (s.asked 6 2056 → f 9 8 = 0 →
        ((∀ n ∈ counters, s.landingOwner.get n = some part) → ∃ t, answers .releaseLandingCounters t
          ∧ ∀ n ∈ counters, t.landingOwner.get n = none ∧ (t.counter n 0).state ≠ .armed)
        ∧ ((∃ n ∈ counters, s.landingOwner.get n ≠ some part) → refused .releaseLandingCounters))
      ∧ (s.asked 6 136 → f 9 8 = 3 → exists_ part → (∀ n ∈ piers, s.pierOwner.get n = none ∨ s.pierOwner.get n = some part) →
        ∃ t, answers .assignPiers t ∧ ∀ n ∈ piers, t.pierOwner.get n = some part)
      ∧ (s.asked 6 136 → f 9 8 = 1 → (∀ n ∈ piers, s.pierOwner.get n = some part) → ∃ t, answers .releasePiers t
        ∧ ∀ n ∈ piers, t.pierOwner.get n = none))
    ∧ (∀ p, s.asked 7 16 → f 63 10 = 0 → s.partitions.get part = some p → answers .publishMonitors (State.publish { s with
        partitions := s.partitions.put part { p with monitors := some (s.pay 8 8, f 8 8 == 1, f 9 9 == 1) } } part))
    ∧ (s.asked 8 8 → f 11 9 = 7 → f 17 12 = s.pod.pkgid → exists_ part → let core := 64 * f 20 18 + f 26 21
      ∀ v, s.partState core part = some v →
        (f 8 8 = 1 → ∃ t w, answers .freeze t ∧ t.partState core part = some w ∧ w.ctx (f 28 27) = { v.ctx (f 28 27) with frozen := true })
        ∧ (f 8 8 = 0 → ∃ t w, answers .unfreeze t ∧ t.partState core part = some w
          ∧ w.ctx (f 28 27) = { v.ctx (f 28 27) with frozen := false }))
    ∧ (s.asked 9 72 → let cores := maskCores (s.pay 8 64)
      let swaps := fun (i : Instr) (out : Bool) => match s.swapCores part cores out with
        | .done t => answers i t
        | .refused => refused i
        | .failed t => exec i s = .next (t.answer 1 none)
        | .wait t => exec i s = .next t
      (f 9 8 = 0 → swaps .swapOut true) ∧ (f 9 8 = 1 → swaps .swapIn false)
      ∧ (f 9 8 = 2 → ∀ p : BitVec 8, p.toNat = part → exists_ part → ∃ t, answers (.endPartition p) t ∧ t.partitions.get part = none ∧ t.mem = s.mem))
    ∧ (s.reqWaits = false → ∀ p : BitVec 8, ∃ t, exec (.endPartition p) s = .next t ∧ t.partitions.get p.toNat = none ∧ t.mem = s.mem)
    ∧ (s.asked 10 136 →
      let route := fun (n : Nat) => s.pay (8 + 2 * n) 2
      let named := fun (l : List Nat) => l.filter fun n => n != f 5 0 && route n != 0
      let bad := fun (n : Nat) => route n ≠ 0 ∧ (n = f 5 0 ∨ f 14 8 ≤ 1 + (named (List.range n)).length)
      (f 14 8 = 0 ∨ 64 < f 14 8 → exec .configurePod s = .next (s.answer 2 (some 1)))
      ∧ (1 ≤ f 14 8 → f 14 8 ≤ 64 →
        (route (f 5 0) = 0 → (named (List.range 64)).length < f 14 8 → ∃ t, answers .configurePod t
          ∧ t.pod = ⟨f 5 0, f 14 8, (List.range 64).map fun n => BitVec.ofNat 16 (route n), true, [], []⟩)
        ∧ ∀ n < 64, bad n → (∀ j < n, ¬ bad j) → exec .configurePod s = .next (s.answer 2 (some (8 + 2 * n)))))
    ∧ (s.asked 11 24 →
      let stages := fun (i : Instr) (kind : Nat) =>
        (∀ ls, s.partLocs part (s.pay 8 8) (s.pay 16 8) false = .ok ls → s.soiled ls = none → ∃ t, answers i t
          ∧ t.mgmt.inactive[kind]? = some (s.bytesAt ls) ∧ t.mgmt.staged[kind]? = some true)
        ∧ ∀ e, s.partLocs part (s.pay 8 8) (s.pay 16 8) false = .error e → refused i
      (f 9 8 = 0 → stages .stageSupervisorFirmware 0) ∧ (f 9 8 = 1 → stages .stageManagementFirmware 1)
      ∧ (f 9 8 = 2 → stages .stageConfigRecord 2))
    ∧ (s.reqWaits = true → s.reqOp = 1 → s.reqLen ≠ 96 →
      (f 31 24 = 0 → s.pay 16 8 % 256 = 0 → s.pay 24 8 % 256 = 0 → exec .createPartition s = .next (s.answer 2 none))
      ∧ (f 31 24 ≠ 0 → 3 < s.reqLen → exec .createPartition s = .next (s.answer 2 (some 3))))
    ∧ (let wrong := fun (op len : Nat) (i : Instr) => s.reqWaits = true → s.reqOp = op → s.reqLen ≠ len → ∃ d,
        exec i s = .next (s.answer 2 d) ∧ ∀ n, d = some n → n < s.reqLen
      wrong 1 96 .createPartition ∧ wrong 2 40 .loadPatternImage ∧ wrong 5 24 .shootdown ∧ wrong 7 16 .publishMonitors
      ∧ wrong 10 136 .configurePod
      ∧ (f 4 4 = 1 → wrong 3 16 .bindAperture) ∧ (f 4 4 = 0 → wrong 3 16 .unbindAperture)
      ∧ (f 19 19 = 1 → wrong 4 16 .bindRing) ∧ (f 19 19 = 0 → wrong 4 16 .unbindRing)
      ∧ (f 8 8 = 1 → wrong 8 8 .freeze) ∧ (f 8 8 = 0 → wrong 8 8 .unfreeze)
      ∧ (f 9 8 = 0 → wrong 6 2056 .releaseLandingCounters ∧ wrong 9 72 .swapOut ∧ wrong 11 24 .stageSupervisorFirmware)
      ∧ (f 9 8 = 1 → wrong 6 136 .releasePiers ∧ wrong 9 72 .swapIn ∧ wrong 11 24 .stageManagementFirmware)
      ∧ (f 9 8 = 2 → wrong 6 2056 .assignLandingCounters ∧ wrong 11 24 .stageConfigRecord
        ∧ ∀ p : BitVec 8, p.toNat = part → wrong 9 72 (.endPartition p))
      ∧ (f 9 8 = 3 → wrong 6 136 .assignPiers))

/-- Areas of the control window store what is written, reserved offsets ignore it, and a vector left pending is sent
once the table masks it no longer (the pending bits and that message are PRESUMED, log 46); the aligned 8-byte write
of a launch vector's first bytes commits it, and while READY is 0 it is stored alone (R371's area reads back what was
written; the same entry); FEAT_ACCEPT takes bit 0 while READY and with no partition (that a write of any length at
0x20 is taken whole, that a partial write of a register is ignored and that areas store any bytes is the model's
choice, log 46); NOTICE moves NRD; DOORBELL with the header's SEQ sets BUSY; a reply is written, clears BUSY and
raises vector 0. A window access of up to 8 bytes in a bound aperture reads or writes the bytes its address translates
to (no uncorrectable error in them), an AtomicOp returns the old value, and a failing CAS writes nothing; an unbound
offset is an Unsupported Request, a failed translation a Completer Abort. The resets end partitions and reset what
R382 lists (after a module reset a staged copy that verifies is active and where it does not the previous one stays
and the failure is logged; the record by whose minimum version the firmware is judged is a staged one that verifies
under the old one and under itself, the model's reading, log 53; memory reads as R184 has it for bytes nothing has
written; that the reset leaves none written is the model's choice, log 1). (Stores: no landing counter armed.) (R7,
R367, R368, R370, R371, R372, R374, R376, R382, R383, R384) -/
def Obligations.HostEvents : Prop :=
  ∀ (s : State) (c : BitVec 9) (off : BitVec 17) (data : List Byte) (nrd : BitVec 16) (v : BitVec 128) (at_ : WindowPlace) (len : BitVec 13)
      (wide link : Bool) (size : BitVec 2) (x y : X64) (log2 : BitVec 6) (d : BitVec 3),
    let o := off.toNat
    let n := data.length
    let h := s.host
    let host := fun (g : HostSide) => Host.Outcome.next (φ := Fault) (ρ := Refusal) { s with host := g }
    let write := Instr.controlWindowWrite off data
    (h.ready = true → o = 0x10000 + 64 * c.toNat → n = 8 → exec write s = exec (.launchCommit c (BitVec.ofNat 64 (leNat data))) s)
    ∧ (h.ready = false → exec (.launchCommit c x) s = host { h with window := h.window.writeBytes (0x10000 + 64 * c.toNat) (leBytes 8 x.toNat) })
    ∧ (h.ready = false → 0x10000 ≤ o → o + n ≤ 0x18000 → h.pending = 0 → exec write s = host { h with window := h.window.writeBytes o data })
    ∧ (o = 0x20 → exec write s = exec (.featAcceptWrite (BitVec.ofNat 128 (leNat (data.take 16)))) s)
    ∧ (o = 0x38 → 4 ≤ n → exec write s = exec (.noticeAck (BitVec.ofNat 16 (leNat ((data.drop 2).take 2)))) s)
    ∧ (o = 0x30 → 2 ≤ n → h.busy = false → leNat (data.take 8) % 2 ^ 16 = s.winNat 0x1002 2 → exec write s
      = host { h with busy := true, doorbell := BitVec.ofNat 64 (leNat (data.take 8) % 2 ^ 16) })
    ∧ (0x1000 ≤ o → o + n ≤ 0x4200 → let w := h.window.writeBytes o data
      (h.pending = 0 → exec write s = host { h with window := w })
      ∧ ∀ k < 32, h.pending = BitVec.ofNat 32 (2 ^ k) → let masked := (w.read 0 (0x400C + 16 * k)).getLsbD 0
        (masked = false → exec write s = host { h with window := w, pending := 0, msix := h.msix ++ [k] })
        ∧ (masked = true → exec write s = host { h with window := w }))
    ∧ (0x4200 ≤ o → o + n ≤ 0x10000 → h.pending = 0 → exec write s = .next s)
    ∧ (o < 0x1000 → o + n ≤ 0x1000 → o ∉ [0x20, 0x30, 0x38] → h.pending = 0 → exec write s = .next s)
    ∧ (h.ready = true → s.partitions = [] → exec (.featAcceptWrite v) s = host { h with featAccept := v &&& 1 })
    ∧ (h.ready = false ∨ s.partitions ≠ [] → exec (.featAcceptWrite v) s = .next s)
    ∧ (h.heldNotices = [] → exec (.noticeAck nrd) s = host { h with nrd := nrd })
    ∧ (∀ st dt, h.reply = some (st, dt) → h.busy = true → ∃ t, exec .mailboxReply s = .next t ∧ t.mem = s.mem ∧ t.host.busy = false
      ∧ t.host.reply = none
      ∧ (if (t.host.window.read 0 0x400C).getLsbD 0 then t.host.pending.getLsbD 0 = true ∧ t.host.msix = h.msix else t.host.msix = h.msix ++ [0]) ∧ readBytes (fun a => t.host.window.read 0 a) 0x2000 8
        = leBytes 2 st ++ leBytes 2 (s.winNat 0x1002 2) ++ leBytes 2 0 ++ leBytes 2 dt)
    ∧ (h.reply = none → s.reqWaits = true → s.reqOp = 0 ∨ 11 < s.reqOp → ∃ t, exec .mailboxReply s = .next t ∧ t.host.busy = false
      ∧ readBytes (fun a => t.host.window.read 0 a) 0x2000 2 = leBytes 2 3)
    ∧ (s.window at_.off.toNat = none →
      (len.toNat ≤ 8 → exec (.hostWindowRead at_ len) s = host { h with replies := h.replies ++ [.unsupported] })
      ∧ (n ≤ 8 → exec (.hostWindowWrite at_ data) s = .next s)
      ∧ exec (.atomicFetchadd at_ wide x) s = host { h with replies := h.replies ++ [.unsupported] }
      ∧ exec (.atomicSwap at_ wide x) s = host { h with replies := h.replies ++ [.unsupported] }
      ∧ exec (.atomicCas at_ size x y) s = host { h with replies := h.replies ++ [.unsupported] })
    ∧ (∀ a part va, s.window at_.off.toNat = some (a, part, va) → let inside := fun (n : Nat) => at_.off.toNat % s.apertureSize + n ≤ s.apertureSize
      (∀ ls, len.toNat ≤ 8 → inside len.toNat → s.partLocs part va len.toNat false = .ok ls → s.soiled ls = none → ∃ t, exec (.hostWindowRead at_ len) s = .next t ∧ t.mem = s.mem
        ∧ t.host.replies = h.replies ++ [.data (s.bytesAt ls)])
      ∧ (∀ e, len.toNat ≤ 8 → inside len.toNat → s.partLocs part va len.toNat false = .error e → ∃ t, exec (.hostWindowRead at_ len) s = .next t ∧ t.mem = s.mem
        ∧ t.host.replies = h.replies ++ [.abort])
      ∧ (∀ ls, n ≤ 8 → inside n → s.quiet → s.partLocs part va n true = .ok ls → ∃ t, exec (.hostWindowWrite at_ data) s = .next t
        ∧ t.mem = Memory.writeAll s.mem ls data)
      ∧ (s.quiet → let k := if wide then 8 else 4
        let m := if size = 0 then 4 else 8
        let atomic := fun (i : Instr) (k : Nat) (new : Nat → Option Nat) => va % k = 0 → ∀ ls, s.partLocs part va k true = .ok ls → s.soiled ls = none → ∃ t,
          exec i s = .next t
          ∧ t.mem = (match new (leNat (s.bytesAt ls)) with | some x => Memory.writeAll s.mem ls (leBytes k x) | none => s.mem)
          ∧ t.host.replies = h.replies ++ [.data (s.bytesAt ls)]
        atomic (.atomicFetchadd at_ wide x) k (fun old => some ((old + x.toNat) % 2 ^ 64)) ∧ atomic (.atomicSwap at_ wide x) k (fun _ => some x.toNat)
        ∧ (size.toNat < 2 → atomic (.atomicCas at_ size x y) m (fun old => if old = x.toNat % 2 ^ (8 * m) then some y.toNat else none))))
    ∧ (2 ≤ size.toNat → exec (.atomicCas at_ size x y) s = host { h with replies := h.replies ++ [.unsupported] })
    ∧ (34 ≤ log2.toNat → log2.toNat ≤ 40 → exec (.resizableBarWrite log2) s = host { h with windowLog2 := log2.toNat })
    ∧ (∃ t, exec .moduleReset s = .next t ∧ t.mem = [] ∧ t.cores = [] ∧ t.partitions = [] ∧ t.cycle = 0
      ∧ t.host.ready = !t.host.recov ∧ t.host.ready = s.mgmt.reboot.verified ∧ t.mgmt.errorLog = s.mgmt.reboot.errorLog
      ∧ let m := s.mgmt
        let verifies := fun (config img : List Byte) => Config.signatureOk img = true ∧ Config.minimumVersion config ≤ Config.securityVersion img
        ∀ config, (if m.staged[2] = true ∧ verifies m.active[2] m.inactive[2] ∧ verifies m.inactive[2] m.inactive[2] then config = m.inactive[2]
            else config = m.active[2]) →
          ∀ (k : Nat) new, m.inactive[k]? = some new →
            let good := m.staged[k]? = some true ∧ verifies config new ∧ (k = 2 → verifies m.active[2] new)
            (good → t.mgmt.active[k]? = some new ∧ t.mgmt.inactive[k]? = m.active[k]?)
            ∧ (¬ good → t.mgmt.active[k]? = m.active[k]? ∧ t.mgmt.inactive[k]? = some new ∧ (m.staged[k]? = some true → (1, k) ∈ t.mgmt.errorLog)))
    ∧ (∀ i ∈ [Instr.hotReset link, .functionLevelReset link], ∃ t, exec i s = .next t ∧ t.mem = s.mem ∧ (∀ p, t.partitions.get p = none)
      ∧ t.host.featAccept = 0 ∧ t.host.busy = false ∧ t.host.nwr = 0 ∧ t.host.nrd = 0 ∧ t.host.apertures = [] ∧ t.mgmt = s.mgmt)
    ∧ (∃ t, exec (.mgmtDieReset d) s = .next t ∧ t.mem = s.mem
      ∧ (∀ p e, s.partitions.get p = some e → (∃ core ∈ e.cores, core / 64 = d.toNat) → t.partitions.get p = none)
      ∧ ∀ p, (∀ e ∈ s.partitions, e.1 = p → ∀ core ∈ e.2.cores, core / 64 ≠ d.toNat) → t.partitions.get p = s.partitions.get p)

/-- The management controller answers EID assignment and discovery, sensors (a die's SOFTCOR and STRETCH, a site's
counts), versions, capabilities without sessions, ECDSA P-256 and SHA-256 alone, digests, the certificate of slot 0
(none of another), a signed challenge and measurements 1 to 4, reads and clears its error log (the sensors' numbers,
measurement 4's bytes, the answer for an empty slot, the codes of SPDM, and the log's codes and layout are the model's
choice, log 53), takes a power limit of 1.8 to 3.6 kW and stages firmware in the inactive copy. Clock stretches, an
overtemperature stop, retries, port failures and unreachable packages are counted, end what they must, and are told by
notices of kinds 8 and 9 (TEMP and POWER are free values, log 15; that a notice is held while the ring is full is
R374's). After the stop nothing but the agenda acts (the model's reading, log 55). A cache flush leaves memory as it
is; a page migration begins for a leaf entry and at its end no translation of the old place is kept (log 52). (R164,
R168, R358, R374, R375, R378, R379, R380, R381, R384, R385) -/
def Obligations.ManagementEvents : Prop :=
  ∀ (s : State) (e d8 idx : BitVec 8) (d : BitVec 3) (which : BitVec 2) (img : List Byte) (nonce : BitVec 256) (mw : BitVec 32)
      (port site : BitVec 4) (pkg : BitVec 6) (entry new : BitVec 52),
    let m := s.mgmt
    let sha := fun (b : List Byte) => leBytes 32 (Config.sha256 b).toNat
    let gives := fun (i : Instr) (b : List Byte) => exec i s = .next { s with mgmt := { m with replies := m.replies ++ [b] } }
    -- the notices of R374 and R375: into the ring while it has room, then held; vector 1
    let h := s.host
    let used := (h.nwr - h.nrd).toNat
    let tells := fun (t : State) (news : List (List Byte)) => used ≤ 64 →
      (∀ k b, news[k]? = some b → used + k < 64 → readBytes (fun a => t.host.window.read 0 a) (0x3000 + 64 * ((h.nwr.toNat + k) % 64)) 64 = b)
      ∧ t.host.nwr = h.nwr + BitVec.ofNat 16 (min news.length (64 - used)) ∧ t.host.heldNotices = h.heldNotices ++ news.drop (64 - used)
      ∧ (used < 64 → if (t.host.window.read 0 0x401C).getLsbD 0 then t.host.pending.getLsbD 1 = true else 1 ∈ t.host.msix)
    let link := fun (what part n : Nat) => leBytes 2 8 ++ leBytes 2 part ++ leBytes 4 0 ++ leBytes 1 what ++ leBytes 1 n ++ leBytes 54 0
    let thermal := fun (t : State) (what : Nat) => ∃ temp power, tells t
      [leBytes 2 9 ++ leBytes 2 0 ++ leBytes 4 (64 * d.toNat) ++ leBytes 8 what ++ leBytes 4 temp ++ leBytes 4 power ++ leBytes 40 0]
    exec (.mctpControl (some e)) s = .next { s with mgmt := { m with eid := e, replies := m.replies ++ [[e]] } }
    ∧ gives (.mctpControl none) [m.eid]
    ∧ (let st := s.site (d8.toNat % 16)
      let reads := fun (x : X64) => ∃ t, exec (.pldmSensorRead d d8) s = .next t ∧ t.mgmt.replies = m.replies ++ [leBytes 8 x.toNat]
        ∧ t.dies = s.dies ∧ t.sites = s.sites
      (d8 = 0 → reads (s.die d.toNat).softcor) ∧ (d8 = 1 → reads (s.die d.toNat).stretch)
      ∧ (d8.toNat / 16 = 1 → reads st.hits) ∧ (d8.toNat / 16 = 2 → reads st.misses) ∧ (d8.toNat / 16 = 3 → reads st.flushes)
      ∧ (d8.toNat / 16 = 4 → reads st.pierCmds) ∧ (d8.toNat / 16 = 5 → reads st.dramCor))
    ∧ (which ≠ 3 → ∃ t, exec (.pldmFirmwareUpdate which img) s = .next t ∧ t.mgmt.inactive[which.toNat]? = some img
      ∧ t.mgmt.staged[which.toNat]? = some true ∧ t.mgmt.active = m.active)
    ∧ gives .getVersion [0x12, 0x13] ∧ gives .getCapabilities (leBytes 4 0x16 ++ Config.protocolAnswer 0)
    ∧ gives .negotiateAlgorithms (leBytes 4 0x10 ++ leBytes 4 0x01 ++ Config.protocolAnswer 1)
    ∧ gives .getDigests (sha Config.certificateChain) ∧ gives (.getCertificate 0) Config.certificateChain
    ∧ (d ≠ 0 → gives (.getCertificate d) [])
    ∧ gives (.getMeasurements 1) (sha m.active[0]) ∧ gives (.getMeasurements 2) (sha m.active[1]) ∧ gives (.getMeasurements 3) (sha m.active[2])
    ∧ gives (.getMeasurements 4) (sha (leBytes 16 1))
    ∧ gives (.challenge nonce) (Config.sign (leBytes 32 nonce.toNat ++ sha m.active[0] ++ sha m.active[1] ++ sha m.active[2] ++ sha (leBytes 16 1)))
    ∧ gives .errorLogRead (m.errorLog.flatMap fun x => leBytes 8 x.1 ++ leBytes 8 x.2)
    ∧ exec .errorLogClear s = .next { s with mgmt := { m with errorLog := [] } }
    ∧ (1800000 ≤ mw.toNat → mw.toNat ≤ 3600000 → exec (.setPowerLimit mw) s = .next { s with mgmt := { m with powerLimit := mw.toNat } })
    ∧ (mw.toNat < 1800000 ∨ 3600000 < mw.toNat → exec (.setPowerLimit mw) s = .next s)
    ∧ ((s.die d.toNat).stretching = false → ∃ t, exec (.clockStretchBegin d) s = .next t ∧ t.mem = s.mem
      ∧ t.die d.toNat = { s.die d.toNat with stretching := true } ∧ thermal t 0)
    ∧ ((s.die d.toNat).stretching = true → ∃ t lost, exec (.clockStretchEnd d) s = .next t ∧ t.mem = s.mem
      ∧ t.die d.toNat = { s.die d.toNat with stretching := false, stretch := (s.die d.toNat).stretch + lost } ∧ thermal t 1)
    ∧ (∃ t, exec (.overtempPowerOff d) s = .next t ∧ t.mgmt.powered = false ∧ t.host.ready = false ∧ (∀ p, t.partitions.get p = none)
      ∧ t.mgmt.errorLog = m.errorLog ++ [(0, d.toNat)] ∧ thermal t 2 ∧ Sys2Proof.Machine.step { t with agenda := [] } = .fault .unpowered)
    ∧ exec (.flitRetry port) s = .next { s with mgmt := { m with flitRetries := m.flitRetries + 1 } }
    ∧ (∃ t, exec (.portFailure port) s = .next t ∧ t.pod.failedPorts = addTo s.pod.failedPorts port.toNat ∧ t.mem = s.mem ∧ t.partitions = s.partitions
      ∧ tells t [link 0 0 port.toNat])
    ∧ (∃ t, exec (.packageUnreachable pkg) s = .next t ∧ t.pod.unreachable = addTo s.pod.unreachable pkg.toNat ∧ t.mem = s.mem
      ∧ (∀ p x, s.partitions.get p = some x → pkg.toNat ∈ x.spans → t.partitions.get p = none)
      ∧ tells t (link 1 0 pkg.toNat :: (s.partitions.filter fun p => p.2.spans.contains pkg.toNat).map fun p => link 2 p.1 pkg.toNat))
    ∧ (∃ t, exec (.memorySideCacheFlush site) s = .next t ∧ t.mem = s.mem ∧ (t.site site.toNat).flushes = (s.site site.toNat).flushes + 1
      ∧ ∀ l ∈ (t.site site.toNat).lines, l.2 = false)
    ∧ (s.mayMigrate entry.toNat new.toNat = true → (∀ x ∈ s.migrating, x.1 ≠ entry.toNat) → exec (.pageMigration entry new) s
      = .next { s with migrating := s.migrating ++ [(entry.toNat, new.toNat)] })
    ∧ (s.mayMigrate entry.toNat new.toNat = false → exec (.pageMigration entry new) s = .next s)
    ∧ (∀ a b r, s.migrating = (a, b) :: r →
      let old := bitsOf (s.readPhys a) 51 16 * 2 ^ 16
      let size := s.leafSize a
      ∃ t, exec .pageMigrationEnd s = .next t ∧ t.migrating = r
      ∧ (∀ x ∈ t.cores, ∀ n ∈ x.2.tlb, ¬ (old ≤ n.pa ∧ n.pa < old + size)) ∧ ∀ x ∈ t.quads, ∀ n ∈ x.2.tlb, ¬ (old ≤ n.pa ∧ n.pa < old + size))
    ∧ (s.migrating = [] → exec .pageMigrationEnd s = .next s)

/-- An instruction of the scalar ALU, of the V slot without memory, CRD or a no-operation that answers a next state
without a halt changes nothing but the pending results of its destination registers: memory, other contexts, other
cores, segments, semaphores, special registers, the status and every other register stand. A bundle that counts lands
only entries of its context's flight record: a register with no entry keeps its value, and so does everything else of
the context; the landing of a value that replaces a whole register ends the uncorrectable error the register held, and
no other ends. A MODE that sets ILK lands the entries counted in bundles directly after its bundle, one that leaves
ILK lands none, and after one that clears it the context stalls while an entry counted in cycles is pending: its core
issues no bundle of any context. (R38, R56, R59, R60, R64, R65, R66, R69, R125, R142, R360) -/
def Obligations.RegisterFrame : Prop :=
  (∀ (i : Instr) (s t : State) (regs : List Reg), i.destRegs s.issue.rrb = some regs → s.issue.ctx < 4 → exec i s = .next t →
      t.issue.verdict = none → { t with cores := s.cores } = s ∧ (∀ d, d ≠ s.issue.core → t.core d = s.core d)
      ∧ t.core s.issue.core = { s.core s.issue.core with cur := { s.ccs with ctxs := t.ccs.ctxs } }
      ∧ s.othersKept t ∧ s.onlyRegs t regs)
    ∧ (∀ c : Ctx, let d := c.stepBundles
      d = { c with x := d.x, p := d.p, v := d.v, m := d.m, k := d.k, kth := d.kth, flight := d.flight, flaws := d.flaws }
      ∧ (∀ n, (∀ e ∈ c.flight, e.reg ≠ .x n) → d.getX n = c.getX n) ∧ (∀ n < 16, (∀ e ∈ c.flight, e.reg ≠ .p n) → d.getP n = c.getP n)
      ∧ (∀ n, (∀ e ∈ c.flight, e.reg ≠ .v n) → d.getV n = c.getV n) ∧ (∀ n, (∀ e ∈ c.flight, e.reg ≠ .m n) → d.getM n = c.getM n)
      ∧ (∀ n, (∀ e ∈ c.flight, e.reg ≠ .k n) → d.getK n = c.getK n) ∧ (∀ n : Nat, (∀ e ∈ c.flight, e.reg ≠ .kth n) → d.kth[n]? = c.kth[n]?)
      ∧ ((∀ e ∈ c.flight, e.reg = .p 7 → ∃ b, e.val = .p b) →
        let ends := fun (e : FlightEntry) => e.cycles = false ∧ e.left ≤ 1 ∧ match e.val with
          | .v mask _ => mask = BitVec.allOnes 64
          | _ => True
        ∀ r, r ∈ d.flaws ↔ r ∈ c.flaws ∧ ∀ e ∈ c.flight, ends e → e.reg ≠ r))
    ∧ (∀ (t : State) (x : Ctx) (b : Bundle) (l : List SlotView) (bc : X64) (ilk : Bool) (vrm : BitVec 2), let i := t.issue
      let c := t.ctx i.core i.ctx
      let y := (t.commit x b l bc).ctx i.core i.ctx
      i.after = [.mode ilk vrm] → i.ctx < 4 → c.loops = [] →
      let z := c.stepBundles
      let same := fun (w : Ctx) => y.x = w.x ∧ y.p = w.p ∧ y.v = w.v ∧ y.m = w.m ∧ y.k = w.k ∧ y.kth = w.kth ∧ y.flight = w.flight
      y.mode = ⟨ilk, vrm, c.mode.priv⟩ ∧ (ilk = false ∨ x.mode.ilk = true → same z)
      ∧ (ilk = true → x.mode.ilk = false → same z.landBundles ∧ y.flight = z.flight.filter fun e => e.cycles)
      ∧ (y.modeStalls = true ↔ ilk = false ∧ ∃ e ∈ c.flight, e.cycles = true))
    ∧ ∀ (s u : State) (core k : Nat) (r : List Turn) (ready : List Nat), s.agenda = [] → s.mgmt.powered = true → s.todo = .issue core :: r →
      (s.cs core).stallTo = 0 → State.surveyed { s with todo := r } core = (u, ready) → k < 4 → (∀ j < k, (u.ctx core j).holdsCore = false) →
      let waits := fun (l : List Nat) (v : State) => l.foldl (fun w j => (w.rearrive core j).reread core j) v
      let w := waits (List.range k) u
      (u.ctx core k).holdsCore = true → (w.ctx core k).holdsCore = true → (∀ v, w.tryIssue core k ≠ .trapped v) →
      step s = .next (waits (countFrom (k + 1) (3 - k)) (w.modCS core fun v => v.stall k)).settle

/-- A load, gather, PREF, ISUM, KLOAD or KMRGS that answers a next state without a halt leaves memory, segments,
semaphores and the other state of its core, and every other context, as they are: of its own context only the pending
results of its destination and of an incremented offset register change, and which old words of a bank it has observed
to be out of date (R191, R198). Cache and translation notes and their counts may change; the supervisor's notices may
where memory holds an uncorrectable error. (R99, R150, R170, R171, R174, R176, R177, R178, R179, R180, R191) -/
def Obligations.LoadFrame : Prop :=
  ∀ (i : Instr) (s t : State) (regs : List Reg), i.loadRegs s.issue.rrb = some regs → s.issue.ctx < 4 → exec i s = .next t →
      t.issue.verdict = none → t.mem = s.mem ∧ (∀ d, d ≠ s.issue.core → t.cs d = s.cs d)
      ∧ t.ccs = { s.ccs with ctxs := t.ccs.ctxs, mon := t.ccs.mon } ∧ t.partitions = s.partitions ∧ t.barriers = s.barriers
      ∧ t.tasks = s.tasks ∧ t.piers = s.piers ∧ (s.flaws = [] → t.host = s.host) ∧ t.news = s.news ∧ s.othersKept t ∧ s.onlyRead t regs

/-- With no landing counter armed, a global store or atomic whose guard is true and that answers a next state without
a halt stores only to the locations that its address translates to, computed as the instruction computes them (each
selected lane's for VSTG and VSCG): every other byte of memory reads as before, every segment stands, and of the
contexts only the pending results of the destination register of an atomic change, and what its read observes (R191).
(R169, R170, R172, R173, R178, R180, R191) -/
def Obligations.StoreFrame : Prop :=
  ∀ (s t : State) (g : BitVec 4) (d a b : BitVec 6) (z o : BitVec 3) (i : BitVec 6) (v j : BitVec 5) (m : BitVec 3) (x : X64) (idx : VReg) (k : BitVec 64),
    s.quiet → s.issue.ctx < 4 → s.readP g.toNat = .ok true → s.readX a = .ok x → s.readV j = .ok idx → s.readM m = .ok k → t.issue.verdict = none →
    let core := s.issue.core
    let size : Nat := [1, 2, 4, 8, 1, 2, 4].getD z.toNat 1
    let va := (x + BitVec.ofInt 64 (i.toInt * size)).toNat
    let lanes := (List.range 64).filter fun l => k.getLsbD l
    let keeps := fun (ls : List Nat) (regs : List Reg) (reads : Bool) => (∀ l, l ∉ ls → Memory.read t.mem l = Memory.read s.mem l)
      ∧ (∀ c, (t.cs c).segs = (s.cs c).segs ∧ (t.cs c).sems = (s.cs c).sems) ∧ s.othersKept t
      ∧ if reads then s.onlyRead t regs else s.onlyRegs t regs
    let one := fun (e : Instr) (addr n : Nat) (regs : List Reg) (reads : Bool) => exec e s = .next t → ∃ ls, s.locs core addr n true = .ok ls ∧ keeps ls regs reads
    let each := fun (e : Instr) (addr : Nat → Nat) => exec e s = .next t → ∃ f : Nat → List Nat,
      (∀ l ∈ lanes, s.locs core (addr l) 4 true = .ok (f l)) ∧ keeps (lanes.flatMap f) [] false
    one (.st g d a z i) va size [] false
    ∧ one (.amo g d a b o) x.toNat 8 (destX s.issue.rrb d) true ∧ one (.amo4 g d a b o) x.toNat 4 (destX s.issue.rrb d) true
    ∧ one (.cas g d a b) x.toNat 8 (destX s.issue.rrb d) true ∧ one (.cas4 g d a b) x.toNat 4 (destX s.issue.rrb d) true
    ∧ each (.vstg g v a m) (fun l => (x + BitVec.ofNat 64 (4 * l)).toNat)
    ∧ each (.vscg g v a j m) (fun l => (x + (idx.lane l).signExtend 64).toNat)

/-- With no landing counter armed, STS8, STS4, VSTS, VSCS and KSAVE within a segment that is ready and with a true
guard, when they answer a next state without a halt, change only the bytes they store to, at the offset they compute:
memory, every other segment and every other byte of the segment read as before, and of the contexts only the pending
result of an incremented offset register changes. STS8, STS4 and VSTS on the stack's overflow path store only to the
locations of the address they compute, and no segment changes (the sum modulo 2^64 is the model's choice, log entry
61). A command of the E slot or a segment or landing-counter instruction that answers a next state without a halt
stores nothing at its issue: memory, every byte of a segment but those of the one SGDEF defines, semaphores, SGQUOTA,
other cores and other contexts stand, and of its own context only the record of commands in flight, LDARM's wait and
the pending result of SGSTAT's or LDREAD's destination change. (R31, R158, R149, R159, R171, R177, R179, R279) -/
def Obligations.SegmentStoreFrame : Prop :=
  (∀ (s t : State) (gd : BitVec 4) (r o : BitVec 6) (y : BitVec 8) (n : BitVec 1) (v j : BitVec 5) (m : BitVec 2) (k kk : BitVec 3)
      (x : X64) (idx : VReg) (sel : BitVec 64) (id : Nat) (g : Seg),
    s.quiet → s.issue.ctx < 4 → s.readP gd.toNat = .ok true → s.readX o = .ok x → s.readV j = .ok idx → s.readM k = .ok sel →
    s.segReady y.toNat id g → s.ccs.seg id = some g → t.issue.verdict = none →
    let off := x.toNat
    let voff := (x + s.issue.step).toNat
    let lane := fun (l : Nat) => ((idx.lane l).setWidth 64 + s.issue.step).toNat
    let lanes := (List.range 64).filter fun l => sel.getLsbD l
    let inc := fun (one : Bool) => if one then destX s.issue.rrb o else []
    let keeps := fun (stored : Nat → Prop) (regs : List Reg) => t.mem = s.mem ∧ (∀ a, ¬ stored a → t.ccs.segRead id a 1 = s.ccs.segRead id a 1)
      ∧ (∀ e, e ≠ id → t.ccs.seg e = s.ccs.seg e) ∧ (∀ c, c ≠ s.issue.core → t.cs c = s.cs c) ∧ t.ccs.sems = s.ccs.sems
      ∧ (y.toNat < 0xFE → g.name = y.toNat → t.ccs.bank0 = s.ccs.bank0 ∧ t.ccs.bank1 = s.ccs.bank1)
      ∧ s.othersKept t ∧ s.onlyRegs t regs
    let pushes := fun (i : Instr) (at' size : Nat) (regs : List Reg) => ∀ va, s.overflowsTo g at' va → exec i s = .next t →
      ∃ ls, s.locs s.issue.core va size true = .ok ls ∧ (∀ l, l ∉ ls → Memory.read t.mem l = Memory.read s.mem l)
        ∧ (∀ c, (t.cs c).segs = (s.cs c).segs ∧ (t.cs c).sems = (s.cs c).sems) ∧ s.othersKept t ∧ s.onlyRegs t regs
    (off + 8 ≤ 256 * g.len → exec (.sts8 gd r y o n) s = .next t → keeps (fun a => off ≤ a ∧ a < off + 8) (inc (n == 1)))
    ∧ (off + 4 ≤ 256 * g.len → exec (.sts4 gd r y o n) s = .next t → keeps (fun a => off ≤ a ∧ a < off + 4) (inc (n == 1)))
    ∧ (voff + 256 ≤ 256 * g.len → exec (.vsts gd v y o m) s = .next t → keeps (fun a => voff ≤ a ∧ a < voff + 256) (inc (m == 1)))
    ∧ ((∀ l ∈ lanes, lane l + 4 ≤ 256 * g.len) → exec (.vscs gd v y j k) s = .next t →
      keeps (fun a => ∃ l ∈ lanes, lane l ≤ a ∧ a < lane l + 4) [])
    ∧ (voff + 520 ≤ 256 * g.len → exec (.ksave gd kk y o) s = .next t → keeps (fun a => voff ≤ a ∧ a < voff + 520) [])
    ∧ pushes (.sts8 gd r y o n) off 8 (inc (n == 1)) ∧ pushes (.sts4 gd r y o n) off 4 (inc (n == 1))
    ∧ pushes (.vsts gd v y o m) voff 256 (inc (m == 1)))
  ∧ ∀ (i : Instr) (s t : State) (regs : List Reg), i.commandRegs s.issue.rrb = some regs → s.issue.ctx < 4 → exec i s = .next t →
      t.issue.verdict = none → t.mem = s.mem ∧ (∀ c, c ≠ s.issue.core → t.cs c = s.cs c) ∧ t.ccs.sems = s.ccs.sems
      ∧ (∀ id a, id ≠ s.ccs.nextSeg → t.ccs.segRead id a 1 = s.ccs.segRead id a 1) ∧ t.ccs.quota = s.ccs.quota
      ∧ t.barriers = s.barriers ∧ t.partitions = s.partitions ∧ t.piers = s.piers ∧ t.host = s.host ∧ s.othersKept t
      ∧ (s.modCx fun c => { c with inflight := t.cx.inflight, armed := t.cx.armed }).onlyRegs t regs
      ∧ (t.cx.inflight = s.cx.inflight ∨ t.cx.inflight = s.cx.inflight ++ [s.nextId])
end

