-- ==== Sys2Proof/Laws/State.lean ====
section
/-!
SUPPORT. What each update of the state leaves alone, one lemma for a field and an update.
-/
namespace Sys2Proof.Machine

variable (s : State)

/-! ### State.setCore -/

@[simp] theorem State.setCore_cycle (c : Nat) (v : Core) : (s.setCore c v).cycle = s.cycle := rfl
@[simp] theorem State.setCore_quads (c : Nat) (v : Core) : (s.setCore c v).quads = s.quads := rfl
@[simp] theorem State.setCore_dies (c : Nat) (v : Core) : (s.setCore c v).dies = s.dies := rfl
@[simp] theorem State.setCore_sites (c : Nat) (v : Core) : (s.setCore c v).sites = s.sites := rfl
@[simp] theorem State.setCore_piers (c : Nat) (v : Core) : (s.setCore c v).piers = s.piers := rfl
@[simp] theorem State.setCore_mem (c : Nat) (v : Core) : (s.setCore c v).mem = s.mem := rfl
@[simp] theorem State.setCore_flaws (c : Nat) (v : Core) : (s.setCore c v).flaws = s.flaws := rfl
@[simp] theorem State.setCore_strikes (c : Nat) (v : Core) : (s.setCore c v).strikes = s.strikes := rfl
@[simp] theorem State.setCore_barriers (c : Nat) (v : Core) : (s.setCore c v).barriers = s.barriers := rfl
@[simp] theorem State.setCore_partitions (c : Nat) (v : Core) : (s.setCore c v).partitions = s.partitions := rfl
@[simp] theorem State.setCore_tasks (c : Nat) (v : Core) : (s.setCore c v).tasks = s.tasks := rfl
@[simp] theorem State.setCore_nextTask (c : Nat) (v : Core) : (s.setCore c v).nextTask = s.nextTask := rfl
@[simp] theorem State.setCore_landingOwner (c : Nat) (v : Core) : (s.setCore c v).landingOwner = s.landingOwner := rfl
@[simp] theorem State.setCore_pierOwner (c : Nat) (v : Core) : (s.setCore c v).pierOwner = s.pierOwner := rfl
@[simp] theorem State.setCore_migrating (c : Nat) (v : Core) : (s.setCore c v).migrating = s.migrating := rfl
@[simp] theorem State.setCore_host (c : Nat) (v : Core) : (s.setCore c v).host = s.host := rfl
@[simp] theorem State.setCore_pod (c : Nat) (v : Core) : (s.setCore c v).pod = s.pod := rfl
@[simp] theorem State.setCore_mgmt (c : Nat) (v : Core) : (s.setCore c v).mgmt = s.mgmt := rfl
@[simp] theorem State.setCore_failedWrites (c : Nat) (v : Core) : (s.setCore c v).failedWrites = s.failedWrites := rfl
@[simp] theorem State.setCore_actions (c : Nat) (v : Core) : (s.setCore c v).actions = s.actions := rfl
@[simp] theorem State.setCore_news (c : Nat) (v : Core) : (s.setCore c v).news = s.news := rfl
@[simp] theorem State.setCore_nextId (c : Nat) (v : Core) : (s.setCore c v).nextId = s.nextId := rfl
@[simp] theorem State.setCore_issue (c : Nat) (v : Core) : (s.setCore c v).issue = s.issue := rfl
@[simp] theorem State.setCore_agenda (c : Nat) (v : Core) : (s.setCore c v).agenda = s.agenda := rfl
@[simp] theorem State.setCore_todo (c : Nat) (v : Core) : (s.setCore c v).todo = s.todo := rfl
@[simp] theorem State.setCore_fresh (c : Nat) (v : Core) : (s.setCore c v).fresh = s.fresh := rfl

/-! ### State.modCore -/

@[simp] theorem State.modCore_cycle (c : Nat) (f : Core → Core) : (s.modCore c f).cycle = s.cycle := rfl
@[simp] theorem State.modCore_quads (c : Nat) (f : Core → Core) : (s.modCore c f).quads = s.quads := rfl
@[simp] theorem State.modCore_dies (c : Nat) (f : Core → Core) : (s.modCore c f).dies = s.dies := rfl
@[simp] theorem State.modCore_sites (c : Nat) (f : Core → Core) : (s.modCore c f).sites = s.sites := rfl
@[simp] theorem State.modCore_piers (c : Nat) (f : Core → Core) : (s.modCore c f).piers = s.piers := rfl
@[simp] theorem State.modCore_mem (c : Nat) (f : Core → Core) : (s.modCore c f).mem = s.mem := rfl
@[simp] theorem State.modCore_flaws (c : Nat) (f : Core → Core) : (s.modCore c f).flaws = s.flaws := rfl
@[simp] theorem State.modCore_strikes (c : Nat) (f : Core → Core) : (s.modCore c f).strikes = s.strikes := rfl
@[simp] theorem State.modCore_barriers (c : Nat) (f : Core → Core) : (s.modCore c f).barriers = s.barriers := rfl
@[simp] theorem State.modCore_partitions (c : Nat) (f : Core → Core) : (s.modCore c f).partitions = s.partitions := rfl
@[simp] theorem State.modCore_tasks (c : Nat) (f : Core → Core) : (s.modCore c f).tasks = s.tasks := rfl
@[simp] theorem State.modCore_nextTask (c : Nat) (f : Core → Core) : (s.modCore c f).nextTask = s.nextTask := rfl
@[simp] theorem State.modCore_landingOwner (c : Nat) (f : Core → Core) : (s.modCore c f).landingOwner = s.landingOwner := rfl
@[simp] theorem State.modCore_pierOwner (c : Nat) (f : Core → Core) : (s.modCore c f).pierOwner = s.pierOwner := rfl
@[simp] theorem State.modCore_migrating (c : Nat) (f : Core → Core) : (s.modCore c f).migrating = s.migrating := rfl
@[simp] theorem State.modCore_host (c : Nat) (f : Core → Core) : (s.modCore c f).host = s.host := rfl
@[simp] theorem State.modCore_pod (c : Nat) (f : Core → Core) : (s.modCore c f).pod = s.pod := rfl
@[simp] theorem State.modCore_mgmt (c : Nat) (f : Core → Core) : (s.modCore c f).mgmt = s.mgmt := rfl
@[simp] theorem State.modCore_failedWrites (c : Nat) (f : Core → Core) : (s.modCore c f).failedWrites = s.failedWrites := rfl
@[simp] theorem State.modCore_actions (c : Nat) (f : Core → Core) : (s.modCore c f).actions = s.actions := rfl
@[simp] theorem State.modCore_news (c : Nat) (f : Core → Core) : (s.modCore c f).news = s.news := rfl
@[simp] theorem State.modCore_nextId (c : Nat) (f : Core → Core) : (s.modCore c f).nextId = s.nextId := rfl
@[simp] theorem State.modCore_issue (c : Nat) (f : Core → Core) : (s.modCore c f).issue = s.issue := rfl
@[simp] theorem State.modCore_agenda (c : Nat) (f : Core → Core) : (s.modCore c f).agenda = s.agenda := rfl
@[simp] theorem State.modCore_todo (c : Nat) (f : Core → Core) : (s.modCore c f).todo = s.todo := rfl
@[simp] theorem State.modCore_fresh (c : Nat) (f : Core → Core) : (s.modCore c f).fresh = s.fresh := rfl

/-! ### State.modCS -/

@[simp] theorem State.modCS_cycle (c : Nat) (f : CoreState → CoreState) : (s.modCS c f).cycle = s.cycle := rfl
@[simp] theorem State.modCS_quads (c : Nat) (f : CoreState → CoreState) : (s.modCS c f).quads = s.quads := rfl
@[simp] theorem State.modCS_dies (c : Nat) (f : CoreState → CoreState) : (s.modCS c f).dies = s.dies := rfl
@[simp] theorem State.modCS_sites (c : Nat) (f : CoreState → CoreState) : (s.modCS c f).sites = s.sites := rfl
@[simp] theorem State.modCS_piers (c : Nat) (f : CoreState → CoreState) : (s.modCS c f).piers = s.piers := rfl
@[simp] theorem State.modCS_mem (c : Nat) (f : CoreState → CoreState) : (s.modCS c f).mem = s.mem := rfl
@[simp] theorem State.modCS_flaws (c : Nat) (f : CoreState → CoreState) : (s.modCS c f).flaws = s.flaws := rfl
@[simp] theorem State.modCS_strikes (c : Nat) (f : CoreState → CoreState) : (s.modCS c f).strikes = s.strikes := rfl
@[simp] theorem State.modCS_barriers (c : Nat) (f : CoreState → CoreState) : (s.modCS c f).barriers = s.barriers := rfl
@[simp] theorem State.modCS_partitions (c : Nat) (f : CoreState → CoreState) : (s.modCS c f).partitions = s.partitions := rfl
@[simp] theorem State.modCS_tasks (c : Nat) (f : CoreState → CoreState) : (s.modCS c f).tasks = s.tasks := rfl
@[simp] theorem State.modCS_nextTask (c : Nat) (f : CoreState → CoreState) : (s.modCS c f).nextTask = s.nextTask := rfl
@[simp] theorem State.modCS_landingOwner (c : Nat) (f : CoreState → CoreState) : (s.modCS c f).landingOwner = s.landingOwner := rfl
@[simp] theorem State.modCS_pierOwner (c : Nat) (f : CoreState → CoreState) : (s.modCS c f).pierOwner = s.pierOwner := rfl
@[simp] theorem State.modCS_migrating (c : Nat) (f : CoreState → CoreState) : (s.modCS c f).migrating = s.migrating := rfl
@[simp] theorem State.modCS_host (c : Nat) (f : CoreState → CoreState) : (s.modCS c f).host = s.host := rfl
@[simp] theorem State.modCS_pod (c : Nat) (f : CoreState → CoreState) : (s.modCS c f).pod = s.pod := rfl
@[simp] theorem State.modCS_mgmt (c : Nat) (f : CoreState → CoreState) : (s.modCS c f).mgmt = s.mgmt := rfl
@[simp] theorem State.modCS_failedWrites (c : Nat) (f : CoreState → CoreState) : (s.modCS c f).failedWrites = s.failedWrites := rfl
@[simp] theorem State.modCS_actions (c : Nat) (f : CoreState → CoreState) : (s.modCS c f).actions = s.actions := rfl
@[simp] theorem State.modCS_news (c : Nat) (f : CoreState → CoreState) : (s.modCS c f).news = s.news := rfl
@[simp] theorem State.modCS_nextId (c : Nat) (f : CoreState → CoreState) : (s.modCS c f).nextId = s.nextId := rfl
@[simp] theorem State.modCS_issue (c : Nat) (f : CoreState → CoreState) : (s.modCS c f).issue = s.issue := rfl
@[simp] theorem State.modCS_agenda (c : Nat) (f : CoreState → CoreState) : (s.modCS c f).agenda = s.agenda := rfl
@[simp] theorem State.modCS_todo (c : Nat) (f : CoreState → CoreState) : (s.modCS c f).todo = s.todo := rfl
@[simp] theorem State.modCS_fresh (c : Nat) (f : CoreState → CoreState) : (s.modCS c f).fresh = s.fresh := rfl

/-! ### State.modCtx -/

@[simp] theorem State.modCtx_cycle (c k : Nat) (f : Ctx → Ctx) : (s.modCtx c k f).cycle = s.cycle := rfl
@[simp] theorem State.modCtx_quads (c k : Nat) (f : Ctx → Ctx) : (s.modCtx c k f).quads = s.quads := rfl
@[simp] theorem State.modCtx_dies (c k : Nat) (f : Ctx → Ctx) : (s.modCtx c k f).dies = s.dies := rfl
@[simp] theorem State.modCtx_sites (c k : Nat) (f : Ctx → Ctx) : (s.modCtx c k f).sites = s.sites := rfl
@[simp] theorem State.modCtx_piers (c k : Nat) (f : Ctx → Ctx) : (s.modCtx c k f).piers = s.piers := rfl
@[simp] theorem State.modCtx_mem (c k : Nat) (f : Ctx → Ctx) : (s.modCtx c k f).mem = s.mem := rfl
@[simp] theorem State.modCtx_flaws (c k : Nat) (f : Ctx → Ctx) : (s.modCtx c k f).flaws = s.flaws := rfl
@[simp] theorem State.modCtx_strikes (c k : Nat) (f : Ctx → Ctx) : (s.modCtx c k f).strikes = s.strikes := rfl
@[simp] theorem State.modCtx_barriers (c k : Nat) (f : Ctx → Ctx) : (s.modCtx c k f).barriers = s.barriers := rfl
@[simp] theorem State.modCtx_partitions (c k : Nat) (f : Ctx → Ctx) : (s.modCtx c k f).partitions = s.partitions := rfl
@[simp] theorem State.modCtx_tasks (c k : Nat) (f : Ctx → Ctx) : (s.modCtx c k f).tasks = s.tasks := rfl
@[simp] theorem State.modCtx_nextTask (c k : Nat) (f : Ctx → Ctx) : (s.modCtx c k f).nextTask = s.nextTask := rfl
@[simp] theorem State.modCtx_landingOwner (c k : Nat) (f : Ctx → Ctx) : (s.modCtx c k f).landingOwner = s.landingOwner := rfl
@[simp] theorem State.modCtx_pierOwner (c k : Nat) (f : Ctx → Ctx) : (s.modCtx c k f).pierOwner = s.pierOwner := rfl
@[simp] theorem State.modCtx_migrating (c k : Nat) (f : Ctx → Ctx) : (s.modCtx c k f).migrating = s.migrating := rfl
@[simp] theorem State.modCtx_host (c k : Nat) (f : Ctx → Ctx) : (s.modCtx c k f).host = s.host := rfl
@[simp] theorem State.modCtx_pod (c k : Nat) (f : Ctx → Ctx) : (s.modCtx c k f).pod = s.pod := rfl
@[simp] theorem State.modCtx_mgmt (c k : Nat) (f : Ctx → Ctx) : (s.modCtx c k f).mgmt = s.mgmt := rfl
@[simp] theorem State.modCtx_failedWrites (c k : Nat) (f : Ctx → Ctx) : (s.modCtx c k f).failedWrites = s.failedWrites := rfl
@[simp] theorem State.modCtx_actions (c k : Nat) (f : Ctx → Ctx) : (s.modCtx c k f).actions = s.actions := rfl
@[simp] theorem State.modCtx_news (c k : Nat) (f : Ctx → Ctx) : (s.modCtx c k f).news = s.news := rfl
@[simp] theorem State.modCtx_nextId (c k : Nat) (f : Ctx → Ctx) : (s.modCtx c k f).nextId = s.nextId := rfl
@[simp] theorem State.modCtx_issue (c k : Nat) (f : Ctx → Ctx) : (s.modCtx c k f).issue = s.issue := rfl
@[simp] theorem State.modCtx_agenda (c k : Nat) (f : Ctx → Ctx) : (s.modCtx c k f).agenda = s.agenda := rfl
@[simp] theorem State.modCtx_todo (c k : Nat) (f : Ctx → Ctx) : (s.modCtx c k f).todo = s.todo := rfl
@[simp] theorem State.modCtx_fresh (c k : Nat) (f : Ctx → Ctx) : (s.modCtx c k f).fresh = s.fresh := rfl

/-! ### State.modCx -/

@[simp] theorem State.modCx_cycle (f : Ctx → Ctx) : (s.modCx f).cycle = s.cycle := rfl
@[simp] theorem State.modCx_quads (f : Ctx → Ctx) : (s.modCx f).quads = s.quads := rfl
@[simp] theorem State.modCx_dies (f : Ctx → Ctx) : (s.modCx f).dies = s.dies := rfl
@[simp] theorem State.modCx_sites (f : Ctx → Ctx) : (s.modCx f).sites = s.sites := rfl
@[simp] theorem State.modCx_piers (f : Ctx → Ctx) : (s.modCx f).piers = s.piers := rfl
@[simp] theorem State.modCx_mem (f : Ctx → Ctx) : (s.modCx f).mem = s.mem := rfl
@[simp] theorem State.modCx_flaws (f : Ctx → Ctx) : (s.modCx f).flaws = s.flaws := rfl
@[simp] theorem State.modCx_strikes (f : Ctx → Ctx) : (s.modCx f).strikes = s.strikes := rfl
@[simp] theorem State.modCx_barriers (f : Ctx → Ctx) : (s.modCx f).barriers = s.barriers := rfl
@[simp] theorem State.modCx_partitions (f : Ctx → Ctx) : (s.modCx f).partitions = s.partitions := rfl
@[simp] theorem State.modCx_tasks (f : Ctx → Ctx) : (s.modCx f).tasks = s.tasks := rfl
@[simp] theorem State.modCx_nextTask (f : Ctx → Ctx) : (s.modCx f).nextTask = s.nextTask := rfl
@[simp] theorem State.modCx_landingOwner (f : Ctx → Ctx) : (s.modCx f).landingOwner = s.landingOwner := rfl
@[simp] theorem State.modCx_pierOwner (f : Ctx → Ctx) : (s.modCx f).pierOwner = s.pierOwner := rfl
@[simp] theorem State.modCx_migrating (f : Ctx → Ctx) : (s.modCx f).migrating = s.migrating := rfl
@[simp] theorem State.modCx_host (f : Ctx → Ctx) : (s.modCx f).host = s.host := rfl
@[simp] theorem State.modCx_pod (f : Ctx → Ctx) : (s.modCx f).pod = s.pod := rfl
@[simp] theorem State.modCx_mgmt (f : Ctx → Ctx) : (s.modCx f).mgmt = s.mgmt := rfl
@[simp] theorem State.modCx_failedWrites (f : Ctx → Ctx) : (s.modCx f).failedWrites = s.failedWrites := rfl
@[simp] theorem State.modCx_actions (f : Ctx → Ctx) : (s.modCx f).actions = s.actions := rfl
@[simp] theorem State.modCx_news (f : Ctx → Ctx) : (s.modCx f).news = s.news := rfl
@[simp] theorem State.modCx_nextId (f : Ctx → Ctx) : (s.modCx f).nextId = s.nextId := rfl
@[simp] theorem State.modCx_issue (f : Ctx → Ctx) : (s.modCx f).issue = s.issue := rfl
@[simp] theorem State.modCx_agenda (f : Ctx → Ctx) : (s.modCx f).agenda = s.agenda := rfl
@[simp] theorem State.modCx_todo (f : Ctx → Ctx) : (s.modCx f).todo = s.todo := rfl
@[simp] theorem State.modCx_fresh (f : Ctx → Ctx) : (s.modCx f).fresh = s.fresh := rfl

/-! ### State.modCcs -/

@[simp] theorem State.modCcs_cycle (f : CoreState → CoreState) : (s.modCcs f).cycle = s.cycle := rfl
@[simp] theorem State.modCcs_quads (f : CoreState → CoreState) : (s.modCcs f).quads = s.quads := rfl
@[simp] theorem State.modCcs_dies (f : CoreState → CoreState) : (s.modCcs f).dies = s.dies := rfl
@[simp] theorem State.modCcs_sites (f : CoreState → CoreState) : (s.modCcs f).sites = s.sites := rfl
@[simp] theorem State.modCcs_piers (f : CoreState → CoreState) : (s.modCcs f).piers = s.piers := rfl
@[simp] theorem State.modCcs_mem (f : CoreState → CoreState) : (s.modCcs f).mem = s.mem := rfl
@[simp] theorem State.modCcs_flaws (f : CoreState → CoreState) : (s.modCcs f).flaws = s.flaws := rfl
@[simp] theorem State.modCcs_strikes (f : CoreState → CoreState) : (s.modCcs f).strikes = s.strikes := rfl
@[simp] theorem State.modCcs_barriers (f : CoreState → CoreState) : (s.modCcs f).barriers = s.barriers := rfl
@[simp] theorem State.modCcs_partitions (f : CoreState → CoreState) : (s.modCcs f).partitions = s.partitions := rfl
@[simp] theorem State.modCcs_tasks (f : CoreState → CoreState) : (s.modCcs f).tasks = s.tasks := rfl
@[simp] theorem State.modCcs_nextTask (f : CoreState → CoreState) : (s.modCcs f).nextTask = s.nextTask := rfl
@[simp] theorem State.modCcs_landingOwner (f : CoreState → CoreState) : (s.modCcs f).landingOwner = s.landingOwner := rfl
@[simp] theorem State.modCcs_pierOwner (f : CoreState → CoreState) : (s.modCcs f).pierOwner = s.pierOwner := rfl
@[simp] theorem State.modCcs_migrating (f : CoreState → CoreState) : (s.modCcs f).migrating = s.migrating := rfl
@[simp] theorem State.modCcs_host (f : CoreState → CoreState) : (s.modCcs f).host = s.host := rfl
@[simp] theorem State.modCcs_pod (f : CoreState → CoreState) : (s.modCcs f).pod = s.pod := rfl
@[simp] theorem State.modCcs_mgmt (f : CoreState → CoreState) : (s.modCcs f).mgmt = s.mgmt := rfl
@[simp] theorem State.modCcs_failedWrites (f : CoreState → CoreState) : (s.modCcs f).failedWrites = s.failedWrites := rfl
@[simp] theorem State.modCcs_actions (f : CoreState → CoreState) : (s.modCcs f).actions = s.actions := rfl
@[simp] theorem State.modCcs_news (f : CoreState → CoreState) : (s.modCcs f).news = s.news := rfl
@[simp] theorem State.modCcs_nextId (f : CoreState → CoreState) : (s.modCcs f).nextId = s.nextId := rfl
@[simp] theorem State.modCcs_issue (f : CoreState → CoreState) : (s.modCcs f).issue = s.issue := rfl
@[simp] theorem State.modCcs_agenda (f : CoreState → CoreState) : (s.modCcs f).agenda = s.agenda := rfl
@[simp] theorem State.modCcs_todo (f : CoreState → CoreState) : (s.modCcs f).todo = s.todo := rfl
@[simp] theorem State.modCcs_fresh (f : CoreState → CoreState) : (s.modCcs f).fresh = s.fresh := rfl

/-! ### State.modIssue -/

@[simp] theorem State.modIssue_cycle (f : Issue → Issue) : (s.modIssue f).cycle = s.cycle := rfl
@[simp] theorem State.modIssue_cores (f : Issue → Issue) : (s.modIssue f).cores = s.cores := rfl
@[simp] theorem State.modIssue_quads (f : Issue → Issue) : (s.modIssue f).quads = s.quads := rfl
@[simp] theorem State.modIssue_dies (f : Issue → Issue) : (s.modIssue f).dies = s.dies := rfl
@[simp] theorem State.modIssue_sites (f : Issue → Issue) : (s.modIssue f).sites = s.sites := rfl
@[simp] theorem State.modIssue_piers (f : Issue → Issue) : (s.modIssue f).piers = s.piers := rfl
@[simp] theorem State.modIssue_mem (f : Issue → Issue) : (s.modIssue f).mem = s.mem := rfl
@[simp] theorem State.modIssue_flaws (f : Issue → Issue) : (s.modIssue f).flaws = s.flaws := rfl
@[simp] theorem State.modIssue_strikes (f : Issue → Issue) : (s.modIssue f).strikes = s.strikes := rfl
@[simp] theorem State.modIssue_barriers (f : Issue → Issue) : (s.modIssue f).barriers = s.barriers := rfl
@[simp] theorem State.modIssue_partitions (f : Issue → Issue) : (s.modIssue f).partitions = s.partitions := rfl
@[simp] theorem State.modIssue_tasks (f : Issue → Issue) : (s.modIssue f).tasks = s.tasks := rfl
@[simp] theorem State.modIssue_nextTask (f : Issue → Issue) : (s.modIssue f).nextTask = s.nextTask := rfl
@[simp] theorem State.modIssue_landingOwner (f : Issue → Issue) : (s.modIssue f).landingOwner = s.landingOwner := rfl
@[simp] theorem State.modIssue_pierOwner (f : Issue → Issue) : (s.modIssue f).pierOwner = s.pierOwner := rfl
@[simp] theorem State.modIssue_migrating (f : Issue → Issue) : (s.modIssue f).migrating = s.migrating := rfl
@[simp] theorem State.modIssue_host (f : Issue → Issue) : (s.modIssue f).host = s.host := rfl
@[simp] theorem State.modIssue_pod (f : Issue → Issue) : (s.modIssue f).pod = s.pod := rfl
@[simp] theorem State.modIssue_mgmt (f : Issue → Issue) : (s.modIssue f).mgmt = s.mgmt := rfl
@[simp] theorem State.modIssue_failedWrites (f : Issue → Issue) : (s.modIssue f).failedWrites = s.failedWrites := rfl
@[simp] theorem State.modIssue_actions (f : Issue → Issue) : (s.modIssue f).actions = s.actions := rfl
@[simp] theorem State.modIssue_news (f : Issue → Issue) : (s.modIssue f).news = s.news := rfl
@[simp] theorem State.modIssue_nextId (f : Issue → Issue) : (s.modIssue f).nextId = s.nextId := rfl
@[simp] theorem State.modIssue_agenda (f : Issue → Issue) : (s.modIssue f).agenda = s.agenda := rfl
@[simp] theorem State.modIssue_todo (f : Issue → Issue) : (s.modIssue f).todo = s.todo := rfl
@[simp] theorem State.modIssue_fresh (f : Issue → Issue) : (s.modIssue f).fresh = s.fresh := rfl
@[simp] theorem State.modIssue_issue (f : Issue → Issue) : (s.modIssue f).issue = f s.issue := rfl

/-! ### State.modQuad -/

@[simp] theorem State.modQuad_cycle (q : Nat) (f : Quad → Quad) : (s.modQuad q f).cycle = s.cycle := rfl
@[simp] theorem State.modQuad_cores (q : Nat) (f : Quad → Quad) : (s.modQuad q f).cores = s.cores := rfl
@[simp] theorem State.modQuad_dies (q : Nat) (f : Quad → Quad) : (s.modQuad q f).dies = s.dies := rfl
@[simp] theorem State.modQuad_sites (q : Nat) (f : Quad → Quad) : (s.modQuad q f).sites = s.sites := rfl
@[simp] theorem State.modQuad_piers (q : Nat) (f : Quad → Quad) : (s.modQuad q f).piers = s.piers := rfl
@[simp] theorem State.modQuad_mem (q : Nat) (f : Quad → Quad) : (s.modQuad q f).mem = s.mem := rfl
@[simp] theorem State.modQuad_flaws (q : Nat) (f : Quad → Quad) : (s.modQuad q f).flaws = s.flaws := rfl
@[simp] theorem State.modQuad_strikes (q : Nat) (f : Quad → Quad) : (s.modQuad q f).strikes = s.strikes := rfl
@[simp] theorem State.modQuad_barriers (q : Nat) (f : Quad → Quad) : (s.modQuad q f).barriers = s.barriers := rfl
@[simp] theorem State.modQuad_partitions (q : Nat) (f : Quad → Quad) : (s.modQuad q f).partitions = s.partitions := rfl
@[simp] theorem State.modQuad_tasks (q : Nat) (f : Quad → Quad) : (s.modQuad q f).tasks = s.tasks := rfl
@[simp] theorem State.modQuad_nextTask (q : Nat) (f : Quad → Quad) : (s.modQuad q f).nextTask = s.nextTask := rfl
@[simp] theorem State.modQuad_landingOwner (q : Nat) (f : Quad → Quad) : (s.modQuad q f).landingOwner = s.landingOwner := rfl
@[simp] theorem State.modQuad_pierOwner (q : Nat) (f : Quad → Quad) : (s.modQuad q f).pierOwner = s.pierOwner := rfl
@[simp] theorem State.modQuad_migrating (q : Nat) (f : Quad → Quad) : (s.modQuad q f).migrating = s.migrating := rfl
@[simp] theorem State.modQuad_host (q : Nat) (f : Quad → Quad) : (s.modQuad q f).host = s.host := rfl
@[simp] theorem State.modQuad_pod (q : Nat) (f : Quad → Quad) : (s.modQuad q f).pod = s.pod := rfl
@[simp] theorem State.modQuad_mgmt (q : Nat) (f : Quad → Quad) : (s.modQuad q f).mgmt = s.mgmt := rfl
@[simp] theorem State.modQuad_failedWrites (q : Nat) (f : Quad → Quad) : (s.modQuad q f).failedWrites = s.failedWrites := rfl
@[simp] theorem State.modQuad_actions (q : Nat) (f : Quad → Quad) : (s.modQuad q f).actions = s.actions := rfl
@[simp] theorem State.modQuad_news (q : Nat) (f : Quad → Quad) : (s.modQuad q f).news = s.news := rfl
@[simp] theorem State.modQuad_nextId (q : Nat) (f : Quad → Quad) : (s.modQuad q f).nextId = s.nextId := rfl
@[simp] theorem State.modQuad_issue (q : Nat) (f : Quad → Quad) : (s.modQuad q f).issue = s.issue := rfl
@[simp] theorem State.modQuad_agenda (q : Nat) (f : Quad → Quad) : (s.modQuad q f).agenda = s.agenda := rfl
@[simp] theorem State.modQuad_todo (q : Nat) (f : Quad → Quad) : (s.modQuad q f).todo = s.todo := rfl
@[simp] theorem State.modQuad_fresh (q : Nat) (f : Quad → Quad) : (s.modQuad q f).fresh = s.fresh := rfl

/-! ### State.modDie -/

@[simp] theorem State.modDie_cycle (d : Nat) (f : Die → Die) : (s.modDie d f).cycle = s.cycle := rfl
@[simp] theorem State.modDie_cores (d : Nat) (f : Die → Die) : (s.modDie d f).cores = s.cores := rfl
@[simp] theorem State.modDie_quads (d : Nat) (f : Die → Die) : (s.modDie d f).quads = s.quads := rfl
@[simp] theorem State.modDie_sites (d : Nat) (f : Die → Die) : (s.modDie d f).sites = s.sites := rfl
@[simp] theorem State.modDie_piers (d : Nat) (f : Die → Die) : (s.modDie d f).piers = s.piers := rfl
@[simp] theorem State.modDie_mem (d : Nat) (f : Die → Die) : (s.modDie d f).mem = s.mem := rfl
@[simp] theorem State.modDie_flaws (d : Nat) (f : Die → Die) : (s.modDie d f).flaws = s.flaws := rfl
@[simp] theorem State.modDie_strikes (d : Nat) (f : Die → Die) : (s.modDie d f).strikes = s.strikes := rfl
@[simp] theorem State.modDie_barriers (d : Nat) (f : Die → Die) : (s.modDie d f).barriers = s.barriers := rfl
@[simp] theorem State.modDie_partitions (d : Nat) (f : Die → Die) : (s.modDie d f).partitions = s.partitions := rfl
@[simp] theorem State.modDie_tasks (d : Nat) (f : Die → Die) : (s.modDie d f).tasks = s.tasks := rfl
@[simp] theorem State.modDie_nextTask (d : Nat) (f : Die → Die) : (s.modDie d f).nextTask = s.nextTask := rfl
@[simp] theorem State.modDie_landingOwner (d : Nat) (f : Die → Die) : (s.modDie d f).landingOwner = s.landingOwner := rfl
@[simp] theorem State.modDie_pierOwner (d : Nat) (f : Die → Die) : (s.modDie d f).pierOwner = s.pierOwner := rfl
@[simp] theorem State.modDie_migrating (d : Nat) (f : Die → Die) : (s.modDie d f).migrating = s.migrating := rfl
@[simp] theorem State.modDie_host (d : Nat) (f : Die → Die) : (s.modDie d f).host = s.host := rfl
@[simp] theorem State.modDie_pod (d : Nat) (f : Die → Die) : (s.modDie d f).pod = s.pod := rfl
@[simp] theorem State.modDie_mgmt (d : Nat) (f : Die → Die) : (s.modDie d f).mgmt = s.mgmt := rfl
@[simp] theorem State.modDie_failedWrites (d : Nat) (f : Die → Die) : (s.modDie d f).failedWrites = s.failedWrites := rfl
@[simp] theorem State.modDie_actions (d : Nat) (f : Die → Die) : (s.modDie d f).actions = s.actions := rfl
@[simp] theorem State.modDie_news (d : Nat) (f : Die → Die) : (s.modDie d f).news = s.news := rfl
@[simp] theorem State.modDie_nextId (d : Nat) (f : Die → Die) : (s.modDie d f).nextId = s.nextId := rfl
@[simp] theorem State.modDie_issue (d : Nat) (f : Die → Die) : (s.modDie d f).issue = s.issue := rfl
@[simp] theorem State.modDie_agenda (d : Nat) (f : Die → Die) : (s.modDie d f).agenda = s.agenda := rfl
@[simp] theorem State.modDie_todo (d : Nat) (f : Die → Die) : (s.modDie d f).todo = s.todo := rfl
@[simp] theorem State.modDie_fresh (d : Nat) (f : Die → Die) : (s.modDie d f).fresh = s.fresh := rfl

/-! ### State.modSite -/

@[simp] theorem State.modSite_cycle (n : Nat) (f : Site → Site) : (s.modSite n f).cycle = s.cycle := rfl
@[simp] theorem State.modSite_cores (n : Nat) (f : Site → Site) : (s.modSite n f).cores = s.cores := rfl
@[simp] theorem State.modSite_quads (n : Nat) (f : Site → Site) : (s.modSite n f).quads = s.quads := rfl
@[simp] theorem State.modSite_dies (n : Nat) (f : Site → Site) : (s.modSite n f).dies = s.dies := rfl
@[simp] theorem State.modSite_piers (n : Nat) (f : Site → Site) : (s.modSite n f).piers = s.piers := rfl
@[simp] theorem State.modSite_mem (n : Nat) (f : Site → Site) : (s.modSite n f).mem = s.mem := rfl
@[simp] theorem State.modSite_flaws (n : Nat) (f : Site → Site) : (s.modSite n f).flaws = s.flaws := rfl
@[simp] theorem State.modSite_strikes (n : Nat) (f : Site → Site) : (s.modSite n f).strikes = s.strikes := rfl
@[simp] theorem State.modSite_barriers (n : Nat) (f : Site → Site) : (s.modSite n f).barriers = s.barriers := rfl
@[simp] theorem State.modSite_partitions (n : Nat) (f : Site → Site) : (s.modSite n f).partitions = s.partitions := rfl
@[simp] theorem State.modSite_tasks (n : Nat) (f : Site → Site) : (s.modSite n f).tasks = s.tasks := rfl
@[simp] theorem State.modSite_nextTask (n : Nat) (f : Site → Site) : (s.modSite n f).nextTask = s.nextTask := rfl
@[simp] theorem State.modSite_landingOwner (n : Nat) (f : Site → Site) : (s.modSite n f).landingOwner = s.landingOwner := rfl
@[simp] theorem State.modSite_pierOwner (n : Nat) (f : Site → Site) : (s.modSite n f).pierOwner = s.pierOwner := rfl
@[simp] theorem State.modSite_migrating (n : Nat) (f : Site → Site) : (s.modSite n f).migrating = s.migrating := rfl
@[simp] theorem State.modSite_host (n : Nat) (f : Site → Site) : (s.modSite n f).host = s.host := rfl
@[simp] theorem State.modSite_pod (n : Nat) (f : Site → Site) : (s.modSite n f).pod = s.pod := rfl
@[simp] theorem State.modSite_mgmt (n : Nat) (f : Site → Site) : (s.modSite n f).mgmt = s.mgmt := rfl
@[simp] theorem State.modSite_failedWrites (n : Nat) (f : Site → Site) : (s.modSite n f).failedWrites = s.failedWrites := rfl
@[simp] theorem State.modSite_actions (n : Nat) (f : Site → Site) : (s.modSite n f).actions = s.actions := rfl
@[simp] theorem State.modSite_news (n : Nat) (f : Site → Site) : (s.modSite n f).news = s.news := rfl
@[simp] theorem State.modSite_nextId (n : Nat) (f : Site → Site) : (s.modSite n f).nextId = s.nextId := rfl
@[simp] theorem State.modSite_issue (n : Nat) (f : Site → Site) : (s.modSite n f).issue = s.issue := rfl
@[simp] theorem State.modSite_agenda (n : Nat) (f : Site → Site) : (s.modSite n f).agenda = s.agenda := rfl
@[simp] theorem State.modSite_todo (n : Nat) (f : Site → Site) : (s.modSite n f).todo = s.todo := rfl
@[simp] theorem State.modSite_fresh (n : Nat) (f : Site → Site) : (s.modSite n f).fresh = s.fresh := rfl

/-! ### State.modPier -/

@[simp] theorem State.modPier_cycle (u : Nat) (f : Pier → Pier) : (s.modPier u f).cycle = s.cycle := rfl
@[simp] theorem State.modPier_cores (u : Nat) (f : Pier → Pier) : (s.modPier u f).cores = s.cores := rfl
@[simp] theorem State.modPier_quads (u : Nat) (f : Pier → Pier) : (s.modPier u f).quads = s.quads := rfl
@[simp] theorem State.modPier_dies (u : Nat) (f : Pier → Pier) : (s.modPier u f).dies = s.dies := rfl
@[simp] theorem State.modPier_sites (u : Nat) (f : Pier → Pier) : (s.modPier u f).sites = s.sites := rfl
@[simp] theorem State.modPier_mem (u : Nat) (f : Pier → Pier) : (s.modPier u f).mem = s.mem := rfl
@[simp] theorem State.modPier_flaws (u : Nat) (f : Pier → Pier) : (s.modPier u f).flaws = s.flaws := rfl
@[simp] theorem State.modPier_strikes (u : Nat) (f : Pier → Pier) : (s.modPier u f).strikes = s.strikes := rfl
@[simp] theorem State.modPier_barriers (u : Nat) (f : Pier → Pier) : (s.modPier u f).barriers = s.barriers := rfl
@[simp] theorem State.modPier_partitions (u : Nat) (f : Pier → Pier) : (s.modPier u f).partitions = s.partitions := rfl
@[simp] theorem State.modPier_tasks (u : Nat) (f : Pier → Pier) : (s.modPier u f).tasks = s.tasks := rfl
@[simp] theorem State.modPier_nextTask (u : Nat) (f : Pier → Pier) : (s.modPier u f).nextTask = s.nextTask := rfl
@[simp] theorem State.modPier_landingOwner (u : Nat) (f : Pier → Pier) : (s.modPier u f).landingOwner = s.landingOwner := rfl
@[simp] theorem State.modPier_pierOwner (u : Nat) (f : Pier → Pier) : (s.modPier u f).pierOwner = s.pierOwner := rfl
@[simp] theorem State.modPier_migrating (u : Nat) (f : Pier → Pier) : (s.modPier u f).migrating = s.migrating := rfl
@[simp] theorem State.modPier_host (u : Nat) (f : Pier → Pier) : (s.modPier u f).host = s.host := rfl
@[simp] theorem State.modPier_pod (u : Nat) (f : Pier → Pier) : (s.modPier u f).pod = s.pod := rfl
@[simp] theorem State.modPier_mgmt (u : Nat) (f : Pier → Pier) : (s.modPier u f).mgmt = s.mgmt := rfl
@[simp] theorem State.modPier_failedWrites (u : Nat) (f : Pier → Pier) : (s.modPier u f).failedWrites = s.failedWrites := rfl
@[simp] theorem State.modPier_actions (u : Nat) (f : Pier → Pier) : (s.modPier u f).actions = s.actions := rfl
@[simp] theorem State.modPier_news (u : Nat) (f : Pier → Pier) : (s.modPier u f).news = s.news := rfl
@[simp] theorem State.modPier_nextId (u : Nat) (f : Pier → Pier) : (s.modPier u f).nextId = s.nextId := rfl
@[simp] theorem State.modPier_issue (u : Nat) (f : Pier → Pier) : (s.modPier u f).issue = s.issue := rfl
@[simp] theorem State.modPier_agenda (u : Nat) (f : Pier → Pier) : (s.modPier u f).agenda = s.agenda := rfl
@[simp] theorem State.modPier_todo (u : Nat) (f : Pier → Pier) : (s.modPier u f).todo = s.todo := rfl
@[simp] theorem State.modPier_fresh (u : Nat) (f : Pier → Pier) : (s.modPier u f).fresh = s.fresh := rfl

end Sys2Proof.Machine
end

