-- ==== Sys2Proof/Laws/Table.lean ====
section
/-!
SUPPORT. Laws of the sparse tables: a read after a write, and the canonical form that every write keeps.
-/
namespace Sys2Proof

variable {α : Type}

@[simp] theorem Tab.get_nil (n : Nat) : Tab.get ([] : Tab α) n = none := rfl

theorem Tab.get_del_same (t : Tab α) (n : Nat) : (t.del n).get n = none := by
  induction t with
  | nil => rfl
  | cons e r ih =>
    obtain ⟨k, v⟩ := e
    by_cases h : k = n <;> simp [Tab.del, Tab.get, h, ih]

theorem Tab.get_del_other (t : Tab α) {n m : Nat} (h : m ≠ n) : (t.del n).get m = t.get m := by
  induction t with
  | nil => rfl
  | cons e r ih =>
    obtain ⟨k, v⟩ := e
    simp only [Tab.del]
    split
    · rename_i hk; subst hk; simp [Tab.get, ih, Ne.symm h]
    · simp only [Tab.get]; split
      · rfl
      · exact ih

theorem Tab.get_insert_same (t : Tab α) (n : Nat) (w : α) (h : t.get n = none) : (t.insert n w).get n = some w := by
  induction t with
  | nil => simp [Tab.insert, Tab.get]
  | cons e r ih =>
    obtain ⟨k, v⟩ := e
    by_cases hk : k = n
    · simp [Tab.get, hk] at h
    · have hr : Tab.get r n = none := by simpa [Tab.get, hk] using h
      by_cases hl : n < k <;> simp [Tab.insert, Tab.get, hk, hl, ih hr]

theorem Tab.get_insert_other (t : Tab α) {n m : Nat} (w : α) (h : m ≠ n) : (t.insert n w).get m = t.get m := by
  induction t with
  | nil => simp [Tab.insert, Tab.get, Ne.symm h]
  | cons e r ih =>
    obtain ⟨k, v⟩ := e
    simp only [Tab.insert]
    split
    · simp [Tab.get, Ne.symm h]
    · simp only [Tab.get]; split
      · rfl
      · exact ih

@[simp] theorem Tab.get_put_same (t : Tab α) (n : Nat) (w : α) : (t.put n w).get n = some w :=
  Tab.get_insert_same _ _ _ (Tab.get_del_same t n)

theorem Tab.get_put_other (t : Tab α) {n m : Nat} (w : α) (h : m ≠ n) : (t.put n w).get m = t.get m := by
  rw [Tab.put, Tab.get_insert_other _ _ h, Tab.get_del_other _ h]

theorem Tab.del_del (t : Tab α) (n : Nat) : (t.del n).del n = t.del n := by
  induction t with
  | nil => rfl
  | cons e r ih =>
    obtain ⟨k, v⟩ := e
    by_cases h : k = n <;> simp [Tab.del, h, ih]

theorem Tab.del_insert_same (t : Tab α) (n : Nat) (w : α) : (t.insert n w).del n = t.del n := by
  induction t with
  | nil => simp [Tab.insert, Tab.del]
  | cons e r ih =>
    obtain ⟨k, v⟩ := e
    simp only [Tab.insert]
    split
    · simp [Tab.del]
    · simp only [Tab.del, ih]

/-- Of two writes of a key the second counts. -/
theorem Tab.put_put (t : Tab α) (n : Nat) (v w : α) : (t.put n v).put n w = t.put n w := by
  unfold Tab.put
  rw [Tab.del_insert_same, Tab.del_del]

@[simp] theorem Tab.read_put_same (t : Tab α) (d : α) (n : Nat) (w : α) : (t.put n w).read d n = w := by
  simp [Tab.read]

theorem Tab.read_put_other (t : Tab α) (d : α) {n m : Nat} (w : α) (h : m ≠ n) :
    (t.put n w).read d m = t.read d m := by simp [Tab.read, Tab.get_put_other _ _ h]

@[simp] theorem Tab.read_write_same [DecidableEq α] (t : Tab α) (d : α) (n : Nat) (w : α) : (t.write d n w).read d n = w := by
  by_cases h : w = d <;> simp [Tab.write, Tab.read, h, Tab.get_del_same]

theorem Tab.read_write_other [DecidableEq α] (t : Tab α) (d : α) {n m : Nat} (w : α) (h : m ≠ n) :
    (t.write d n w).read d m = t.read d m := by
  by_cases hd : w = d <;> simp [Tab.write, Tab.read, hd, Tab.get_del_other _ h, Tab.get_put_other _ _ h]

/-! ### The canonical form -/

/-- Every key of a table is above a bound. -/
def Tab.above (b : Nat) (t : Tab α) : Prop := ∀ e ∈ t, b < e.1

theorem Tab.sorted_cons {k : Nat} {v : α} {t : Tab α} :
    Tab.sorted ((k, v) :: t) = true ↔ Tab.above k t ∧ Tab.sorted t = true := by
  induction t generalizing k v with
  | nil => simp [Tab.sorted, Tab.above]
  | cons e r ih =>
    obtain ⟨l, w⟩ := e
    simp only [Tab.sorted, Bool.and_eq_true, decide_eq_true_eq]
    constructor
    · rintro ⟨h, hs⟩
      refine ⟨fun e he => ?_, hs⟩
      rcases List.mem_cons.1 he with rfl | he
      · exact h
      · exact Nat.lt_trans h ((ih.1 hs).1 e he)
    · rintro ⟨h, hs⟩
      exact ⟨h (l, w) (List.mem_cons_self ..), hs⟩

theorem Tab.mem_del {t : Tab α} {n : Nat} {e : Nat × α} (h : e ∈ t.del n) : e ∈ t ∧ e.1 ≠ n := by
  induction t with
  | nil => simp [Tab.del] at h
  | cons f r ih =>
    obtain ⟨k, v⟩ := f
    by_cases hk : k = n
    · have h' : e ∈ Tab.del r n := by simpa [Tab.del, hk] using h
      exact ⟨List.mem_cons_of_mem _ (ih h').1, (ih h').2⟩
    · have h' : e = (k, v) ∨ e ∈ Tab.del r n := by simpa [Tab.del, hk] using h
      rcases h' with rfl | h'
      · exact ⟨List.mem_cons_self .., hk⟩
      · exact ⟨List.mem_cons_of_mem _ (ih h').1, (ih h').2⟩

theorem Tab.mem_insert {t : Tab α} {n : Nat} {w : α} {e : Nat × α} (h : e ∈ t.insert n w) : e = (n, w) ∨ e ∈ t := by
  induction t with
  | nil => simpa [Tab.insert] using h
  | cons f r ih =>
    obtain ⟨k, v⟩ := f
    by_cases hl : n < k
    · simpa [Tab.insert, hl] using h
    · have h' : e = (k, v) ∨ e ∈ Tab.insert r n w := by simpa [Tab.insert, hl] using h
      rcases h' with rfl | h'
      · exact .inr (List.mem_cons_self ..)
      · rcases ih h' with h2 | h2
        · exact .inl h2
        · exact .inr (List.mem_cons_of_mem _ h2)

theorem Tab.sorted_del {t : Tab α} (n : Nat) (h : t.sorted = true) : (t.del n).sorted = true := by
  induction t with
  | nil => rfl
  | cons e r ih =>
    obtain ⟨k, v⟩ := e
    have hr := Tab.sorted_cons.1 h
    by_cases hk : k = n
    · simpa [Tab.del, hk] using ih hr.2
    · have : Tab.sorted ((k, v) :: Tab.del r n) = true :=
        Tab.sorted_cons.2 ⟨fun e he => hr.1 e (Tab.mem_del he).1, ih hr.2⟩
      simpa [Tab.del, hk] using this

theorem Tab.sorted_insert {t : Tab α} {n : Nat} (w : α) (hn : ∀ e ∈ t, e.1 ≠ n) (h : t.sorted = true) :
    (t.insert n w).sorted = true := by
  induction t with
  | nil => rfl
  | cons e r ih =>
    obtain ⟨k, v⟩ := e
    have hr := Tab.sorted_cons.1 h
    by_cases hl : n < k
    · have : Tab.sorted ((n, w) :: (k, v) :: r) = true := by
        refine Tab.sorted_cons.2 ⟨fun e he => ?_, h⟩
        rcases List.mem_cons.1 he with rfl | he
        · exact hl
        · exact Nat.lt_trans hl (hr.1 e he)
      simpa [Tab.insert, hl] using this
    · have hk : k ≠ n := hn (k, v) (List.mem_cons_self ..)
      have : Tab.sorted ((k, v) :: Tab.insert r n w) = true := by
        refine Tab.sorted_cons.2 ⟨fun e he => ?_, ih (fun e he => hn e (List.mem_cons_of_mem _ he)) hr.2⟩
        rcases Tab.mem_insert he with rfl | he
        · exact Nat.lt_of_le_of_ne (Nat.le_of_not_lt hl) hk
        · exact hr.1 e he
      simpa [Tab.insert, hl] using this

theorem Tab.sorted_put {t : Tab α} (n : Nat) (w : α) (h : t.sorted = true) : (t.put n w).sorted = true :=
  Tab.sorted_insert w (fun _ he => (Tab.mem_del he).2) (Tab.sorted_del n h)

theorem Tab.wf_iff [DecidableEq α] {t : Tab α} {d : α} :
    Tab.wf t d = true ↔ t.sorted = true ∧ ∀ e ∈ t, e.2 ≠ d := by
  simp only [Tab.wf, Bool.and_eq_true, List.all_eq_true, decide_eq_true_eq]

/-- A write keeps the canonical form. -/
theorem Tab.wf_write [DecidableEq α] {t : Tab α} {d : α} (n : Nat) (w : α) (h : Tab.wf t d = true) :
    Tab.wf (t.write d n w) d = true := by
  obtain ⟨hs, hd⟩ := Tab.wf_iff.1 h
  by_cases hw : w = d
  · simpa [Tab.write, hw] using Tab.wf_iff.2 ⟨Tab.sorted_del n hs, fun e he => hd e (Tab.mem_del he).1⟩
  · have : Tab.wf (t.put n w) d = true := by
      refine Tab.wf_iff.2 ⟨Tab.sorted_put n w hs, fun e he => ?_⟩
      rcases Tab.mem_insert he with rfl | he
      · exact hw
      · exact hd e (Tab.mem_del he).1
    simpa [Tab.write, hw] using this

end Sys2Proof
end

