-- ==== Sys2Proof/Laws/Ops.lean ====
section
/-!
SUPPORT. What the shared operations of the slots do, said once: the frame of a slot's execution (R38), reads and writes
of registers, and the state a trap or a return leaves.
-/
namespace Sys2Proof.Machine

/-! ### Access -/

@[simp] theorem State.core_setCore (s : State) (c : Nat) (v : Core) : (s.setCore c v).core c = v := by
  simp [State.core, State.setCore]

theorem State.core_setCore_other (s : State) {c d : Nat} (v : Core) (h : d ≠ c) : (s.setCore c v).core d = s.core d := by
  simp [State.core, State.setCore, Tab.read_put_other _ _ _ h]

@[simp] theorem State.cs_modCS (s : State) (c : Nat) (f : CoreState → CoreState) : (s.modCS c f).cs c = f (s.cs c) := by
  simp [State.cs, State.modCS, State.modCore]

theorem State.cs_modCS_other (s : State) {c d : Nat} (f : CoreState → CoreState) (h : d ≠ c) :
    (s.modCS c f).cs d = s.cs d := by
  simp [State.cs, State.modCS, State.modCore, State.core_setCore_other _ _ h]

theorem CoreState.ctx_setCtx (v : CoreState) {k : Nat} (h : k < 4) (c : Ctx) : (v.setCtx k c).ctx k = c := by
  simp [CoreState.ctx, CoreState.setCtx, h]

theorem CoreState.ctx_setCtx_other (v : CoreState) {k j : Nat} (h : j ≠ k) (c : Ctx) : (v.setCtx k c).ctx j = v.ctx j := by
  simp [CoreState.ctx, CoreState.setCtx, Ne.symm h]

theorem State.ctx_modCtx (s : State) (c : Nat) {k : Nat} (h : k < 4) (f : Ctx → Ctx) :
    (s.modCtx c k f).ctx c k = f (s.ctx c k) := by
  simp [State.ctx, State.modCtx, CoreState.ctx_setCtx _ h]

/-- Two changes of one core, of its partition or of one context are one. -/
theorem State.modCore_modCore (s : State) (c : Nat) (f g : Core → Core) :
    (s.modCore c f).modCore c g = s.modCore c fun v => g (f v) := by
  simp [State.modCore, State.setCore, State.core, Tab.put_put]

theorem State.modCS_modCS (s : State) (c : Nat) (f g : CoreState → CoreState) :
    (s.modCS c f).modCS c g = s.modCS c fun v => g (f v) := State.modCore_modCore _ _ _ _

theorem CoreState.setCtx_setCtx (v : CoreState) (k : Nat) (x y : Ctx) : (v.setCtx k x).setCtx k y = v.setCtx k y := by
  simp [CoreState.setCtx]

theorem State.modCtx_modCtx (s : State) (c : Nat) {k : Nat} (h : k < 4) (f g : Ctx → Ctx) :
    (s.modCtx c k f).modCtx c k g = s.modCtx c k fun x => g (f x) := by
  simp [State.modCtx, State.modCS_modCS, CoreState.setCtx_setCtx, CoreState.ctx_setCtx _ h]

/-! ### The frame of a slot -/

@[simp] theorem finish_ok (s t : State) : finish s (.ok t) = .next t := rfl
@[simp] theorem finish_error (s : State) (h : Halt) : finish s (.error h) = .next (s.halt h) := rfl

/-- A slot always answers a next state. -/
theorem finish_next (s : State) (r : Except Halt State) : ∃ t, finish s r = .next t := by
  cases r <;> exact ⟨_, rfl⟩

/-- Whatever its guard reads, a slot answers a next state. -/
theorem slotOp_next (g : BitVec 4) (s : State) (b : Except Halt State) : ∃ t, slotOp g s b = .next t := finish_next _ _

theorem slotOp_true {g : BitVec 4} {s : State} {b : Except Halt State} (h : s.readP g.toNat = .ok true) :
    slotOp g s b = finish s b := by simp [slotOp, h]

theorem slotOp_false {g : BitVec 4} {s : State} {b : Except Halt State} (h : s.readP g.toNat = .ok false) :
    slotOp g s b = .next s := by simp [slotOp, h]

/-- A guard that cannot be read ends the slot as it says. -/
theorem slotOp_error {g : BitVec 4} {s : State} {b : Except Halt State} {e : Halt} (h : s.readP g.toNat = .error e) :
    slotOp g s b = .next (s.halt e) := by simp [slotOp, h]

/-- What follows the effects of an instruction that names segments always answers a next state. -/
theorem settle_next (s : State) (r : Except Halt State) : ∃ t, settle s r = .next t := by
  cases r with
  | error h => exact ⟨_, rfl⟩
  | ok t =>
    simp only [settle]
    split
    · exact ⟨_, rfl⟩
    · split <;> exact ⟨_, rfl⟩

theorem segOp_next (g : BitVec 4) (s : State) (b : Except Halt State) : ∃ t, segOp g s b = .next t := settle_next _ _

theorem segOp_true {g : BitVec 4} {s : State} {b : Except Halt State} (h : s.readP g.toNat = .ok true) :
    segOp g s b = settle s b := by simp [segOp, h]

/-- An effect that leaves every segment it names resident and its set within SGQUOTA stands. -/
theorem settle_ok {s t : State} (ha : t.issue.absent = false)
    (hq : t.issue.named = false ∨ t.ccs.issueSum t.issue ≤ t.ccs.quota) : settle s (.ok t) = .next t := by
  have h : ¬ (t.ccs.quota < t.ccs.issueSum t.issue ∧ t.issue.named = true) := by
    rcases hq with h | h
    · simp [h]
    · exact fun c => absurd c.1 (Nat.not_lt.2 h)
  simp [settle, h, ha]

/-! ### Hard-wired registers (R56, R122) -/

@[simp] theorem Ctx.getX_zero (c : Ctx) : c.getX 0 = 0 := rfl
@[simp] theorem Ctx.getP_zero (c : Ctx) : c.getP 0 = true := rfl
@[simp] theorem Ctx.getM_zero (c : Ctx) : c.getM 0 = BitVec.allOnes 64 := rfl
@[simp] theorem State.writeX_zero (s : State) (v : X64) (lat : Nat) : s.writeX 0 v lat = s := rfl
@[simp] theorem State.writeP_zero (s : State) (b : Bool) (lat : Nat) : s.writeP 0 b lat = s := rfl
@[simp] theorem State.writeM_zero (s : State) (v : BitVec 64) (lat : Nat) : s.writeM 0 v lat = s := rfl
@[simp] theorem physX_zero (r : Rrb) : physX r 0 = 0 := rfl
@[simp] theorem physP_zero (r : Rrb) : physP r 0 = 0 := rfl

/-- P0 is always readable and true, so an unguarded slot acts. -/
theorem State.hazard_none (s : State) (r : Reg) (hl : s.issue.pendLoads = []) (hf : s.issue.pendFlight = [])
    (he : r ∉ s.cx.flaws) : s.hazard r = .ok () := by simp [State.hazard, hl, hf, he]

theorem State.readP_zero (s : State) (hl : s.issue.pendLoads = []) (hf : s.issue.pendFlight = []) (he : .p 0 ∉ s.cx.flaws) :
    s.readP 0 = .ok true := by
  have h : physP s.issue.rrb 0 = 0 := rfl
  simp [State.readP, h, State.hazard_none s _ hl hf he]

/-! ### Results -/

/-- A result changes the issuing context's flight record, its loads and its issue order, nothing else. -/
theorem State.result_eq (s : State) (r : Reg) (v : RegVal) (lat : Nat) :
    ∃ fl ld n, s.result r v lat = s.modCx fun c => { c with flight := fl, loads := ld, seq := n } := by
  refine ⟨((s.cx.enter s.issue.mode.ilk r v lat)).flight, ((s.cx.enter s.issue.mode.ilk r v lat)).loads,
    ((s.cx.enter s.issue.mode.ilk r v lat)).seq, ?_⟩
  rfl

@[simp] theorem State.result_mem (s : State) (r : Reg) (v : RegVal) (lat : Nat) : (s.result r v lat).mem = s.mem := rfl
@[simp] theorem State.result_issue (s : State) (r : Reg) (v : RegVal) (lat : Nat) : (s.result r v lat).issue = s.issue := rfl

@[simp] theorem State.writeX_mem (s : State) (d : BitVec 6) (v : X64) (lat : Nat) : (s.writeX d v lat).mem = s.mem := by
  unfold State.writeX; split <;> rfl
@[simp] theorem State.writeX_issue (s : State) (d : BitVec 6) (v : X64) (lat : Nat) : (s.writeX d v lat).issue = s.issue := by
  unfold State.writeX; split <;> rfl
@[simp] theorem State.writeP_mem (s : State) (n : Nat) (b : Bool) (lat : Nat) : (s.writeP n b lat).mem = s.mem := by
  unfold State.writeP; split <;> rfl
@[simp] theorem State.writeP_issue (s : State) (n : Nat) (b : Bool) (lat : Nat) : (s.writeP n b lat).issue = s.issue := by
  unfold State.writeP; split <;> rfl
@[simp] theorem State.writeV_mem (s : State) (n : BitVec 5) (m : BitVec 64) (v : VReg) (lat : Nat) :
    (s.writeV n m v lat).mem = s.mem := rfl
@[simp] theorem State.writeV_issue (s : State) (n : BitVec 5) (m : BitVec 64) (v : VReg) (lat : Nat) :
    (s.writeV n m v lat).issue = s.issue := rfl
@[simp] theorem State.writeM_mem (s : State) (n : BitVec 3) (v : BitVec 64) (lat : Nat) : (s.writeM n v lat).mem = s.mem := by
  unfold State.writeM; split <;> rfl
@[simp] theorem State.writeM_issue (s : State) (n : BitVec 3) (v : BitVec 64) (lat : Nat) :
    (s.writeM n v lat).issue = s.issue := by
  unfold State.writeM; split <;> rfl

/-! ### Notices and exceptions -/

@[simp] theorem State.postBytes_mem (s : State) (b : List Byte) : (s.postBytes b).mem = s.mem := by
  unfold State.postBytes; dsimp only; split <;> rfl
@[simp] theorem State.notice_mem (s : State) (k p c : Nat) (b : List (Nat × List Byte)) : (s.notice k p c b).mem = s.mem :=
  State.postBytes_mem _ _
@[simp] theorem State.postBytes_cores (s : State) (b : List Byte) : (s.postBytes b).cores = s.cores := by
  unfold State.postBytes; dsimp only; split <;> rfl
@[simp] theorem State.notice_cores (s : State) (k p c : Nat) (b : List (Nat × List Byte)) : (s.notice k p c b).cores = s.cores :=
  State.postBytes_cores _ _

/-- Taking an exception leaves memory alone. -/
@[simp] theorem State.takeTrap_mem (s : State) (core k cause dcode slot value pc rep : Nat) :
    (s.takeTrap core k cause dcode slot value pc rep).mem = s.mem := by
  unfold State.takeTrap; dsimp only
  split
  · simp
  · split
    · rfl
    · simp

/-- A halt leaves memory alone. -/
@[simp] theorem State.halt_mem (s : State) (h : Halt) : (s.halt h).mem = s.mem := by
  cases h <;> simp [State.halt]

end Sys2Proof.Machine
end

