-- ==== Sys2Proof/Laws/Seg.lean ====
section
/-!
SUPPORT. What the frame of a segment access does (R156, R159, R285), and writes made while no landing counter is armed
(R319, R320).
-/
namespace Sys2Proof.Machine

/-- The sum of a set is told by the segments alone. -/
theorem CoreState.setSum_congr {v w : CoreState} (h : v.segs = w.segs) (l : List Nat) : v.setSum l = w.setSum l := by
  unfold CoreState.setSum CoreState.seg; rw [h]

@[simp] theorem State.modCtx_issue_core (s : State) (c k : Nat) (f : Ctx → Ctx) : (s.modCtx c k f).issue = s.issue := rfl

theorem State.ccs_modCx_segs (s : State) (f : Ctx → Ctx) : (s.modCx f).ccs.segs = s.ccs.segs := by
  simp [State.modCx, State.modCtx, State.ccs, CoreState.setCtx]

theorem State.ccs_modCx_quota (s : State) (f : Ctx → Ctx) : (s.modCx f).ccs.quota = s.ccs.quota := by
  simp [State.modCx, State.modCtx, State.ccs, CoreState.setCtx]

/-- An effect that keeps the segments, SGQUOTA and the sets of a ready access stands. -/
theorem State.segReady.settles {s t : State} {name id : Nat} {g : Seg} (h : s.segReady name id g) (hi : t.issue = (s.useSeg id g).issue)
    (hs : ∀ l, t.ccs.setSum l = s.ccs.setSum l) (hq : t.ccs.quota = s.ccs.quota) : Machine.settle s (.ok t) = .next t := by
  refine settle_ok ?_ (.inr ?_)
  · rw [hi]; exact h.2.2.1
  · rw [hi, CoreState.issueSum, hs, hq]; exact h.2.2.2.1

/-- A sound segment has no word that holds an error. -/
theorem CoreState.sound_flawedAt {v : CoreState} {id : Nat} (h : v.sound id = true) (off n : Nat) : v.flawedAt id off n = false := by
  unfold CoreState.sound at h
  unfold CoreState.flawedAt
  rw [Bool.and_eq_false_iff]
  right
  rw [List.any_eq_false]
  rw [List.all_eq_true] at h
  intro f hf
  have := h f hf
  split <;> simp_all

/-- A read of a ready segment meets no error. -/
theorem State.segReady.soundSeg {s : State} {name id : Nat} {g : Seg} (h : s.segReady name id g) (off n : Nat) :
    s.soundSeg id off n = .ok () := by
  simp [State.soundSeg, CoreState.sound_flawedAt h.2.2.2.2]

/-- A ready name is found on the access path. -/
theorem State.segReady.found {s : State} {name id : Nat} {g : Seg} (h : s.segReady name id g) : s.findSeg name .access = .ok (id, g) := by
  simp [State.findSeg, h.1, h.2.1]

/-- An access within the segment. -/
theorem State.segReady.here {s : State} {name id : Nat} {g : Seg} (h : s.segReady name id g) {off n : Nat} (b : Bool)
    (hb : off + n ≤ 256 * g.len) : s.segPlace name off n b = .ok (.here id off, s.useSeg id g) := by
  have : off + n ≤ g.bytes := hb
  simp [State.segPlace, h.found, this]

/-- A ready segment is resident. -/
theorem State.segReady.resident {s : State} {name id : Nat} {g : Seg} (h : s.segReady name id g) : g.state = .resident := by
  have := h.2.2.1
  simp only [State.useSeg, State.modIssue, Bool.or_eq_false_iff, decide_eq_false_iff_not, ne_eq, Decidable.not_not] at this
  exact this.2

/-- An access past the end that has no overflow path. -/
theorem State.segReady.beyond {s : State} {name id : Nat} {g : Seg} (h : s.segReady name id g) {off n : Nat} (b : Bool)
    (hb : 256 * g.len < off + n) (ho : b = false ∨ g.role ≠ .stack ∨ off < 256 * g.len) :
    s.segPlace name off n b = .error (s.trapHere segBound 0 (name + 2 ^ 8 * boundLane (256 * g.len) off n)) := by
  have h1 : ¬ off + n ≤ g.bytes := by unfold Seg.bytes; omega
  have h2 : ¬ (b = true ∧ g.role = .stack ∧ g.bytes ≤ off) := by
    rintro ⟨hb, hr, hl⟩
    rcases ho with h | h | h
    · simp [hb] at h
    · exact h hr
    · unfold Seg.bytes at hl; omega
  rw [show 256 * g.len = g.bytes from rfl]
  simp [State.segPlace, h.found, h1, h2, h.resident]

/-- Only a whole vector's bound belongs to a lane. -/
theorem boundLane_of_ne {len off n : Nat} (h : n ≠ 256) : boundLane len off n = 0 := by simp [boundLane, h]

/-- An access on the overflow path of the stack segment (R158). -/
theorem State.segReady.overflow {s : State} {name id : Nat} {g : Seg} (h : s.segReady name id g) {off n va : Nat} (hn : 0 < n)
    (ho : s.overflowsTo g off va) : s.segPlace name off n true = .ok (.there va, s.useSeg id g) := by
  have h1 : ¬ off + n ≤ g.bytes := by have := ho.2.1; omega
  simp [State.segPlace, h.found, h1, ho.1, ho.2.1, ho.2.2]

/-! ### Writes while no counter is armed -/

/-- A counter that is not armed fires at no write. -/
theorem Landing.counted_quiet {l : Landing} (h : l.state ≠ .armed) (b : Nat) : (l.counted b).2 = 0 := by
  unfold Landing.counted
  split <;> first | rfl | (rename_i he; exact absurd he h)

theorem countTable_quiet (f : Nat → Landing → Nat) (t : Tab Landing) (h : ∀ e ∈ t, e.2.state ≠ .armed) : (countTable f t).2 = [] := by
  induction t with
  | nil => rfl
  | cons e r ih =>
    obtain ⟨i, l⟩ := e
    have hr := ih fun e he => h e (List.mem_cons_of_mem _ he)
    have hl := Landing.counted_quiet (h (i, l) List.mem_cons_self) (f i l)
    simp only [countTable]
    split
    · exact hr
    · simp [hr]

theorem countSites_quiet (ls : List Nat) (skip : Option Nat) (t : Tab Site) (h : ∀ e ∈ t, ∀ l ∈ e.2.landing, l.2.state ≠ .armed) :
    (countSites ls skip t).2 = [] := by
  induction t with
  | nil => rfl
  | cons e r ih =>
    obtain ⟨n, st⟩ := e
    have hr := ih fun e he => h e (List.mem_cons_of_mem _ he)
    have hc := countTable_quiet (fun i l => if skip = some (1024 * n + i) then 0 else (ls.filter l.holdsLoc).length) st.landing
      (h (n, st) List.mem_cons_self)
    simp only [countSites, hr, hc]; rfl

theorem State.quiet.sites {s : State} (h : s.quiet) : ∀ e ∈ s.sites, ∀ l ∈ e.2.landing, l.2.state ≠ .armed := by
  intro e he l hl
  refine h.2 (1024 * e.1 + l.1, 0, l.2) ?_
  simp only [State.counters, List.mem_append, List.mem_flatMap, List.mem_map]
  exact .inl ⟨e, he, l, hl, rfl⟩

theorem State.runActions_nil {n : Nat} {s : State} (h : s.actions = []) : s.runActions n = s := by
  cases n with
  | zero => rfl
  | succ n => simp [State.runActions, h]

/-- A global store in a quiet state writes its bytes and may mark counters that have fired; nothing else happens. -/
theorem State.gstore_quiet {s : State} (h : s.quiet) (ls : List Nat) (bs : List Byte) :
    s.gstore ls bs = { s.writeLocs ls bs with sites := (countSites ls none s.sites).1 } := by
  have hc := countSites_quiet ls none s.sites h.sites
  have h1 : s.putGlobal ls bs none = { s.writeLocs ls bs with sites := (countSites ls none s.sites).1 } := by
    have ha := h.1
    simp only [State.putGlobal, State.countGlobal, State.writeLocs, hc, List.map_nil, List.nil_append]
  unfold State.gstore
  rw [h1]
  exact State.runActions_nil h.1

theorem Tab.get_mem {α : Type} {t : Tab α} {n : Nat} {w : α} (h : t.get n = some w) : (n, w) ∈ t := by
  induction t with
  | nil => simp at h
  | cons e r ih =>
    simp only [Tab.get] at h
    split at h
    · rename_i he; exact List.mem_cons.mpr (.inl (Prod.ext he.symm (Option.some.inj h).symm))
    · exact List.mem_cons_of_mem _ (ih h)

theorem State.quiet.core {s : State} (h : s.quiet) (c : Nat) : ∀ e ∈ (s.cs c).landing, e.2.state ≠ .armed := by
  intro e he
  unfold State.cs State.core Tab.read at he
  cases hc : s.cores.get c with
  | none => rw [hc] at he; simp [Core.reset, CoreState.reset] at he
  | some v =>
    rw [hc] at he
    refine h.2 (0x8000 + e.1, c, e.2) ?_
    simp only [State.counters, List.mem_append, List.mem_flatMap, List.mem_map]
    exact .inr ⟨(c, v), Tab.get_mem hc, .inl ⟨e, he, rfl⟩⟩

/-- A segment store in a quiet state writes its bytes and may mark counters that have fired; nothing else happens. -/
theorem State.sstore_quiet {s : State} (h : s.quiet) (core seg off : Nat) (bs : List Byte) : ∃ l : Tab Landing,
    s.sstore core seg off bs = (s.modCS core fun v => v.segWrite seg off bs).modCS core fun v => { v with landing := l } := by
  have hl : ((s.modCS core fun v => v.segWrite seg off bs).cs core).landing = (s.cs core).landing := by
    rw [State.cs_modCS]
    change ((s.cs core).segPut seg off bs).landing = _
    unfold CoreState.segPut
    split <;> rfl
  have hc := countTable_quiet (fun i l => if none = some (0x8000 + i) ∨ l.seg ≠ seg then 0 else l.overlap off bs.length)
    ((s.modCS core fun v => v.segWrite seg off bs).cs core).landing (by rw [hl]; exact h.core core)
  refine ⟨(countTable (fun i l => if none = some (0x8000 + i) ∨ l.seg ≠ seg then 0 else l.overlap off bs.length)
    ((s.modCS core fun v => v.segWrite seg off bs).cs core).landing).1, ?_⟩
  unfold State.sstore State.putSeg State.countSeg
  dsimp only
  rw [hc]
  rw [State.runActions_nil (by exact h.1)]
  rfl


end Sys2Proof.Machine
end

