-- ==== Sys2Proof/Laws/Trap.lean ====
section
/-!
SUPPORT. What landing, taking a trap and returning from one change (R344 to R349).
-/
namespace Sys2Proof.Machine

/-- A landing changes only the register files and which of their words hold an error. -/
theorem Ctx.land_frame (c : Ctx) (r : Reg) (v : RegVal) :
    ∃ x p w m k h f, c.land r v = { c with x := x, p := p, v := w, m := m, k := k, kth := h, flaws := f } := by
  obtain ⟨fl, hm⟩ : ∃ fl, c.mended r v = { c with flaws := fl } := ⟨_, rfl⟩
  unfold Ctx.land
  rw [hm]
  dsimp only
  split <;> (try unfold Ctx.setX) <;> (try unfold Ctx.setP) <;> (try unfold Ctx.setM) <;> (try unfold Ctx.setK) <;>
    (try split) <;> exact ⟨_, _, _, _, _, _, _, rfl⟩

theorem Ctx.landList_frame (n : Nat) : ∀ (l : List FlightEntry) (c : Ctx), l.length ≤ n →
    ∃ x p w m k h f, c.landList l = { c with x := x, p := p, v := w, m := m, k := k, kth := h, flaws := f } := by
  induction n with
  | zero =>
    intro l c hl
    obtain rfl : l = [] := List.eq_nil_of_length_eq_zero (Nat.le_zero.mp hl)
    exact ⟨_, _, _, _, _, _, _, rfl⟩
  | succ n ih =>
    intro l c hl
    match l with
    | [] => exact ⟨_, _, _, _, _, _, _, rfl⟩
    | e :: r =>
      have hr : r.length ≤ n := by simpa using hl
      obtain ⟨x, p, w, m, k, h, fl, h1⟩ := Ctx.land_frame c e.reg e.val
      unfold Ctx.landList
      split
      · rename_i n' ex cs hreg hval
        rw [hreg, hval] at h1
        match r, hr with
        | [], _ => simp only [hreg, hval]; rw [h1]; exact ⟨_, _, _, _, _, _, _, rfl⟩
        | f :: r', hr =>
          simp only
          split
          · rename_i hf
            rw [hreg, hval, h1]
            obtain ⟨x2, p2, w2, m2, k2, h2, fl2, e2⟩ := Ctx.land_frame { c with x := x, p := p, v := w, m := m, k := k, kth := h, flaws := fl } f.reg
              (.p ((c.getK n').entered ((KUpdate.insert ex cs).apply (c.getK n'))))
            rw [e2]
            obtain ⟨x3, p3, w3, m3, k3, h3, fl3, e3⟩ := ih r' { c with x := x2, p := p2, v := w2, m := m2, k := k2, kth := h2, flaws := fl2 } (by simp at hr; omega)
            exact ⟨x3, p3, w3, m3, k3, h3, fl3, by rw [e3]⟩
          · rw [hreg, hval, h1]
            obtain ⟨x3, p3, w3, m3, k3, h3, fl3, e3⟩ := ih (f :: r') { c with x := x, p := p, v := w, m := m, k := k, kth := h, flaws := fl } hr
            exact ⟨x3, p3, w3, m3, k3, h3, fl3, by rw [e3]⟩
      · rw [h1]
        obtain ⟨x3, p3, w3, m3, k3, h3, fl3, e3⟩ := ih r { c with x := x, p := p, v := w, m := m, k := k, kth := h, flaws := fl } hr
        exact ⟨x3, p3, w3, m3, k3, h3, fl3, by rw [e3]⟩

/-- The landing of the entries counted in cycles changes only the register files and takes them off the record. -/
theorem Ctx.landCycles_frame (c : Ctx) : ∃ x p w m k h f,
    c.landCycles = { c with x := x, p := p, v := w, m := m, k := k, kth := h, flaws := f, flight := c.flight.filter fun e => !e.cycles } := by
  obtain ⟨x, p, w, m, k, h, f, e⟩ := Ctx.landList_frame _ (byLanding (c.flight.filter fun e => e.cycles))
    { c with flight := c.flight.filter fun e => !e.cycles } (Nat.le_refl _)
  exact ⟨x, p, w, m, k, h, f, e⟩

/-- The landing of the entries counted in bundles. -/
theorem Ctx.landBundles_frame (c : Ctx) : ∃ x p w m k h f,
    c.landBundles = { c with x := x, p := p, v := w, m := m, k := k, kth := h, flaws := f, flight := c.flight.filter fun e => e.cycles } := by
  obtain ⟨x, p, w, m, k, h, f, e⟩ := Ctx.landList_frame _ (byLanding (c.flight.filter fun e => !e.cycles))
    { c with flight := c.flight.filter fun e => e.cycles } (Nat.le_refl _)
  exact ⟨x, p, w, m, k, h, f, e⟩

/-- With no entry counted in cycles, their landing changes nothing. -/
theorem Ctx.landCycles_eq (c : Ctx) (h : c.flight.all (fun e => !e.cycles) = true) : c.landCycles = c := by
  have h1 : c.flight.filter (fun e => e.cycles) = [] := by
    rw [List.filter_eq_nil_iff]; intro e he; rw [List.all_eq_true] at h; simpa using h e he
  have h2 : c.flight.filter (fun e => !e.cycles) = c.flight := by
    rw [List.filter_eq_self]; intro e he; rw [List.all_eq_true] at h; simpa using h e he
  simp [Ctx.landCycles, h1, h2, byLanding, Ctx.landList]

/-- A notice changes only the host side. -/
theorem State.notice_frame (s : State) (kind part core : Nat) (body : List (Nat × List Byte)) :
    ∃ h, s.notice kind part core body = { s with host := h } := by
  unfold State.notice State.postBytes
  dsimp only
  split <;> exact ⟨_, rfl⟩

end Sys2Proof.Machine
end

