-- ==== Sys2Proof/Laws/Access.lean ====
section
/-!
SUPPORT. Accesses of several lanes, writes within a segment and writes of control registers: what they answer and what
they leave.
-/
namespace Sys2Proof.Machine

/-- The VALUE of a failed translation (R343, R360). -/
theorem State.xlateValue_eq (s : State) (core bundle cause va lane : Nat) :
    s.xlateValue core bundle cause va lane = s.pageValue core bundle cause va lane := by
  unfold State.xlateValue State.pageValue memErrorValue faultValue memUncorrectable
  simp [bitsOf]

/-- Changing one context changes no other, and no memory. -/
theorem State.modCtx_frame (s : State) (core n : Nat) (hn : n < 4) (f : Ctx → Ctx) :
    (s.modCtx core n f).ctx core n = f (s.ctx core n) ∧ (s.modCtx core n f).mem = s.mem
      ∧ ∀ d j, d ≠ core ∨ j ≠ n → (s.modCtx core n f).ctx d j = s.ctx d j := by
  refine ⟨State.ctx_modCtx _ _ hn _, rfl, fun d j h => ?_⟩
  unfold State.ctx State.modCtx
  by_cases hd : d = core
  · subst hd
    rw [State.cs_modCS, CoreState.ctx_setCtx_other _ (h.resolve_left fun h => h rfl)]
  · rw [State.cs_modCS_other _ _ hd]

/-- When every lane of a list has its locations, the lanes' check answers them all (R178). -/
theorem State.checkLanes_ok (s : State) (addr : Nat → Nat) (w : Bool) (f : Nat → List Nat) (l : List Nat)
    (h : ∀ n ∈ l, s.locs s.issue.core (addr n) 4 w = .ok (f n)) :
    s.checkLanes addr w l = .ok (l.map fun n => (n, f n)) := by
  induction l with
  | nil => rfl
  | cons a r ih =>
    simp [State.checkLanes, State.check, State.icore, h a List.mem_cons_self, State.accessTrap,
      ih fun n hn => h n (List.mem_cons_of_mem _ hn), bind, Except.bind]

/-- Storing a segment of the same role and length leaves every set's total. -/
theorem CoreState.setSum_put (v : CoreState) (id : Nat) (g g' : Seg) (h : v.seg id = some g) (hr : g'.role = g.role)
    (hl : g'.len = g.len) (l : List Nat) : ({ v with segs := v.segs.put id g' } : CoreState).setSum l = v.setSum l := by
  unfold CoreState.setSum
  congr 1
  funext n i
  unfold CoreState.seg at *
  by_cases hi : i = id
  · subst hi; simp [h, hr, hl]
  · rw [Tab.get_put_other _ _ hi]

theorem CoreState.setSum_segWrite (v : CoreState) (id off : Nat) (bs : List Byte) (l : List Nat) :
    (v.segWrite id off bs).setSum l = v.setSum l := by
  have hm : (v.segWrite id off bs).setSum l = (v.segPut id off bs).setSum l := CoreState.setSum_congr rfl l
  rw [hm]
  unfold CoreState.segPut
  split
  · rfl
  · rename_i g hg
    exact (CoreState.setSum_congr rfl l).trans (setSum_put v id g { g with data := _, dirty := true } hg rfl rfl l)

theorem CoreState.quota_segWrite (v : CoreState) (id off : Nat) (bs : List Byte) : (v.segWrite id off bs).quota = v.quota := by
  change (v.segPut id off bs).quota = _
  unfold CoreState.segPut
  split <;> rfl

/-- A result of a scalar instruction leaves the segments, the quota and the record of the issue. -/
theorem State.writeX_segs (s : State) (d : BitVec 6) (v : X64) (lat : Nat) : (s.writeX d v lat).ccs.segs = s.ccs.segs
    ∧ (s.writeX d v lat).ccs.quota = s.ccs.quota ∧ (s.writeX d v lat).issue = s.issue := by
  unfold State.writeX
  split
  · exact ⟨rfl, rfl, rfl⟩
  · exact ⟨State.ccs_modCx_segs _ _, State.ccs_modCx_quota _ _, rfl⟩

/-- Writing a core's part of a control register leaves every context (R62). -/
theorem State.coreCrnWrite_ctx (s : State) (core n : Nat) (x : X64) (c k : Nat) :
    (s.coreCrnWrite core n x).ctx c k = s.ctx c k := by
  unfold State.coreCrnWrite
  split <;> try rfl
  all_goals
    unfold State.ctx
    by_cases h : c = core
    · subst h; simp [State.modCS, State.modCore, State.cs, State.setCore, State.core, CoreState.ctx]
    · rw [State.cs_modCS_other _ _ h]

theorem State.crnWrite_ctx (s : State) (core k n : Nat) (x : X64) (hk : k < 4) :
    (s.crnWrite core k n x).ctx core k = (s.ctx core k).crnWrite n x := by
  unfold State.crnWrite; rw [State.coreCrnWrite_ctx, State.ctx_modCtx _ _ hk]

end Sys2Proof.Machine
end

