-- ==== Sys2Proof/Laws/Command.lean ====
section
/-!
SUPPORT. What the issue of an E-slot command leaves (R31, R44, R284): its tag, the count of EFENCE, the tickets, and
nothing else of the core.
-/
namespace Sys2Proof.Machine

/-- The tag names the command, its context and the pair's signal. -/
theorem State.command_tag (s : State) :
    s.command.2.id = s.nextId ∧ s.command.2.ctx = s.issue.ctx ∧ s.command.2.signal = s.issue.signal := ⟨rfl, rfl, rfl⟩

/-- A ticket changes only the tickets of the core. -/
theorem State.drawTicket_cs (s : State) : ∃ tk, s.drawTicket.1.cs s.issue.core = { s.ccs with tickets := tk } := by
  unfold State.drawTicket
  split
  · exact ⟨s.ccs.tickets, rfl⟩
  · refine ⟨(s.ccs.tickets.filter fun k => k.num != s.issue.ticket)
      ++ [⟨s.issue.ticket, s.issue.bundleSet, s.issue.cmdSet, true, false, [], false, false, false, false, 0⟩], ?_⟩
    simp only [State.cs, State.modCore, State.modIssue, State.icore, State.core, State.setCore, Tab.read_put_same]
    rfl

theorem State.drawTicket_issue (s : State) :
    s.drawTicket.1.issue.core = s.issue.core ∧ s.drawTicket.1.issue.ctx = s.issue.ctx := by
  unfold State.drawTicket
  split <;> exact ⟨rfl, rfl⟩

/-- A command changes its context's list of commands in flight and the tickets of its core. -/
theorem State.command_ccs (s : State) : ∃ tk, s.command.1.ccs
    = { (s.ccs.setCtx s.issue.ctx { s.cx with inflight := s.cx.inflight ++ [s.nextId] }) with tickets := tk } := by
  obtain ⟨tk, h⟩ := s.drawTicket_cs
  refine ⟨tk, ?_⟩
  have e : s.command.1.ccs
    = (s.drawTicket.1.modCx fun c => { c with inflight := c.inflight ++ [s.nextId] }).cs s.drawTicket.1.issue.core := rfl
  rw [e, State.modCx, State.modCtx, State.cs_modCS, s.drawTicket_issue.1, s.drawTicket_issue.2, h]
  rfl

@[simp] theorem State.command_mem (s : State) : s.command.1.mem = s.mem := by
  unfold State.command State.drawTicket; dsimp only; split <;> rfl

theorem State.command_issue (s : State) : ∃ b, s.command.1.issue = { s.issue with drawn := b, issuedCmd := true } := by
  unfold State.command State.drawTicket; dsimp only; split
  · exact ⟨s.issue.drawn, rfl⟩
  · exact ⟨true, rfl⟩

/-- A command entered in a queue of its core stands where its set is within SGQUOTA and every segment it touches at
issue is resident. -/
theorem State.command_settles {s s1 : State} (f : CmdTag → CoreState → CoreState) (ha : s1.issue.absent = false)
    (hq : s1.ccs.issueSum s1.issue ≤ s1.ccs.quota) (hf : ∀ g v l, (f g v).setSum l = v.setSum l ∧ (f g v).quota = v.quota) :
    Machine.settle s (.ok (s1.command.1.modCcs (f s1.command.2))) = .next (s1.command.1.modCcs (f s1.command.2)) := by
  obtain ⟨tk, hk⟩ := s1.command_ccs
  obtain ⟨b, hb⟩ := s1.command_issue
  have hu : (s1.command.1.modCcs (f s1.command.2)).ccs = f s1.command.2 s1.command.1.ccs := by
    unfold State.modCcs State.ccs
    rw [show ∀ g, (s1.command.1.modCS s1.command.1.issue.core g).issue = s1.command.1.issue from fun _ => rfl, State.cs_modCS]
  have hi : (s1.command.1.modCcs (f s1.command.2)).issue = s1.command.1.issue := rfl
  apply settle_ok
  · rw [hi, hb]; exact ha
  · refine .inr ?_
    rw [hi, hu, CoreState.issueSum, (hf _ _ _).1, (hf _ _ []).2, hk, hb]
    exact hq

end Sys2Proof.Machine
end

