-- ==== Sys2Proof/Laws/Encoding.lean ====
section
/-!
SUPPORT. Laws of the field layouts: unpacking what was packed, and packing what was unpacked.
-/
namespace Sys2Proof

@[simp] theorem widthSum_nil : widthSum [] = 0 := rfl
@[simp] theorem widthSum_cons (w : Nat) (r : List Nat) : widthSum (w :: r) = w + widthSum r := rfl
@[simp] theorem unpackFields_nil (v : Nat) : unpackFields [] v = [] := rfl
@[simp] theorem unpackFields_cons (w : Nat) (r : List Nat) (v : Nat) :
    unpackFields (w :: r) v = v / 2 ^ widthSum r % 2 ^ w :: unpackFields r v := rfl
@[simp] theorem packFields_nil : packFields [] = 0 := rfl
@[simp] theorem packFields_cons (w v : Nat) (r : List (Nat × Nat)) :
    packFields ((w, v) :: r) = v % 2 ^ w * 2 ^ widthSum (r.map (·.1)) + packFields r := rfl

/-- Packed fields fit in the sum of their widths. -/
theorem packFields_lt (l : List (Nat × Nat)) : packFields l < 2 ^ widthSum (l.map (·.1)) := by
  induction l with
  | nil => simp
  | cons e r ih =>
    obtain ⟨w, v⟩ := e
    simp only [packFields_cons, List.map_cons, widthSum_cons, Nat.pow_add]
    have h : v % 2 ^ w + 1 ≤ 2 ^ w := Nat.mod_lt _ (Nat.two_pow_pos w)
    calc v % 2 ^ w * 2 ^ widthSum (r.map (·.1)) + packFields r
        < v % 2 ^ w * 2 ^ widthSum (r.map (·.1)) + 2 ^ widthSum (r.map (·.1)) := Nat.add_lt_add_left ih _
      _ = (v % 2 ^ w + 1) * 2 ^ widthSum (r.map (·.1)) := by ring
      _ ≤ 2 ^ w * 2 ^ widthSum (r.map (·.1)) := Nat.mul_le_mul_right _ h

/-- Multiples of a layout's size do not reach its fields. -/
theorem unpackFields_add (ws : List Nat) (a v : Nat) : unpackFields ws (a * 2 ^ widthSum ws + v) = unpackFields ws v := by
  induction ws generalizing a with
  | nil => rfl
  | cons w r ih =>
    have e : a * 2 ^ widthSum (w :: r) + v = (a * 2 ^ w) * 2 ^ widthSum r + v := by
      simp only [widthSum_cons, Nat.pow_add]; ring
    rw [e, unpackFields_cons, unpackFields_cons, ih]
    congr 1
    rw [Nat.add_comm, Nat.add_mul_div_right _ _ (Nat.two_pow_pos _), Nat.add_mul_mod_self_right]

/-- Unpacking packed fields gives them back, each to its width. -/
theorem unpackFields_packFields (l : List (Nat × Nat)) :
    unpackFields (l.map (·.1)) (packFields l) = l.map fun e => e.2 % 2 ^ e.1 := by
  induction l with
  | nil => rfl
  | cons e r ih =>
    obtain ⟨w, v⟩ := e
    rw [List.map_cons, packFields_cons, unpackFields_cons, unpackFields_add, ih, List.map_cons]
    congr 1
    rw [Nat.add_comm, Nat.add_mul_div_right _ _ (Nat.two_pow_pos _), Nat.div_eq_of_lt (packFields_lt r)]
    simp

/-- Packing unpacked fields gives the number back. -/
theorem packFields_unpackFields (ws : List Nat) (v : Nat) :
    packFields (ws.zip (unpackFields ws v)) = v % 2 ^ widthSum ws := by
  induction ws with
  | nil => simp [Nat.mod_one]
  | cons w r ih =>
    have hm : (r.zip (unpackFields r v)).map (·.1) = r := by
      clear ih
      induction r with
      | nil => rfl
      | cons a t ih => simp [ih]
    rw [unpackFields_cons, List.zip_cons_cons, packFields_cons, ih, hm, widthSum_cons, Nat.mod_mod, Nat.add_comm w,
      Nat.pow_add, Nat.mod_mul, Nat.add_comm, Nat.mul_comm]

/-- A slot word's class map sees its guard, its opcode and its packed fields. -/
theorem decode_slot (c : SlotClass) (hc : c ≠ .P) (op g : Nat) (fs : List (Nat × Nat)) (hop : op < 128) (hg : g < 16)
    (hw : widthSum (fs.map (·.1)) = 21) :
    decode c (BitVec.ofNat 32 (g * 2 ^ 28 + op * 2 ^ 21 + packFields fs))
      = applyRow (classRow c (BitVec.ofNat 4 g) op) (packFields fs) := by
  have hp := packFields_lt fs
  rw [hw] at hp
  have hn : (BitVec.ofNat 32 (g * 2 ^ 28 + op * 2 ^ 21 + packFields fs)).toNat = g * 2 ^ 28 + op * 2 ^ 21 + packFields fs := by
    rw [BitVec.toNat_ofNat]; omega
  have h1 : (g * 2 ^ 28 + op * 2 ^ 21 + packFields fs) / 2 ^ 28 = g := by omega
  have h2 : (g * 2 ^ 28 + op * 2 ^ 21 + packFields fs) / 2 ^ 21 % 2 ^ 7 = op := by omega
  have h3 : (g * 2 ^ 28 + op * 2 ^ 21 + packFields fs) % 2 ^ 21 = packFields fs := by omega
  cases c <;> first | exact absurd rfl hc | simp only [decode, hn, h1, h2, h3]

/-- A pier word's map sees its opcode and its packed fields. -/
theorem decode_pier (op : Nat) (fs : List (Nat × Nat)) (hop : op < 64) (hw : widthSum (fs.map (·.1)) = 26) :
    decode .P (BitVec.ofNat 32 (op * 2 ^ 26 + packFields fs)) = applyRow (pRow op) (packFields fs) := by
  have hp := packFields_lt fs
  rw [hw] at hp
  have hn : (BitVec.ofNat 32 (op * 2 ^ 26 + packFields fs)).toNat = op * 2 ^ 26 + packFields fs := by
    rw [BitVec.toNat_ofNat]; omega
  have h1 : (op * 2 ^ 26 + packFields fs) / 2 ^ 26 = op := by omega
  have h3 : (op * 2 ^ 26 + packFields fs) % 2 ^ 26 = packFields fs := by omega
  simp only [decode, hn, h1, h3]

/-- A row applied to fields packed in its own layout. -/
theorem applyRow_packFields {row : Option Row} {ws : List Nat} {mk : List Nat → Option Instr} {fs : List (Nat × Nat)}
    {i : Instr} (hr : row = some (ws, mk)) (hw : ws = fs.map (·.1)) (hm : mk (fs.map fun e => e.2 % 2 ^ e.1) = some i) :
    applyRow row (packFields fs) = .ok i := by
  subst hw hr
  simp only [applyRow, unpackFields_packFields, hm]

theorem ofNat_toNat_mod {n : Nat} (d : BitVec n) : BitVec.ofNat n (d.toNat % 2 ^ n) = d := by
  rw [Nat.mod_eq_of_lt d.isLt]; simp

end Sys2Proof
end

