-- ==== Sys2Proof/Laws/Frame.lean ====
section
/-!
SUPPORT. The frame of register-only instructions (R38, R56, R60): their effects change nothing but pending results of their
destination registers.
-/
namespace Sys2Proof.Machine

/-- An effect on registers of the issuing context only: of `regs` results may become pending, nothing else differs. -/
def Keeps (s t : State) (regs : List Reg) : Prop :=
  { t with cores := s.cores } = s ∧ (∀ d, d ≠ s.issue.core → t.core d = s.core d)
      ∧ t.core s.issue.core = { s.core s.issue.core with cur := { s.ccs with ctxs := t.ccs.ctxs } }
      ∧ s.othersKept t ∧ s.onlyRegs t regs ∧ s.cx.seq ≤ t.cx.seq

/-- Nothing done changes nothing. -/
theorem Keeps.refl (s : State) (regs) : Keeps s s regs := by
  refine ⟨rfl, fun _ _ => rfl, rfl, fun _ _ _ => rfl, ⟨rfl, fun e h => .inl h, fun e h _ => h, fun l h => .inl ⟨l, h, rfl, fun d hd => hd⟩, fun m h => ⟨m, h, rfl, fun d hd _ => hd⟩⟩, Nat.le_refl _⟩

/-- A change of the issuing context's pending results is such an effect. -/
theorem modCx_keeps (s : State) (hk : s.issue.ctx < 4) (f : Ctx → Ctx) (regs) (h : s.onlyRegs (s.modCx f) regs) (hs : s.cx.seq ≤ (f s.cx).seq) : Keeps s (s.modCx f) regs := by
  have hh := State.modCtx_frame s s.issue.core s.issue.ctx hk f
  refine ⟨rfl, ?_, ?_, ?_, h, ?_⟩
  · intro d hd; unfold State.modCx State.modCtx State.modCS State.modCore; exact State.core_setCore_other _ _ hd
  · simp [State.modCx, State.modCtx, State.modCS, State.modCore, State.ccs, State.cs, CoreState.setCtx]
  · intro d j hdj; exact hh.2.2 d j hdj
  · show s.cx.seq ≤ ((s.modCtx _ _ f).ctx s.issue.core s.issue.ctx).seq; rw [hh.1]; exact hs

/-- The issuing context after a change of it. -/
theorem cx_modCx (s : State) (hk : s.issue.ctx < 4) (f : Ctx → Ctx) : (s.modCx f).cx = f s.cx :=
  (State.modCtx_frame s s.issue.core s.issue.ctx hk f).1

/-- A result owed to a register of the list is such an effect. -/
theorem result_keeps (s : State) (hk : s.issue.ctx < 4) (r v lat regs) (hr : r ∈ regs) : Keeps s (s.result r v lat) regs := by
  apply modCx_keeps _ hk
  · unfold State.onlyRegs
    rw [cx_modCx s hk]
    refine ⟨rfl, ?_, ?_, ?_, ?_⟩
    · intro e he
      simp only [Ctx.enter, List.mem_append, List.mem_filter, List.mem_singleton] at he
      rcases he with he | rfl
      · exact .inl he.1
      · exact .inr ⟨hr, Nat.le_refl _⟩
    · intro e he hn
      simp only [Ctx.enter, List.mem_append, List.mem_filter]
      refine .inl ⟨he, ?_⟩
      have : e.reg ≠ r := fun h => hn (h ▸ hr)
      simp [this]
    · intro l hl
      left
      simp only [Ctx.enter] at hl
      split at hl
      · obtain ⟨m, hm, rfl⟩ := List.mem_map.1 hl
        exact ⟨m, hm, rfl, fun d hd => (List.mem_filter.1 hd).1⟩
      · exact ⟨l, hl, rfl, fun d hd => hd⟩
    · intro m hm
      simp only [Ctx.enter]
      split
      · refine ⟨_, List.mem_map.2 ⟨m, hm, rfl⟩, rfl, fun d hd hn => List.mem_filter.2 ⟨hd, ?_⟩⟩
        have : d.1 ≠ r := fun h => hn (h ▸ hr)
        simp [this]
      · exact ⟨m, hm, rfl, fun d hd _ => hd⟩
  · simp [Ctx.enter]

/-- Such an effect leaves the issue as it is. -/
theorem Keeps.issue {s t regs} (h : Keeps s t regs) : t.issue = s.issue := by rw [← h.1]

/-- Two such effects in turn are one. -/
theorem Keeps.trans {s t u regs} (h : Keeps s t regs) (g : Keeps t u regs) : Keeps s u regs := by
  have hi := h.issue
  obtain ⟨h1, h2, h3, h4, ⟨a1, a2, a3, a4, a5⟩, h6⟩ := h
  obtain ⟨g1, g2, g3, g4, ⟨b1, b2, b3, b4, b5⟩, g6⟩ := g
  rw [hi] at g2 g3
  refine ⟨?_, ?_, ?_, ?_, ?_, Nat.le_trans h6 g6⟩
  · rw [← h1, ← g1]
  · intro d hd; rw [g2 d hd, h2 d hd]
  · rw [g3, h3]
    have : t.ccs = {s.ccs with ctxs := t.ccs.ctxs} := by
      show (t.core t.issue.core).cur = _
      rw [hi, h3]
    rw [this]
  · intro d j hd; rw [g4 d j (by rw [hi]; exact hd), h4 d j hd]
  · refine ⟨?_, ?_, ?_, ?_, ?_⟩
    · rw [b1, a1]
    · intro e he
      rcases b2 e he with h | ⟨h, h'⟩
      · exact a2 e h
      · exact .inr ⟨h, Nat.le_trans h6 h'⟩
    · intro e he hn; exact b3 e (a3 e he hn) hn
    · intro l hl
      rcases b4 l hl with ⟨m, hm, e, f⟩ | ⟨h, h'⟩
      · rcases a4 m hm with ⟨m', hm', e', f'⟩ | ⟨h, h'⟩
        · exact .inl ⟨m', hm', by rw [e, e'], fun d hd => f' d (f d hd)⟩
        · refine .inr ⟨fun d hd => h d (f d hd), by rw [e]; exact h'⟩
      · exact .inr ⟨h, Nat.le_trans h6 h'⟩
    · intro m hm
      obtain ⟨l, hl, e, f⟩ := a5 m hm
      obtain ⟨l', hl', e', f'⟩ := b5 l hl
      exact ⟨l', hl', by rw [e', e], fun d hd hn => f' d (f d hd hn) hn⟩

/-- A longer list of registers allows more. -/
theorem Keeps.mono {s t regs regs'} (h : Keeps s t regs) (hs : ∀ r ∈ regs, r ∈ regs') : Keeps s t regs' := by
  obtain ⟨h1, h2, h3, h4, ⟨a1, a2, a3, a4, a5⟩, h6⟩ := h
  refine ⟨h1, h2, h3, h4, ⟨a1, ?_, fun e he hn => a3 e he fun h => hn (hs _ h), ?_, ?_⟩, h6⟩
  · intro e he; exact (a2 e he).imp id fun h => ⟨hs _ h.1, h.2⟩
  · intro l hl; exact (a4 l hl).imp id fun h => ⟨fun d hd => hs _ (h.1 d hd), h.2⟩
  · intro m hm; obtain ⟨l, hl, e, f⟩ := a5 m hm; exact ⟨l, hl, e, fun d hd hn => f d hd fun h => hn (hs _ h)⟩

/-- A scalar, predicate, mask or vector result touches its destination only. -/
theorem writeX_keeps (s : State) (hk : s.issue.ctx < 4) (d v lat regs) (h : ∀ r ∈ destX s.issue.rrb d, r ∈ regs) : Keeps s (s.writeX d v lat) regs := by
  unfold State.writeX; split
  · exact .refl _ _
  · rename_i hd
    refine result_keeps _ hk _ _ _ _ (h _ ?_); unfold destX; rw [if_neg hd]; exact List.mem_singleton_self _

theorem writeP_keeps (s : State) (hk : s.issue.ctx < 4) (d v lat regs) (h : ∀ r ∈ destP s.issue.rrb d, r ∈ regs) : Keeps s (s.writeP d v lat) regs := by
  unfold State.writeP; split
  · exact .refl _ _
  · rename_i hd
    refine result_keeps _ hk _ _ _ _ (h _ ?_); unfold destP; rw [if_neg hd]; exact List.mem_singleton_self _

theorem writeM_keeps (s : State) (hk : s.issue.ctx < 4) (d v lat regs) (h : ∀ r ∈ destM d, r ∈ regs) : Keeps s (s.writeM d v lat) regs := by
  unfold State.writeM; split
  · exact .refl _ _
  · rename_i hd
    refine result_keeps _ hk _ _ _ _ (h _ ?_); unfold destM; rw [if_neg hd]; exact List.mem_singleton_self _

theorem writeV_keeps (s : State) (hk : s.issue.ctx < 4) (d m v lat regs) (h : ∀ r ∈ destV s.issue.rrb d, r ∈ regs) : Keeps s (s.writeV d m v lat) regs := by
  unfold State.writeV
  exact result_keeps _ hk _ _ _ _ (h _ (by simp [destV]))

/-- A slot that ends without a halt did nothing under a false guard, or did what its body does. -/
theorem slotOp_inv {g : BitVec 4} {s t : State} {b : Except Halt State} (h : slotOp g s b = .next t) (hv : t.issue.verdict = none) :
  s.readP g.toNat = .ok false ∧ t = s ∨ s.readP g.toNat = .ok true ∧ b = .ok t := by
  unfold slotOp at h
  have halt : ∀ (x : Halt), s.halt x = t → False := by
    intro x hx; subst hx; unfold State.halt at hv; split at hv <;> simp [State.modIssue] at hv
  cases hp : s.readP g.toNat with
  | error x => simp [hp] at h; exact (halt _ h).elim
  | ok v =>
    cases v with
    | false => simp [hp] at h; exact .inl ⟨rfl, h.symm⟩
    | true =>
      simp only [hp] at h
      cases hb : b with
      | error x => simp [hb] at h; exact (halt _ h).elim
      | ok u => simp [hb] at h; exact .inr ⟨rfl, by rw [h]⟩

/-- A bind that succeeds has a first part that succeeds. -/
theorem bind_inv {α β : Type} {x : Except Halt α} {f : α → Except Halt β} {t : β} (h : x >>= f = .ok t) : ∃ a, x = .ok a ∧ f a = .ok t := by
  cases x with
  | error e => simp [bind, Except.bind] at h
  | ok a => exact ⟨a, rfl, h⟩

/-- A slot changes what its body changes. -/
theorem slot_keeps {g : BitVec 4} {s t : State} {b : Except Halt State} {regs} (h : slotOp g s b = .next t) (hv : t.issue.verdict = none)
   (hb : ∀ t, b = .ok t → Keeps s t regs) : Keeps s t regs := by
  rcases slotOp_inv h hv with ⟨_, rfl⟩ | ⟨_, h⟩
  · exact .refl _ _
  · exact hb _ h

/-- The shared shapes of the scalar ALU and the V slot touch their destination only. -/
theorem scalar2_keeps {g d a b lat f s t} (hk : s.issue.ctx < 4) (h : scalar2 g d a b lat f s = .next t) (hv : t.issue.verdict = none) : Keeps s t (destX s.issue.rrb d) := by
  refine slot_keeps h hv fun t h => ?_
  obtain ⟨x, _, h⟩ := bind_inv h
  obtain ⟨y, _, h⟩ := bind_inv h
  cases h
  exact writeX_keeps _ hk _ _ _ _ fun _ h => h

theorem scalar1_keeps {g d a lat f s t} (hk : s.issue.ctx < 4) (h : scalar1 g d a lat f s = .next t) (hv : t.issue.verdict = none) : Keeps s t (destX s.issue.rrb d) := by
  refine slot_keeps h hv fun t h => ?_
  obtain ⟨x, _, h⟩ := bind_inv h
  cases h
  exact writeX_keeps _ hk _ _ _ _ fun _ h => h

theorem pred2_keeps {g p a b lat f s t} (hk : s.issue.ctx < 4) (h : pred2 g p a b lat f s = .next t) (hv : t.issue.verdict = none) : Keeps s t (destP s.issue.rrb p.toNat) := by
  refine slot_keeps h hv fun t h => ?_
  obtain ⟨x, _, h⟩ := bind_inv h
  obtain ⟨y, _, h⟩ := bind_inv h
  cases h
  exact writeP_keeps _ hk _ _ _ _ fun _ h => h

theorem pred1_keeps {g p a lat f s t} (hk : s.issue.ctx < 4) (h : pred1 g p a lat f s = .next t) (hv : t.issue.verdict = none) : Keeps s t (destP s.issue.rrb p.toNat) := by
  refine slot_keeps h hv fun t h => ?_
  obtain ⟨x, _, h⟩ := bind_inv h
  cases h
  exact writeP_keeps _ hk _ _ _ _ fun _ h => h

theorem vector1_keeps {g d a m lat f s t} (hk : s.issue.ctx < 4) (h : vector1 g d a m lat f s = .next t) (hv : t.issue.verdict = none) : Keeps s t (destV s.issue.rrb d) := by
  refine slot_keeps h hv fun t h => ?_
  obtain ⟨x, _, h⟩ := bind_inv h
  obtain ⟨x, _, h⟩ := bind_inv h
  cases h
  exact writeV_keeps _ hk _ _ _ _ _ fun _ h => h

theorem vector2_keeps {g d a b m lat f s t} (hk : s.issue.ctx < 4) (h : vector2 g d a b m lat f s = .next t) (hv : t.issue.verdict = none) : Keeps s t (destV s.issue.rrb d) := by
  refine slot_keeps h hv fun t h => ?_
  obtain ⟨x, _, h⟩ := bind_inv h
  obtain ⟨x, _, h⟩ := bind_inv h
  obtain ⟨x, _, h⟩ := bind_inv h
  cases h
  exact writeV_keeps _ hk _ _ _ _ _ fun _ h => h

/-- XMOVP touches the predicates it writes. -/
theorem xmovp_keeps (x : X64) (l : List Nat) : ∀ (s : State), s.issue.ctx < 4 → Keeps s (l.foldl (fun t n => t.writeP n (x.getLsbD n) 1) s) (l.flatMap (destP s.issue.rrb)) := by
  induction l with
  | nil => intro s h; exact .refl _ _
  | cons a r ih =>
    intro s h
    have e : (s.writeP a (x.getLsbD a) 1).issue = s.issue := State.writeP_issue _ _ _ _
    refine (writeP_keeps s h a _ 1 _ ?_).trans ((ih _ (by rw [e]; exact h)).mono ?_)
    · intro r hr; exact List.mem_append.2 (.inl hr)
    · intro r hr; rw [e] at hr; exact List.mem_append.2 (.inr hr)

end Sys2Proof.Machine
end

