-- ==== Sys2Proof/Laws/Issue.lean ====
section
/-!
SUPPORT. What the issue of a one-slot bundle comes to (R28, R36, R37).
-/
namespace Sys2Proof.Machine

/-- The context that alone is ready is found. -/
theorem CoreState.find_order (v : CoreState) (k : Nat) (hk : k < 4) (hl : v.lastIssuer < 4) :
   (List.find? (fun j => [k].contains j) (v.order [k])) = some k := by
    have hmem : k ∈ v.order [k] := by
      unfold CoreState.order
      dsimp only
      have : k = (v.lastIssuer + 1) % 4 ∨ k = (v.lastIssuer + 2) % 4 ∨ k = (v.lastIssuer + 3) % 4 ∨ k = v.lastIssuer := by omega
      split <;> simp <;> tauto
    cases hq : List.find? (fun j => [k].contains j) (v.order [k]) with
    | none => have := List.find?_eq_none.1 hq k hmem; simp at this
    | some j => have := List.find?_some hq; simp at this; rw [this]

/-- A slot whose instruction has its effect leaves the state after it. -/
theorem State.runSlot_of_exec {s t : State} {x : Ctx} {bc : X64} {v : SlotView} {i : Instr} (hi : v.dec = .ok i)
    (he : exec i (s.slotBegins x bc v) = .next t) (hv : t.issue.verdict = none) : s.runSlot x bc v = (t, none) := by
  have h : v.instr = some i := by simp [SlotView.instr, hi]
  simp [State.runSlot, h, he, hv]

/-- Slots that act leave the state after the last, and no halt. -/
theorem State.runSlots_of_act (x : Ctx) (bc : X64) (l : List SlotView) : ∀ (s : State) (ts : List State) (hs : List (Halt × Bool)),
    s.slotsAct x bc l ts → State.runSlots x bc l s hs = (ts.getLastD s, hs) := by
  induction l with
  | nil =>
    intro s ts hs h
    cases ts with
    | nil => rfl
    | cons t ts => exact absurd h (by simp [State.slotsAct])
  | cons v l ih =>
    intro s ts hs h
    cases ts with
    | nil => exact absurd h (by simp [State.slotsAct])
    | cons t ts =>
      obtain ⟨⟨i, hi, he, hv⟩, hr⟩ := h
      simp only [State.runSlots, State.runSlot_of_exec hi he hv, Option.toList_none, List.append_nil]
      rw [ih t ts hs hr]
      cases ts <;> simp [List.getLastD]

/-- A bundle none of whose slots halts issues. -/
theorem State.decideIssue_of_clear {s t : State} {core k : Nat} {x : Ctx} {b : Bundle} {l : List SlotView} {bc : X64}
    (hstart : t.issue.start = none) (habs : t.issue.absent = false)
    (hq : t.issue.named = false ∨ (s.cs core).issueSum t.issue ≤ (s.cs core).quota) (ho : x.overruns = false ∨ holdsNpre l = true) :
    s.decideIssue t core k x b l bc [] = .issued (t.commit x b l bc) := by
  have h1 : ¬ ((s.cs core).quota < (s.cs core).issueSum t.issue ∧ t.issue.named = true) := by
    rcases hq with h | h
    · simp [h]
    · exact fun c => absurd c.1 (Nat.not_lt.2 h)
  have h2 : (x.overruns && !holdsNpre l) = false := by rcases ho with h | h <;> simp [h]
  simp [State.decideIssue, blockOf, stallOf, trapOf, habs, hstart, h2]
  exact fun a c => absurd ⟨a, c⟩ h1

/-- A bundle that passes its checks and waits for nothing issues with the effects of its slots. -/
theorem State.tryIssue_of_act {u : State} {core k : Nat} {b : Bundle} {bc : X64} {ts : List State}
    (hm : (u.ctx core k).mayFetch u.cycle.toNat = true) (hms : (u.ctx core k).modeStalls = false)
    (ho : (u.ctx core k).overruns = false ∨ holdsNpre b.views = true) (hf : (u.cs core).fetch (u.ctx core k) = .ok b)
    (hck : b.check (u.ctx core k).mode.priv (u.feature core) = none) (hsy : u.syncWaits core b = false)
    (hbc : (u.issues core k b).broadcast b = .ok bc) (ha : (u.issues core k b).slotsAct (u.ctx core k) bc b.views ts)
    (hstart : (ts.getLastD (u.issues core k b)).issue.start = none) (habs : (ts.getLastD (u.issues core k b)).issue.absent = false)
    (hq : (ts.getLastD (u.issues core k b)).issue.named = false
      ∨ (u.cs core).issueSum (ts.getLastD (u.issues core k b)).issue ≤ (u.cs core).quota) :
    u.tryIssue core k = .issued ((ts.getLastD (u.issues core k b)).commit (u.ctx core k) b b.views bc) := by
  have er := State.runSlots_of_act (u.ctx core k) bc b.views _ ts [] ha
  unfold State.tryIssue
  unfold State.issues at *
  dsimp only
  rw [hm, hf]
  simp only [hck, hsy, hms, Bool.not_true, Bool.false_eq_true, if_false]
  rw [hbc]
  dsimp only
  rw [er]
  exact State.decideIssue_of_clear hstart habs hq ho

end Sys2Proof.Machine
end

