-- ==== Sys2Proof/Laws/Memory.lean ====
section
/-!
SUPPORT. Laws of memory: a read after a write, and the canonical form that every memory operation keeps.
-/
namespace Sys2Proof.Machine

@[simp] theorem Memory.read_write_same (m : Memory) (l : Nat) (b : Byte) : Memory.read (Memory.write m l b) l = b :=
  Tab.read_write_same _ _ _ _

theorem Memory.read_write_other (m : Memory) {l k : Nat} (b : Byte) (h : k ≠ l) :
    Memory.read (Memory.write m l b) k = Memory.read m k := Tab.read_write_other _ _ _ h

theorem Memory.wf_write {m : Memory} (l : Nat) (b : Byte) (h : Memory.wf m = true) :
    Memory.wf (Memory.write m l b) = true := Tab.wf_write _ _ h

theorem Memory.wf_nil : Memory.wf [] = true := rfl

theorem Memory.wf_writeAll {m : Memory} (ls : List Nat) (bs : List Byte) (h : Memory.wf m = true) :
    Memory.wf (Memory.writeAll m ls bs) = true := by
  induction ls generalizing m bs with
  | nil => cases bs <;> exact h
  | cons l r ih =>
    cases bs with
    | nil => exact h
    | cons b t => exact ih _ (Memory.wf_write l b h)

/-- Bytes outside the written locations read as before. -/
theorem Memory.read_writeAll_other {m : Memory} {ls : List Nat} {bs : List Byte} {k : Nat} (h : k ∉ ls) :
    Memory.read (Memory.writeAll m ls bs) k = Memory.read m k := by
  induction ls generalizing m bs with
  | nil => cases bs <;> rfl
  | cons l r ih =>
    have hk : k ≠ l ∧ k ∉ r := by simpa using h
    cases bs with
    | nil => rfl
    | cons b t => rw [Memory.writeAll, ih hk.2, Memory.read_write_other _ _ hk.1]

/-- A fold of writes keeps the canonical form. -/
theorem Memory.wf_foldl {β : Type} (f : Memory → β → Memory) (hf : ∀ m b, Memory.wf m = true → Memory.wf (f m b) = true)
    (l : List β) {m : Memory} (h : Memory.wf m = true) : Memory.wf (l.foldl f m) = true := by
  induction l generalizing m with
  | nil => exact h
  | cons b r ih => exact ih (hf m b h)

theorem State.writeLocs_inv {s : State} (ls : List Nat) (bs : List Byte) (h : s.Inv) : (s.writeLocs ls bs).Inv :=
  Memory.wf_writeAll ls bs h

theorem State.reset_memory : Memory.wf State.reset.mem = true := rfl

end Sys2Proof.Machine
end

