-- ==== Sys2Proof/Laws/Outcome.lean ====
section
/-!
SUPPORT. The shared frames of pier instructions, mailbox requests and the segment manager's queue answer a next state
whatever their body does (R254, R292, R372).
-/
namespace Sys2Proof.Machine

theorem pierOp_next (s : State) (f : Pier → PierRun → Except Nat State) : ∃ t, pierOp s f = .next t := by
  unfold pierOp
  dsimp only
  split
  · exact ⟨_, rfl⟩
  · split <;> exact ⟨_, rfl⟩

theorem mailbox_next (s : State) (op : Nat) (sel : Bool) (len : Nat) (bad : Option Nat) (act : State → Answer) :
    ∃ t, mailbox s op sel len bad act = .next t := by
  unfold mailbox
  (repeat' split) <;> exact ⟨_, rfl⟩

theorem smHead_next (c : BitVec 9) (s : State) (f) : ∃ t, smHead c s f = .next t := by
  unfold smHead
  dsimp only
  (repeat' split) <;> exact ⟨_, rfl⟩

end Sys2Proof.Machine
end

