-- ==== Sys2Proof/Laws/Partition.lean ====
section
/-!
SUPPORT. What the end of a partition (R356) and a notice (R374) leave: the ended entries are gone, memory and management
stand.
-/
namespace Sys2Proof.Machine

/-- The end of partition p removes its entry and no other (R356). -/
theorem State.endPartition_get (s : State) (p q : Nat) :
    (s.endPartition p).partitions.get q = if q = p then none else s.partitions.get q := by
  unfold State.endPartition
  cases h : s.partitions.get p with
  | none => by_cases hq : q = p <;> simp [hq, h]
  | some v =>
    by_cases hq : q = p
    · simp [hq, Tab.get_del_same]
    · simp [hq, Tab.get_del_other _ hq]

theorem State.endPartition_foldl_get (l : List (Nat × Partition)) : ∀ (s : State) (q : Nat),
    (l.foldl (fun t p => t.endPartition p.1) s).partitions.get q
      = if q ∈ l.map (·.1) then none else s.partitions.get q := by
  induction l with
  | nil => intro s q; simp
  | cons e r ih =>
    intro s q
    rw [List.foldl_cons, ih, State.endPartition_get]
    by_cases h1 : q ∈ r.map (·.1) <;> by_cases h2 : q = e.1 <;> simp [h1, h2]

theorem State.endPartition_rest (s : State) (p : Nat) :
    (s.endPartition p).mem = s.mem ∧ (s.endPartition p).mgmt = s.mgmt ∧ (s.endPartition p).pod = s.pod := by
  unfold State.endPartition; cases s.partitions.get p <;> exact ⟨rfl, rfl, rfl⟩

theorem State.endPartition_foldl_rest (l : List (Nat × Partition)) : ∀ s : State,
    (l.foldl (fun t p => t.endPartition p.1) s).mem = s.mem
      ∧ (l.foldl (fun t p => t.endPartition p.1) s).mgmt = s.mgmt := by
  induction l with
  | nil => intro s; exact ⟨rfl, rfl⟩
  | cons e r ih =>
    intro s
    rw [List.foldl_cons]
    exact ⟨(ih _).1.trans (s.endPartition_rest _).1, (ih _).2.trans (s.endPartition_rest _).2.1⟩

theorem State.postBytes_frame (s : State) (b : List Byte) : (s.postBytes b).mgmt = s.mgmt
    ∧ (s.postBytes b).partitions = s.partitions ∧ (s.postBytes b).dies = s.dies ∧ (s.postBytes b).pod = s.pod := by
  unfold State.postBytes; dsimp only; split <;> exact ⟨rfl, rfl, rfl, rfl⟩

end Sys2Proof.Machine
end

