-- ==== Sys2Proof/Laws/Touch.lean ====
section
/-!
SUPPORT. What a global access leaves beside its bytes (R164, R328): cache and translation notes and their counts change,
nothing a program can read does. Loads of sound words (R175).
-/
namespace Sys2Proof.Machine

/-- Only notes of caches and translations and a core's counts differ. -/
def State.noted (s t : State) (core : Nat) : Prop :=
  t.flaws = s.flaws ∧ t.mem = s.mem ∧ t.issue = s.issue ∧ t.partitions = s.partitions ∧ t.barriers = s.barriers
    ∧ t.tasks = s.tasks ∧ t.piers = s.piers ∧ t.host = s.host ∧ t.cycle = s.cycle ∧ (∀ d, d ≠ core → t.cs d = s.cs d)
    ∧ ∃ m, t.cs core = { s.cs core with mon := m }

theorem State.noted.refl (s : State) (core : Nat) : s.noted s core :=
  ⟨rfl, rfl, rfl, rfl, rfl, rfl, rfl, rfl, rfl, fun _ _ => rfl, ⟨_, rfl⟩⟩

theorem State.noted.trans {s t u : State} {core : Nat} (h : s.noted t core) (g : t.noted u core) : s.noted u core := by
  obtain ⟨a1, a2, a3, a4, a5, a6, a7, a8, a9, a10, m, a11⟩ := h
  obtain ⟨b1, b2, b3, b4, b5, b6, b7, b8, b9, b10, n, b11⟩ := g
  exact ⟨b1.trans a1, b2.trans a2, b3.trans a3, b4.trans a4, b5.trans a5, b6.trans a6, b7.trans a7, b8.trans a8, b9.trans a9,
    fun d hd => (b10 d hd).trans (a10 d hd), n, by rw [b11, a11]⟩

/-- A step that leaves the cores as they are. -/
theorem State.noted.of_cores {s t : State} (core : Nat) (hc : t.cores = s.cores) (h : t.flaws = s.flaws ∧ t.mem = s.mem
    ∧ t.issue = s.issue ∧ t.partitions = s.partitions ∧ t.barriers = s.barriers ∧ t.tasks = s.tasks ∧ t.piers = s.piers
    ∧ t.host = s.host ∧ t.cycle = s.cycle) : s.noted t core := by
  have hs : ∀ d, t.cs d = s.cs d := fun d => by unfold State.cs State.core; rw [hc]
  obtain ⟨h1, h2, h3, h4, h5, h6, h7, h8, h9⟩ := h
  exact ⟨h1, h2, h3, h4, h5, h6, h7, h8, h9, fun d _ => hs d, _, by rw [hs]⟩

theorem State.siteTouch_noted (s : State) (l : Nat) (w : Bool) (core : Nat) : s.noted (s.siteTouch l w) core := by
  unfold State.siteTouch
  dsimp only
  split
  · exact .refl _ _
  · split <;> exact .of_cores _ rfl ⟨rfl, rfl, rfl, rfl, rfl, rfl, rfl, rfl, rfl⟩

theorem State.dieTouch_noted (s : State) (d l : Nat) (w : Bool) (core : Nat) : s.noted (s.dieTouch d l w) core := by
  unfold State.dieTouch
  dsimp only
  split
  · exact .refl _ _
  · exact .trans (.of_cores _ rfl ⟨rfl, rfl, rfl, rfl, rfl, rfl, rfl, rfl, rfl⟩) (State.siteTouch_noted _ _ _ _)

/-- A change of a core's counts, lines and translations. -/
theorem State.noted.modCS_mon (s : State) (core : Nat) (f : Monitors → Monitors) :
    s.noted (s.modCS core fun w => { w with mon := f w.mon }) core := by
  refine ⟨rfl, rfl, rfl, rfl, rfl, rfl, rfl, rfl, rfl, fun d hd => State.cs_modCS_other _ _ hd, f (s.cs core).mon, ?_⟩
  rw [State.cs_modCS]

theorem State.noted.modCore_notes (s : State) (core : Nat) (f : Core → Core) (h : ∀ v, (f v).cur = v.cur) :
    s.noted (s.modCore core f) core := by
  refine ⟨rfl, rfl, rfl, rfl, rfl, rfl, rfl, rfl, rfl, fun d hd => ?_, (s.cs core).mon, ?_⟩
  · simp [State.cs, State.modCore, State.core_setCore_other _ _ hd]
  · simp [State.cs, State.modCore, h]

theorem State.noted.modQuad {s t : State} {core : Nat} (h : s.noted t core) (q : Nat) (f : Quad → Quad) :
    s.noted (t.modQuad q f) core := h

theorem State.noted.freshen {s t : State} {core : Nat} (h : s.noted t core) (n : Nat) : s.noted { t with fresh := n } core := h

/-- A change of every core that keeps what its partition holds. -/
theorem State.cs_mapCores (s t : State) (f : Nat → Core → Core) (hf : ∀ n v, (f n v).cur = v.cur)
    (ht : t.cores = s.cores.map fun e => (e.1, f e.1 e.2)) (d : Nat) : t.cs d = s.cs d := by
  unfold State.cs State.core Tab.read
  rw [ht]
  generalize s.cores = l
  induction l with
  | nil => rfl
  | cons a r ih =>
    simp only [List.map_cons, Tab.get]
    by_cases h : a.1 = d
    · simp [h, hf]
    · simpa [h] using ih

theorem State.noted.mapCores {s t : State} (core : Nat) (f : Nat → Core → Core) (hf : ∀ n v, (f n v).cur = v.cur)
    (ht : t.cores = s.cores.map fun e => (e.1, f e.1 e.2)) (h : t.flaws = s.flaws ∧ t.mem = s.mem
    ∧ t.issue = s.issue ∧ t.partitions = s.partitions ∧ t.barriers = s.barriers ∧ t.tasks = s.tasks ∧ t.piers = s.piers
    ∧ t.host = s.host ∧ t.cycle = s.cycle) : s.noted t core := by
  have hs := State.cs_mapCores s t f hf ht
  obtain ⟨h1, h2, h3, h4, h5, h6, h7, h8, h9⟩ := h
  exact ⟨h1, h2, h3, h4, h5, h6, h7, h8, h9, fun d _ => hs d, _, by rw [hs]⟩

theorem State.spoil_noted (s : State) (c d : Option Nat) (l core : Nat) : s.noted (s.spoil c d l) core :=
  .mapCores core (fun n v => if c = some n then v else { v with l1 := v.l1.filter fun m => m.loc != l })
    (fun n v => by split <;> rfl) rfl ⟨rfl, rfl, rfl, rfl, rfl, rfl, rfl, rfl, rfl⟩

theorem State.dropSynonyms_noted (s : State) (d : Nat) (e : L1Line) (core : Nat) : s.noted (s.dropSynonyms d e) core :=
  .mapCores core (fun n v => if dieOf n = d then
      { v with l1 := v.l1.filter fun l => !(l.asid == e.asid && l.loc == e.loc && l.line != e.line) } else v)
    (fun n v => by split <;> rfl) rfl ⟨rfl, rfl, rfl, rfl, rfl, rfl, rfl, rfl, rfl⟩

theorem State.fillLine_noted (s : State) (core : Nat) (e : L1Line) : s.noted (s.fillLine core e) core :=
  .trans (State.dropSynonyms_noted _ _ _ _) (State.noted.modCore_notes _ _ _ fun _ => rfl)

theorem State.fillTlb_noted (s : State) (core : Nat) (e : TlbEntry) : s.noted (s.fillTlb core e) core :=
  State.noted.modQuad (t := s.modCore core fun w => { w with tlb := if w.tlb.contains e then w.tlb else evict 128 s.fresh (e :: w.tlb) })
    (State.noted.modCore_notes _ _ _ fun _ => rfl) _ _

theorem State.missLine_noted (s : State) (core va loc : Nat) (w : Bool) : s.noted (s.missLine core va loc w) core := by
  unfold State.missLine
  dsimp only
  refine .trans ?_ (State.dieTouch_noted _ _ _ _ _)
  apply State.noted.freshen
  split
  · exact .refl _ _
  · split
    · exact State.fillTlb_noted _ _ _
    · exact .trans (State.fillTlb_noted _ _ _) (State.fillLine_noted _ _ _)

theorem State.touchLine_noted (s : State) (core va loc : Nat) (w : Bool) : s.noted (s.touchLine core va loc w) core := by
  have hm : s.noted (if (s.core core).holdsLine w va then (if w then s.dieTouch (dieOf core) loc true else s)
      else s.missLine core va loc w) core := by
    split
    · split
      · exact State.dieTouch_noted _ _ _ _ _
      · exact .refl _ _
    · exact State.missLine_noted _ _ _ _ _
  cases w
  · exact hm
  · exact .trans hm (State.spoil_noted _ _ _ _ _)

theorem State.touchLines_noted (core : Nat) (w : Bool) (l : List (Nat × Nat)) :
    ∀ s : State, s.noted (l.foldl (fun s p => s.touchLine core p.1 p.2 w) s) core := by
  induction l with
  | nil => exact fun s => .refl _ _
  | cons a r ih => exact fun s => .trans (State.touchLine_noted _ _ _ _ _) (ih _)

theorem State.touch_noted (s : State) (core : Nat) (l : List (Nat × Nat)) (w : Bool) : s.noted (s.touch core l w) core :=
  .trans (.modCS_mon s core fun m => if l.all fun p => (s.core core).holdsLine w p.1 then { m with l1hit := m.l1hit + 1 }
    else { m with l1miss := m.l1miss + 1 }) (State.touchLines_noted core w l _)

theorem State.touch_foldl_noted (core : Nat) (w : Bool) (l : List (Nat × Nat)) :
    ∀ s : State, s.noted (l.foldl (fun s p => s.touch core [p] w) s) core := by
  induction l with
  | nil => exact fun s => .refl _ _
  | cons a r ih => exact fun s => .trans (State.touch_noted _ _ _ _) (ih _)

/-- An access of a core leaves everything but such notes. -/
theorem State.touchAll_noted (s : State) (core va n : Nat) (ls : List Nat) (w : Bool) : s.noted (s.touchAll core va n ls w) core := by
  unfold State.touchAll
  split
  · exact State.touch_noted _ _ _ _
  · exact State.touch_foldl_noted _ _ _ _

theorem State.siteLines_noted (s : State) (ls : List Nat) (w : Bool) (core : Nat) : s.noted (s.siteLines ls w) core := by
  unfold State.siteLines
  generalize (ls.map (· / 64)).eraseDups = l
  induction l generalizing s with
  | nil => exact .refl _ _
  | cons a r ih => exact .trans (State.siteTouch_noted _ _ _ _) (ih _)

/-- A write of a party that goes through no die's cache leaves everything but such notes beside its bytes (R154). -/
theorem State.spoilAll_noted (s : State) (ls : List Nat) (core : Nat) : s.noted (s.spoilAll ls) core := by
  refine .trans ?_ (State.siteLines_noted _ _ _ _)
  generalize (ls.map (· / 64)).eraseDups = l
  induction l generalizing s with
  | nil => exact .refl _ _
  | cons a r ih => exact .trans (State.spoil_noted _ _ _ _ _) (ih _)

theorem State.soiled_touchAll (s : State) (core va n : Nat) (ls ms : List Nat) (w : Bool) :
    (s.touchAll core va n ls w).soiled ms = s.soiled ms := by
  unfold State.soiled
  rw [(State.touchAll_noted s core va n ls w).1]

/-- A load of words without an uncorrectable error owes its destinations their values (R67, R175). -/
theorem State.globalLoad_sound {s : State} {ls : List Nat} (h : s.soiled ls = none) (dests : List (Reg × RegVal)) (phys : Nat)
    (vas : List Nat) : s.globalLoad dests phys vas ls
    = (s.observeWords s.icore s.ictx ls).loadResult .memory dests 0 phys := by
  unfold State.globalLoad State.loadOf
  rw [h]

end Sys2Proof.Machine
end

