-- ==== Sys2Proof/Laws/Pier.lean ====
section
/-!
SUPPORT. The frame of a pier instruction (R253 to R258), said once: with a command running, what it computes or how the
command ends.
-/
namespace Sys2Proof.Machine

theorem pierOp_run {s : State} {p : Pier} {r : PierRun} (hp : s.pier s.issue.pier = p) (hr : p.run = some r)
    (f : Pier → PierRun → Except Nat State) : pierOp s f = match f p r with
      | .ok t => .next t
      | .error c => .next (s.pierEnd s.issue.pier c) := by
  cases h : f p r <;> simp [pierOp, hp, hr, h]

/-- The end of a command: what it has stored is written, the run is over and its completion waits among the done (R190,
R258). -/
theorem pierEnd_run {s : State} {p : Pier} {r : PierRun} (hp : s.pier s.issue.pier = p) (hr : p.run = some r) (c : Nat) :
    let ls := r.stored.map (·.1)
    s.pierEnd s.issue.pier c = ((s.spoilAll ls).writeLocs ls (r.stored.map (·.2))).modPier s.issue.pier fun _ =>
      { p with run := none, loaded := none, done := p.done ++ [⟨r.cmd, c, r.sigs, ls⟩] } := by
  intro ls
  have hq : (((s.spoilAll ls).writeLocs ls (r.stored.map (·.2))).pier s.issue.pier) = p := by
    have h : ((s.spoilAll ls).writeLocs ls (r.stored.map (·.2))).piers = s.piers := (State.spoilAll_noted s ls 0).2.2.2.2.2.2.1
    rw [← hp, State.pier, State.pier, h]
  unfold State.pierEnd
  simp only [hp, hr]
  unfold State.modPier
  rw [hq]

theorem State.modPier_const {s : State} {p : Pier} {u : Nat} (hp : s.pier u = p) (f : Pier → Pier) :
    s.modPier u f = s.modPier u fun _ => f p := by
  unfold State.modPier; rw [hp]

end Sys2Proof.Machine
end

