-- ==== Sys2Proof/WellFormed.lean ====
section
/-!
DEFINITION. Well-formed instructions: an encoded instruction that passes the checks of R36 which look at its word
alone (stages 2 to 4: code 63 as an X destination, the values it accepts, register codes 48 to 62).
-/
namespace Sys2Proof

/-- The checks of R36 that an instruction's own word decides. -/
def Instr.wellFormed (i : Instr) : Bool :=
  i.code.isSome && !i.badDest && i.fieldsOk && i.reservedReg.isNone

end Sys2Proof
end

