-- ==== Sys2Proof/Tests/Slice0.lean ====
section
/-!
SUPPORT. Tests: well-formedness, decoding of words written out from the spec's encodings, the spec's worked examples, and
for every statement a state and operands that meet its hypotheses.
-/
namespace Sys2Proof.Tests
open Sys2Proof.Machine
set_option Elab.async false

/-! ### Well-formedness -/

/-- One ill-formed term for each check of an instruction's own word (R36, R39, R43, R47, R49 to R54, R255). -/
theorem test_ill_formed : ([.moduleReset, .add 0 63 1 2, .lds8 0 5 1 63 1, .add 0 1 48 2, .add 0 1 2 62, .mulh 0 1 2 3 3, .sext 0 1 2 3,
    .shli 0 1 2 64, .shri 0 1 2 64, .srai 0 1 2 64, .cmp 0 16 1 2 0, .cmp 0 1 2 3 6, .cmpeqi 0 16 1 0, .cmplti 0 16 1 0, .fcmp 0 1 2 3 4,
    .fcvt 0 1 2 8 0, .loop 0 1 1 0 4, .mode 0 8, .crd 0 0x43 1, .cwr 0 0x43 1, .bar 0 5 0, .tknext 0 0, .tknext 0 47, .ld 0 1 2 7 0,
    .st 0 1 2 4 0, .lds8 0 5 1 5 1, .lds4 0 5 1 5 1, .ctw 0 1 16] : List Instr).all (fun i => !i.wellFormed) = true := by decide

theorem test_ill_formed_vectors : ([.vabs 0 1 2 0 1, .vneg 0 1 2 0 7, .vshl 0 1 2 3 0 2, .vshr 0 1 2 3 0 3, .vsra 0 1 2 3 0 4, .vrem 0 1 2 3 0 2,
    .vsqrt 0 1 2 0 0, .vrec 0 1 2 0 5, .vrsq 0 1 2 0 1, .vexp2 0 1 2 0 0, .vlog2 0 1 2 0 7, .vcmp 0 0 1 2 0 2, .vcmp 0 1 1 2 6 0,
    .vcmp 0 1 1 2 0 3, .viota 0 1 0 2, .vred 0 1 2 6 0 0, .vscan 0 1 2 6 0 0, .vcvt 0 1 2 3 3 0 0, .vcv8 0 1 2 0 3 0 0 0 0,
    .vcv8 0 1 2 0 1 1 0 0 0, .vun8 0 1 2 0 2 3 0, .vdec4 0 1 2 3 4 3, .vdec4 0 1 2 3 0 0, .venc4 0 1 2 3 4 1, .venc4 0 1 2 3 0 3,
    .mlog 0 0 1 2 0, .mfromx 0 0 1, .kinit 0 0 0 0 3, .kout 0 0 31, .barx 0 5 0 0 1] : List Instr).all (fun i => !i.wellFormed) = true := by
  decide

theorem test_ill_formed_engines : ([.vlds 0 1 1 2 2, .vsts 0 1 1 2 3, .mwld 0 1 2 0 7, .mstr 0 1 45 0 0 0 0, .mstr 0 1 2 0 0 0 7,
    .mrank 0 1 45 0 0, .mrank 0 1 2 0 5, .mout 0 1 46 0 0 0, .sgdef 0 1 47, .ldarm 0 1 47, .ploopImm 1 0, .ploopReg 1 0, .psetk 2048 0 0 1 1,
    .pzer 0 0, .pzer 1 16, .prown 1 16 0, .psto 1 16 0, .pstob 1 16 0, .pcvt 0 1 3, .psig 1 0, .pmov 0 8 0, .pmov 1 8 0, .pmov 2 0 8,
    .pmov 3 0 0] : List Instr).all (fun i => !i.wellFormed) = true := by decide

theorem test_well_formed : ([.add 0 47 1 2, .add 0 1 63 0, .shli 0 1 2 63, .tknext 0 46, .vcmp 0 1 1 2 5 0, .mstr 0 1 44 0 0 0 6,
    .pzer 15 1, .sgdef 0 1 46, .lds8 0 5 1 6 1, .mode 0 7, .crd 0 0x42 1] : List Instr).all Instr.wellFormed = true := by decide

/-! ### Decoding -/

/-- Every word of a list decodes to its instruction. -/
def reads (c : SlotClass) (l : List (Word × Instr)) : Bool := l.all fun e => match decode c e.1 with
  | .ok i => i == e.2
  | .error _ => false

/-- Words the spec prints (R40, R43, R74, R88, R89, R94, R170, R174, R267, R274, R276, R303). -/
theorem test_printed_scalar : reads .C [(0x0A818601#32, .addi 0 3 3 1), (0x08038FF8#32, .add 0 7 7 63), (0x0BC489FF#32, .cmplti 0 9 4 0x1FF),
    (0x00C09405#32, .loop 0 1 2 1 5), (0x00C0800A#32, .loop 0 1 0 0 10), (0x98010508#32, .add 9 2 2 33), (0x01002000#32, .mode 0 1),
    (0x02C45000#32, .bar 0 1 5), (0x01200000#32, .yield 0), (0x03E00000#32, .tkdone 0), (0x03A00000#32, .tkwait 0),
    (0x03800280#32, .pstop 0 5), (0x01400000#32, .halt 0), (0x0321BF80#32, .sigs 0 13 63), (0x03408000#32, .semset 0 4 0)] = true
    ∧ reads .S [(0x0B628065#32, .movi 0 5 0x65), (0x00228482#32, .ld 0 5 2 2 2), (0x004284FF#32, .st 0 5 2 3 0x3F),
    (0x0084008D#32, .lds4 0 8 1 6 1), (0x00A2818E#32, .sts8 0 5 3 7 0), (0x00E30438#32, .amo 0 6 2 7 0), (0x01228440#32, .cas 0 5 2 8),
    (0x01600404#32, .pref 0 2 4), (0x01800A03#32, .ctw 0 5 3), (0x8090008D#32, .lds4 8 32 1 6 1)] = true := by decide

/-- Words the spec prints (R115 to R121, R128 to R137, R144 to R153). -/
theorem test_printed_vector : reads .V [(0x00242982#32, .vadd 0 4 5 6 0 2), (0x90902142#32, .vfma 9 16 4 5 0 2), (0x02A81912#32, .vcmp 0 2 3 4 2 2),
    (0x03020C00#32, .vbcast 0 2 3 0), (0x03420C51#32, .vext 0 2 3 5 1), (0x03C110C0#32, .vperm 0 1 2 3 0 0), (0x04EC5000#32, .mfromx 0 3 5),
    (0x032B0000#32, .viota 0 11 0 0), (0x03EA5818#32, .vpart 0 10 11 3), (0x04C4B000#32, .mpop 0 9 3), (0x03829C02#32, .vred 0 5 7 0 0 2),
    (0x03A63800#32, .vscan 0 6 7 0 0 0), (0x04A53800#32, .mlog 0 1 2 3 8), (0x04011208#32, .vcvt 0 1 2 2 0 1 0),
    (0x04234020#32, .vcv8 0 3 8 0 0 0 1 0 0), (0x046231C2#32, .vdec4 0 2 6 7 0 2), (0x04892185#32, .venc4 0 9 4 12 1 1),
    (0x06083000#32, .kinit 0 2 3 0 0), (0x06288500#32, .kins 0 2 4 5 0), (0x06488390#32, .kinsi 0 2 4 7 1), (0x06698000#32, .kmrg 0 2 3),
    (0x06894000#32, .kout 0 2 10), (0x06A84000#32, .klen 0 2 4), (0x06C80000#32, .kth 0 2), (0x06E80000#32, .kclr 0 2),
    (0x07103080#32, .barx 0 4 3 0 8)] = true := by decide

/-- Words the spec prints (R149, R177 to R181, R212 to R220, R244, R250, R252, R264, R293 to R299, R322 to R325). -/
theorem test_printed_engines : reads .W [(0x00240118#32, .vlds 0 4 1 6 0), (0x00440319#32, .vsts 0 4 3 6 1), (0x00621000#32, .vldg 0 2 4 0),
    (0x00E91060#32, .vgtg 0 9 4 3 0), (0x00A90219#32, .vgts 0 9 2 3 1), (0x00CA0219#32, .vscs 0 10 2 3 1), (0x01201460#32, .ksave 0 0 5 6),
    (0x01401460#32, .kload 0 0 5 6), (0x01601460#32, .kmrgs 0 0 5 6), (0x01854000#32, .pget 0 5 2), (0x01A54000#32, .pput 0 5 2)] = true
    ∧ reads .E [(0x00204210#32, .mwld 0 2 4 0 2), (0x00204268#32, .mwld 0 2 4 1 5), (0x00602422#32, .mstr 0 1 8 1 0 0 2),
    (0x0060241D#32, .mstr 0 1 8 0 1 1 5), (0x0080A640#32, .mrank 0 5 12 2 0), (0x00A0CA2C#32, .mout 0 6 20 1 3 0), (0x00448000#32, .mscl 0 9 0), (0x00454000#32, .mscl 0 10 1), (0x00D80000#32, .mzero 0 3), (0x02008300#32, .fcmd 0 4 6),
    (0x0300E500#32, .pcmd 0 7 10), (0x03210500#32, .pload 0 8 10), (0x0600A300#32, .tkpost 0 5 6), (0x04008500#32, .sgdef 0 4 10),
    (0x04208000#32, .sgdrop 0 4), (0x04408000#32, .sgpin 0 4), (0x04608000#32, .sgunpin 0 4), (0x04808000#32, .sgpush 0 4),
    (0x04A08000#32, .sgpull 0 4), (0x04C08380#32, .sgstat 0 4 7), (0x04E00280#32, .sgsplit 0 5), (0x0700C500#32, .ldarm 0 6 10),
    (0x07239600#32, .ldread 0 7 11)] = true
    ∧ reads .P [(0x0C000000#32, .parg 0 0 0), (0x0C180000#32, .parg 0 1 1), (0x0CA00000#32, .parg 1 2 0), (0x0D580000#32, .parg 2 5 1),
    (0x140CC002#32, .psetk 51 0 0 0 2), (0x18800000#32, .pldx 1), (0x1C200000#32, .pzer 0 16), (0x24200000#32, .prown 0 16 0),
    (0x28208000#32, .psto 0 16 2), (0x04000000#32, .pend)] = true := by decide

theorem test_decode_C0 : reads .C [(0xC800CC58#32, .add 12 1 38 11),
    (0xC820CC58#32, .sub 12 1 38 11),
    (0xC840CC58#32, .and 12 1 38 11),
    (0x787E4230#32, .or 7 60 33 6),
    (0xC880CC58#32, .xor 12 1 38 11),
    (0xC8A0CC58#32, .shl 12 1 38 11),
    (0xC8C0CC58#32, .shr 12 1 38 11),
    (0xC8E0CC58#32, .sra 12 1 38 11),
    (0xC900CC58#32, .mul 12 1 38 11),
    (0x19235685#32, .mulh 1 6 43 16 5),
    (0xC940CC59#32, .div 12 1 38 11 1),
    (0xC960CC59#32, .rem 12 1 38 11 1),
    (0xC980CC59#32, .min 12 1 38 11 1),
    (0xC9A0CC59#32, .max 12 1 38 11 1),
    (0xC9C0CC00#32, .clz 12 1 38),
    (0xC9E0CC00#32, .ctz 12 1 38),
    (0x1A035600#32, .popc 1 6 43),
    (0x1A235600#32, .brev 1 6 43),
    (0x1A435607#32, .sext 1 6 43 7),
    (0x6A65E0AA#32, .shadd 6 11 48 21 2)] = true := by decide

theorem test_decode_C1 : reads .C [(0x1A8356D0#32, .addi 1 6 43 208),
    (0x1AA356D0#32, .andi 1 6 43 208),
    (0xCAC0CCCB#32, .ori 12 1 38 203),
    (0x1AE356D0#32, .xori 1 6 43 208),
    (0x1B0356D0#32, .shli 1 6 43 208),
    (0x1B2356D0#32, .shri 1 6 43 208),
    (0x1B4356D0#32, .srai 1 6 43 208),
    (0x1B6300AB#32, .movi 1 6 171),
    (0xCB80CC5F#32, .cmp 12 1 38 11 7),
    (0xBBA86ADA#32, .cmpeqi 11 16 53 218),
    (0xBBC86ADA#32, .cmplti 11 16 53 218),
    (0x1BED7EA0#32, .plog 1 6 11 15 5),
    (0x6C058000#32, .pmovx 6 11),
    (0x6C201600#32, .xmovp 6 11),
    (0xCC40CC58#32, .sel 12 1 38 11),
    (0x1C635681#32, .fadd 1 6 43 16 1),
    (0x1C835681#32, .fsub 1 6 43 16 1),
    (0x1CA35681#32, .fmul 1 6 43 16 1),
    (0x1CC35681#32, .fmin 1 6 43 16 1),
    (0x1CE35681#32, .fmax 1 6 43 16 1)] = true := by decide

theorem test_decode_C2 : reads .C [(0x1D035685#32, .fcmp 1 6 43 16 5),
    (0x1D2357E8#32, .fcvt 1 6 43 15 1),
    (0xC0000000#32, .nop 12),
    (0x7020007C#32, .br 7 124),
    (0x10400086#32, .call 1 134),
    (0x706078A1#32, .jr 7 60 161),
    (0x108356D0#32, .jalr 1 6 43 208),
    (0xC0A00000#32, .ret 12),
    (0x10C35CF5#32, .loop 1 6 11 1 245),
    (0x60E45CD5#32, .loopi 6 139 1 213),
    (0x61200000#32, .yield 6),
    (0x11400000#32, .halt 1),
    (0x1170C000#32, .bkpt 1 134),
    (0x1190C000#32, .trap 1 134),
    (0x11B0C000#32, .sysc 1 134),
    (0x11C00000#32, .eret 1),
    (0xC1F03300#32, .crd 12 129 38),
    (0xC2103300#32, .cwr 12 129 38),
    (0xB2200000#32, .ifence 11),
    (0x12435601#32, .isum 1 6 43 1)] = true := by decide

theorem test_decode_C3 : reads .C [(0xB26021A8#32, .banksw 11 16 53),
    (0x12800000#32, .nprb 1),
    (0x12A00000#32, .npre 1),
    (0xC2C66000#32, .bar 12 1 38),
    (0xB2E00000#32, .efence 11),
    (0x63117800#32, .waits 6 139 48),
    (0x1330D580#32, .sigs 1 134 43),
    (0xB3521A80#32, .semset 11 144 53),
    (0x63601780#32, .waitw 6 11 48),
    (0x63800580#32, .pstop 6 11),
    (0xB3A00000#32, .tkwait 11),
    (0xB3C80000#32, .tknext 11 16),
    (0xB3E00000#32, .tkdone 11),
    (0x14000000#32, .tret 1)] = true := by decide

theorem test_decode_S0 : reads .S [(0x703E43AB#32, .ld 7 60 33 6 43),
    (0x705E43AB#32, .st 7 60 33 6 43),
    (0x106355A1#32, .lds8 1 6 171 16 1),
    (0x108355A1#32, .lds4 1 6 171 16 1),
    (0x10A355A1#32, .sts8 1 6 171 16 1),
    (0x10C355A1#32, .sts4 1 6 171 16 1),
    (0xC0E0CC5F#32, .amo 12 1 38 11 7),
    (0x11035685#32, .amo4 1 6 43 16 5),
    (0xC120CC58#32, .cas 12 1 38 11),
    (0x11435680#32, .cas4 1 6 43 16),
    (0x11600CAB#32, .pref 1 6 171),
    (0xC18002A6#32, .ctw 12 1 166)] = true := by decide

theorem test_decode_V0 : reads .V [(0x10000000#32, .vnop 1),
    (0x10265C2A#32, .vadd 1 6 11 16 5 2),
    (0x10465C2A#32, .vsub 1 6 11 16 5 2),
    (0x10665C2A#32, .vmul 1 6 11 16 5 2),
    (0x10865C2A#32, .vfma 1 6 11 16 5 2),
    (0x10A65C2A#32, .vmin 1 6 11 16 5 2),
    (0x10C65C2A#32, .vmax 1 6 11 16 5 2),
    (0x10E6583D#32, .vabs 1 6 11 7 5),
    (0x1106583D#32, .vneg 1 6 11 7 5),
    (0x11265C2A#32, .vand 1 6 11 16 5 2),
    (0xC14132FD#32, .vor 12 1 6 11 7 5),
    (0x11665C2A#32, .vxor 1 6 11 16 5 2),
    (0x11865C2A#32, .vshl 1 6 11 16 5 2),
    (0x11A65C2A#32, .vshr 1 6 11 16 5 2),
    (0x11C65C2A#32, .vsra 1 6 11 16 5 2),
    (0x11E65C2A#32, .vdiv 1 6 11 16 5 2),
    (0x15265C2A#32, .vrem 1 6 11 16 5 2),
    (0x620B802A#32, .vsqrt 6 11 16 5 2),
    (0x1226583D#32, .vrec 1 6 11 7 5),
    (0x1246583D#32, .vrsq 1 6 11 7 5)] = true := by decide

theorem test_decode_V1 : reads .V [(0x626B802A#32, .vexp2 6 11 16 5 2),
    (0x628B802A#32, .vlog2 6 11 16 5 2),
    (0x12B85C2A#32, .vcmp 1 6 11 16 5 2),
    (0x12C65C2A#32, .vsel 1 6 11 16 5 2),
    (0x12E6583D#32, .vmov 1 6 11 7 5),
    (0xB310D404#32, .vbcast 11 16 53 2),
    (0x632B003D#32, .viota 6 11 7 5),
    (0x1346AD01#32, .vext 1 6 43 16 1),
    (0x1366AD00#32, .vins 1 6 43 16),
    (0x13832FAA#32, .vred 1 6 11 7 5 2),
    (0x63AB8517#32, .vscan 6 11 16 5 2 7),
    (0x63CB8557#32, .vperm 6 11 16 21 2 7),
    (0x63EB8028#32, .vpart 6 11 16 5),
    (0x14065FB7#32, .vcvt 1 6 11 7 5 2 7),
    (0x14265DB9#32, .vcv8 1 6 11 1 1 2 1 3 1),
    (0x14465D87#32, .vun8 1 6 11 1 1 2 7),
    (0x646B8557#32, .vdec4 6 11 16 21 2 7),
    (0x648B82AB#32, .venc4 6 11 16 21 2 3),
    (0x14B9F500#32, .mlog 1 6 3 7 5),
    (0x14C33000#32, .mpop 1 6 3)] = true := by decide

theorem test_decode_V2 : reads .V [(0xB4FF5000#32, .mfromx 11 7 53),
    (0x15033000#32, .mtox 1 6 3),
    (0x660F0C00#32, .kinit 6 3 48 1 2),
    (0x163970A0#32, .kins 1 6 11 16 5),
    (0x664E0AA0#32, .kinsi 6 3 16 21 2),
    (0x16798000#32, .kmrg 1 6 3),
    (0x16996000#32, .kout 1 6 11),
    (0x16BAB000#32, .klen 1 6 43),
    (0xC6C40000#32, .kth 12 1),
    (0x16F80000#32, .kclr 1 6),
    (0x171ABF50#32, .barx 1 6 43 7 21)] = true := by decide

theorem test_decode_W0 : reads .W [(0x10000000#32, .wnop 1),
    (0x1026AB41#32, .vlds 1 6 171 16 1),
    (0x1046AB41#32, .vsts 1 6 171 16 1),
    (0x1066AF80#32, .vldg 1 6 43 7),
    (0x1086AF80#32, .vstg 1 6 43 7),
    (0x10A6AB85#32, .vgts 1 6 171 16 5),
    (0x10C6AB85#32, .vscs 1 6 171 16 5),
    (0x10E6AE14#32, .vgtg 1 6 43 16 5),
    (0x1106AE14#32, .vscg 1 6 43 16 5),
    (0x612EC150#32, .ksave 6 3 176 21),
    (0x614EC150#32, .kload 6 3 176 21),
    (0x616EC150#32, .kmrgs 6 3 176 21),
    (0x11866000#32, .pget 1 6 3),
    (0x11A66000#32, .pput 1 6 3)] = true := by decide

theorem test_decode_E0 : reads .E [(0x10000000#32, .enop 1),
    (0x1030D5E8#32, .mwld 1 134 43 1 5),
    (0x10434000#32, .mscl 1 6 1),
    (0x1070D5FF#32, .mstr 1 134 43 3 1 1 7),
    (0x60917822#32, .mrank 6 139 48 1 2),
    (0x10B0D5F6#32, .mout 1 134 43 3 5 2),
    (0x60D80000#32, .mzero 6 3),
    (0x1210D580#32, .fcmd 1 134 43),
    (0x1310D580#32, .pcmd 1 134 43),
    (0x63317800#32, .pload 6 139 48),
    (0x64117800#32, .sgdef 6 139 48),
    (0xB4320000#32, .sgdrop 11 144),
    (0x64516000#32, .sgpin 6 139),
    (0xF472A000#32, .sgunpin 15 149),
    (0xB4920000#32, .sgpush 11 144),
    (0xB4B20000#32, .sgpull 11 144),
    (0xB4D21A80#32, .sgstat 11 144 53),
    (0xF4E00A80#32, .sgsplit 15 21),
    (0xB6121A80#32, .tkpost 11 144 53),
    (0x67117800#32, .ldarm 6 139 48)] = true := by decide

theorem test_decode_E1 : reads .E [(0xB7286A00#32, .ldread 11 16 53),
    (0x67401600#32, .lddis 6 11)] = true := by decide

theorem test_decode_P0 : reads .P [(0x00000000#32, .pnop),
    (0x04000000#32, .pend),
    (0x0807509A#32, .ploopImm 117 154),
    (0x0B40009A#32, .ploopReg 5 154),
    (0x0CE80000#32, .parg 1 6 1),
    (0x10E000AB#32, .padd 1 6 171),
    (0x1419BCFA#32, .psetk 102 1 3 1 250),
    (0x18800000#32, .pldx 1),
    (0x1C4C0000#32, .pzer 1 6),
    (0x20700000#32, .prow 1 6),
    (0x2597C000#32, .prown 6 11 7),
    (0x284CC000#32, .psto 1 6 3),
    (0x2D97C000#32, .pstob 6 11 7),
    (0x30000000#32, .pwait),
    (0x344D8000#32, .pcvt 1 6 3),
    (0x39861800#32, .psig 97 134),
    (0x3D6B0000#32, .pmov 1 6 11)] = true := by decide

/-! ### States to test on -/

/-- Core 0 of die 0 runs partition 1; the first 64 KiB of its address space lie at location 0. -/
def core0 (v : CoreState) : State :=
  { State.reset with
    cores := [(0, { Core.reset with cur := { v with part := some 1 }, tlb := [⟨0, 0, 65536, 0, true⟩] })]
    partitions := [(1, ⟨0, 0, 64, [0], 1, none, 0, [], false⟩)] }

/-- Context 0 of core 0 issues. -/
def ctx0 (c : Ctx) : State := core0 { CoreState.reset with quota := 64, ctxs := CoreState.reset.ctxs.set 0 { c with run := .running } }

/-- X1 = 10, X2 = 3, X4 = -1, P1 true, lane 0 of V1 2.0 in f32. -/
def regs : Ctx :=
  { (((Ctx.reset.setX 1 10).setX 2 3).setX 4 0xFFFFFFFFFFFFFFFF).setP 1 true with
    v := Ctx.reset.v.set 1 (Vector.replicate 64 0x40000000) }

def user : State := ctx0 regs
/-- The same in a privileged routine. -/
def priv : State := user.modIssue fun j => { j with mode := ⟨true, 0, true⟩ }

/-- What the issuing context is owed after an outcome. -/
def owed : Host.Outcome State Fault Refusal → List (Reg × RegVal)
  | .next t => t.cx.flight.map (fun e => (e.reg, e.val)) ++ t.cx.loads.flatMap Load.dests
  | _ => []

/-- How an outcome ended. -/
def verdict : Host.Outcome State Fault Refusal → Option Halt
  | .next t => t.issue.verdict
  | _ => none

/-- The state after an outcome. -/
def after : Host.Outcome State Fault Refusal → State
  | .next t => t
  | _ => .reset

theorem is_ok {ε α : Type} [DecidableEq α] {r : Except ε α} {a : α} (h : (match r with | .ok b => decide (b = a) | .error _ => false) = true) :
    r = .ok a := by
  cases r with
  | ok b => simpa using h
  | error _ => simp at h

theorem is_error {ε α : Type} [DecidableEq ε] {r : Except ε α} {a : ε} (h : (match r with | .ok _ => false | .error b => decide (b = a)) = true) :
    r = .error a := by
  cases r with
  | ok _ => simp at h
  | error b => simpa using h

theorem is_next {r : Host.Outcome State Fault Refusal} (h : (match r with | .next _ => true | _ => false) = true) : r = .next (after r) := by
  cases r <;> simp_all [after]

/-! ### Witnesses of hypotheses: stepping and decoding -/

/-- ADDI X3, X3, #1 placed at address 0 of a core. -/
def placed : State := State.reset.withFetchWord 32 0x0A818601
def surveyed : State × List Nat := State.surveyed { placed with todo := [.engines, .tick] } 0
def placedBundle : Bundle := ⟨0, 2, 0, [(.C, false, 0x0A818601)], none, none⟩

/-- The state after an attempt that issued. -/
def issuedTo : Tried → State
  | .issued t => t
  | _ => .reset

theorem is_issued {r : Tried} (h : (match r with | .issued _ => true | _ => false) = true) : r = .issued (issuedTo r) := by
  cases r <;> simp_all [issuedTo]

theorem test_witness_StepRunsSlotWord : placed.agenda = [] ∧ placed.mgmt.powered = true ∧ placed.todo = .issue 0 :: [.engines, .tick]
    ∧ (placed.cs 0).stallTo = 0 ∧ surveyed.2 = [0] ∧ (surveyed.1.cs 0).lastIssuer < 4 ∧ (∀ j < 4, (surveyed.1.ctx 0 j).holdsCore = false)
    ∧ surveyed.1.tryIssue 0 0 = .issued (issuedTo (surveyed.1.tryIssue 0 0)) := by
  and_intros <;> first | decide +kernel | exact is_issued (by decide +kernel)

/-- Words at address 0 of the core, for context 0. -/
def coded (c : Ctx) (ws : List Nat) : State := placed.modCS 0 fun v =>
  { (v.setCtx 0 c) with resident := v.resident.writeBytes 0 (ws.flatMap (leBytes 4)) }
def placedCtx : Ctx := placed.ctx 0 0

/-- {C: ADDI X3, X3, #1 | S: ADD X7, X7, #B | V: VADD V4, V5, V6 | W kept}, repeated once, with a broadcast word and a signal. -/
def full : State := coded placedCtx [0xA0041607, 0x0A818601, 0x08038FF8, 0x00242982, 5, 0x40000000, 0x03020000]
def fullBundle : Bundle := ⟨0, 7, 1, [(.C, false, 0x0A818601), (.S, false, 0x08038FF8), (.V, false, 0x00242982), (.W, true, 0)], some 5,
  some (0x40000000, 0x03020000)⟩
/-- The states after each of its slots. -/
def slotRun (x : Ctx) (bc : X64) : State → List SlotView → List State
  | _, [] => []
  | s, v :: l =>
    let t := match v.dec with
      | .ok i => after (exec i (s.slotBegins x bc v))
      | .error _ => s
    t :: slotRun x bc t l
/-- Every slot of a run decodes, and its instruction ends without a halt. -/
def slotsRun (x : Ctx) (bc : X64) : State → List SlotView → Bool
  | _, [] => true
  | s, v :: l =>
    match v.dec with
    | .ok i => match exec i (s.slotBegins x bc v) with
      | .next t => t.issue.verdict == none && slotsRun x bc t l
      | _ => false
    | .error _ => false
theorem slotsRun_acts (x : Ctx) (bc : X64) (l : List SlotView) : ∀ s, slotsRun x bc s l = true → s.slotsAct x bc l (slotRun x bc s l) := by
  induction l with
  | nil => intro s _; trivial
  | cons v l ih =>
    intro s h
    unfold slotsRun at h
    unfold slotRun
    split at h
    · rename_i i hi
      split at h
      · rename_i t ht
        simp only [Bool.and_eq_true, beq_iff_eq] at h
        simp only [ht, after]
        exact ⟨⟨i, hi, ht, h.1⟩, ih t h.2⟩
      · exact absurd h (by simp)
    · exact absurd h (by simp)
def fullStart : State := full.issues 0 0 fullBundle
def fullEnd : State := (slotRun placedCtx 5 fullStart fullBundle.views).getLastD fullStart

theorem test_witness_StepRunsSlotWord_slots : (full.ctx 0 0).mayFetch full.cycle.toNat = true ∧ (full.cs 0).fetch (full.ctx 0 0) = .ok fullBundle
    ∧ fullBundle.check (full.ctx 0 0).mode.priv (full.feature 0) = none ∧ (full.ctx 0 0).modeStalls = false ∧ full.syncWaits 0 fullBundle = false
    ∧ fullStart.broadcast fullBundle = .ok 5 ∧ fullEnd.issue.start = none ∧ fullEnd.issue.absent = false ∧ fullEnd.issue.named = false
    ∧ (full.ctx 0 0).overruns = false := by
  and_intros <;> first | decide +kernel | exact is_ok (by decide +kernel)
theorem test_witness_StepRunsSlotWord_acts :
    fullStart.slotsAct placedCtx 5 fullBundle.views (slotRun placedCtx 5 fullStart fullBundle.views) :=
  slotsRun_acts _ _ _ _ (by decide +kernel)

/-- A pc off a word, a YIELD in a repeated bundle, an entry counted in cycles in exposed mode, an unmet wait. -/
def offWord : Ctx := { placedCtx with pc := 2 }
def cycling : Ctx := { placedCtx with mode := ⟨false, 0, false⟩, flight := [⟨.x 3, .x 9, 2, true, 0⟩] }
def unmet : State := coded placedCtx [0xA0000401, 0x0A818601, 0x80000040, 0]
theorem test_witness_StepRunsSlotWord_not : (placed.cs 0).fetch offWord = .error (.trap 1 0 5 0)
    ∧ (⟨0, 2, 1, [(.C, false, 0x01200000)], none, none⟩ : Bundle).check false true = some (.trap 1 0 0 0)
    ∧ cycling.modeStalls = true ∧ unmet.syncWaits 0 ⟨0, 4, 0, [(.C, false, 0x0A818601)], none, some (0x80000040, 0)⟩ = true := by
  and_intros <;> first | decide +kernel | exact is_error (by decide +kernel)

theorem test_witness_StepRunsSlotWord_decide : ((Halt.blocked .load, false) : Halt × Bool) ∈ [(Halt.trap 2 0 0 0, false), (.blocked .load, false)]
    ∧ ([(Halt.trap 2 0 0 0, false)] : List (Halt × Bool)).head? = some (.trap 2 0 0 0, false)
    ∧ placed.issue.start = none ∧ placed.issue.absent = false ∧ placedCtx.overruns = false := by decide +kernel

def bx2 : Bundle := { placedBundle with bw := some 0x80000002 }
theorem test_witness_StepRunsSlotWord_broadcast : user.hazard (.x (physX user.issue.rrb 2)) = .ok ()
    ∧ State.hazard (user.modIssue fun j => { j with pendLoads := [⟨0, 0, .memory, [(.x 2, .x 7)], 0, 0, 0, false, false⟩] }) (.x (physX user.issue.rrb 2))
      = .error (.blocked .load)
    ∧ State.hazard (user.modIssue fun j => { j with pendFlight := [⟨.x 2, .x 7, 1, false, 0⟩] }) (.x (physX user.issue.rrb 2)) = .error .stalled
    ∧ State.hazard (user.modIssue fun j => { j with pendLoads := [⟨0, 0, .memory, [(.x 2, .x 7)], 0, 0, 0, true, true⟩] }) (.x (physX user.issue.rrb 2))
      = .error (.trap 0x0B 0 0 0) ∧ bitsOf (0x80000002#32).toNat 5 0 = 2 := by
  and_intros <;> first | decide +kernel | exact is_ok (by decide +kernel) | exact is_error (by decide +kernel)

def taken : State := fullEnd.modIssue fun j => { j with lastRep := true, taken := true }
def lastEnd : State := fullEnd.modIssue fun j => { j with lastRep := true }
theorem test_witness_StepRunsSlotWord_commit : (∀ t ∈ [fullEnd, taken, lastEnd], t.issue.after = [] ∧ t.issue.ctx < 4
      ∧ (t.ctx t.issue.core t.issue.ctx).mode = (full.ctx 0 0).mode ∧ (t.ctx t.issue.core t.issue.ctx).loops = [])
    ∧ fullEnd.issue.lastRep = false ∧ taken.issue.lastRep = true ∧ taken.issue.taken = true ∧ lastEnd.issue.lastRep = true ∧ lastEnd.issue.taken = false
    ∧ fullBundle.signalNow fullEnd.issue = some (3, 2) := by decide +kernel

/-- (P1) ADDI with P1 false, and a kept W slot alone. -/
def nullAt : State := coded placedCtx [0xA0000001, 0x1A818601]
def keptAt : State := coded placedCtx [0xA0040000]
theorem test_witness_StepRunsSlotWord_null : placedCtx.mode.ilk = true ∧ placedCtx.mayFetch nullAt.cycle.toNat = true
    ∧ placedCtx.returned nullAt.cycle.toNat = false ∧ placedCtx.loops = [] ∧ cycling.mode.ilk = false
    ∧ (nullAt.cs 0).fetch placedCtx = .ok ⟨0, 2, 0, [(.C, false, 0x1A818601)], none, none⟩
    ∧ (⟨0, 2, 0, [(.C, false, 0x1A818601)], none, none⟩ : Bundle).check placedCtx.mode.priv (nullAt.feature 0) = none
    ∧ placedCtx.isNull ⟨0, 2, 0, [(.C, false, 0x1A818601)], none, none⟩ = true ∧ placedCtx.isNull placedBundle = false
    ∧ (keptAt.cs 0).fetch placedCtx = .ok ⟨0, 1, 0, [(.W, true, 0)], none, none⟩
    ∧ (⟨0, 1, 0, [(.W, true, 0)], none, none⟩ : Bundle).views.map (fun v => (v.cls, v.kept)) = [(.W, true)] := by
  and_intros <;> first | decide +kernel | exact is_ok (by decide +kernel)

/-- PNOP placed at word 0 of pier 0. -/
def pierPlaced : State := State.reset.placePier 0
def pierRunning : PierRun := ⟨⟨⟨0, 0, none, none⟩, 0, 0, .cmd 0 [] none none 0⟩, 0, none, [], []⟩

theorem test_witness_StepRunsPierWord : pierPlaced.agenda = [] ∧ pierPlaced.mgmt.powered = true ∧ pierPlaced.todo = .pier 0 :: [.engines, .tick]
    ∧ (pierPlaced.pier 0).run = some pierRunning ∧ ((pierPlaced.pier 0).closeLoop pierRunning).2.pc ≤ 255
    ∧ decode .P ((pierPlaced.pier 0).words.read 0 0) = .ok .pnop ∧ decode .P 0xFC000000#32 = .error .unassigned
    ∧ ((pierPlaced.pier 0).closeLoop { pierRunning with pc := 256 }).2.pc = 256 := by
  and_intros <;> first | decide +kernel | exact is_ok (by decide +kernel) | exact is_error (by decide +kernel)

/-- What waits in the agenda, and the turns left of the cycle. -/
def waitingAccess (turns : List Turn) (l : List Instr) : State := { State.reset with agenda := l, todo := turns }

/-- A retry; an access while a context has its turn left and after the last one, of link 0, of link 1 with one of link 0 behind another of
link 1, and of link 1 alone. -/
theorem test_witness_StepTakesOutsideFirst : ({ State.reset with agenda := [.flitRetry 3] } : State).agenda = .flitRetry 3 :: []
    ∧ (Instr.flitRetry 3).code = none ∧ Instr.windowLink (.flitRetry 3) = none
    ∧ exec (.flitRetry 3) State.reset = .next (after (exec (.flitRetry 3) State.reset))
    ∧ Instr.windowLink (.hostWindowRead ⟨false, 8⟩ 8) = some false ∧ Instr.windowLink (.hostWindowRead ⟨true, 8⟩ 8) = some true
    ∧ (waitingAccess [.issue 0, .tick] [Instr.hostWindowRead ⟨false, 8⟩ 8]).mgmt.powered = true ∧ (waitingAccess [.issue 0, .tick] [Instr.hostWindowRead ⟨false, 8⟩ 8]).contextsDone = false
    ∧ (waitingAccess [.tick] [Instr.hostWindowRead ⟨false, 8⟩ 8]).contextsDone = true
    ∧ exec (.hostWindowRead ⟨false, 8⟩ 8) (waitingAccess [.tick] []) = .next (after (exec (.hostWindowRead ⟨false, 8⟩ 8) (waitingAccess [.tick] [])))
    ∧ [Instr.hostWindowRead ⟨true, 8⟩ 8, Instr.hostWindowRead ⟨false, 8⟩ 8] = [Instr.hostWindowRead ⟨true, 8⟩ 8] ++ Instr.hostWindowRead ⟨false, 8⟩ 8 :: [] ∧ (∀ e ∈ [Instr.hostWindowRead ⟨true, 8⟩ 8], Instr.windowLink e = some true)
    ∧ exec (.hostWindowRead ⟨false, 8⟩ 8) (waitingAccess [.tick] (.hostWindowRead ⟨true, 8⟩ 8 :: ([Instr.hostWindowRead ⟨true, 8⟩ 8] ++ [])))
      = .next (after (exec (.hostWindowRead ⟨false, 8⟩ 8) (waitingAccess [.tick] (.hostWindowRead ⟨true, 8⟩ 8 :: ([Instr.hostWindowRead ⟨true, 8⟩ 8] ++ [])))))
    ∧ [Instr.hostWindowRead ⟨true, 8⟩ 8, .flitRetry 3] = [Instr.hostWindowRead ⟨true, 8⟩ 8] ++ [.flitRetry 3]
    ∧ (∀ j z, [Instr.flitRetry 3] = j :: z → Instr.windowLink j = none)
    ∧ exec (.hostWindowRead ⟨true, 8⟩ 8) (waitingAccess [.tick] [Instr.hostWindowRead ⟨true, 8⟩ 8, .flitRetry 3])
      = .next (after (exec (.hostWindowRead ⟨true, 8⟩ 8) (waitingAccess [.tick] [Instr.hostWindowRead ⟨true, 8⟩ 8, .flitRetry 3])))
    ∧ State.reset.agenda = [] ∧ State.reset.mgmt.powered = true
    ∧ ({ State.reset with mgmt := { Mgmt.reset with powered := false } } : State).mgmt.powered = false := by
  and_intros <;> first | decide +kernel | exact is_next (by decide +kernel) | exact fun j z h => by cases h; rfl

theorem test_witness_DecodeOfEncode : (Instr.addi 0 3 3 1).code = some (.C, 84, 0, [(6, 3), (6, 3), (9, 1)])
    ∧ encode (.addi 0 3 3 1) = some 0x0A818601#32 := by decide +kernel

theorem test_witness_EncodeOfDecode : decode .C 0x0A818601#32 = .ok (.addi 0 3 3 1) := is_ok (by decide +kernel)

theorem test_witness_EveryInstructionActs : State.reset.agenda ≠ [] ∨ State.reset.mgmt.powered = true := .inr rfl

theorem test_witness_FalseGuardDoesNothing : (Instr.add 2 3 1 2).code.isSome = true ∧ (Instr.add 2 3 1 2).isPier = false
    ∧ (Instr.add 2 3 1 2).isSel = false ∧ user.issue.bundleSet = [] ∧ user.issue.cmdSet = [] ∧ user.issue.absent = false
    ∧ user.issue.defined = 0
    ∧ user.readP (Instr.add 2 3 1 2).guard = .ok false := by
  and_intros <;> first | decide +kernel | exact is_ok (by decide +kernel)

theorem test_witness_StepKeepsMemoryForm : State.reset.Inv ∧ step State.reset = .next (after (step State.reset)) :=
  ⟨rfl, is_next (by decide +kernel)⟩

/-! ### Witnesses: registers -/

/-- X1 owed by a load, X2 by a fixed-latency result, in interlocked mode. -/
def owing : State := user.modIssue fun j =>
  { j with pendFlight := [⟨.x 2, .x 5, 1, true, 0⟩], pendLoads := [⟨0, 0, .memory, [(.x 1, .x 7)], 0, 0, 0, false, false⟩], bcast := 9 }

theorem test_witness_ScalarSourceReads : owing.readX 63 = .ok 9 ∧ owing.readX 48 = .error (.trap 3 0 0 48)
    ∧ owing.readX 62 = .error (.trap 3 0 0 62) ∧ owing.readX 1 = .error (.blocked .load) ∧ owing.readX 2 = .error .stalled
    ∧ owing.readX 47 = .ok 0 ∧ owing.readX 0 = .ok 0 ∧ owing.readX 4 = .ok 0xFFFFFFFFFFFFFFFF := by
  and_intros <;> first | decide +kernel | exact is_ok (by decide +kernel) | exact is_error (by decide +kernel)

/-- At the ends of the rotating ranges (R59). -/
theorem test_witness_RotationShiftsNames : let r : Rrb := ⟨0, 15, 3⟩
    physX r.rotate 33 = physX r 32 ∧ physX r.rotate 47 = physX r 46 ∧ physX r.rotate 32 = physX r 47 ∧ physV r.rotate 17 = physV r 16
      ∧ physV r.rotate 31 = physV r 30 ∧ physV r.rotate 16 = physV r 31 ∧ physP r.rotate 9 = physP r 8 ∧ physP r.rotate 15 = physP r 14
      ∧ physP r.rotate 8 = physP r 15 ∧ physX r 31 = 31 ∧ physV r 15 = 15 ∧ physP r 7 = 7 := by decide

theorem test_witness_ResultLandsAfterLatency : Ctx.reset.flight = [] ∧ 0 < 47 ∧ 47 < 48 ∧ 0 < 1
    ∧ ((Ctx.reset.enter false (.x 47) (.x 5) 1).stepBundles).getX 47 = 5 ∧ (Ctx.reset.enter false (.x 47) (.x 5) 1).getX 47 = 0 := by
  decide +kernel

theorem test_witness_SelectedLanesOnly : 31 < 32 ∧ 63 < 64 ∧ (30 : Nat) ≠ 31
    ∧ ((regs.land (.v 1) (.v 1 (.replicate 64 7))).getV 1).lane 0 = 7
    ∧ ((regs.land (.v 1) (.v 1 (.replicate 64 7))).getV 1).lane 63 = 0x40000000 := by decide +kernel

/-! ### Witnesses: the scalar and vector slots -/

/-- What most slot statements ask of guard and sources. -/
theorem test_sources : user.readP 0 = .ok true ∧ user.readP 1 = .ok true ∧ user.readP 2 = .ok false ∧ user.readX 1 = .ok 10
    ∧ user.readX 2 = .ok 3 ∧ user.readX 0 = .ok 0 ∧ user.readX 4 = .ok 0xFFFFFFFFFFFFFFFF ∧ user.readM 0 = .ok (BitVec.allOnes 64)
    ∧ user.readM 1 = .ok 0 ∧ user.readV 1 = .ok (.replicate 64 0x40000000) ∧ user.readV 2 = .ok (.replicate 64 0)
    ∧ user.readK 0 = .ok .launch := by
  and_intros <;> first | decide +kernel | exact is_ok (by decide +kernel)

theorem test_witness_ScalarIntegerResults : user.readP 0 = .ok true
    ∧ user.readX 1 = .ok 10
    ∧ user.readX 2 = .ok 3 :=
  ⟨is_ok (by decide +kernel),
    is_ok (by decide +kernel),
    is_ok (by decide +kernel)⟩
theorem test_witness_MultiplyAndDivideResults : user.readP 0 = .ok true
    ∧ user.readX 1 = .ok 10
    ∧ user.readX 2 = .ok 3
    ∧ (3#64) ≠ 0
    ∧ (0x8000000000000000#64).toInt = -2 ^ 63
    ∧ (0xFFFFFFFFFFFFFFFF#64).toInt = -1
    ∧ user.readX 0 = .ok 0
    ∧ user.readX 4 = .ok 0xFFFFFFFFFFFFFFFF := by
  and_intros <;> first | decide +kernel | exact is_ok (by decide +kernel)
theorem test_witness_ScalarUnaryAndImmediateResults : user.readP 0 = .ok true
    ∧ user.readX 1 = .ok 10
    ∧ (1#64).getLsbD 0 = true
    ∧ (0x8000000000000000#64).getLsbD 63 = true
    ∧ leadingZeros 1 = 63
    ∧ trailingZeros 0x8000000000000000 = 63 := by
  and_intros <;> first | decide +kernel | exact is_ok (by decide +kernel)
theorem test_witness_PredicateResults : user.readX 1 = .ok 10
    ∧ user.readX 2 = .ok 3
    ∧ user.readP 0 = .ok true
    ∧ user.readP 15 = .ok false
    ∧ user.readP 1 = .ok true := by
  and_intros <;> first | decide +kernel | exact is_ok (by decide +kernel)
theorem test_witness_SelectAndTruthTable : user.readX 1 = .ok 10
    ∧ user.readX 2 = .ok 3
    ∧ user.readP 2 = .ok false
    ∧ user.readP 1 = .ok true
    ∧ user.readP 0 = .ok true := by
  and_intros <;> first | decide +kernel | exact is_ok (by decide +kernel)
theorem test_witness_ScalarFloatResults : user.readP 0 = .ok true
    ∧ user.readX 1 = .ok 10
    ∧ user.readX 2 = .ok 3 :=
  ⟨is_ok (by decide +kernel),
    is_ok (by decide +kernel),
    is_ok (by decide +kernel)⟩
theorem test_witness_TransferTargets : user.readP 0 = .ok true
    ∧ user.readX 1 = .ok 10 :=
  ⟨is_ok (by decide +kernel),
    is_ok (by decide +kernel)⟩
theorem test_witness_LoopEntry : user.readP 0 = .ok true
    ∧ user.readX 1 = .ok 10
    ∧ user.readX 0 = .ok 0
    ∧ user.readX 4 = .ok 0xFFFFFFFFFFFFFFFF
    ∧ user.cx.loops.length = 0
    ∧ (ctx0 { regs with loops := .replicate 4 ⟨0, 8, 1, 0, false⟩ }).cx.loops.length = 4 := by
  and_intros <;> first | decide +kernel | exact is_ok (by decide +kernel)

/-- Each clause at a level that meets it: LC left, a draining rotation at EC 2, the pop at EC 1 and of a plain loop. -/
theorem test_witness_LoopClose : (Ctx.reset.closeLoops [⟨4, 8, 1, 2, true⟩] 8).2 = 4 ∧ (Ctx.reset.closeLoops [⟨4, 8, 0, 2, true⟩] 8).2 = 4
    ∧ (Ctx.reset.closeLoops [⟨4, 8, 0, 1, true⟩] 8).2 = 8 ∧ (Ctx.reset.closeLoops [⟨4, 8, 0, 2, false⟩] 8).2 = 8
    ∧ (Ctx.reset.closeLoops [⟨4, 8, 1, 2, true⟩] 12).1.loops.length = 1
    ∧ (Ctx.reset.closeLoops [⟨4, 8, 0, 1, true⟩, ⟨0, 8, 5, 0, false⟩] 8).2 = 0 := by decide +kernel

/-- A context with a part, in a user handler, with a region open and a command in flight. -/
def busy : Ctx := { regs with
  task := some 0
  held := [⟨false, ⟨true, 0, false⟩, [], .nop, [], some 0, none⟩]
  region := some 0
  inflight := [0] }

theorem test_witness_ControlResults : user.readP 0 = .ok true
    ∧ (ctx0 busy).readP 0 = .ok true
    ∧ (ctx0 busy).cx.task.isSome = true
    ∧ (ctx0 busy).cx.held = ⟨false, ⟨true, 0, false⟩, [], .nop, [], some 0, none⟩ :: []
    ∧ priv.issue.mode.priv = true
    ∧ priv.readP 0 = .ok true
    ∧ user.cx.region = none
    ∧ user.cx.inflight = [] := by
  and_intros <;> first | decide +kernel | exact is_ok (by decide +kernel)
/-- Context 0 holds a part of a task with the parts given, up to TKHI. -/
def ending (hi : X64) (parts : Nat) : State := { ctx0 { regs with task := some 0, tkhi := hi } with tasks := [(0, ⟨0, 1, parts⟩)] }

/-- Chunks left; none left in one of two parts; none left in the last part; no part. -/
theorem test_witness_ControlResults_ends : ((ending 16 1).ctx 0 0).task = some 0 ∧ ((ending 16 1).cs 0).gang = none
    ∧ (ending 16 1).tasks.get 0 = some ⟨0, 1, 1⟩ ∧ ((ending 16 1).ctx 0 0).tklo.toInt < ((ending 16 1).ctx 0 0).tkhi.toInt
    ∧ ((ending 0 2).ctx 0 0).tkhi.toInt ≤ ((ending 0 2).ctx 0 0).tklo.toInt ∧ (ending 0 2).tasks.get 0 = some ⟨0, 1, 2⟩
    ∧ (ending 0 1).tasks.get 0 = some ⟨0, 1, 1⟩ ∧ (user.ctx 0 0).task = none := by
  decide +kernel
theorem test_witness_ControlTraps : user.readP 0 = .ok true
    ∧ user.readX 1 = .ok 10
    ∧ user.cx.task = none
    ∧ user.cx.held = []
    ∧ (ctx0 busy).cx.region.isSome = true
    ∧ user.cx.participant = false
    ∧ user.issue.mode.priv = false
    ∧ (ctx0 busy).cx.inflight ≠ []
    ∧ (ctx0 busy).readX 1 = .ok 10 := by
  and_intros <;> first | decide +kernel | exact is_ok (by decide +kernel)
theorem test_witness_VectorArithmeticResults : user.readP 0 = .ok true
    ∧ user.readM 0 = .ok (BitVec.allOnes 64)
    ∧ user.readV 1 = .ok (.replicate 64 0x40000000)
    ∧ user.readV 2 = .ok (.replicate 64 0) := by
  and_intros <;> first | decide +kernel | exact is_ok (by decide +kernel)
theorem test_witness_VectorUnaryResults : user.readP 0 = .ok true
    ∧ user.readM 0 = .ok (BitVec.allOnes 64)
    ∧ user.readV 1 = .ok (.replicate 64 0x40000000)
    ∧ user.readV 2 = .ok (.replicate 64 0)
    ∧ user.readX 1 = .ok 10 := by
  and_intros <;> first | decide +kernel | exact is_ok (by decide +kernel)
theorem test_witness_ReductionAndMaskResults : user.readP 0 = .ok true
    ∧ user.readM 0 = .ok (BitVec.allOnes 64)
    ∧ user.readM 1 = .ok 0
    ∧ user.readV 1 = .ok (.replicate 64 0x40000000)
    ∧ user.readV 2 = .ok (.replicate 64 0)
    ∧ user.readX 1 = .ok 10 := by
  and_intros <;> first | decide +kernel | exact is_ok (by decide +kernel)
theorem test_witness_ConversionResults : user.readP 0 = .ok true
    ∧ user.readM 0 = .ok (BitVec.allOnes 64)
    ∧ user.readV 1 = .ok (.replicate 64 0x40000000)
    ∧ user.readV 2 = .ok (.replicate 64 0)
    ∧ user.readV 3 = .ok (.replicate 64 0)
    ∧ user.readX 1 = .ok 10 := by
  and_intros <;> first | decide +kernel | exact is_ok (by decide +kernel)

/-- K1 is a list of the other direction, K2 one of another type. -/
def lists : State := ctx0 { regs with k := (regs.k.set 1 { KList.launch with smallest := !KList.launch.smallest }).set 2 { KList.launch with type := .i32 } }

theorem test_witness_RankedListResults : lists.readP 0 = .ok true
    ∧ lists.hazard (.k 0) = .ok ()
    ∧ lists.awaitInsert 0 = .ok ()
    ∧ lists.readM 0 = .ok (BitVec.allOnes 64)
    ∧ lists.readV 1 = .ok (.replicate 64 0x40000000)
    ∧ lists.readV 2 = .ok (.replicate 64 0)
    ∧ lists.readX 1 = .ok 10
    ∧ lists.readK 0 = .ok .launch
    ∧ lists.readK 3 = .ok .launch
    ∧ lists.readK 1 = .ok { KList.launch with smallest := !KList.launch.smallest }
    ∧ lists.readK 2 = .ok { KList.launch with type := .i32 }
    ∧ KType.i32 ≠ KList.launch.type
    ∧ (3 : BitVec 3) ≠ 0 := by
  and_intros <;> first | decide +kernel | exact is_ok (by decide +kernel)
theorem test_witness_RankedListStaysRanked : KList.launch.ranked = true
    ∧ ({ KList.launch with entries := [⟨0x40000000, 1⟩, ⟨0x3F800000, 0⟩] } : KList).ranked = true := by decide +kernel

/-- A participant whose barrier 3 of the quad has an arrival with operation 2. -/
def member : State :=
  { ctx0 { regs with participant := true } with barriers := [⟨⟨1, 0, 3, 1⟩, [], some 2, [], []⟩] }

/-- Barrier 3 of quad 0 with the arrival of context 0, of BAR or of BARX with ADD and V4; the core it waits on, which runs partition 1, or
partition 2 while partition 1 is in shadow storage. -/
def gathered (barx : Bool) : Barrier :=
  ⟨⟨1, 0, 3, 1⟩, [(0, if barx then some (List.replicate 16 5) else none)], if barx then some 1 else none, [], []⟩
def arrived (barx : Bool) : CoreState :=
  { CoreState.reset with
    part := some 1
    ctxs := CoreState.reset.ctxs.set 0 { regs with
      run := .running, participant := true, arrivals := [⟨⟨1, 0, 3, 1⟩, (if barx then some (4, List.replicate 16 5) else none).map fun e => (1, e)⟩] } }
def releasing (barx runs : Bool) : State :=
  { State.reset with
    cores := [(0, if runs then { Core.reset with cur := arrived barx } else { Core.reset with cur := { CoreState.reset with part := some 2 }, shadow := some (arrived barx) })]
    barriers := [gathered barx] }
/-- Arrivals of up to five contexts, out of order. -/
def leafed (n : Nat) : Barrier := { gathered true with arrivals := ([8, 0, 4, 3, 16].take n).map fun i => (i, some [BitVec.ofNat 32 i]) }

theorem test_witness_BarrierArrivals_release : (releasing true true).barrierMet (gathered true) = true
    ∧ (releasing true true).barriers.find? (fun e => (releasing true true).barrierMet e) = some (gathered true)
    ∧ (∀ e ∈ member.barriers, member.barrierMet e = false)
    ∧ (gathered true).arrivals.filter (fun a => a.1 == 4 * 0 + 0) = [(4 * 0 + 0, some (List.replicate 16 5))]
    ∧ (gathered false).arrivals.filter (fun a => a.1 == 4 * 0 + 0) = [(4 * 0 + 0, none)]
    ∧ ((releasing true true).cs 0).part = some (gathered true).key.part ∧ ((releasing false true).cs 0).part = some (gathered false).key.part
    ∧ ((releasing true true).ctx 0 0).arrivals = [⟨(gathered true).key, (some (4, List.replicate 16 5)).map fun e => (1, e)⟩]
    ∧ ((releasing false true).ctx 0 0).arrivals = [⟨(gathered false).key, (none : Option (Nat × List Word)).map fun e => (1, e)⟩]
    ∧ (releasing true false).partState 0 (gathered true).key.part = some (arrived true)
    ∧ ((releasing true false).cs 0).part ≠ some (gathered true).key.part
    ∧ ((arrived true).ctx 0).arrivals = [⟨(gathered true).key, some (1, 4, List.replicate 16 5)⟩]
    ∧ (gathered true).heldLandings = [] ∧ (∀ a ∈ (gathered true).arrivals, a.1 ≠ 4 * 0 + 3) := by
  and_intros <;> decide +kernel
theorem test_witness_BarrierArrivals_tree : (leafed 1).op = some 1 ∧ (leafed 1).leaves = [(8, [8])] ∧ (leafed 2).leaves = [(0, [0]), (8, [8])]
    ∧ (leafed 3).leaves = [(0, [0]), (4, [4]), (8, [8])] ∧ (leafed 4).leaves = [(0, [0]), (3, [3]), (4, [4]), (8, [8])]
    ∧ (leafed 5).leaves = [(0, [0]), (3, [3]), (4, [4]), (8, [8]), (16, [16])]
    ∧ f32.isNan (0x7FC00000#32).toNat = true ∧ f32.isNan (0x3F800000#32).toNat = false := by
  decide +kernel

theorem test_witness_BarrierArrivals : member.readP 0 = .ok true
    ∧ member.readV 1 = .ok (.replicate 64 0x40000000)
    ∧ member.cx.participant = true
    ∧ (member.barrier ⟨1, 0, 3, 1⟩).op.getD 2 = 2
    ∧ (member.barrier ⟨1, 0, 3, 1⟩).op.getD 0 ≠ 0
    ∧ (member.barrier ⟨1, scopeInst 1 0, 3, member.partOf 0⟩).op = some 2
    ∧ user.cx.participant = false
    ∧ 3 < 4 := by
  and_intros <;> first | decide +kernel | exact is_ok (by decide +kernel)
theorem test_witness_ControlRegisterAccess : user.readP 0 = .ok true
    ∧ user.readX 1 = .ok 10
    ∧ 0x18 ≤ (0x18#8).toNat
    ∧ (0x1F#8).toNat ≤ 0x1F
    ∧ user.hazard (.kth 0) = .ok ()
    ∧ user.hazard (.kth 7) = .ok ()
    ∧ priv.issue.mode.priv = true
    ∧ priv.readP 0 = .ok true
    ∧ user.issue.mode.priv = false
    ∧ ¬ (0x18 ≤ (0x17#8).toNat ∧ (0x17#8).toNat ≤ 0x1F) := by
  and_intros <;> first | decide +kernel | exact is_ok (by decide +kernel)
theorem test_witness_ControlRegisterWrites : 3 < 4
    ∧ (ctx0 { regs with loops := [⟨0, 8, 1, 0, false⟩] }).cx.loops ≠ []
    ∧ user.cx.loops = [] :=
  ⟨by decide +kernel,
    by decide +kernel,
    by decide +kernel⟩

/-- A core with two segments of 4 and 1 granules and a ticket that names the first, whose bundle will define 3 granules. -/
def quotaed : State := core0 { CoreState.reset with
  quota := 64, segs := [(0, ⟨1, 4, .resident, false, .data, false, false, 0, 0, 1024, [], false⟩), (1, ⟨2, 1, .resident, true, .data, false, false, 0, 4, 2048, [], false⟩)]
  tickets := [⟨2, [0], [], false, true, [], false, false, false, false, 3⟩] }
/-- Writes of 2^20, 64 and 2 to SGQUOTA: above what is left, between, and below the ticket's sum. -/
theorem test_witness_ControlRegisterWrites_quota : let v := quotaed.cs 0
    let most := storeGranules (quotaed.core 0).cacheKiB - v.pinnedTotal
    v.tickets.map (fun t => v.setSum t.known + t.extra) = [7] ∧ most ≤ (0x100000#64).toNat ∧ 7 ≤ (64#64).toNat ∧ (64#64).toNat ≤ most
      ∧ (2#64).toNat ≤ 7 ∧ 7 ≤ most := by decide +kernel

/-- A context whose WAITW of address 8 with the value 3 has read an equal word, or has ended. -/
def waiting (ended : Bool) : State := ctx0 { regs with wait := .waitw 8 3, waitwEnded := ended }

/-- A word of zeros at address 8 equals X0 and differs from X2; address 65,536 does not translate. -/
theorem test_witness_SemaphoreWaits : user.readP 0 = .ok true
    ∧ user.readX 1 = .ok 10
    ∧ user.readX 2 = .ok 3
    ∧ 0 ≤ (user.ccs.sems.read 0 4 - (0#64).setWidth 16).toInt
    ∧ (user.ccs.sems.read 0 4 - (3#64).setWidth 16).toInt < 0
    ∧ (waiting true).readP 0 = .ok true
    ∧ (waiting true).cx.waitwEnded = true
    ∧ (waiting false).cx.waitwEnded = false
    ∧ (waiting false).cx.wait = .waitw (10 / 8 * 8) 3
    ∧ user.cx.waitwEnded = false
    ∧ user.cx.wait ≠ .waitw 8 3
    ∧ user.locs 0 8 8 false = .ok (countFrom 8 8)
    ∧ user.soiled (countFrom 8 8) = none
    ∧ leNat (user.bytesAt (countFrom 8 8)) = (0#64).toNat
    ∧ leNat (user.bytesAt (countFrom 8 8)) ≠ (3#64).toNat
    ∧ user.locs 0 65536 8 false = .error (9, 65536) := by
  and_intros <;> first | decide +kernel | exact is_ok (by decide +kernel) | exact is_error (by decide +kernel)

/-- A context whose BANKSW at address 0 is decided at cycle 5, at a core with a gang that stops. -/
def banking (cycle sum : Nat) : State :=
  { ctx0 { regs with bank := some ⟨0, 0, BitVec.ofNat 32 sum, 7, 5⟩, task := some 0, tklo := 2, tkhi := 9, tkgrain := 4 } with cycle := BitVec.ofNat 64 cycle }
def ganged (stopping parked : Bool) (n : Nat) : State :=
  { core0 { CoreState.reset with gang := some ⟨0, [0, 1, 2], stopping, List.replicate n 0, false⟩, ctxs := .replicate 4 { regs with parked := parked } } with
    issue := priv.issue }

theorem test_witness_BankSumsAndParts : user.readP 0 = .ok true
    ∧ user.readX 1 = .ok 10
    ∧ user.readX 2 = .ok 3
    ∧ (16384#64).toNat ≤ 16384
    ∧ 16384 < (16385#64).toNat
    ∧ user.cx.bank = none
    ∧ user.ccs.codeFlawed (1 + 0) (10#64).toNat = false
    ∧ (banking 4 7).cx.bank = some ⟨0, 0, 7, 7, 5⟩
    ∧ (banking 4 7).issue.pc = 0
    ∧ (banking 4 7).issue.rep = 0
    ∧ (banking 4 7).readP 0 = .ok true
    ∧ (banking 4 7).cycle.toNat < 5
    ∧ 5 ≤ (banking 5 7).cycle.toNat
    ∧ (banking 5 6).cx.bank = some ⟨0, 0, 6, 7, 5⟩
    ∧ user.cx.task = none
    ∧ (banking 4 7).cx.task.isSome = true
    ∧ (banking 4 7).cx.tklo.toInt < (banking 4 7).cx.tkhi.toInt
    ∧ (ctx0 { regs with task := some 0, tklo := 9, tkhi := 9 }).cx.tkhi.toInt ≤ (ctx0 { regs with task := some 0, tklo := 9, tkhi := 9 }).cx.tklo.toInt
    ∧ priv.issue.mode.priv = true
    ∧ priv.readX 1 = .ok 10
    ∧ (64 : Nat) ≤ (64#64).toNat
    ∧ (priv.cs 10).gang = none
    ∧ ((ganged false false 0).cs 0).gang = some ⟨0, [0, 1, 2], false, [], false⟩
    ∧ ((ganged false false 0).cs 0).gangParked = false
    ∧ ((ganged false true 0).cs 0).gangParked = true
    ∧ ((ganged true false 2).cs 0).gang = some ⟨0, [0, 1, 2], true, [0, 0], false⟩
    ∧ ((ganged true false 2).cs 0).gangParked = false
    ∧ ((ganged true true 3).cs 0).gang = some ⟨0, [0, 1, 2], true, [0, 0, 0], false⟩
    ∧ ((ganged true true 3).cs 0).gangParked = true
    ∧ (ganged true true 3).issue.mode.priv = true
    ∧ (ganged true true 3).readX 0 = .ok 0
    ∧ (ganged true true 3).readP 0 = .ok true := by
  and_intros <;> first | decide +kernel | exact is_ok (by decide +kernel)

/-- A context with a handler address, one in a handler and one in privileged mode. -/
def handled : Ctx := { regs with tvec := 64 }

theorem test_witness_TrapEntry : 3 < 4
    ∧ 0x01 ∉ [0x04, 0x09, 0x0A, 0x0B, 0x0F]
    ∧ (handled.held.any fun h => !h.priv) = false
    ∧ handled.mode.priv = false
    ∧ handled.tvec ≠ 0
    ∧ regs.tvec = 0
    ∧ ¬ 0x0F ∉ [0x04, 0x09, 0x0A, 0x0B, 0x0F]
    ∧ ({ regs with mode := ⟨true, 0, true⟩ } : Ctx).mode.priv = true
    ∧ (busy.held.any fun h => !h.priv) = true
    ∧ busy.mode.priv = false
    ∧ regs.flight.all (fun e => !e.cycles) = true
    ∧ 0 ≠ 1 := by
  and_intros <;> decide +kernel
theorem test_witness_TrapReturn : busy.held = ⟨false, ⟨true, 0, false⟩, [], .nop, [], some 0, none⟩ :: []
    ∧ busy.tpc.toNat = 0
    ∧ ({ busy with tpc := 4 } : Ctx).tpc.toNat ≠ 0
    ∧ ({ busy with held := [⟨true, ⟨true, 0, false⟩, [], .nop, [], some 12, none⟩] } : Ctx).held = ⟨true, ⟨true, 0, false⟩, [], .nop, [], some 12, none⟩ :: []
    ∧ busy.flight = []
    ∧ 3 < 4
    ∧ (user.ctx 0 0).lastLanding = 0 := by
  and_intros <;> decide +kernel

/-! ### Witnesses: memory -/

/-- X1 = 16 and X5 = 10, an address off every alignment; lane 0 alone in M1; segment 1 of four granules and the stack segment of one, both
resident; pipe 0 bound, with one element and room for one more. -/
def storage : State := core0 { CoreState.reset with
  quota := 64
  ovfptr := 512
  segs := [(0, ⟨1, 4, .resident, false, .data, false, false, 0, 0, 1024, [], false⟩), (1, ⟨0xF8, 1, .resident, false, .stack, false, false, 0, 4, 4096, [], false⟩),
    (2, ⟨2, 2, .resident, false, .pipe, false, false, 0, 5, 8192, [], false⟩)]
  pipes := CoreState.reset.pipes.set 0 ⟨some 2, 2, [some (.replicate 64 1)], none, 0⟩
  ctxs := CoreState.reset.ctxs.set 0 { ((((regs.setX 1 16).setX 5 10).setM 1 1).setX 6 1016).setX 7 65536 with run := .running } }
def dataSeg : Seg := ⟨1, 4, .resident, false, .data, false, false, 0, 0, 1024, [], false⟩
def stackSeg : Seg := ⟨0xF8, 1, .resident, false, .stack, false, false, 0, 4, 4096, [], false⟩
def pipeSeg : Seg := ⟨2, 2, .resident, false, .pipe, false, false, 0, 5, 8192, [], false⟩

/-- Address 16 is aligned, 10 is not, 65,536 and an access that crosses into it do not translate. -/
theorem test_witness_ScalarMemoryResults : storage.readP 0 = .ok true
    ∧ storage.readX 1 = .ok 16
    ∧ storage.readX 2 = .ok 3
    ∧ storage.readX 0 = .ok 0
    ∧ storage.locs 0 16 8 true = .ok (countFrom 16 8)
    ∧ storage.locs 0 16 4 false = .ok (countFrom 16 4)
    ∧ storage.readX 5 = .ok 10
    ∧ (10 : Nat) % 8 ≠ 0
    ∧ (10 : Nat) % 4 ≠ 0
    ∧ storage.readX 7 = .ok 65536
    ∧ storage.locs 0 65536 8 true = .error (9, 65536)
    ∧ storage.locs 0 65535 2 false = .error (9, 65536) := by
  and_intros <;> first | decide +kernel | exact is_ok (by decide +kernel) | exact is_error (by decide +kernel)
/-- Offset 1,016 is the last for eight bytes of four granules; offset 256 is the first of the stack segment's overflow. -/
theorem test_witness_SegmentAccessResults : storage.readP 0 = .ok true
    ∧ storage.readX 1 = .ok 16
    ∧ storage.readX 6 = .ok 1016
    ∧ storage.readV 1 = .ok (.replicate 64 0x40000000)
    ∧ storage.readV 2 = .ok (.replicate 64 0)
    ∧ storage.readM 1 = .ok 1
    ∧ storage.segReady 1 0 dataSeg
    ∧ storage.ccs.seg 0 = some dataSeg
    ∧ (1#2).toNat ≤ 1
    ∧ 1016 + 8 ≤ 256 * dataSeg.len
    ∧ ¬ (1017 + 8 ≤ 256 * dataSeg.len)
    ∧ storage.quiet
    ∧ ((List.range 64).filter fun l => (1#64).getLsbD l) = [0]
    ∧ ((0#32).setWidth 64 + storage.issue.step).toNat + 4 ≤ 256 * dataSeg.len
    ∧ [0].find? (fun l => decide (256 * dataSeg.len < ((VReg.lane (.replicate 64 0x40000000) l).setWidth 64 + storage.issue.step).toNat + 4)) = some 0
    ∧ dataSeg.role ≠ .stack
    ∧ storage.segReady 0xF8 1 stackSeg
    ∧ storage.ccs.seg 1 = some stackSeg
    ∧ 256 * stackSeg.len < 255 + 8
    ∧ 255 < 256 * stackSeg.len
    ∧ storage.overflowsTo stackSeg 256 512
    ∧ storage.locs 0 512 256 true = .ok (countFrom 512 256)
    ∧ storage.locs 0 512 8 false = .ok (countFrom 512 8) := by
  and_intros <;> first | decide +kernel | exact is_ok (by decide +kernel)
/-- The stack's overflow path to bytes without an error, and to an address whose page ends 34 lanes on. -/
def overflowing : State := storage.modCcs fun v => { v with ovfptr := 65400 }
theorem test_witness_SegmentAccessResults_overflow : storage.soiled (countFrom 512 256) = none ∧ storage.soiled (countFrom 512 8) = none
    ∧ overflowing.segReady 0xF8 1 stackSeg ∧ overflowing.ccs.seg 1 = some stackSeg ∧ overflowing.overflowsTo stackSeg 256 65400
    ∧ overflowing.locs 0 65400 256 false = .error (9, 65536) ∧ overflowing.locs 0 65400 256 true = .error (9, 65536) ∧ (65536 - 65400) / 4 = 34 := by
  and_intros <;> first | decide +kernel | exact is_error (by decide +kernel)
theorem test_witness_GatherAndScatterResults : storage.readP 0 = .ok true
    ∧ storage.readX 1 = .ok 16
    ∧ storage.readV 1 = .ok (.replicate 64 0x40000000)
    ∧ storage.readV 2 = .ok (.replicate 64 0)
    ∧ storage.readM 1 = .ok 1
    ∧ (∀ l ∈ [0], storage.locs 0 (16#64 + BitVec.ofNat 64 (4 * l)).toNat 4 true = .ok (countFrom 16 4))
    ∧ storage.locs 0 65536 4 false = .error (9, 65536)
    ∧ storage.soiled (countFrom 16 4) = none
    ∧ storage.readX 7 = .ok 65536 :=
  ⟨is_ok (by decide +kernel),
    is_ok (by decide +kernel),
    is_ok (by decide +kernel),
    is_ok (by decide +kernel),
    is_ok (by decide +kernel),
    fun l h => by rw [List.mem_singleton.1 h]; exact is_ok (by decide +kernel),
    is_error (by decide +kernel),
    by decide +kernel,
    is_ok (by decide +kernel)⟩

/-- The image of an empty f32 list of capacity 4 at offset 16, and at offset 528 a header of zeros. -/
def imaged : State := storage.modCcs fun v => v.segWrite 0 16 (leBytes 4 0x00000004)

theorem test_witness_ImagesAndPipes : imaged.readP 0 = .ok true
    ∧ imaged.readK 0 = .ok .launch
    ∧ imaged.readX 1 = .ok 16
    ∧ imaged.readV 1 = .ok (.replicate 64 0x40000000)
    ∧ imaged.segReady 1 0 { dataSeg with dirty := true, data := (imaged.ccs.seg 0).elim [] Seg.data }
    ∧ imaged.ccs.seg 0 = some { dataSeg with dirty := true, data := (imaged.ccs.seg 0).elim [] Seg.data }
    ∧ 16 + 520 ≤ 256 * dataSeg.len
    ∧ 256 * dataSeg.len < 1016 + 520
    ∧ imaged.quiet
    ∧ KType.ofCode (KHeader.ofBytes (imaged.ccs.segRead 0 16 520)).type = some .f32
    ∧ (KHeader.ofBytes (imaged.ccs.segRead 0 16 520)).cap = 4
    ∧ (KHeader.ofBytes (imaged.ccs.segRead 0 16 520)).len = 0
    ∧ (KHeader.ofBytes (imaged.ccs.segRead 0 16 520)).dir = KList.launch.smallest.toNat
    ∧ (KHeader.ofBytes (imaged.ccs.segRead 0 16 520)).type = KList.launch.type.code
    ∧ (KHeader.ofBytes (imaged.ccs.segRead 0 24 520)).cap = 0
    ∧ imaged.ccs.pipes[(0#3).toNat]? = some ⟨some 2, 2, [some (.replicate 64 1)], none, 0⟩
    ∧ imaged.ccs.seg 2 = some pipeSeg
    ∧ (imaged.useSeg 2 pipeSeg).issue.absent = false
    ∧ imaged.ccs.issueSum (imaged.useSeg 2 pipeSeg).issue ≤ imaged.ccs.quota
    ∧ imaged.ccs.pipes[(7#3).toNat]? = some .unbound
    ∧ Pipe.unbound.seg = none := by
  and_intros <;> first | decide +kernel | exact is_ok (by decide +kernel)

/-! ### Witnesses: commands -/

def bigSeg : Seg := ⟨3, 300, .resident, false, .data, false, false, 0, 0, 0, [], false⟩
def smallSeg : Seg := ⟨1, 1, .resident, false, .data, false, false, 0, 300, 0, [], false⟩

/-- X8 to X11: offset 0, one row, its stride and control word 0; X12 the MOUT rows, one from row 255; X16 257 rows. -/
def commanding (mq : List MCmd) : State := core0 { CoreState.reset with
  quota := 400
  mq := mq
  segs := [(0, bigSeg), (1, smallSeg)]
  ctxs := CoreState.reset.ctxs.set 0 { (((((regs.setX 9 1).setX 10 128).setX 13 0x1FF).setX 14 128).setX 17 257) with run := .running } }
def emptyCmd : MCmd := ⟨⟨0, 0, none, none⟩, 0, .mzero 0⟩

/-- A full queue, a segment with room and one without, one row, 257 rows, MOUT of row 255 and of no row. -/
theorem test_witness_MatrixCommandResults : (commanding []).readP 0 = .ok true
    ∧ (commanding []).readX 8 = .ok 0
    ∧ (commanding []).issue.ctx < 4
    ∧ (commanding []).ccs.mq.length < 16
    ∧ 16 ≤ (commanding (.replicate 16 emptyCmd)).ccs.mq.length
    ∧ (commanding (.replicate 16 emptyCmd)).readP 0 = .ok true
    ∧ (commanding []).issue.absent = false
    ∧ (commanding []).ccs.issueSum (commanding []).issue ≤ (commanding []).ccs.quota
    ∧ (commanding []).findSeg 3 .engine = .ok (0, bigSeg)
    ∧ (commanding []).ccs.issueSum ((commanding []).useSegLater 0).issue ≤ (commanding []).ccs.quota
    ∧ (commanding []).findSeg 1 .engine = .ok (1, smallSeg)
    ∧ (commanding []).ccs.issueSum ((commanding []).useSegLater 1).issue ≤ (commanding []).ccs.quota
    ∧ 0 + (MFmt.ofCode 2).imageBytes ≤ 256 * bigSeg.len
    ∧ 256 * smallSeg.len < 0 + (MFmt.ofCode 2).imageBytes
    ∧ (commanding []).readX 9 = .ok 1
    ∧ (commanding []).readX 10 = .ok 128
    ∧ (commanding []).readX 11 = .ok 0
    ∧ (1 ≤ (1#64).toNat ∧ bitsOf 0 7 0 + 1 ≤ 256 ∧ bitsOf 0 15 12 = 0 ∧ bitsOf 0 63 23 = 0 ∧ bitsOf 0 22 16 = 0)
    ∧ 0 + (1 - 1) * 128 + (MFmt.ofCode 2).rowBytes ((commanding []).ccs.latestFmt 0).depth ≤ 256 * smallSeg.len
    ∧ 256 * smallSeg.len < 200 + (1 - 1) * 128 + (MFmt.ofCode 2).rowBytes ((commanding []).ccs.latestFmt 0).depth
    ∧ 0 + (1 - 1) * 128 + (MFmt.ofCode 2).rowBytes (0 + 1) ≤ 256 * smallSeg.len
    ∧ (commanding []).readX 16 = .ok 0
    ∧ (commanding []).readX 17 = .ok 257
    ∧ ¬ ((257 : Nat) ≤ 256)
    ∧ (commanding []).readX 12 = .ok 0
    ∧ (commanding []).readX 13 = .ok 0x1FF
    ∧ (bitsOf 0x1FF 16 8 = 1 ∧ bitsOf 0x1FF 7 0 + 1 ≤ 256 ∧ bitsOf 0x1FF 63 17 = 0)
    ∧ 0 + (1 - 1) * 128 + 128 * drainWidth 3 ≤ 256 * smallSeg.len
    ∧ 256 * smallSeg.len < 129 + (1 - 1) * 128 + 128 * drainWidth 3
    ∧ ¬ (1 ≤ bitsOf 128 16 8) := by
  and_intros <;> first | decide +kernel | exact is_ok (by decide +kernel)

/-- A name that is defined, resident, pinned or not, one that is reserved, and full or empty queues. -/
def managing (smq : List SmReq) : State := core0 { CoreState.reset with
  quota := 64
  smq := smq
  segs := [(0, ⟨1, 4, .resident, false, .data, false, false, 0, 0, 1024, [], false⟩), (1, ⟨2, 4, .absent, true, .data, false, false, 0, 0, 2048, [], false⟩),
    (2, ⟨0xF8, 1, .resident, false, .stack, false, false, 0, 4, 4096, [], false⟩), (3, ⟨0xF9, 4, .absent, false, .data, false, false, 0, 0, 4096, [], false⟩),
    (4, ⟨3, 16300, .absent, false, .data, false, false, 0, 0, 4096, [], false⟩)]
  nextSeg := 5
  ctxs := CoreState.reset.ctxs.set 0 { (((((regs.setX 8 65).setX 9 256).setX 10 0x20004).setX 11 512).setX 12 4) with run := .running } }
def managed : Seg := ⟨1, 4, .resident, false, .data, false, false, 0, 0, 1024, [], false⟩
def pinnedSeg : Seg := ⟨2, 4, .absent, true, .data, false, false, 0, 0, 2048, [], false⟩
def request : SmReq := ⟨⟨0, 0, none, none⟩, .pull 0, [], []⟩
def managingPriv (smq : List SmReq) (tickets : List Ticket) : State :=
  (({ managing smq with issue := priv.issue } : State).modCcs fun v => { v with tickets := tickets })

theorem test_witness_SegmentInstructionResults : (managing []).readP 0 = .ok true
    ∧ (managing []).readX 8 = .ok 65
    ∧ (managing []).readX 9 = .ok 256
    ∧ (managing []).readX 10 = .ok 0x20004
    ∧ (managing []).readX 11 = .ok 512
    ∧ (managing []).issue.absent = false
    ∧ (managing []).ccs.issueSum (managing []).issue ≤ (managing []).ccs.quota
    ∧ 16 ≤ (managing (.replicate 16 request)).ccs.smq.length
    ∧ (managing (.replicate 16 request)).readP 0 = .ok true
    ∧ (managing []).ccs.smq.length < 16
    ∧ segReserved 0xF0 = true
    ∧ segReserved 5 = false
    ∧ (managing []).ccs.segNamed 5 = none
    ∧ ((1 ≤ bitsOf 0x20004 16 0 ∧ bitsOf 0x20004 16 0 ≤ 65536 ∧ bitsOf 0x20004 19 17 = 1 ∧ bitsOf 0x20004 63 24 = 0 ∧ bitsOf 0x20004 22 20 = 0))
    ∧ ((CoreState.reset.pipes[0]?).getD Pipe.unbound).seg = none
    ∧ ((512 : X64).toNat ≠ 0 ∧ (512 : X64).toNat % 256 = 0 ∧ (512 : X64).toNat < 2 ^ 55)
    ∧ (managing []).ccs.nextSeg ∉ (managing []).issue.knownSet
    ∧ (managing []).ccs.setSum (managing []).issue.knownSet + bitsOf 0x20004 16 0 ≤ (managing []).ccs.quota
    ∧ (managing []).ccs.quota < (managing []).ccs.setSum (managing []).issue.knownSet + bitsOf 65 16 0
    ∧ (managing []).ccs.quota < (managing []).ccs.issueSum ((managing []).useSegLater 4).issue
    ∧ ((1 ≤ bitsOf 65 16 0 ∧ bitsOf 65 16 0 ≤ 65536 ∧ bitsOf 65 19 17 = 0 ∧ bitsOf 65 63 24 = 0 ∧ bitsOf 65 22 20 = 0))
    ∧ (managing []).ccs.segNamed 1 = some (0, managed)
    ∧ (managing []).ccs.issueSum ((managing []).useSegLater 0).issue ≤ (managing []).ccs.quota
    ∧ 1 ∉ [0xF8, 0xFE, 0xFF]
    ∧ managed.pinned = false
    ∧ (managing []).ccs.pinnedTotal + managed.len + (managing []).ccs.quota ≤ storeGranules ((managing []).core 0).cacheKiB
    ∧ (managing []).ccs.segNamed 2 = some (1, pinnedSeg)
    ∧ (managing []).ccs.issueSum ((managing []).useSegLater 1).issue ≤ (managing []).ccs.quota
    ∧ pinnedSeg.pinned = true
    ∧ storeGranules ((managing []).core 0).cacheKiB < (managing []).ccs.pinnedTotal + 16300 + (managing []).ccs.quota
    ∧ ((managing []).ccs.segNamed 3).map (·.2.len) = some 16300
    ∧ ((managing []).ccs.segNamed 0xF8).isSome
    ∧ ((managing []).ccs.segNamed 0xF9).isSome
    ∧ (∃ r ∈ [({ request with op := .pin 0 } : SmReq)], r.op = .pin 0)
    ∧ (∀ r ∈ (managing (.replicate 15 request)).ccs.smq, r.op ≠ .pin 0)
    ∧ (managed.len < 2 ^ 17 ∧ managed.pipe < 8)
    ∧ (managing []).issue.mode.priv = false
    ∧ (managingPriv [] []).issue.mode.priv = true
    ∧ (managingPriv [] []).readX 12 = .ok 4
    ∧ (managingPriv [] []).readX 0 = .ok 0
    ∧ 16 ≤ (managingPriv (.replicate 16 request) []).ccs.smq.length
    ∧ ((managingPriv [] []).ccs.pinnedTotal + (managingPriv [] []).ccs.tickets.foldl (fun n t => Nat.max n ((managingPriv [] []).ccs.setSum (t.cmd.foldl addTo t.bundle) + t.extra)) 0
      ≤ storeGranules 0)
    ∧ (managingPriv [] []).readX 2 = .ok 3
    ∧ (let s := managingPriv [] [⟨0, [], [4], true, false, [], false, false, false, false, 0⟩]
      storeGranules ([0, 256, 512, 1024].getD 3 0) < s.ccs.pinnedTotal + s.ccs.tickets.foldl (fun n t => Nat.max n (s.ccs.setSum (t.cmd.foldl addTo t.bundle) + t.extra)) 0) := by
  and_intros <;> first | decide +kernel | exact is_ok (by decide +kernel)

/-- A descriptor of a ferry packet for `n` bytes of global memory at `va` (R229). -/
def globalDesc (va n : Nat) : Nat := va + 2 * 2 ^ 61 + n * 2 ^ 64 + 2 ^ 96 + 2 ^ 112
/-- COPY of 64 bytes from address 0 to address 4,096 (R228). -/
def copyPacket : Nat := 1 + 2 ^ 32 * globalDesc 0 64 + 2 ^ 224 * globalDesc 4096 64
/-- Two words for word 0 of pier 0 (R252); the record of a task of one grain (R260); a core counter's descriptor, one of a range of segment 5,
and a global counter's of 64 bytes (R317). -/
def loadPacket : Nat := 1 + 2 ^ 32 + 2 * 2 ^ 104
def taskRecord : Nat := 4 * 2 ^ 64 + 2 ^ 192 + 2 ^ 251
def coreDescriptor : Nat := 5 + 2 ^ 55 + 64 * 2 ^ 64 + 64 * 2 ^ 96 + 3 * 2 ^ 144
def globalDescriptor : Nat := 64 * 2 ^ 64 + 64 * 2 ^ 96 + 3 * 2 ^ 144

/-- Bytes from an offset, those of value 0 left out. -/
def placeBytes (off : Nat) (bs : List Byte) : Tab Byte := (bs.zipIdx.map fun e => (off + e.2, e.1)).filter fun e => e.2 != 0

/-- The packets at offsets 0, 128, 256, 384, 512 and 576 of segment 4; a malformed packet of ones at 640; at 704 a command to pier 1 and at
768 a load of piers 0 and 1, of which partition 1 has pier 0. X8 to X13 hold the offsets, X15 and X17 counter 0 of the core and of site 0
after descriptor offsets. -/
def engine (armed : Bool) : State :=
  { core0 { CoreState.reset with
      quota := 64
      segs := [(0, ⟨4, 8, .resident, false, .data, false, false, 0, 0, 0, placeBytes 0 (leBytes 64 copyPacket) ++ placeBytes 256 (leBytes 64 loadPacket)
          ++ placeBytes 384 (leBytes 64 taskRecord) ++ placeBytes 512 (leBytes 32 coreDescriptor) ++ placeBytes 576 (leBytes 32 globalDescriptor)
          ++ placeBytes 640 (List.replicate 64 0xFF) ++ placeBytes 704 (leBytes 64 256) ++ placeBytes 768 (leBytes 64 (loadPacket + 2 ^ 33)), false⟩),
        (1, ⟨5, 1, .resident, false, .landing, false, false, 0, 8, 4096, [], false⟩)]
      ctxs := CoreState.reset.ctxs.set 0 { (((((((((((((regs.setX 8 0).setX 9 128).setX 10 256).setX 11 384).setX 12 640).setX 14 512).setX 15 0x8000).setX 16
        576).setX 17 0).setX 18 0x8001).setX 20 640).setX 21 704).setX 22 768) with run := .running, armed := armed } } with
    pierOwner := [(0, 1)], landingOwner := [(0, 1)] }
def engineSeg (s : State) : Seg := (s.ccs.seg 0).getD dataSeg

def engineFull : State := core0 { CoreState.reset with fq := .replicate 32 ⟨⟨0, 0, none, none⟩, .ring 0, 0, none, none⟩, outbox := .replicate 16 ⟨⟨⟨0, 0, none, none⟩, 0, 1, .load 0 [] none⟩, []⟩ }

theorem test_witness_EngineCommandResults : (engine true).readP 0 = .ok true
    ∧ (engine true).readX 8 = .ok 0
    ∧ (engine true).readX 9 = .ok 128
    ∧ (engine true).readX 10 = .ok 256
    ∧ (engine true).readX 11 = .ok 384
    ∧ (engine true).readX 12 = .ok 640
    ∧ ((engine true).issue.absent = false ∧ (engine true).issue.ctx < 4)
    ∧ engineFull.readP 0 = .ok true
    ∧ (32 ≤ engineFull.ccs.fq.length ∧ 16 ≤ engineFull.ccs.outbox.length)
    ∧ (engine true).findSeg 4 .engine = .ok (0, engineSeg (engine true))
    ∧ ((engineSeg (engine true)).state = .resident ∧ 640 + 64 ≤ 256 * (engineSeg (engine true)).len)
    ∧ ((engine true).ccs.fq.length < 32 ∧ (engine true).ccs.outbox.length < 16)
    ∧ (packetBad (leNat ((engine true).ccs.segRead 0 640 64)) = some 0 ∧ pierPacketBad (leNat ((engine true).ccs.segRead 0 640 64)) = some 4 ∧ pierLoadBad (leNat ((engine true).ccs.segRead 0 640 64)) = some 16 ∧ recordBad (leNat ((engine true).ccs.segRead 0 640 64)) ≠ none)
    ∧ (packetBad (leNat ((engine true).ccs.segRead 0 0 64)) = none ∧ fCr (leNat ((engine true).ccs.segRead 0 0 64)) = false)
    ∧ (engine true).packetSegs 0 (leNat ((engine true).ccs.segRead 0 0 64)) = .ok (none, none)
    ∧ (engine true).ccs.issueSum ((((engine true).useSeg 0 (engineSeg (engine true))).useSegOpt none).useSegOpt none).issue ≤ (engine true).ccs.quota
    ∧ (pierPacketBad (leNat ((engine true).ccs.segRead 0 128 64)) = none ∧ bitOf (leNat ((engine true).ccs.segRead 0 128 64)) 49 = false)
    ∧ ((engine true).pierOwner.get 0 = some 1 ∧ (engine true).partOf 0 = 1 ∧ (engine true).pierOwner.get 1 = none)
    ∧ (engine true).readX 21 = .ok 704
    ∧ (pierPacketBad (leNat ((engine true).ccs.segRead 0 704 64)) = none
      ∧ (engine true).pierOwner.get (64 * bitsOf (leNat ((engine true).ccs.segRead 0 704 64)) 3 0 + bitsOf (leNat ((engine true).ccs.segRead 0 704 64)) 13 8) ≠ some 1)
    ∧ (engine true).readX 22 = .ok 768
    ∧ (pierLoadBad (leNat ((engine true).ccs.segRead 0 768 64)) = none
      ∧ (loadPiers (leNat ((engine true).ccs.segRead 0 768 64))).find? (fun n => decide ((engine true).pierOwner.get n ≠ some 1)) = some 1)
    ∧ (engine true).ccs.sound 0 = true
    ∧ (pierLoadBad (leNat ((engine true).ccs.segRead 0 256 64)) = none ∧ bitsOf (leNat ((engine true).ccs.segRead 0 256 64)) 112 104 = 2 ∧ loadPiers (leNat ((engine true).ccs.segRead 0 256 64)) = [0])
    ∧ (engine true).segReady 4 0 (engineSeg (engine true))
    ∧ (engine true).ccs.isResident 0 = true
    ∧ (recordBad (leNat ((engine true).ccs.segRead 0 384 64)) = none ∧ recQuad (leNat ((engine true).ccs.segRead 0 384 64)) (quadOf 0) = 0 ∧ (engine true).room 0 1 = true)
    ∧ ({ engine true with quads := [(0, { Quad.reset with queue := .replicate 64 ⟨0, 1, 0, 0, 0⟩, ringCap := 0 })] } : State).room 0 1 = false
    ∧ (engine true).readX 15 = .ok 0x8000
    ∧ (engine true).namedCounter 0x8000 = .ok 0x8000
    ∧ ((engine true).counter 0x8000 0).state ≠ .armed
    ∧ (((engine true).setCounter 0x8001 0 { Landing.idle with state := .armed }).counter 0x8001 0).state = .armed
    ∧ descriptorBad (leNat ((engine true).ccs.segRead 0 512 32)) true = none
    ∧ descriptorBad (leNat ((engine true).ccs.segRead 0 640 32)) true ≠ none
    ∧ (engine true).rangeSeg (leNat ((engine true).ccs.segRead 0 512 32)) = .ok 1
    ∧ (engine true).ccs.issueSum (((engine true).useSeg 0 (engineSeg (engine true))).useSegLater 1).issue ≤ (engine true).ccs.quota
    ∧ (engine true).readX 17 = .ok 0
    ∧ (engine true).namedCounter 0 = .ok 0
    ∧ descriptorBad (leNat ((engine true).ccs.segRead 0 576 32)) false = none
    ∧ (engine true).rangePages (bitsOf globalDescriptor 95 64 / 65536 + 2) (bitsOf globalDescriptor 54 0) (bitsOf globalDescriptor 54 0 + bitsOf globalDescriptor 95 64) = .ok [(0, 64, 0)]
    ∧ ((engine true).cx.armed = true ∧ (engine false).cx.armed = false) := by
  and_intros <;> first | decide +kernel | exact is_ok (by decide +kernel)

/-- Landing counters: a range of 64 bytes from 0 and a TOTAL of 64, with an action; of a segment of identity 1 or of a page at location 0. -/
def counting (act aw av : Nat) : BitVec 256 := BitVec.ofNat 256 (64 * 2 ^ 64 + 64 * 2 ^ 96 + act * 2 ^ 144 + aw * 2 ^ 160 + av * 2 ^ 192)
def counter (act aw av : Nat) : Landing := { Landing.idle with bits := counting act aw av, state := .armed, core := 0, part := 1, pages := [(0, 64, 0)] }
def segCounter (base aw : Nat) : Landing :=
  { counter 3 aw 77 with bits := counting 3 aw 77 ||| BitVec.ofNat 256 (2 ^ 55 + base * 2 ^ 8), seg := 0 }

/-- One byte below TOTAL, TOTAL, and twice TOTAL under REARM. -/
theorem test_witness_EngineCommandResults_counted : (counter 0 0 0).state = .armed ∧ (counter 0 0 0).total ≠ 0 ∧ Landing.idle.state = .idle
    ∧ ({ counter 0 0 0 with state := .fired } : Landing).state = .fired
    ∧ min ((counter 0 0 0).count + 63) (2 ^ 48 - 1) < (counter 0 0 0).total ∧ (counter 0 0 0).rearm = false
    ∧ (counter 0 0 0).total ≤ min ((counter 0 0 0).count + 64) (2 ^ 48 - 1) ∧ ({ counter 0 0 0 with rearm := true } : Landing).rearm = true
    ∧ 2 * (counter 0 0 0).total ≤ min ((counter 0 0 0).count + 128) (2 ^ 48 - 1)
    ∧ min ((counter 0 0 0).count + 128) (2 ^ 48 - 1) < (2 + 1) * (counter 0 0 0).total := by decide +kernel

/-- Counter 0 of core 0 over segment 0, and counter 0 of site 0. -/
def counted : State :=
  { (core0 { CoreState.reset with segs := [(0, dataSeg)], landing := [(0, segCounter 0 0)] }) with sites := [(0, { Site.reset with landing := [(0, { counter 3 2 77 with count := 62 })] })] }

/-- Eight bytes in the range of the first fire nothing and 64 fire it; the last two bytes that the other counts fire it, two beside its
range nothing. -/
theorem test_witness_EngineCommandResults_store : counted.actions = [] ∧ (counted.cs 0).landing = [(0, segCounter 0 0)] ∧ 0x8000 = 0x8000 + 0
    ∧ (counted.putSeg 0 0 0 (List.replicate 8 1) none).actions = []
    ∧ (counted.putSeg 0 0 0 (List.replicate 64 1) none).actions = [.fire 0x8000 1 (segCounter 0 0)]
    ∧ (counted.putGlobal (countFrom 62 2) [1, 1] none).actions = [.fire 0 1 { counter 3 2 77 with count := 62 }]
    ∧ (counted.putGlobal (countFrom 64 2) [1, 1] none).actions = []
    ∧ (State.doAction { counted with actions := [] } (.fire 0x8000 1 (segCounter 0 0))).actions = []
    ∧ (counted.cs 0).landingWaits 0x8000 = false ∧ counted.partState 0 1 = some (counted.cs 0) := by and_intros <;> decide +kernel

/-- A task record at address 64 and bytes of zeros at 128, which are none, of partition 1; core 1 has no partition, core 2 has partition 1 in shadow storage. -/
def acting (barriers : List Barrier) : State :=
  let s := core0 { CoreState.reset with segs := [(0, dataSeg), (1, { dataSeg with state := .absent })] }
  { s with
    mem := [(0, 7), (8, 1)] ++ placeBytes 64 (leBytes 64 taskRecord)
    barriers := barriers
    partitions := [(1, ⟨0, 8, 64, [0], 1, none, 0, [], false⟩)]
    cores := s.cores ++ [(2, { Core.reset with cur := { CoreState.reset with part := some 2 }, shadow := some { CoreState.reset with part := some 1 } })] }

/-- Each action: ARRIVE before and after an arrival of its own; POST of a record, of none and at no address; SIGNAL to cores 0, 1 and 2; WRITE
to global memory and beyond it; WRITE into a segment, beyond it and before it, and into one that is not RESIDENT. -/
theorem test_witness_EngineCommandResults_actions : (counter 0 (1 + 3 * 8) 0).act = 0 ∧ (counter 0 25 0).barKey = ⟨1, 0, 3, 1⟩
    ∧ (0, 0) ∉ ((acting []).barrier ⟨1, 0, 3, 1⟩).landings ∧ (0, 0) ∈ ((acting [⟨⟨1, 0, 3, 1⟩, [], none, [(0, 0)], []⟩]).barrier ⟨1, 0, 3, 1⟩).landings
    ∧ (counter 1 0 64).act = 1 ∧ (acting []).partLocs 1 (counter 1 0 64).av.toNat 64 false = .ok (countFrom 64 64)
    ∧ (acting []).partLocs 1 (counter 1 0 128).av.toNat 64 false = .ok (countFrom 128 64)
    ∧ (acting []).soiled (countFrom 64 64) = none ∧ recordBad (leNat ((acting []).bytesAt (countFrom 64 64)) % 2 ^ 512) = none
    ∧ (recordBad (leNat ((acting []).bytesAt (countFrom 128 64)) % 2 ^ 512)).isSome
    ∧ (acting []).partLocs 1 (counter 1 0 (2 ^ 30)).av.toNat 64 false = .error (9, 2 ^ 30)
    ∧ (counter 2 (5 * 2 ^ 9) 0).act = 2 ∧ bitsOf (counter 2 (5 * 2 ^ 9) 0).aw 8 0 = 0 ∧ ((acting []).cs 0).part = some 1
    ∧ bitsOf (counter 2 1 0).aw 8 0 = 1 ∧ (acting []).partState 1 1 = none
    ∧ bitsOf (counter 2 2 0).aw 8 0 = 2 ∧ (acting []).partState 2 1 = some { CoreState.reset with part := some 1 } ∧ ((acting []).cs 2).part ≠ some 1
    ∧ (counter 3 2 77).act = 3 ∧ (counter 3 2 77).sp = false ∧ (acting []).partLocs 1 16 8 true = .ok (countFrom 16 8)
    ∧ (((((counter 3 2 77).base / 8 * 8 : Nat) : Int) + 8 * sextNat 32 (counter 3 2 77).aw) % (2 ^ 64 : Nat)).toNat = 16
    ∧ (((((counter 3 (2 ^ 27) 77).base / 8 * 8 : Nat) : Int) + 8 * sextNat 32 (counter 3 (2 ^ 27) 77).aw) % (2 ^ 64 : Nat)).toNat = 2 ^ 30
    ∧ (acting []).partLocs 1 (2 ^ 30) 8 true = .error (9, 2 ^ 30)
    ∧ (segCounter 0 127).sp = true ∧ (segCounter 0 127).act = 3 ∧ ((acting []).cs 0).seg 0 = some dataSeg ∧ dataSeg.state = .resident
    ∧ (0 : Int) + 8 * sextNat 32 (segCounter 0 127).aw + 8 ≤ 256 * dataSeg.len
    ∧ (256 * dataSeg.len : Int) < 0 + 8 * sextNat 32 (segCounter 0 128).aw + 8
    ∧ ((bitsOf (segCounter 8 (2 ^ 32 - 2)).base 39 8 / 8 * 8 : Nat) : Int) + 8 * sextNat 32 (segCounter 8 (2 ^ 32 - 2)).aw < 0
    ∧ ((acting []).cs 0).seg 1 = some { dataSeg with state := .absent } := by
  and_intros <;> first | decide +kernel | exact is_ok (by decide +kernel) | exact is_error (by decide +kernel)

/-! ### Witnesses: piers and contexts -/

/-- A page table at location 0 with its root at 8: addresses 0x20000 to 0x2FFFF are the CHANNEL page of channel 0 of site 0, location 0; all
others fail. -/
def tableBytes : Memory := [(0, 1), (8, 1), (16, 7), (21, 0x20)]
def tabled (v : CoreState) : State :=
  { core0 { v with ptbase := 8 } with mem := tableBytes, partitions := [(1, ⟨0, 8, 64, [0], 1, none, 0, [], false⟩)] }

/-- Pier 0 runs a command of partition 1 whose next word is 5; Q0 lies in the page of its channel and Q1 outside. -/
def pierCmd : PierCmd := ⟨⟨0, 0, none, none⟩, 0, 1, .cmd 3 [7, 9] none none 0⟩
def pierRun : PierRun := ⟨pierCmd, 5, none, [], []⟩
def pierA : Pier := { Pier.reset with run := some pierRun, q := Pier.reset.q.set 0 0x20000 }
def piersState : State := { tabled CoreState.reset with piers := [(0, pierA)] }

/-- Each boundary of the fields: bodies of 251 and 252 words after word 5, K of 2,048 and 2,049, sixteen accumulators from 0 and from 1. -/
theorem test_witness_PierInstructionResults : piersState.pier piersState.issue.pier = pierA
    ∧ pierA.run = some pierRun
    ∧ pierRun.body = none
    ∧ (251#8) ≠ 0
    ∧ 5 + (251#8).toNat ≤ 256
    ∧ 256 < 5 + (252#8).toNat
    ∧ 0 < (1#13).toNat
    ∧ ({ pierRun with body := some (3, 6) } : PierRun).body.isSome
    ∧ pierRun.cmd.op = .cmd 3 [7, 9] none none 0
    ∧ (1#10) ≠ 0
    ∧ (2047#12).toNat < 2048
    ∧ 2048 ≤ (2048#12).toNat
    ∧ (match piersState.pierBytes pierRun (pierA.getQ 0) (pierA.k * 2) with | .ok e => e.2 == piersState.bytesAt (countFrom 0 64) | .error _ => false) = true
    ∧ piersState.pierBytes pierRun (pierA.getQ 1) (pierA.k * 2) = .error 10
    ∧ (match piersState.pierBytes pierRun (pierA.getQ 0) ((pierA.k + 1) / 2 + (pierA.k + 31) / 32) with | .ok e => e.2 == piersState.bytesAt (countFrom 0 17) | .error _ => false) = true
    ∧ piersState.pierBytes pierRun (pierA.getQ 1) ((pierA.k + 1) / 2 + (pierA.k + 31) / 32) = .error 10
    ∧ (1 ≤ (16#5).toNat ∧ (16#5).toNat ≤ 16 ∧ (0#4).toNat + (16#5).toNat ≤ 16)
    ∧ ¬ ((1#4).toNat + (16#5).toNat ≤ 16)
    ∧ ¬ (1 ≤ (0#5).toNat)
    ∧ piersState.partitions.get 1 = some ⟨0, 8, 64, [0], 1, none, 0, [], false⟩
    ∧ piersState.xlateAll none 0 8 true (pierAddrs (pierA.getQ 0) 64) = .ok (countFrom 0 64)
    ∧ piersState.xlateAll none 0 8 true (pierAddrs (pierA.getQ 1) 4) = .error (10, 0)
    ∧ pierA.loaded = none
    ∧ pierA.done = []
    ∧ ({ pierA with done := [⟨pierCmd, 0, [], []⟩] } : Pier).done ≠ []
    ∧ ({ pierA with loaded := some (0, 1, 7) } : Pier).loaded = some (0, 1, 7)
    ∧ piersState.loadOwed 0 1 7 = false
    ∧ ({ piersState with piers := [(0, pierA), (1, { Pier.reset with queue := [⟨⟨7, 0, none, none⟩, 0, 1, .load 0 [] none⟩] })] } : State).loadOwed 0 1 7 = true
    ∧ (1#8) ≠ 0
    ∧ (7#4).toNat < 8
    ∧ 8 ≤ (8#4).toNat := by
  and_intros <;> first | decide +kernel | exact is_ok (by decide +kernel) | exact is_error (by decide +kernel)

/-- A context that stopped at address 12. -/
def stopped (c : StopCause) : State := ctx0 { regs with stop := some ⟨c, 12, 2⟩, tpc := 20, tinfo := BitVec.ofNat 64 (3 * 2 ^ 51) }
def withX (c : Ctx) : Ctx := { c with run := .running }
def loaded (l : Load) : State := ctx0 { regs with loads := [l] }
def loadOf (k : LoadKind) : Load := ⟨4, 0, k, [(.x 1, .x 7)], 0, 0, 0, false, false⟩
/-- A context that reads address 0x20000 for 1 in WAITW: the word there is 1; address 0 fails. -/
def rereading (va : Nat) (w : X64) : State :=
  tabled { CoreState.reset with ctxs := CoreState.reset.ctxs.set 0 { regs with run := .running, wait := .waitw va w } }
/-- All four contexts ready, context 3 having run its limit. -/
def pressed : State := core0 { CoreState.reset with runCount := 65536, ctxs := .replicate 4 { regs with run := .running } }
def barred : Ctx := { regs with arrivals := [⟨⟨1, 0, 3, 1⟩, none⟩], barto := 5, barCycles := 6, barAt := (8, 0) }
def overrun : Ctx := { regs with run := .running, region := some 5, nprlim := 5, wouldIssue := true }
/-- The same at the bundle of `placed`, and with a BANKSW whose sum differs. -/
def overrunning : State := core0 { placed.cs 0 with ctxs := CoreState.reset.ctxs.set 0 overrun }
def overrunBank : Ctx := { overrun with bank := some ⟨0, 0, 6, 7, 5⟩ }
/-- A gang whose member 0 has parked. -/
def parkedGang : CoreState :=
  { CoreState.reset with gang := some ⟨0, [0, 1, 2], false, [], false⟩, ctxs := CoreState.reset.ctxs.set 0 { regs with parked := true } }

theorem test_witness_ContextEvents : (stopped .trap).ctx 0 0 = { regs with run := .running, stop := some ⟨.trap, 12, 2⟩, tpc := 20, tinfo := BitVec.ofNat 64 (3 * 2 ^ 51) }
    ∧ ((stopped .service).ctx 0 0).stop = some ⟨.service, 12, 2⟩
    ∧ ((stopped .nested).ctx 0 0).stop = some ⟨.nested, 12, 2⟩
    ∧ ((stopped .preempt).ctx 0 0).stop = some ⟨.preempt, 12, 2⟩
    ∧ ((stopped .trap).ctx 0 0).flaws = []
    ∧ (0xC00 ≤ (0xC00#17).toNat ∧ (0xFFC#17).toNat < 0x1000 ∧ (0xFFC#17).toNat % 4 = 0)
    ∧ (47#6).toNat < 48
    ∧ ((user.ctx 0 0).stop = none ∧ (user.cs 0).gang = none ∧ (user.ctx 0 0).region = none)
    ∧ ((ctx0 overrun).ctx 0 0).region.isSome
    ∧ (let v := (core0 { CoreState.reset with gang := some ⟨0, [0, 1, 2], false, [], false⟩ }).cs 0; v.gang = some ⟨0, [0, 1, 2], false, [], false⟩ ∧ [0, 1, 2].contains 0 = true ∧ (v.ctx 0).parked = false ∧ (v.ctx 0).stop = none)
    ∧ (parkedGang.gang = some ⟨0, [0, 1, 2], false, [], false⟩ ∧ [0, 1, 2].contains 0 = true ∧ (parkedGang.ctx 0).parked = true ∧ (parkedGang.ctx 0).stop = none)
    ∧ ((loaded (loadOf .memory)).ctx 0 0).loads.find? (fun m => m.id == 4) = some (loadOf .memory)
    ∧ ((loadOf .memory).kind = .memory ∧ (loadOf .memory).bad = false ∧ (loadOf .memory).err = false ∧ (loadOf .segment).kind = .segment)
    ∧ (∀ kind ∈ [LoadKind.isum, .tknext, .sgstat, .ldread], ((loaded (loadOf kind)).ctx 0 0).loads.find? (fun m => m.id == 4) = some (loadOf kind)
      ∧ (loadOf kind).due ≤ (loaded (loadOf kind)).cycle.toNat)
    ∧ (((banking 5 6).ctx 0 0).bank = some ⟨0, 0, 6, 7, 5⟩ ∧ 5 ≤ (banking 5 6).cycle.toNat ∧ (6#32) ≠ 7 ∧ ((banking 5 6).ctx 0 0).run = .running ∧ ((banking 5 6).ctx 0 0).stop = none ∧ ((banking 5 6).ctx 0 0).frozen = false
      ∧ ((banking 5 6).ctx 0 0).swapStop = false ∧ ((banking 5 6).ctx 0 0).region = none)
    ∧ (overrunBank.bank = some ⟨0, 0, 6, 7, 5⟩ ∧ overrunBank.run = .running ∧ overrunBank.stop = none ∧ overrunBank.frozen = false ∧ overrunBank.swapStop = false
      ∧ overrunBank.region = some 5 ∧ overrunBank.nprlim ≤ 5 ∧ overrunBank.held = [])
    ∧ (65536 ≤ (pressed.cs 0).runCount ∧ ((pressed.cs 0).ctx (pressed.cs 0).lastIssuer).rep = 0 ∧ (∃ j < 4, j ≠ (pressed.cs 0).lastIssuer ∧ ((pressed.cs 0).ctx j).looksReady = true ∧ ((pressed.cs 0).ctx j).readyAt ≤ pressed.cycle.toNat))
    ∧ (barred.arrivals ≠ [] ∧ barred.barto ≠ 0 ∧ barred.barto.toNat < barred.barCycles ∧ barred.stop = none ∧ barred.frozen = false)
    ∧ (let x := ({ regs with wait := .sync, waitto := 5, waitCycles := 5 } : Ctx); x.wait = .sync ∧ x.waitto ≠ 0 ∧ x.waitto.toNat ≤ x.waitCycles ∧ x.waitCounted = false)
    ∧ (({ regs with wait := .waits } : Ctx).wait = .waits ∧ ({ regs with wait := .waitw 8 3 } : Ctx).wait = .waitw 8 3)
    ∧ (overrunning.ctx 0 0 = overrun ∧ overrun.region = some 5 ∧ overrun.nprlim ≤ 5 ∧ overrun.held = [] ∧ overrun.wouldIssue = true)
    ∧ (overrunning.cs 0).fetch overrun = .ok placedBundle
    ∧ (placedBundle.check overrun.mode.priv (overrunning.feature 0) = none ∧ holdsNpre placedBundle.views = false ∧ overrunning.syncWaits 0 placedBundle = false)
    ∧ (((rereading 0x20000 1).ctx 0 0).wait = .waitw 0x20000 1 ∧ ((rereading 0x20000 1).ctx 0 0).run = .running ∧ ((rereading 0x20000 1).ctx 0 0).stop = none ∧ ((rereading 0x20000 1).ctx 0 0).frozen = false ∧ ((rereading 0x20000 1).ctx 0 0).waitwEnded = false)
    ∧ (rereading 0x20000 1).locs 0 0x20000 8 false = .ok (countFrom 0 8)
    ∧ (rereading 0x20000 1).soiled (countFrom 0 8) = none
    ∧ (({ rereading 0x20000 1 with flaws := [0] } : State).soiled (countFrom 0 8)).isSome
    ∧ leNat ((rereading 0x20000 1).bytesAt (countFrom 0 8)) = (1 : X64).toNat
    ∧ leNat ((rereading 0x20000 1).bytesAt (countFrom 0 8)) ≠ (2 : X64).toNat
    ∧ (rereading 0x30000 1).locs 0 0x30000 8 false = .error (9, 0x30000) := by
  and_intros <;> first | decide +kernel | exact is_ok (by decide +kernel) | exact is_error (by decide +kernel)

/-- The image header of an empty f32 list of capacity 4 and one of capacity 0; a member parked inside its region. -/
theorem test_witness_ContextEvents_lists : (let h := KHeader.ofBytes (leBytes 8 (4#64).toNat)
      KType.ofCode h.type = some .f32 ∧ 1 ≤ h.cap ∧ h.cap ≤ 64 ∧ h.len ≤ 64 ∧ h.dir ≤ 1)
    ∧ ¬ (1 ≤ (KHeader.ofBytes (leBytes 8 (0#64).toNat)).cap) ∧ (0x1B#8).toNat ∈ countFrom 0x18 8
    ∧ (0x09#8).toNat ∉ [0x0B, 0x0C, 0x30, 0x31, 0x32, 0x33, 0x34] ++ countFrom 0x18 8
    ∧ ({ regs with parked := true, region := some 3 } : Ctx).region.isSome = true := by decide +kernel

/-- NPR_OVERRUN on the agenda, at a bundle that would issue. -/
def overrunAsked : State := { overrunning with agenda := [.nprOverrun 0 0] }
theorem test_witness_StepTakesOutsideFirst_overrun : overrunAsked.agenda = .nprOverrun 0 0 :: []
    ∧ (let u : State := { overrunAsked with agenda := [] }
      let v := u.modCtx 0 0 fun x => { x with wouldIssue := u.wouldIssue 0 0 }
      exec (.nprOverrun 0 0) v = .next (after (exec (.nprOverrun 0 0) v))) :=
  ⟨by decide +kernel, is_next (by decide +kernel)⟩

/-! ### Witnesses: events of engines and the supervisor -/

/-- A task record: 0 to 16 in grains of 4, entry 8, TKID 7; of a gang with entries 12 and 16. -/
def taskBits (gang : Bool) : BitVec 512 :=
  BitVec.ofNat 512 (16 * 2 ^ 64 + 4 * 2 ^ 192 + 8 * 2 ^ 224 + 7 * 2 ^ 448 + if gang then 2 ^ 243 + 12 * 2 ^ 256 + 16 * 2 ^ 273 else 0)
def record (gang : Bool) : QueueRec := ⟨taskBits gang, 1, 3, 0, 0⟩
def aTask : Task := ⟨taskBits false, 1, 1⟩
def aTag : CmdTag := ⟨5, 0, some 2, some (4, 1)⟩
/-- Quad 0 as given; contexts 0 to 2 of core 0 idle in TKWAIT, context 3 with a part of a task: 0 to 16 in grains of 4. -/
def posting (q : Quad) : State :=
  let idle : Ctx := { regs with run := .idle }
  { core0 { CoreState.reset with ctxs := (Vector.replicate 4 idle).set 3 { idle with run := .running, task := some 0, tkhi := 16, tkgrain := 4 } } with
    cycle := 65536, quads := [(0, q)], tasks := [(0, aTask)], nextTask := 1 }
/-- Core 1 as core 0 of the first, of the same quad. -/
def doubled : State := let s := posting { Quad.reset with queue := [record true] }; { s with cores := s.cores ++ [(1, s.core 0)] }
def queued (gang : Bool) : Quad := { Quad.reset with queue := [record gang] }
def ringed : Quad := { Quad.reset with rings := [(1, [record false])] }
def posted : Quad := { Quad.reset with posts := [⟨0, 1, taskBits false, none⟩, ⟨0, 1, taskBits false, some (0, aTag)⟩] }
def orphaned : Quad := { Quad.reset with orphans := [(0, 4, 8)] }
/-- A gang whose three contexts wait on pipes, pipe 1 of two granules full. -/
def blockedGang (free : Nat) : State :=
  let x (w : WaitReason) : Ctx := { regs with run := .running, wait := w }
  core0 { CoreState.reset with
    gang := some ⟨0, [0, 1, 2], false, [], false⟩
    poolFree := free
    pipes := CoreState.reset.pipes.set 1 ⟨some 2, 2, [some (.replicate 64 1), some (.replicate 64 2)], none, 0⟩
    ctxs := ((((Vector.replicate 4 regs).set 0 (x (.pipePut 1))).set 1 (x .sync)).set 2 (x (.pipeGet 0))) }
def failing (va : Nat) : State := { tabled CoreState.reset with failedWrites := [(1, va, 9, none)] }
def armWaiting : State := ctx0 { regs with wait := .arm }
/-- A held landing write of 77 at an offset of the data segment. -/
def heldWrite (off : Int) : State := core0 { CoreState.reset with
  segs := [(0, dataSeg)], heldActions := [.segWrite 0 0x8003 0 off 77 none] }
/-- A launch vector of core 0 but for its first word: X1 = 21. -/
def launching : State := { core0 { CoreState.reset with quota := 64 } with
  host := { HostSide.reset with ready := true, window := placeBytes 0x10008 (leBytes 8 21) } }
def vector (entry : Nat) : X64 := BitVec.ofNat 64 (entry + 3 * 2 ^ 20 + 2 ^ 24)
def monitored : State := let t := core0 { CoreState.reset with mon := { Monitors.zero with issued := 5 } }
  { t with mem := [(0, 7), (8, 1)], partitions := [(1, { (t.partitions.read ⟨0, 8, 64, [0], 1, none, 0, [], false⟩ 1) with ptbase := 8, monitors := some (0, false, false) })] }

theorem test_witness_TaskEvents : ((posting ringed).cs 0).part = some 1
    ∧ (0 + 65536 ≤ (posting (queued false)).cycle.toNat ∧ (record false).prio < 3 ∧ (posting (queued false)).quad 0 = queued false)
    ∧ (((posting ringed).quad 0).queue.length < 64 ∧ ((posting ringed).quad 0).oldestRing = some (1, record false))
    ∧ ((((posting posted).quad 0).posts.zipIdx).find? fun p => p.1.tag.isNone && (posting posted).room 0 p.1.part) = some (⟨0, 1, taskBits false, none⟩, 0)
    ∧ ((posting posted).findPost 0 5 = some (0, 1, ⟨0, 1, taskBits false, some (0, aTag)⟩) ∧ (posting posted).room 0 1 = true)
    ∧ ((posting orphaned).mayReceive 0 0 = true ∧ (posting orphaned).orphan 0 1 = some (0, 0, 4, 8, aTask))
    ∧ ((posting (queued false)).mayReceive 0 0 = true ∧ (posting (queued false)).orphan 0 1 = none ∧ ((posting (queued false)).quad 0).best 1 ((0 : BitVec 2) != 3 && (posting (queued false)).mayHost 0) = some (0, record false) ∧ bitOf (record false).bits.toNat 243 = false)
    ∧ ((posting .reset).orphan 0 1 = none ∧ ((posting .reset).quad 0).best 1 ((0 : BitVec 2) != 3 && (posting .reset).mayHost 0) = none ∧ (posting .reset).victim 0 1 = some (0, 3) ∧ ((posting .reset).ctx 0 3).task = some 0 ∧ (posting .reset).tasks.get 0 = some aTask)
    ∧ ((posting (queued true)).gangHost 0 = some (0, 0, record true) ∧ quadOf 0 = 0)
    ∧ (doubled.mayReceive 1 2 = true ∧ (doubled.cs 1).part = some 1 ∧ doubled.orphan 0 1 = none ∧ (doubled.quad 0).best 1 ((2 : BitVec 2) != 3 && doubled.mayHost 1) = some (0, record true)
      ∧ bitOf (record true).bits.toNat 243 = true ∧ doubled.gangHost 0 = some (0, 0, record true) ∧ quadOf 1 = 0
      ∧ doubled.mayReceive 0 2 = true ∧ (doubled.cs 0).part = some 1 ∧ (doubled.quad 0).best 1 ((2 : BitVec 2) != 3 && doubled.mayHost 0) = some (0, record true))
    ∧ (((blockedGang 0).cs 0).gangBlocked = true ∧ ((blockedGang 0).cs 0).fullPipe = some (1, ⟨some 2, 2, [some (.replicate 64 1), some (.replicate 64 2)], none, 0⟩) ∧ ((blockedGang 0).cs 0).poolFree = 0)
    ∧ (((blockedGang 1).cs 0).gangBlocked = true ∧ 0 < ((blockedGang 1).cs 0).poolFree)
    ∧ ((failing 0x20000).actions = [] ∧ (failing 0x20000).counters = [] ∧ (failing 0x20000).failedWrites[0]? = some (1, 0x20000, 9, none))
    ∧ (failing 0x20000).partLocs 1 0x20000 8 true = .ok (countFrom 0 8)
    ∧ (armWaiting.ctx 0 0).wait = .arm
    ∧ ((((heldWrite 1016).cs 0).heldActions.zipIdx).find? (fun e => ((heldWrite 1016).cs 0).writeReady e.1) = some (.segWrite 0 0x8003 0 1016 77 none, 0) ∧ ((heldWrite 1016).cs 0).seg 0 = some dataSeg ∧ dataSeg.state = .resident ∧ (0 : Int) ≤ 1016 ∧ (1016 : Int) + 8 ≤ ((256 * dataSeg.len : Nat) : Int) ∧ heldFires 0x8003 ((heldWrite 1016).cs 0).heldActions = [])
    ∧ launching.host.ready = true
    ∧ (let w := launching.host.window.writeBytes 0x10000 (leBytes 8 (vector 0).toNat); launchRefusal (launching.partState 0 1) (launching.cs 0).busyMask (leNat (readBytes (fun a => w.read 0 a) 0x10000 64)) = none ∧ bitsOf (leNat (readBytes (fun a => w.read 0 a) 0x10000 64)) 31 24 = 1)
    ∧ let w := launching.host.window.writeBytes 0x10000 (leBytes 8 (vector 2).toNat); launchRefusal (launching.partState 0 1) (launching.cs 0).busyMask (leNat (readBytes (fun a => w.read 0 a) 0x10000 64)) = some 2
    ∧ launching.partState 0 1 = some (launching.cs 0)
    ∧ (monitored.actions = [] ∧ monitored.counters = [] ∧ monitored.partitions.get 1 = some ⟨0, 8, 64, [0], 1, some (0, false, false), 0, [], false⟩)
    ∧ monitored.partLocs 1 248 8 false = .ok (countFrom 248 8) := by
  and_intros <;> first | decide +kernel | exact is_ok (by decide +kernel)

/-- Commands of every kind on segment 3, entered at cycle 0, and what a part runs; the cycle is 200. -/
def cmdOf (op : MOp) : MCmd := ⟨aTag, 0, op⟩
def loadOp : MOp := .mwld 1 .i8 0 0 []
def streamOp : MOp := .mstr 2 1 false .i8 0 0 1 128 0 3 []
def outOp : MOp := .mout 2 0 0 0 1 128 0 .rne
def runOf (op : MOp) (next : Nat) (parked : Bool) : MRun := ⟨cmdOf op, next, 0, [], parked, false, false, []⟩
def matrix (v : CoreState) : State :=
  { core0 { v with segs := [(0, bigSeg)], tickets := [⟨2, [], [0], true, false, [0], false, false, true, false, 0⟩], quota := 400 } with cycle := 200 }
def rowOf : MRow := ⟨2, 0, List.replicate 128 7, true, 130, some aTag⟩

theorem test_witness_MatrixEvents : ((matrix { CoreState.reset with mq := [] }).cs 0).part = some 1
    ∧ (let v := (matrix { CoreState.reset with mq := [cmdOf (loadOp)] }).cs 0; v.mq = [cmdOf (loadOp)] ∧ (cmdOf (loadOp)).issued + 2 ≤ (matrix { CoreState.reset with mq := [cmdOf (loadOp)] }).cycle.toNat ∧ (cmdOf (loadOp)).op.part = .load ∧ v.run .load = none ∧ v.array = none ∧ v.load = none ∧ v.drain = none ∧ v.rows = [])
    ∧ (let v := (matrix { CoreState.reset with mq := [cmdOf (streamOp)] }).cs 0; v.mq = [cmdOf (streamOp)] ∧ (cmdOf (streamOp)).issued + 2 ≤ (matrix { CoreState.reset with mq := [cmdOf (streamOp)] }).cycle.toNat ∧ (cmdOf (streamOp)).op.part = .array ∧ v.run .array = none ∧ v.array = none ∧ v.load = none ∧ v.drain = none ∧ v.rows = [])
    ∧ (let v := (matrix { CoreState.reset with mq := [cmdOf (outOp)] }).cs 0; v.mq = [cmdOf (outOp)] ∧ (cmdOf (outOp)).issued + 2 ≤ (matrix { CoreState.reset with mq := [cmdOf (outOp)] }).cycle.toNat ∧ (cmdOf (outOp)).op.part = .drain ∧ v.run .drain = none ∧ v.array = none ∧ v.load = none ∧ v.drain = none ∧ v.rows = [])
    ∧ (let v := (matrix { CoreState.reset with mq := [cmdOf (.mzero 3)] }).cs 0; v.mq = [cmdOf (.mzero 3)] ∧ (cmdOf (.mzero 3)).issued + 2 ≤ (matrix { CoreState.reset with mq := [cmdOf (.mzero 3)] }).cycle.toNat ∧ (cmdOf (.mzero 3)).op.part = .drain ∧ v.run .drain = none ∧ v.array = none ∧ v.load = none ∧ v.drain = none ∧ v.rows = [])
    ∧ ((runOf loadOp 4 true).held = false ∧ (runOf loadOp 4 true).parked = true ∧ ((matrix { CoreState.reset with load := some (runOf loadOp 4 true) }).cs 0).run .load = some (runOf loadOp 4 true) ∧ ((matrix { CoreState.reset with load := some (runOf loadOp 4 true) }).cs 0).unparked (runOf loadOp 4 true).cmd.tag.ticket = true)
    ∧ (let r := { runOf loadOp 4 true with held := true }; ((matrix { CoreState.reset with load := some r }).cs 0).run .load = some r ∧ r.held = true)
    ∧ (((matrix { CoreState.reset with load := some (runOf loadOp 128 false) }).cs 0).load = some (runOf loadOp 128 false) ∧ MFmt.i8.imageBytes / 256 = 128 ∧ (runOf loadOp 128 false).due ≤ 200 ∧ 1 < 2)
    ∧ (((matrix { CoreState.reset with rows := [rowOf] }).cs 0).rows = [rowOf] ∧ rowOf.final = some aTag ∧ rowOf.lands ≤ (matrix { CoreState.reset with rows := [rowOf] }).cycle.toNat ∧ rowOf.tile < 4)
    ∧ (let s := (matrix { CoreState.reset with drain := some (runOf outOp 1 false) }); s.actions = [] ∧ s.counters = [] ∧ (s.cs 0).drain = some (runOf outOp 1 false) ∧ 1 ≤ (runOf outOp 1 false).next)
    ∧ (((matrix { CoreState.reset with drain := some (runOf (.mzero 3) 0 false) }).cs 0).drain = some (runOf (.mzero 3) 0 false) ∧ (runOf (.mzero 3) 0 false).due ≤ 200 ∧ 3 < 4) := by
  and_intros <;> decide +kernel

def rankOp : MOp := .mrank 2 .i8 0 0 1 128 0 3 5
def arraying (op : MOp) : State := matrix { CoreState.reset with array := some (runOf op 0 false) }

/-- A stream of one row and a ranking of one, whose row is due; a plane of each width; products of integers and of others; three scores. -/
theorem test_witness_MatrixEvents_rows : (∀ op ∈ [streamOp, rankOp], ((arraying op).cs 0).array = some (runOf op 0 false) ∧ (runOf op 0 false).parked = false
      ∧ (runOf op 0 false).yield = false ∧ (runOf op 0 false).next < 1 ∧ (runOf op 0 false).due ≤ (arraying op).cycle.toNat ∧ ((arraying op).cs 0).isResident 0 = true
      ∧ ((arraying op).cs 0).drain = none ∧ (runOf op 0 false).kept = [] ∧ (runOf op 0 false).next + 1 = 1)
    ∧ (runOf streamOp 0 false).cmd.op = .mstr 2 1 false .i8 0 0 1 128 0 3 [] ∧ ((arraying streamOp).cs 0).planes[1]?.isSome
    ∧ (runOf rankOp 0 false).cmd.op = .mrank 2 .i8 0 0 1 128 0 3 5
    ∧ MFmt.bf16.width = 16 ∧ MFmt.i8.width = 8 ∧ ((⟨.nib, [], []⟩ : Plane).fmt = .nib) ∧ MFmt.i8.isInt = true ∧ ¬ (MFmt.bf16.isInt = true ∧ MFmt.i8.isInt = true)
    ∧ (rankRow ([0x3F80, 0x4040, 0x4000].map bf16.unpack))[3]? = some 128 ∧ 127 < 128 := by and_intros <;> decide +kernel

/-- A packet that copies 64 bytes from 0x20000 to 0x20100, one with completion record in segment 3, one that is malformed. -/
def copyBits (flags : Nat) : Nat := copyPacket % 2 ^ 32 + flags + 2 ^ 32 * globalDesc 0x20000 64 + 2 ^ 224 * globalDesc 0x20100 64
def packet (src : FSource) (bits : Nat) : FPacket := ⟨aTag, src, BitVec.ofNat 512 bits, none, none⟩
def runOfPacket (bits : Nat) (st : FState) : FRun := ⟨packet (.fcmd 0 512) bits, 64, 64, st, false, 0, none, none, none, none, false⟩
def doneOf (bits : Nat) : FDone := ⟨runOfPacket bits .running, 1, 0, 0, false⟩
def channel (v : CoreState) : State := tabled { v with segs := [(0, bigSeg)], tickets := [⟨2, [], [0], true, false, [0], false, false, true, false, 0⟩], quota := 400 }
/-- A ring with its header at 0x20400 and its slots at 0x20800, one packet published in slot 0. -/
def ringOf : Ring := ⟨0x20400, 0x20800, 0x20C00, 4, 0, false⟩
def ringState (bits : Nat) : State :=
  let s := channel { CoreState.reset with rings := CoreState.reset.rings.set 2 (some ringOf) }
  { s with mem := s.mem ++ placeBytes 0x800 (leBytes 64 (bits + 2 ^ 480)) }
def pierOf (op : PierOp) : PierCmd := ⟨aTag, 0, 1, op⟩
def pierState (q : Pier) (box : List OutEntry) : State := { channel { CoreState.reset with outbox := box } with piers := [(64, q)] }

theorem test_witness_FerryAndPierEvents : ((channel { CoreState.reset with fq := [] }).cs 0).part = some 1
    ∧ (let s := (channel { CoreState.reset with fq := [packet (.fcmd 0 512) (copyBits 0)] }); (s.cs 0).ferry = none ∧ s.nextSource 0 = some 0 ∧ (s.cs 0).fq = [packet (.fcmd 0 512) (copyBits 0)] ∧ (s.cs 0).mayBegin (packet (.fcmd 0 512) (copyBits 0)).bits.toNat = true)
    ∧ (let s := ringState (copyBits 0); s.actions = [] ∧ s.counters = [] ∧ (s.cs 0).ferry = none ∧ s.nextSource 0 = some 3 ∧ (s.cs 0).ferryDone = [] ∧ s.ringSlot 0 2 = some (ringOf, copyBits 0 + 2 ^ 480, countFrom 0x408 8))
    ∧ (let s := ringState (copyBits 0 + 2 ^ 440); s.actions = [] ∧ s.counters = [] ∧ (s.cs 0).ferry = none ∧ s.nextSource 0 = some 3 ∧ (s.cs 0).ferryDone = [] ∧ s.ringSlot 0 2 = some (ringOf, copyBits 0 + 2 ^ 440 + 2 ^ 480, countFrom 0x408 8))
    ∧ (let b := copyBits 0 + 2 ^ 480; packetBad b = none ∧ fCr b = false ∧ ((ringState (copyBits 0)).cs 0).mayBegin b = true)
    ∧ (ringState (copyBits 0)).packetSegs 0 (copyBits 0 + 2 ^ 480) = .ok (none, none)
    ∧ packetBad (copyBits 0 + 2 ^ 440 + 2 ^ 480) = some 440
    ∧ (let r := runOfPacket (copyBits 0) .parked; let s := (channel { CoreState.reset with ferry := some (runOfPacket (copyBits 0) .parked) }); (s.cs 0).ferry = some r ∧ r.state = .parked ∧ (fSrc r.pkt.bits.toNat).space ≠ 1 ∧ (fDst r.pkt.bits.toNat).space ≠ 1 ∧ s.ticketsReady 0 r = true ∧ s.mayTouch 0 r = true ∧ r.yield = false)
    ∧ (let r := runOfPacket (copyBits 0) (.abandoned 9 0); ((channel { CoreState.reset with ferry := some (runOfPacket (copyBits 0) (.abandoned 9 0)) }).cs 0).ferry = some r ∧ r.state = .abandoned 9 0)
    ∧ (let d := doneOf (copyBits 0); let s := (channel { CoreState.reset with ferryDone := [doneOf (copyBits 0)] }); let f := d.run.pkt.bits.toNat; (s.cs 0).ferryDone.find? (fun e => e.run.pkt.tag.id == 5) = some d ∧ d.status = 1 ∧ d.cause = 0 ∧ d.run.srcFar = none ∧ d.run.dstFar = none ∧ fLe f = false ∧ fTp f = false ∧ fSg f = false ∧ fCr f = false)
    ∧ (let d := doneOf (copyBits (2 ^ 16)); let s := (channel { CoreState.reset with ferryDone := [doneOf (copyBits (2 ^ 16))] }); let f := d.run.pkt.bits.toNat; (s.cs 0).ferryDone.find? (fun e => e.run.pkt.tag.id == 5) = some d ∧ d.status = 1 ∧ d.cause = 0 ∧ d.run.srcFar = none ∧ d.run.dstFar = none ∧ fLe f = false ∧ fTp f = false ∧ fSg f = false ∧ fCr f = true ∧ d.run.pkt.src = .fcmd 0 512 ∧ (s.cs 0).isResident 0 = true)
    ∧ ((pierState .reset [⟨pierOf (.load 0 [] none), []⟩]).cs 0).outbox = [⟨pierOf (.load 0 [] none), []⟩]
    ∧ (((pierState .reset [⟨pierOf (.load 0 [] none), [64]⟩]).cs 0).outbox = [⟨pierOf (.load 0 [] none), [64]⟩] ∧ ((pierState .reset []).pier 64).queue.length < 64
      ∧ (pierState .reset [⟨pierOf (.load 0 [] none), [64]⟩]).earlierTo 64 5 = false)
    ∧ (let p := { Pier.reset with queue := [pierOf (.cmd 3 [7] none none 0)] }; (pierState p []).pier 64 = p ∧ p.run = none ∧ p.queue = [pierOf (.cmd 3 [7] none none 0)])
    ∧ (let p := { Pier.reset with queue := [pierOf (.load 4 [9, 8] (some (List.replicate 16 1)))] }; (pierState p []).pier 64 = p ∧ p.run = none ∧ p.queue = [pierOf (.load 4 [9, 8] (some (List.replicate 16 1)))])
    ∧ (let d : PierDone := ⟨pierOf (.cmd 3 [7] none none 0), 0, [], []⟩; ((pierState { Pier.reset with done := [d] } []).pier 64).done = [d] ∧ d.cmd.core = 0 ∧ d.cmd.part = 1 ∧ d.sigs = []) := by
  and_intros <;> first | decide +kernel | exact is_ok (by decide +kernel)

/-- Completions: a packet of one granule with a signal that counts in counter 0 of site 0 and keeps a record, and a pier command with a signal,
that counter and a record. -/
def announcing : Nat := copyBits (2 ^ 16 + 2 ^ 17 + 2 ^ 18 + 3 * 2 ^ 432)
def announced (v : CoreState) : State := { channel v with sites := [(0, { Site.reset with landing := [(0, { counter 0 0 0 with bits := counting 0 0 0 ||| BitVec.ofNat 256 (64 * 2 ^ 104), pages := [(0, 65536, 0)] })] })] }
def pierAnnounced : PierDone := ⟨pierOf (.cmd 3 [7] (some 0) (some (0, 512)) 0), 0, [(3, 1)], [1]⟩

theorem test_witness_FerryAndPierEvents_announced : (let d := doneOf announcing
      let s := announced { CoreState.reset with ferryDone := [d] }
      let l := s.counter 0 0
      (s.cs 0).ferryDone.find? (fun e => e.run.pkt.tag.id == 5) = some d ∧ fLe d.run.pkt.bits.toNat = true ∧ fTp d.run.pkt.bits.toNat = false
        ∧ fCr d.run.pkt.bits.toNat = true ∧ fSg d.run.pkt.bits.toNat = true ∧ s.actions = [] ∧ bitsOf d.run.pkt.bits.toNat 463 448 = 0
        ∧ (fDst d.run.pkt.bits.toNat).space ≠ 3 ∧ l.state = .armed ∧ (l.counted (s.ferryCounted 0 d.run l)).2 = 0 ∧ s.ferryCounted 0 d.run l ≠ 0)
    ∧ (let s := { announced .reset with piers := [(64, { Pier.reset with done := [pierAnnounced] })] }
      let l := s.counter 0 0
      (s.pier 64).done = pierAnnounced :: [] ∧ (s.cs 0).isResident 0 = true ∧ s.actions = [] ∧ l.state = .armed
        ∧ (pierAnnounced.stored.filter l.holdsLoc).length = 1 ∧ (l.counted 1).2 = 0) := by decide +kernel

/-- Granules of eight bytes: a packet of a kind between places with a counter of cycles spent, and its channel. -/
def moveBits (kind src dst : Nat) : Nat := kind + 2 ^ 32 * src + 2 ^ 224 * dst
def segDesc (n : Nat) : Nat := 3 + n * 2 ^ 64 + 2 ^ 96 + 2 ^ 112
def moveRun (bits : Nat) (staged : Option (List Byte)) : FRun :=
  ⟨⟨aTag, .fcmd 0 512, BitVec.ofNat 512 bits, some 0, some 0⟩, 0, 0, .running, false, 1, staged, none, none, none, false⟩
def moveState (bits : Nat) (staged : Option (List Byte)) : State := channel { CoreState.reset with ferry := some (moveRun bits staged) }
def glob (page : Nat) : Nat := globalDesc (page * 65536 + 256) 8
def writesOf (bits : Nat) : List (Int × Nat) := (fDst bits).granuleWrites 0 8

/-- FILL, COPY between memory and a segment, and COPY-REDUCE that has its source and that has not; page 3 does not translate. -/
theorem test_witness_FerryAndPierEvents_moved : (let r := moveRun (moveBits 1 (glob 2) (glob 2)) none
      let s := moveState (moveBits 1 (glob 2) (glob 2)) none
      (s.cs 0).ferry = some r ∧ r.state = .running ∧ r.claim = none ∧ r.phase ≠ 0 ∧ s.mayTouch 0 r = true
        ∧ (fDst r.pkt.bits.toNat).total = 8 ∧ s.soiled (countFrom 256 8) = none)
    ∧ (moveState 3 none).farLocs 0 (fSrc (moveBits 1 (glob 2) (glob 2))) ((writesOf (moveBits 1 (glob 2) (glob 2))).map fun w =>
      (fSrc (moveBits 1 (glob 2) (glob 2))).place w.2) false = .ok (countFrom 256 8)
    ∧ (moveState 3 none).farLocs 0 (fSrc (moveBits 1 (glob 3) (glob 2))) ((writesOf (moveBits 1 (glob 3) (glob 2))).map fun w =>
      (fSrc (moveBits 1 (glob 3) (glob 2))).place w.2) false = .error (9, 3 * 65536 + 256)
    ∧ (moveState 3 none).farLocs 0 (fDst (moveBits 1 (glob 2) (glob 2))) ((writesOf (moveBits 1 (glob 2) (glob 2))).map (·.1)) true = .ok (countFrom 256 8)
    ∧ (moveState 3 none).farLocs 0 (fDst (moveBits 1 (glob 2) (glob 3))) ((writesOf (moveBits 1 (glob 2) (glob 3))).map (·.1)) true = .error (9, 3 * 65536 + 256)
    ∧ (moveState 3 none).farLocs 0 (fDst (moveBits 2 (glob 2) (glob 2))) ((writesOf (moveBits 2 (glob 2) (glob 2))).map (·.1)) false = .ok (countFrom 256 8)
    ∧ (moveState 3 none).farLocs 0 (fSrc (moveBits 2 (glob 2) (glob 2))) ((fSrc (moveBits 2 (glob 2) (glob 2))).places 0 (fSrc (moveBits 2 (glob 2) (glob 2))).total) false
      = .ok (countFrom 256 8)
    ∧ ((fSrc (moveBits 1 (segDesc 8) (glob 2))).space = 0 ∧ (fDst (moveBits 1 (glob 2) (segDesc 8))).space = 0
      ∧ (∀ a ∈ countFrom 0 8, ((moveState 3 none).cs 0).flawedAt 0 a 1 = false) ∧ (fDst (moveBits 1 (glob 2) (segDesc 8))).total = 8)
    ∧ (fKind (moveBits 3 7 (glob 2)) = 3 ∧ fKind (moveBits 2 (glob 2) (glob 2)) = 2 ∧ (moveRun (moveBits 2 0 0) (some (leBytes 8 5))).staged = some (leBytes 8 5))
    ∧ ((moveState (moveBits 3 7 (glob 2)) none).granuleData 0 (moveRun (moveBits 3 7 (glob 2)) none) (writesOf (moveBits 3 7 (glob 2)))).isOk = true
    ∧ (0 < (fDst (moveBits 3 7 (glob 2))).c0 ∧ 0 < (fDst (moveBits 3 7 (glob 2))).c1 ∧ (writesOf (moveBits 3 7 (glob 2))).length = 8) := by
  and_intros <;> first | decide +kernel | exact is_ok (by decide +kernel) | exact is_error (by decide +kernel)

/-- WRITE-ENQUEUE of a payload of eight bytes and a packet of 64 to a ring of four slots, its header at 0x20400. -/
def enqueueBits : Nat := 4 + 2 ^ 32 * globalDesc 0x20100 72 + 2 ^ 224 * (0x20200 + 2 * 2 ^ 61 + 8 * 2 ^ 64 + 2 ^ 96 + 2 ^ 112) + 0x20400 * 2 ^ 352
def enqueueing : State :=
  let s := channel { CoreState.reset with ferry := some (moveRun enqueueBits (some (List.replicate 64 0))) }
  { s with mem := s.mem ++ placeBytes 0x400 (leBytes 64 (0x20800 * 2 ^ 128 + 2 * 2 ^ 256)) }

theorem test_witness_FerryAndPierEvents_enqueue : let d := fDst enqueueBits
    let at_ := fun (a n : Nat) (w : Bool) => enqueueing.farLocs 0 d ((countFrom a n).map Int.ofNat) w
    let h := leNat (enqueueing.bytesAt (countFrom 0x400 64))
    bitsOf enqueueBits 415 352 = 0x20400 ∧ at_ 0x20400 64 true = .ok (countFrom 0x400 64) ∧ at_ 0x20400 64 false = .ok (countFrom 0x400 64)
      ∧ enqueueing.soiled (countFrom 0x400 64) = none ∧ bitsOf h 63 0 = 0 ∧ bitsOf h 191 128 = 0x20800 ∧ 2 ^ bitsOf h 259 256 = 4
      ∧ 2 ≤ (fSrc enqueueBits).space ∧ enqueueing.farLocs 0 (fSrc enqueueBits) ((fSrc enqueueBits).places 0 (fSrc enqueueBits).total) false = .ok (countFrom 0x100 72)
      ∧ at_ d.va d.c0 true = .ok (countFrom 0x200 8) ∧ at_ (0x20800 + 64 * (0 % 4)) 64 true = .ok (countFrom 0x800 64)
      ∧ (fCr (leNat (List.replicate 64 0)) = false) ∧ (bitsOf h 127 64 + 4) % 2 ^ 64 ≤ 4 ∧ 0 < (bitsOf h 127 64 + 4) % 2 ^ 64 := by
  and_intros <;> first | decide +kernel | exact is_ok (by decide +kernel)

/-- Segments: 0 absent and clean, 1 resident and dirty, 2 moving. A ticket of the command aTag holds `ids`. -/
def segA : Seg := ⟨1, 4, .absent, false, .data, false, false, 0, 0, 0x2000, [], false⟩
def segB : Seg := ⟨2, 4, .resident, false, .data, true, false, 0, 4, 0x3000, [(3, 9)], false⟩
def segC : Seg := ⟨3, 1, .moving, false, .data, true, false, 0, 8, 0x4000, [(5, 8)], false⟩
def ticketOf (ids : List Nat) : Ticket := ⟨2, [], ids, true, true, [], false, false, false, false, 0⟩
def manager (quota : Nat) (tickets : List Ticket) (move : Option SmMove) (smq : List SmReq) : State :=
  core0 { CoreState.reset with quota := quota, segs := [(0, segA), (1, segB), (2, segC)], tickets := tickets, move := move, smq := smq }
def parkedMember : State := manager 64 [ticketOf [1]] none []
def fitting : State := manager 9 [ticketOf [0, 1]] none []
def crowded : State := manager 8 [ticketOf [0]] none []
def recalling : State := manager 64 [] (some (.recall 2 false)) []
def pushing : State := manager 64 [] (some (.push 2 false)) []
def compacting : State := manager 64 [] (some (.compact 2 0)) []
def asking (op : SmOp) : State := manager 64 [ticketOf []] none [⟨aTag, op, [1], []⟩]

/-- Quotas of 9 and 8 granules, with 5 unpinned and a member of 4: the first fits, the second does not. -/
theorem test_witness_SegmentManagerEvents : (crowded.cs 0).part = some 1
    ∧ ((parkedMember.cs 0).move = none ∧ (parkedMember.cs 0).smq = [] ∧ (parkedMember.cs 0).compacting = none ∧ (∀ k ∈ (parkedMember.cs 0).tickets, k.paused = false) ∧ (parkedMember.cs 0).unpinned ≤ (parkedMember.cs 0).quota ∧ (parkedMember.cs 0).oldestParked = some (ticketOf [1]))
    ∧ (parkedMember.cs 0).firstMissing (ticketOf [1]).members = none
    ∧ ((fitting.cs 0).move = none ∧ (fitting.cs 0).smq = [] ∧ (fitting.cs 0).compacting = none ∧ (∀ k ∈ (fitting.cs 0).tickets, k.paused = false) ∧ (fitting.cs 0).unpinned ≤ (fitting.cs 0).quota ∧ (fitting.cs 0).oldestParked = some (ticketOf [0, 1]))
    ∧ ((fitting.cs 0).firstMissing (ticketOf [0, 1]).members = some (0, segA) ∧ (fitting.cs 0).seg 0 = some segA)
    ∧ ((fitting.cs 0).unpinned + segA.len ≤ (fitting.cs 0).quota ∧ (fitting.cs 0).lowestRun 0 segA.len (16384 - 4 * (fitting.core 0).cacheKiB) = some 0)
    ∧ ((crowded.cs 0).move = none ∧ (crowded.cs 0).smq = [] ∧ (crowded.cs 0).compacting = none ∧ (∀ k ∈ (crowded.cs 0).tickets, k.paused = false) ∧ (crowded.cs 0).unpinned ≤ (crowded.cs 0).quota ∧ (crowded.cs 0).oldestParked = some (ticketOf [0]))
    ∧ ((crowded.cs 0).firstMissing (ticketOf [0]).members = some (0, segA) ∧ (crowded.cs 0).quota < (crowded.cs 0).unpinned + segA.len)
    ∧ ((crowded.cs 0).victim (ticketOf [0]).members = some 1 ∧ (crowded.cs 0).seg 1 = some segB ∧ segB.pinned = false)
    ∧ ((recalling.cs 0).move = some (.recall 2 false) ∧ (recalling.cs 0).seg 2 = some segC ∧ segC.zf = false)
    ∧ recalling.locs 0 0x4000 (256 * segC.len) false = .ok (countFrom (2 ^ 38) 256)
    ∧ (recalling.soiled (countFrom (2 ^ 38) 256) = none ∧ ({ segC with zf := true } : Seg).zf = true)
    ∧ ((pushing.cs 0).move = some (.push 2 false) ∧ (pushing.cs 0).seg 2 = some segC ∧ segC.state = .moving ∧ segC.dirty = true ∧ (pushing.cs 0).sound 2 = true)
    ∧ (let s := pushing.modCS 0 fun v => { v with move := some (.push 1 false) }; (s.cs 0).seg 1 = some segB ∧ segB.state = .resident ∧ (s.cs 0).sound 1 = true)
    ∧ pushing.locs 0 0x4000 (256 * segC.len) true = .ok (countFrom (2 ^ 38) 256)
    ∧ ((compacting.cs 0).move = some (.compact 2 0) ∧ (compacting.cs 0).seg 2 = some segC ∧ segC.state = .moving)
    ∧ (((asking (.drop 1)).cs 0).smq = [⟨aTag, .drop 1, [1], []⟩] ∧ (((asking (.drop 1)).cs 0).tickets.any fun k => [1].contains k.num) = false ∧ ((asking (.drop 1)).cs 0).move = none)
    ∧ (((asking (.pin 1)).cs 0).smq = [⟨aTag, .pin 1, [1], []⟩] ∧ ((asking (.pin 1)).cs 0).seg 1 = some segB ∧ segB.state = .resident)
    ∧ (((asking (.pull 1)).cs 0).smq = [⟨aTag, .pull 1, [1], []⟩] ∧ ((asking (.pull 1)).cs 0).seg 1 = some segB ∧ segB.state = .resident)
    ∧ (((asking (.push 0)).cs 0).smq = [⟨aTag, .push 0, [1], []⟩] ∧ ((asking (.push 0)).cs 0).seg 0 = some segA ∧ segA.state = .absent ∧ (((asking (.push 0)).cs 0).tickets.any fun k => [1].contains k.num) = false)
    ∧ (let g := { segB with pinned := true, dirty := false }; g.state = .resident ∧ g.pinned = true ∧ g.dirty = false)
    ∧ (((asking (.split 64)).cs 0).smq = [⟨aTag, .split 64, [1], []⟩] ∧ ((asking (.split 64)).cs 0).segs.all (fun e => decide (e.2.role = .instr ∨ e.2.state = .absent ∨ e.2.base + e.2.len ≤ 16384 - 4 * 64)) = true) := by
  and_intros <;> first | decide +kernel | exact is_ok (by decide +kernel)

/-! ### Witnesses: the host and management -/

/-- A state with a request in the mailbox whose payload begins with the 8-byte words given. -/
def mailed (op len : Nat) (words : List Nat) (s : State) : State :=
  { s with host := { HostSide.reset with
      ready := true
      busy := true
      window := placeBytes 0x1000 (leBytes 2 op ++ leBytes 2 1 ++ leBytes 2 len ++ leBytes 2 0 ++ words.flatMap (leBytes 8)) } }
theorem is_asked (s : State) (op len : Nat)
    (h : decide (s.reqWaits = true ∧ s.reqOp = op ∧ s.reqLen = len ∧ s.winNat 0x1002 2 ≠ 0 ∧ s.winNat 0x1006 2 = 0) = true) : s.asked op len := by
  simpa [State.asked] using h
/-- Partition 1 runs on core 0, its first 512 MB at locations from 0 on; the configuration record has no bytes. -/
def hosted (v : CoreState) : State :=
  { core0 v with
    mem := [(0, 7), (8, 1)], partitions := [(1, ⟨0, 8, 64, [0], 1, none, 0, [], false⟩)]
    mgmt := { Mgmt.reset with active := Mgmt.reset.active.set 2 [] } }
def plain : State := hosted CoreState.reset
/-- Partition 2 on a core, with ASID 5, an SGQUOTA of 64, PTBASE 8, OVFBASE 256 and OVFSTRIDE 512. -/
def creating (part core : Nat) : State := mailed 1 96 [part + 5 * 2 ^ 8 + 64 * 2 ^ 32, 8, 256, 512, 2 ^ core] plain
/-- A pattern image with no section at address 64, and one that is none at 0. -/
def imaging (va : Nat) : State :=
  mailed 2 40 [1, va, 64, 4096, 4096] { plain with mem := plain.mem ++ placeBytes 64 (leBytes 64 (0x4E525450 + 2 ^ 32)) }
def aperturing (bind : Bool) (part base : Nat) : State := mailed 3 16 [3 + 16 * bind.toNat + 2 ^ 8 * part, base] plain
/-- Slot 2 of core 0 and a ring header at address 64, for a ring bound there or not. -/
def ringing (bind : Bool) (at_ : Nat) : State :=
  mailed 4 16 [1 + 2 * 2 ^ 17 + 2 ^ 19 * bind.toNat, at_]
    (let s := hosted { CoreState.reset with rings := if bind then CoreState.reset.rings else CoreState.reset.rings.set 2 (some ⟨64, 8192, 0, 4, 0, false⟩) }
     { s with mem := s.mem ++ placeBytes 64 (leBytes 64 (8192 * 2 ^ 128 + 4 * 2 ^ 256)) })
/-- A landing counter of partition 1 armed on the page at 0; a packet that copies from it. -/
def shooting (armed busy : Bool) (len : Nat) : State :=
  let s := hosted { CoreState.reset with ferry := if busy then some ⟨⟨aTag, .fcmd 0 0, BitVec.ofNat 512 copyPacket, none, none⟩, 0, 0, .running, false, 0, none, none, none, none, false⟩ else none }
  mailed 5 24 [0, 0, len] { s with sites := if armed then [(0, { Site.reset with landing := [(3, { Landing.idle with state := .armed, part := 1, pages := [(0, 65536, 0)] })] })] else [] }
/-- Counter 1 or pier 1 for partition 1, which has it, or partition 2 has it, or none. -/
def assigning (code len owner : Nat) : State :=
  let own := if owner = 0 then [] else [(1, owner)]
  mailed 6 len [1 + 2 ^ 8 * code, 2] { plain with landingOwner := own, pierOwner := own }
def freezing (f : Bool) : State := mailed 8 8 [1 + 2 ^ 8 * f.toNat + 7 * 2 ^ 9 + 3 * 2 ^ 27] plain
def swapping (code : Nat) : State := mailed 9 72 [1 + 2 ^ 8 * code, 1] plain
def podding (id packages : Nat) : State := mailed 10 136 [id + 2 ^ 8 * packages, 0x20000] plain
def staging (kind va : Nat) : State := mailed 11 24 [1 + 2 ^ 8 * kind, va, 16] plain

/-- A request of each OP with a LEN that is not its own. -/
theorem test_witness_PartitionRequests_lengths : (∀ op ∈ countFrom 1 11, (mailed op 7 [0] plain).reqWaits = true ∧ (mailed op 7 [0] plain).reqOp = op
      ∧ (mailed op 7 [0] plain).reqLen = 7)
    ∧ (mailed 3 7 [16] plain).payBits 4 4 = 1 ∧ (mailed 4 7 [2 ^ 19] plain).payBits 19 19 = 1 ∧ (mailed 8 7 [2 ^ 8] plain).payBits 8 8 = 1
    ∧ (∀ n < 4, (mailed 6 7 [n * 2 ^ 8] plain).payBits 9 8 = n) ∧ (mailed 3 7 [0] plain).payBits 4 4 = 0 := by decide +kernel
/-- Packages 0 and 1 of a pod of two, with a route to package 1; package 1 of it with a route to itself; a pod of one with a route. -/
theorem test_witness_PartitionRequests_routes :
    let named := fun (s : State) (l : List Nat) => l.filter fun n => n != s.payBits 5 0 && s.pay (8 + 2 * n) 2 != 0
    ((podding 0 2).pay (8 + 2 * 0) 2 = 0 ∧ (named (podding 0 2) (List.range 64)).length < (podding 0 2).payBits 14 8)
    ∧ ((podding 1 2).pay (8 + 2 * 1) 2 ≠ 0 ∧ (podding 1 2).payBits 5 0 = 1 ∧ (podding 1 2).pay (8 + 2 * 0) 2 = 0)
    ∧ ((podding 0 1).pay (8 + 2 * 1) 2 ≠ 0 ∧ (podding 0 1).payBits 14 8 ≤ 1 + (named (podding 0 1) (List.range 1)).length
      ∧ (podding 0 1).pay (8 + 2 * 0) 2 = 0) := by
  and_intros <;> decide +kernel
theorem test_witness_PartitionRequests_create : (creating 1 1).asked 1 96
    ∧ ((creating 1 1).payBits 31 24 = 0 ∧ (creating 1 1).pay 16 8 % 256 = 0 ∧ (creating 1 1).pay 24 8 % 256 = 0)
    ∧ ((creating 1 1).createPart (⟨(creating 1 1).payBits 7 0, (creating 1 1).payBits 23 8, (creating 1 1).payBits 63 32, (creating 1 1).pay 8 8, (creating 1 1).pay 16 8, (creating 1 1).pay 24 8, maskCores ((creating 1 1).pay 32 64)⟩ : PartRequest)).isNone = true
    ∧ (creating 2 1).asked 1 96
    ∧ ((creating 2 1).payBits 31 24 = 0 ∧ (creating 2 1).pay 16 8 % 256 = 0 ∧ (creating 2 1).pay 24 8 % 256 = 0)
    ∧ ((creating 2 1).createPart (⟨(creating 2 1).payBits 7 0, (creating 2 1).payBits 23 8, (creating 2 1).payBits 63 32, (creating 2 1).pay 8 8, (creating 2 1).pay 16 8, (creating 2 1).pay 24 8, maskCores ((creating 2 1).pay 32 64)⟩ : PartRequest)).isSome = true
    ∧ ((creating 2 1).partitions.get ((creating 2 1).payBits 7 0) = none ∧ maskCores ((creating 2 1).pay 32 64) = [1] ∧ (creating 2 1).coreFree 1 = true ∧ ((creating 2 1).cs 1).part = none)
    ∧ ((mailed 1 95 [] plain).reqWaits = true ∧ (mailed 1 95 [] plain).reqOp = 1 ∧ (mailed 1 95 [] plain).reqLen ≠ 96
      ∧ (mailed 1 95 [] plain).payBits 31 24 = 0 ∧ (mailed 1 95 [] plain).pay 16 8 % 256 = 0 ∧ (mailed 1 95 [] plain).pay 24 8 % 256 = 0)
    ∧ ((mailed 1 95 [2 ^ 24] plain).payBits 31 24 ≠ 0 ∧ 3 < (mailed 1 95 [2 ^ 24] plain).reqLen) := by
  and_intros <;> decide +kernel
theorem test_witness_PartitionRequests_images : (imaging 0).asked 2 40
    ∧ ((imaging 0).payBits 63 8 = 0 ∧ (imaging 0).pay 24 8 % 256 = 0 ∧ ((imaging 0).loadPattern ((imaging 0).payBits 7 0) ((imaging 0).pay 8 8) ((imaging 0).pay 16 8) ((imaging 0).pay 24 8) ((imaging 0).pay 32 8)).isNone = true)
    ∧ (imaging 64).asked 2 40
    ∧ ((imaging 64).payBits 63 8 = 0 ∧ (imaging 64).pay 24 8 % 256 = 0 ∧ ((imaging 64).loadPattern ((imaging 64).payBits 7 0) ((imaging 64).pay 8 8) ((imaging 64).pay 16 8) ((imaging 64).pay 24 8) ((imaging 64).pay 32 8)).isSome = true)
    ∧ (aperturing true 1 0).asked 3 16
    ∧ ((aperturing true 1 0).payBits 7 5 = 0 ∧ (aperturing true 1 0).payBits 63 16 = 0 ∧ (aperturing true 1 0).pay 8 8 % (aperturing true 1 0).apertureSize = 0 ∧ (aperturing true 1 0).payBits 4 4 = 1 ∧ ((aperturing true 1 0).partitions.get ((aperturing true 1 0).payBits 15 8)).isSome = true)
    ∧ (aperturing true 2 0).asked 3 16
    ∧ ((aperturing true 2 0).payBits 7 5 = 0 ∧ (aperturing true 2 0).payBits 63 16 = 0 ∧ (aperturing true 2 0).pay 8 8 % (aperturing true 2 0).apertureSize = 0 ∧ (aperturing true 2 0).payBits 4 4 = 1 ∧ ((aperturing true 2 0).partitions.get ((aperturing true 2 0).payBits 15 8)).isSome = false)
    ∧ (aperturing false 1 0).asked 3 16
    ∧ ((aperturing false 1 0).payBits 7 5 = 0 ∧ (aperturing false 1 0).payBits 63 16 = 0 ∧ (aperturing false 1 0).pay 8 8 % (aperturing false 1 0).apertureSize = 0 ∧ (aperturing false 1 0).payBits 4 4 = 0) := by
  and_intros <;> decide +kernel
theorem test_witness_PartitionRequests_rings : (ringing true 64).asked 4 16
    ∧ ((ringing true 64).payBits 63 20 = 0 ∧ (ringing true 64).payBits 19 19 = 1 ∧ ((ringing true 64).bindRing ((ringing true 64).payBits 7 0) (64 * (ringing true 64).payBits 10 8 + (ringing true 64).payBits 16 11) ((ringing true 64).payBits 18 17) ((ringing true 64).pay 8 8)).isSome = true)
    ∧ (ringing true 0).asked 4 16
    ∧ ((ringing true 0).payBits 63 20 = 0 ∧ (ringing true 0).payBits 19 19 = 1 ∧ ((ringing true 0).bindRing ((ringing true 0).payBits 7 0) (64 * (ringing true 0).payBits 10 8 + (ringing true 0).payBits 16 11) ((ringing true 0).payBits 18 17) ((ringing true 0).pay 8 8)).isNone = true)
    ∧ (ringing false 64).asked 4 16
    ∧ ((ringing false 64).payBits 63 20 = 0 ∧ (ringing false 64).payBits 19 19 = 0 ∧ ((ringing false 64).unbindRing ((ringing false 64).payBits 7 0) (64 * (ringing false 64).payBits 10 8 + (ringing false 64).payBits 16 11) ((ringing false 64).payBits 18 17) ((ringing false 64).pay 8 8)).isSome = true)
    ∧ (ringing false 0).asked 4 16
    ∧ ((ringing false 0).payBits 63 20 = 0 ∧ (ringing false 0).payBits 19 19 = 0 ∧ ((ringing false 0).unbindRing ((ringing false 0).payBits 7 0) (64 * (ringing false 0).payBits 10 8 + (ringing false 0).payBits 16 11) ((ringing false 0).payBits 18 17) ((ringing false 0).pay 8 8)).isNone = true)
    ∧ ((((ringing false 64).partState 0 1).map fun v => v.rings[2]) = some (some ⟨64, 8192, 0, 4, 0, false⟩) ∧ (ringing false 64).pay 8 8 = 64 ∧ (ringing false 64).payBits 18 17 = 2)
    ∧ (shooting true false 65536).asked 5 24
    ∧ ((shooting true false 65536).payBits 63 16 = 0 ∧ (shooting true false 65536).pay 8 8 % 65536 = 0 ∧ (shooting true false 65536).pay 16 8 % 65536 = 0 ∧ (shooting true false 65536).payBits 15 0 = 0 ∧ (shooting true false 65536).shootArmed 0 0 65536 = true)
    ∧ (shooting true true 0).asked 5 24
    ∧ ((shooting true true 0).payBits 63 16 = 0 ∧ (shooting true true 0).pay 8 8 % 65536 = 0 ∧ (shooting true true 0).pay 16 8 % 65536 = 0 ∧ (shooting true true 0).payBits 15 0 = 0 ∧ (shooting true true 0).shootArmed 0 0 0 = false)
    ∧ (shooting false true 65536).asked 5 24
    ∧ ((shooting false true 65536).payBits 63 16 = 0 ∧ (shooting false true 65536).pay 8 8 % 65536 = 0 ∧ (shooting false true 65536).pay 16 8 % 65536 = 0 ∧ (shooting false true 65536).payBits 15 0 = 0 ∧ (shooting false true 65536).shootArmed 0 0 65536 = false ∧ (shooting false true 65536).shootBusy 0 0 65536 = true)
    ∧ (shooting false false 65536).asked 5 24
    ∧ ((shooting false false 65536).payBits 63 16 = 0 ∧ (shooting false false 65536).pay 8 8 % 65536 = 0 ∧ (shooting false false 65536).pay 16 8 % 65536 = 0 ∧ (shooting false false 65536).payBits 15 0 = 0 ∧ (shooting false false 65536).shootArmed 0 0 65536 = false ∧ (shooting false false 65536).shootBusy 0 0 65536 = false) := by
  and_intros <;> decide +kernel
theorem pay_2 : (assigning 2 2056 0).pay 8 2048 = 2 := by decide +kernel
theorem pay_0 : (assigning 0 2056 0).pay 8 2048 = 2 := by decide +kernel
theorem pay_3 : (assigning 3 136 0).pay 8 128 = 2 := by decide +kernel
theorem pay_1 : (assigning 1 136 0).pay 8 128 = 2 := by decide +kernel
theorem test_witness_PartitionRequests_assignments : (bitmapBits 2 16384 = [1] ∧ bitmapBits 2 1024 = [1])
    ∧ (assigning 2 2056 0).asked 6 2056
    ∧ ((assigning 2 2056 0).payBits 63 10 = 0 ∧ (assigning 2 2056 0).payBits 9 8 = 2 ∧ ((assigning 2 2056 0).partitions.get ((assigning 2 2056 0).payBits 7 0)).isSome = true ∧ (assigning 2 2056 0).landingOwner.get 1 = none)
    ∧ (assigning 2 2056 0).pay 8 2048 = 2
    ∧ (assigning 2 2056 2).asked 6 2056
    ∧ ((assigning 2 2056 2).payBits 63 10 = 0 ∧ (assigning 2 2056 2).payBits 9 8 = 2 ∧ ((assigning 2 2056 2).partitions.get ((assigning 2 2056 2).payBits 7 0)).isSome = true ∧ (assigning 2 2056 2).landingOwner.get 1 = some 2)
    ∧ (assigning 2 2056 2).pay 8 2048 = 2
    ∧ (assigning 0 2056 1).asked 6 2056
    ∧ ((assigning 0 2056 1).payBits 63 10 = 0 ∧ (assigning 0 2056 1).payBits 9 8 = 0 ∧ ((assigning 0 2056 1).partitions.get ((assigning 0 2056 1).payBits 7 0)).isSome = true ∧ (assigning 0 2056 1).landingOwner.get 1 = some 1)
    ∧ (assigning 0 2056 1).pay 8 2048 = 2
    ∧ (assigning 0 2056 0).asked 6 2056
    ∧ ((assigning 0 2056 0).payBits 63 10 = 0 ∧ (assigning 0 2056 0).payBits 9 8 = 0 ∧ ((assigning 0 2056 0).partitions.get ((assigning 0 2056 0).payBits 7 0)).isSome = true ∧ (assigning 0 2056 0).landingOwner.get 1 = none)
    ∧ (assigning 0 2056 0).pay 8 2048 = 2
    ∧ (assigning 3 136 0).asked 6 136
    ∧ ((assigning 3 136 0).payBits 63 10 = 0 ∧ (assigning 3 136 0).payBits 9 8 = 3 ∧ ((assigning 3 136 0).partitions.get ((assigning 3 136 0).payBits 7 0)).isSome = true ∧ (assigning 3 136 0).pierOwner.get 1 = none)
    ∧ (assigning 3 136 0).pay 8 128 = 2
    ∧ (assigning 1 136 1).asked 6 136
    ∧ ((assigning 1 136 1).payBits 63 10 = 0 ∧ (assigning 1 136 1).payBits 9 8 = 1 ∧ ((assigning 1 136 1).partitions.get ((assigning 1 136 1).payBits 7 0)).isSome = true ∧ (assigning 1 136 1).pierOwner.get 1 = some 1)
    ∧ (assigning 1 136 1).pay 8 128 = 2 :=
  ⟨by decide +kernel,
    is_asked _ _ _ (by decide +kernel),
    by decide +kernel,
    pay_2,
    is_asked _ _ _ (by decide +kernel),
    by decide +kernel,
    pay_2,
    is_asked _ _ _ (by decide +kernel),
    by decide +kernel,
    pay_0,
    is_asked _ _ _ (by decide +kernel),
    by decide +kernel,
    pay_0,
    is_asked _ _ _ (by decide +kernel),
    by decide +kernel,
    pay_3,
    is_asked _ _ _ (by decide +kernel),
    by decide +kernel,
    pay_1⟩
theorem test_witness_PartitionRequests_others : (mailed 7 16 [1, 8192] plain).asked 7 16
    ∧ ((mailed 7 16 [1, 8192] plain).payBits 63 10 = 0 ∧ (mailed 7 16 [1, 8192] plain).partitions.get ((mailed 7 16 [1, 8192] plain).payBits 7 0) = some ⟨0, 8, 64, [0], 1, none, 0, [], false⟩)
    ∧ (freezing true).asked 8 8
    ∧ ((freezing true).payBits 11 9 = 7 ∧ (freezing true).payBits 63 29 = 0 ∧ (freezing true).payBits 17 12 = (freezing true).pod.pkgid ∧ ((freezing true).partitions.get ((freezing true).payBits 7 0)).isSome = true ∧ ((freezing true).partState (64 * (freezing true).payBits 20 18 + (freezing true).payBits 26 21) ((freezing true).payBits 7 0)).isSome = true ∧ (freezing true).payBits 8 8 = 1)
    ∧ (freezing false).asked 8 8
    ∧ ((freezing false).payBits 11 9 = 7 ∧ (freezing false).payBits 63 29 = 0 ∧ (freezing false).payBits 17 12 = (freezing false).pod.pkgid ∧ ((freezing false).partitions.get ((freezing false).payBits 7 0)).isSome = true ∧ ((freezing false).partState (64 * (freezing false).payBits 20 18 + (freezing false).payBits 26 21) ((freezing false).payBits 7 0)).isSome = true ∧ (freezing false).payBits 8 8 = 0)
    ∧ (swapping 0).asked 9 72
    ∧ (swapping 0).payBits 9 8 = 0
    ∧ (swapping 1).asked 9 72
    ∧ (swapping 1).payBits 9 8 = 1
    ∧ (swapping 2).asked 9 72
    ∧ ((swapping 2).payBits 9 8 = 2 ∧ (1 : BitVec 8).toNat = (swapping 2).payBits 7 0 ∧ ((swapping 2).partitions.get ((swapping 2).payBits 7 0)).isSome = true)
    ∧ plain.reqWaits = false
    ∧ (podding 0 1).asked 10 136
    ∧ (1 ≤ (podding 0 1).payBits 14 8 ∧ (podding 0 1).payBits 14 8 ≤ 64 ∧ (podding 0 1).payBits 14 8 ≤ 1 ∧ (podding 0 1).pay (8 + 2 * 1) 2 ≠ 0
      ∧ ∀ j < 1, j = (podding 0 1).payBits 5 0 ∨ (podding 0 1).payBits 14 8 ≤ j → (podding 0 1).pay (8 + 2 * j) 2 = 0)
    ∧ (podding 0 2).asked 10 136
    ∧ (1 ≤ (podding 0 2).payBits 14 8 ∧ (podding 0 2).payBits 14 8 ≤ 64
      ∧ ∀ n < 64, n = (podding 0 2).payBits 5 0 ∨ (podding 0 2).payBits 14 8 ≤ n → (podding 0 2).pay (8 + 2 * n) 2 = 0)
    ∧ (podding 0 64).asked 10 136
    ∧ (1 ≤ (podding 0 64).payBits 14 8 ∧ (podding 0 64).payBits 14 8 ≤ 64
      ∧ ∀ n < 64, n = (podding 0 64).payBits 5 0 ∨ (podding 0 64).payBits 14 8 ≤ n → (podding 0 64).pay (8 + 2 * n) 2 = 0)
    ∧ (staging 0 0).asked 11 24
    ∧ ((staging 0 0).payBits 9 8 = 0 ∧ (staging 0 0).payBits 7 0 = 1 ∧ (staging 0 0).pay 8 8 = 0 ∧ (staging 0 0).pay 16 8 = 16)
    ∧ (staging 1 0).asked 11 24
    ∧ ((staging 1 0).payBits 9 8 = 1 ∧ (staging 1 0).payBits 7 0 = 1 ∧ (staging 1 0).pay 8 8 = 0 ∧ (staging 1 0).pay 16 8 = 16)
    ∧ (staging 2 0).asked 11 24
    ∧ ((staging 2 0).payBits 9 8 = 2 ∧ (staging 2 0).payBits 7 0 = 1 ∧ (staging 2 0).pay 8 8 = 0 ∧ (staging 2 0).pay 16 8 = 16)
    ∧ (staging 0 0).soiled (countFrom 0 16) = none
    ∧ (staging 0 0).partLocs 1 0 16 false = .ok (countFrom 0 16)
    ∧ (staging 0 (2 ^ 30)).partLocs 1 (2 ^ 30) 16 false = .error (9, 2 ^ 30) := by
  and_intros <;> first | decide +kernel | exact is_ok (by decide +kernel) | exact is_error (by decide +kernel)

/-- The host of a module that is ready, without partitions. -/
def bare : State := { State.reset with host := { HostSide.reset with ready := true } }
/-- A request of an OP waits, or its reply is owed. -/
def replying : State := { mailed 1 96 [] plain with host := { (mailed 1 96 [] plain).host with reply := some (0, 9) } }
/-- Aperture 0 of 4 GiB leads to an address of partition 1. -/
def windowed (base : Nat) : State := { plain with host := { HostSide.reset with ready := true, apertures := [(0, (1, base))] } }
/-- A management firmware image staged at a module whose inactive copy has no bytes. -/
def staged : State := { plain with mgmt := { plain.mgmt with staged := #v[false, true, false], inactive := plain.mgmt.inactive.set 1 [] } }

/-- Vector 1 is pending, its entry masked or not. -/
def pending (masked : Bool) : HostSide := { HostSide.reset with pending := 2, window := [(0x401C, if masked then 1 else 2)] }

/-- At both ends of the areas, with nothing pending and with vector 1; nothing crosses the aperture's end. -/
theorem test_witness_HostEvents_pending : (pending true).pending = BitVec.ofNat 32 (2 ^ 1) ∧ bare.host.pending = 0 ∧ 1 < 32 ∧ 0x1000 ≤ (0x1000#17).toNat
    ∧ (((pending true).window.writeBytes 0x1000 (leBytes 8 5)).read 0 (0x400C + 16 * 1)).getLsbD 0 = true
    ∧ (((pending false).window.writeBytes 0x1000 (leBytes 8 5)).read 0 (0x400C + 16 * 1)).getLsbD 0 = false
    ∧ 8 % (windowed 0).apertureSize + (8#13).toNat ≤ (windowed 0).apertureSize := by decide +kernel

theorem test_witness_HostEvents : (bare.host.ready = true ∧ (0x10000#17).toNat = 0x10000 + 64 * (0#9).toNat ∧ (leBytes 8 5).length = 8)
    ∧ (0x10000 + 64 * 511 : Nat) = (0x17FC0#17).toNat
    ∧ (0x20#17).toNat = 0x20
    ∧ ((0x38#17).toNat = 0x38 ∧ 4 ≤ (leBytes 4 0).length)
    ∧ ((0x30#17).toNat = 0x30 ∧ 2 ≤ (leBytes 2 1).length ∧ plain.host.busy = false)
    ∧ leNat ((leBytes 2 0).take 8) % 2 ^ 16 = plain.winNat 0x1002 2
    ∧ (0x1000 ≤ (0x41F8#17).toNat ∧ (0x41F8#17).toNat + (leBytes 8 5).length ≤ 0x4200)
    ∧ (0x4200 ≤ (0xFFF8#17).toNat ∧ (0xFFF8#17).toNat + (leBytes 8 5).length ≤ 0x10000)
    ∧ ((0xFF8#17).toNat < 0x1000 ∧ (0xFF8#17).toNat + (leBytes 8 5).length ≤ 0x1000 ∧ (0xFF8#17).toNat ∉ [0x20, 0x30, 0x38])
    ∧ (bare.partitions = [] ∧ plain.partitions ≠ [] ∧ State.reset.host.ready = false)
    ∧ bare.host.heldNotices = []
    ∧ (replying.host.reply = some (0, 9) ∧ replying.host.busy = true)
    ∧ ((mailed 0 0 [] plain).host.reply = none ∧ (mailed 0 0 [] plain).reqWaits = true ∧ (mailed 0 0 [] plain).reqOp = 0)
    ∧ ((mailed 12 0 [] plain).host.reply = none ∧ (mailed 12 0 [] plain).reqWaits = true ∧ (mailed 12 0 [] plain).reqOp = 12)
    ∧ ((windowed 0).window (0x100000000#40).toNat = none ∧ (windowed 0).window (0xFFFFFFF8#40).toNat = some (0, 1, 0xFFFFFFF8))
    ∧ ((8#13).toNat ≤ 8 ∧ (leBytes 8 5).length ≤ 8)
    ∧ ((windowed 0).window (8#40).toNat = some (0, 1, 8) ∧ (windowed (2 ^ 30)).window (8#40).toNat = some (0, 1, 2 ^ 30 + 8))
    ∧ (windowed 0).partLocs 1 8 8 false = .ok (countFrom 8 8)
    ∧ (windowed 0).partLocs 1 8 8 true = .ok (countFrom 8 8)
    ∧ (windowed 0).partLocs 1 8 4 true = .ok (countFrom 8 4)
    ∧ (windowed (2 ^ 30)).partLocs 1 (2 ^ 30 + 8) 8 false = .error (9, 2 ^ 30 + 8)
    ∧ ((windowed 0).actions = [] ∧ (windowed 0).counters = [] ∧ 8 % 8 = 0 ∧ 8 % 4 = 0)
    ∧ ((1#2).toNat < 2 ∧ 2 ≤ (2#2).toNat)
    ∧ (34 ≤ (34#6).toNat ∧ (40#6).toNat ≤ 40)
    ∧ ((plain.partitions.get 1).map (·.cores) = some [0] ∧ 0 / 64 = (0#3).toNat ∧ 0 / 64 ≠ (1#3).toNat) := by
  and_intros <;> first | decide +kernel | exact is_ok (by decide +kernel) | exact is_error (by decide +kernel)
theorem test_witness_HostEvents_staged (h : Config.signatureOk [] = true ∧ Config.minimumVersion [] ≤ Config.securityVersion []) :
    staged.mgmt.inactive[1]? = some [] ∧ staged.mgmt.staged[2] = false ∧ staged.mgmt.active[2] = ([] : List Byte)
    ∧ (staged.mgmt.staged[1]? = some true ∧ (Config.signatureOk [] = true ∧ Config.minimumVersion [] ≤ Config.securityVersion [])
      ∧ (1 = 2 → Config.signatureOk [] = true ∧ Config.minimumVersion [] ≤ Config.securityVersion []))
    ∧ staged.mgmt.staged[0]? = some false :=
  ⟨by decide +kernel, by decide +kernel, by decide +kernel, ⟨by decide +kernel, h, fun e => absurd e (by decide)⟩, by decide +kernel⟩
/-- While READY is 0, at both ends of the launch vectors. -/
theorem test_witness_HostEvents_unready : State.reset.host.ready = false ∧ State.reset.host.pending = 0 ∧ 0x10000 ≤ (0x10000#17).toNat
    ∧ (0x17FF8#17).toNat + (leBytes 8 5).length ≤ 0x18000 := by decide +kernel

/-- A page with its entry at address 16; the move of that page; a die that stretches its clock. -/
def paging : State := { State.reset with mem := [(16, 7), (21, 0x20)] }
def moving : State := { paging with migrating := [(16, 0x20000)] }
def slowed : State := { State.reset with dies := [(0, { Die.reset with stretching := true })] }
def spanning : State := { plain with partitions := [(1, ⟨0, 8, 64, [0], 1, none, 0, [5], false⟩)] }

theorem test_witness_ManagementEvents : (1#8).toNat ≤ 1
    ∧ (2#2) ≠ 3
    ∧ (1#3) ≠ 0
    ∧ (1800000 ≤ (1800000#32).toNat ∧ (3600000#32).toNat ≤ 3600000)
    ∧ ((1799999#32).toNat < 1800000 ∧ 3600000 < (3600001#32).toNat)
    ∧ ((plain.die 0).stretching = false ∧ (slowed.die 0).stretching = true)
    ∧ ((spanning.partitions.get 1).map (·.spans) = some [5] ∧ (5#6).toNat ∈ [5])
    ∧ ((0x10#8).toNat / 16 = 1 ∧ (0x2F#8).toNat / 16 = 2 ∧ (0x30#8).toNat / 16 = 3 ∧ (0x4F#8).toNat / 16 = 4 ∧ (0x50#8).toNat / 16 = 5)
    ∧ (paging.mayMigrate (16#52).toNat (0x20000#52).toNat = true ∧ paging.migrating = [])
    ∧ (paging.mayMigrate (16#52).toNat (0x20001#52).toNat = false ∧ paging.mayMigrate (24#52).toNat 0 = false)
    ∧ moving.migrating = [(16, 0x20000)] := by
  and_intros <;> decide +kernel

/-- The notice ring empty, full, and one entry short of it. -/
theorem test_witness_ManagementEvents_ring : (plain.host.nwr - plain.host.nrd).toNat = 0 ∧ ((64 : BitVec 16) - 0).toNat ≤ 64
    ∧ ¬ (((64 : BitVec 16) - 0).toNat < 64) ∧ ((63 : BitVec 16) - 0).toNat < 64
    ∧ ([[0], [1]] : List (List Byte))[1]? = some [1] := by decide +kernel

/-! ### Witnesses: frames -/

/-- ADD X3, X1, X2. -/
theorem test_witness_RegisterFrame : (Instr.add 0 3 1 2).destRegs user.issue.rrb = some [.x 3]
    ∧ user.issue.ctx < 4
    ∧ exec (.add 0 3 1 2) user = .next (after (exec (.add 0 3 1 2) user))
    ∧ (after (exec (.add 0 3 1 2) user)).issue.verdict = none
    ∧ (after (exec (.add 0 3 1 2) user)).cx.flight.map (·.reg) = [.x 3] := by
  and_intros <;> first | decide +kernel | exact is_next (by decide +kernel)
/-- A KINS and its companion entry of P7; a MODE after the slots; a context that stalls for a change of ILK. -/
def companions : Ctx := { regs with flight := [⟨.k 1, .k (.insert false []), 1, false, 0⟩, ⟨.p 7, .p true, 1, false, 1⟩] }
def moded : State := fullEnd.modIssue fun j => { j with after := [.mode true 0] }
def stalling : State := { coded cycling [0xA0000001, 0x0A818601] with cycle := 9 }
def stallSurvey : State × List Nat := State.surveyed { stalling with todo := [.engines, .tick] } 0
theorem test_witness_RegisterFrame_modes : (∀ e ∈ companions.flight, e.reg = .p 7 → e.val = .p true)
    ∧ moded.issue.after = [.mode true 0] ∧ moded.issue.ctx < 4 ∧ (moded.ctx moded.issue.core moded.issue.ctx).loops = []
    ∧ cycling.mode.ilk = false ∧ placedCtx.mode.ilk = true
    ∧ stalling.agenda = [] ∧ stalling.mgmt.powered = true ∧ stalling.todo = .issue 0 :: [.engines, .tick] ∧ (stalling.cs 0).stallTo = 0
    ∧ (∀ j < 0, (stallSurvey.1.ctx 0 j).holdsCore = false) ∧ (stallSurvey.1.ctx 0 0).holdsCore = true
    ∧ (match stallSurvey.1.tryIssue 0 0 with | .trapped _ => false | _ => true) = true := by
  and_intros <;> first | decide +kernel | (intro j h; exact absurd h (Nat.not_lt_zero j))
theorem test_witness_LoadFrame : (Instr.ld 0 3 1 3 0).loadRegs storage.issue.rrb = some [.x 3]
    ∧ storage.issue.ctx < 4
    ∧ exec (.ld 0 3 1 3 0) storage = .next (after (exec (.ld 0 3 1 3 0) storage))
    ∧ (after (exec (.ld 0 3 1 3 0) storage)).issue.verdict = none := by
  and_intros <;> first | decide +kernel | exact is_next (by decide +kernel)
theorem test_witness_StoreFrame : (storage.actions = [] ∧ storage.counters = [])
    ∧ storage.readP 0 = .ok true
    ∧ storage.readX 1 = .ok 16
    ∧ storage.readV 2 = .ok (.replicate 64 0)
    ∧ storage.readM 1 = .ok 1
    ∧ exec (.st 0 3 1 3 0) storage = .next (after (exec (.st 0 3 1 3 0) storage))
    ∧ (after (exec (.st 0 3 1 3 0) storage)).issue.verdict = none
    ∧ exec (.amo 0 3 1 2 0) storage = .next (after (exec (.amo 0 3 1 2 0) storage))
    ∧ (after (exec (.amo 0 3 1 2 0) storage)).issue.verdict = none
    ∧ exec (.amo4 0 3 1 2 0) storage = .next (after (exec (.amo4 0 3 1 2 0) storage))
    ∧ (after (exec (.amo4 0 3 1 2 0) storage)).issue.verdict = none
    ∧ exec (.cas 0 3 1 2) storage = .next (after (exec (.cas 0 3 1 2) storage))
    ∧ (after (exec (.cas 0 3 1 2) storage)).issue.verdict = none
    ∧ exec (.cas4 0 3 1 2) storage = .next (after (exec (.cas4 0 3 1 2) storage))
    ∧ (after (exec (.cas4 0 3 1 2) storage)).issue.verdict = none
    ∧ exec (.vstg 0 2 1 1) storage = .next (after (exec (.vstg 0 2 1 1) storage))
    ∧ (after (exec (.vstg 0 2 1 1) storage)).issue.verdict = none
    ∧ exec (.vscg 0 2 1 2 1) storage = .next (after (exec (.vscg 0 2 1 2 1) storage))
    ∧ (after (exec (.vscg 0 2 1 2 1) storage)).issue.verdict = none := by
  and_intros <;> first | decide +kernel | exact is_ok (by decide +kernel) | exact is_next (by decide +kernel)
theorem test_witness_SegmentStoreFrame : (storage.actions = [] ∧ storage.counters = [])
    ∧ storage.readX 0 = .ok 0
    ∧ (storage.ccs.segNamed 1 = some (0, dataSeg) ∧ SegPath.access.allows dataSeg.role = true ∧ (storage.useSeg 0 dataSeg).issue.absent = false)
    ∧ (storage.ccs.seg 0 = some dataSeg ∧ 520 ≤ 256 * dataSeg.len)
    ∧ exec (.sts8 0 3 1 0 1) storage = .next (after (exec (.sts8 0 3 1 0 1) storage))
    ∧ (after (exec (.sts8 0 3 1 0 1) storage)).issue.verdict = none
    ∧ exec (.sts4 0 3 1 0 1) storage = .next (after (exec (.sts4 0 3 1 0 1) storage))
    ∧ (after (exec (.sts4 0 3 1 0 1) storage)).issue.verdict = none
    ∧ exec (.vsts 0 2 1 0 1) storage = .next (after (exec (.vsts 0 2 1 0 1) storage))
    ∧ (after (exec (.vsts 0 2 1 0 1) storage)).issue.verdict = none
    ∧ exec (.vscs 0 2 1 2 1) storage = .next (after (exec (.vscs 0 2 1 2 1) storage))
    ∧ (after (exec (.vscs 0 2 1 2 1) storage)).issue.verdict = none
    ∧ exec (.ksave 0 1 1 0) storage = .next (after (exec (.ksave 0 1 1 0) storage))
    ∧ (after (exec (.ksave 0 1 1 0) storage)).issue.verdict = none := by
  and_intros <;> first | decide +kernel | exact is_ok (by decide +kernel) | exact is_next (by decide +kernel)
/-- X6 lies past the stack's end; a command, and an instruction that owes a register. -/
theorem test_witness_SegmentStoreFrame_overflow : storage.readX 6 = .ok 1016 ∧ storage.overflowsTo stackSeg 1016 1272 ∧ storage.ccs.seg 1 = some stackSeg
    ∧ (after (exec (.sts8 0 3 0xF8 6 0) storage)).issue.verdict = none ∧ (after (exec (.sts4 0 3 0xF8 6 0) storage)).issue.verdict = none
    ∧ (Instr.mzero 0 3).commandRegs (commanding []).issue.rrb = some [] ∧ (after (exec (.mzero 0 3) (commanding []))).issue.verdict = none
    ∧ (Instr.sgstat 0 1 3).commandRegs (managing []).issue.rrb = some [.x 3] ∧ (after (exec (.sgstat 0 1 3) (managing []))).issue.verdict = none := by
  and_intros <;> first | decide +kernel | exact is_ok (by decide +kernel)
theorem test_witness_SegmentStoreFrame_next : exec (.sts8 0 3 0xF8 6 0) storage = .next (after (exec (.sts8 0 3 0xF8 6 0) storage))
    ∧ exec (.sts4 0 3 0xF8 6 0) storage = .next (after (exec (.sts4 0 3 0xF8 6 0) storage))
    ∧ exec (.mzero 0 3) (commanding []) = .next (after (exec (.mzero 0 3) (commanding [])))
    ∧ exec (.sgstat 0 1 3) (managing []) = .next (after (exec (.sgstat 0 1 3) (managing []))) := by
  and_intros <;> exact is_next (by decide +kernel)

/-! ### Uncorrectable errors (R175, R351, R360) -/

/-- X4 holds an error; the load that owes X1 brought one, its bundle at 8 and its page at granule 3. -/
def marred : State := (owing.modIssue fun j => { j with pendLoads := [⟨0, 0, .memory, [(.x 1, .x 7)], 0, 3 * 2 ^ 20, 8, false, true⟩] }).modCx
  fun c => { c with flaws := [.x 4] }
/-- The word at 16 lost its contents; so did the word at offset 16 of segment 1. -/
def soiledAt : State := { storage with flaws := [2] }
def spoiled : State := imaged.modCcs fun v => { v with flaws := [.seg 0 4] }

theorem test_witness_errors_absent : storage.soiled (countFrom 16 8) = none ∧ (user.ctx 0 0).flaws = []
    ∧ ((stopped .trap).ctx 0 0).flaws = [] ∧ (engine true).ccs.sound 0 = true ∧ (recalling.cs 0).sound 2 = true
    ∧ (windowed 0).soiled (countFrom 8 8) = none ∧ bare.flaws = [] ∧ user.ccs.codeFlawed 1 10 = false
    ∧ ((matrix { CoreState.reset with load := some (runOf loadOp 4 true) }).cs 0).unitFlaw (runOf loadOp 4 true) = none := by
  decide +kernel

theorem test_witness_ScalarSourceReads_errors : marred.readX 1 = .error (.trap 0x0B 0 0 (2 + 3 * 2 ^ 15))
    ∧ Reg.x (physX marred.issue.rrb 4) ∈ marred.cx.flaws ∧ (match marred.readX 4 with | .error (.trap c d s _) => (c, d, s) | _ => (0, 0, 0)) = (0x0B, 15, 0) :=
  ⟨is_error (by decide +kernel), by decide +kernel, by decide +kernel⟩

/-- A load of the word is owed with its error; an aligned store of eight bytes puts the word right, one of four does not. -/
theorem test_witness_ScalarMemoryResults_errors : (soiledAt.soiled (countFrom 16 8)).isSome ∧ soiledAt.issue.ctx < 4
    ∧ soiledAt.locs 0 16 8 false = .ok (countFrom 16 8) :=
  ⟨by decide +kernel, by decide +kernel, is_ok (by decide +kernel)⟩
/-- WAITW of that word. -/
theorem test_witness_SemaphoreWaits_errors : soiledAt.readX 1 = .ok 16 ∧ soiledAt.readX 2 = .ok 3 ∧ soiledAt.cx.waitwEnded = false
    ∧ soiledAt.cx.wait ≠ .waitw (16 / 8 * 8) 3 ∧ verdict (exec (.waitw 0 1 2) soiledAt) = some (.trap 0x0B 0 0 0) := by
  and_intros <;> first | decide +kernel | exact is_ok (by decide +kernel)
theorem test_word_error : ((after (exec (.ld 0 5 1 3 0) soiledAt)).cx.loads.getLast?.map (·.err)) = some true
    ∧ (after (exec (.st 0 2 1 3 0) soiledAt)).flaws = [] ∧ (after (exec (.st 0 2 1 2 0) soiledAt)).flaws = [2] := by decide +kernel

/-- KLOAD of an image with such a word. -/
theorem test_witness_ImagesAndPipes_errors : spoiled.ccs.segNamed (1#8).toNat = some (0, { dataSeg with dirty := true, data := (imaged.ccs.seg 0).elim [] Seg.data })
    ∧ spoiled.ccs.flawedAt 0 16 520 = true ∧ verdict (exec (.kload 0 1 1 1) spoiled) ≠ none := by decide +kernel

/-- Data that came with an error leaves its load owed, and marked. -/
theorem test_witness_ContextEvents_errors : let s := loaded { loadOf .memory with err := true }
    (s.ctx 0 0).loads.find? (fun m => m.id == 4) = some { loadOf .memory with err := true }
    ∧ ((after (exec (.globalLoadArrival 0 0 4 false) s)).ctx 0 0).loads.map (·.bad) = [true] := by decide +kernel

/-- Errors strike at the end of their cycle (R360): one corrected, which is counted, and one in a word of DRAM. -/
theorem test_strikes : let s := { State.reset with strikes := [(0, .dram 3), (0, .word 5), (1, .word 6)] }.tickTurn
    (s.site 3).dramCor = 1 ∧ s.flaws = [5] ∧ s.strikes = [(1, .word 6)] := by decide +kernel

/-! ### Worked examples of the spec -/

def lanesOf (l : List Word) : VReg := Vector.ofFn fun i => l.getD i.val 0
/-- The issuing context with V7 and X registers as given. -/
def withV (n : Nat) (l : List Word) (c : Ctx) : Ctx := { c with v := c.v.setIfInBounds n (lanesOf l) }
/-- The first lanes of the vector result that a context is owed. -/
def lanesOwed (n : Nat) (r : Host.Outcome State Fault Refusal) : List (List Word) :=
  (owed r).map fun e => match e.2 with
    | .v _ l => l.toList.take n
    | _ => []

/-- DIV of the most negative number by -1, and REM by zero (R73). -/
theorem test_div_corners : owed (exec (.div 0 3 1 2 0) (ctx0 ((regs.setX 1 0x8000000000000000).setX 2 0xFFFFFFFFFFFFFFFF))) = [(.x 3, .x 0x8000000000000000)]
    ∧ owed (exec (.rem 0 3 1 2 0) (ctx0 (regs.setX 2 0))) = [(.x 3, .x 10)] := by decide +kernel
/-- The reduction tree of VRED.add.f32 (R135). -/
theorem test_vred_tree : owed (exec (.vred 0 5 7 0 0 2) (ctx0 (withV 7 [0x4B800000, 0x3F800000, 0x3F800000, 0x40000000] regs)))
    = [(.x 5, .x 0x4B800002)] := by decide +kernel
/-- VSCAN.add.i32 of 3, 1, 4, 1 (R136). -/
theorem test_vscan : lanesOwed 4 (exec (.vscan 0 6 7 0 0 0) (ctx0 (withV 7 [3, 1, 4, 1] regs))) = [[3, 4, 8, 9]] := by decide +kernel
/-- VCVT.f32.i32.rtz of 2.5, -0.5 and NaN (R116). -/
theorem test_vcvt : lanesOwed 3 (exec (.vcvt 0 1 2 2 0 1 0) (ctx0 (withV 2 [0x40200000, 0xBF000000, 0x7FC00000] regs))) = [[2, 0, 0]] := by
  decide +kernel
/-- VENC4.bf16 of 5.0, -13.0 and 0.4 at blocks of e2m1 with scale 2 (R121): codes 4, 15 and 0 from code 128 on. -/
theorem test_venc4 : (lanesOwed 17 (exec (.venc4 0 9 4 12 1 1) (ctx0 (withV 4 [0xC15040A0, 0x00003ECD] (regs.setX 12 0x61))))).map (fun l => l.drop 16)
    = [[0x0F4]] := by decide +kernel
/-- AMO.add of 3 to a word of 5 at X2, then CAS of 20 for 8 (R172, R173). -/
theorem test_amo : let s := { ctx0 ((regs.setX 2 16).setX 7 3) with mem := [(16, 5)] }
    (after (exec (.amo 0 6 2 7 0) s)).mem = [(16, 8)] ∧ owed (exec (.amo 0 6 2 7 0) s) = [(.x 6, .x 5)] := by decide +kernel
theorem test_cas : let s := { ctx0 (((regs.setX 2 16).setX 5 8).setX 8 20) with mem := [(16, 8)] }
    (after (exec (.cas 0 5 2 8) s)).mem = [(16, 20)] ∧ owed (exec (.cas 0 5 2 8) s) = [(.x 5, .x 8)] := by decide +kernel
/-- LD.n32 X5, X2, #8 zero-extends, LD.i32 extends the sign (R170). -/
theorem test_ld : owed (exec (.ld 0 5 2 2 2) { ctx0 (regs.setX 2 16) with mem := [(24, 0xFF), (27, 0x80)] }) = [(.x 5, .x 0x800000FF)]
    ∧ owed (exec (.ld 0 5 2 6 2) { ctx0 (regs.setX 2 16) with mem := [(24, 0xFF), (27, 0x80)] }) = [(.x 5, .x 0xFFFFFFFF800000FF)] := by
  decide +kernel
/-- The ranks of 1.0, 3.0, 3.0, -0.0, 2.0 and +0.0 (R218). -/
theorem test_mrank : ((rankRow ([0x3F80, 0x4040, 0x4040, 0x8000, 0x4000, 0x0000].map bf16.unpack)).take 7) = [3, 0, 1, 4, 2, 5, 128] := by
  decide +kernel
/-- TKNEXT near the end of a part: the last chunk is short, and then none is left (R266). -/
theorem test_tknext : owed (exec (.tknext 0 4) (ctx0 { regs with task := some 0, tklo := 960, tkhi := 1000, tkgrain := 64 }))
    = [(.x 4, .x 960), (.x 5, .x 1000)]
    ∧ (after (exec (.tknext 0 4) (ctx0 { regs with task := some 0, tklo := 960, tkhi := 1000, tkgrain := 64 }))).cx.tklo = 1000 := by
  decide +kernel
/-- COPY-REDUCE add of f32 1.0 to 2.0 (R235). -/
theorem test_reduce : ropBytes 0 4 1 (leBytes 4 0x40000000) (leBytes 4 0x3F800000) = leBytes 4 0x40400000 := by decide +kernel
/-- A source of three runs of 64 bytes 256 apart, as a stream (R230). -/
theorem test_places : ([0, 63, 64, 128, 191].map (FDesc.ofBits (2 * 2 ^ 61 + 64 * 2 ^ 64 + 3 * 2 ^ 96 + 2 ^ 112 + 256 * 2 ^ 128)).place) = [0, 63, 256, 512, 575] := by
  decide +kernel
/-- The overlay loader's step of the checksum (R97): 0xA0000003 rotated left by 5, combined with 0x0B618000. -/
theorem test_checksum : checksum (placeBytes 0 (leBytes 4 0xA0000003 ++ leBytes 4 0x0B618000)) 2 = 0x0B618074 := by decide +kernel
/-- A list of capacity 2 that keeps the smaller index among equal values, and whose P7 tells that a candidate entered (R140, R145). -/
theorem test_kins : ((after (exec (.kins 0 2 4 5 1) (ctx0 (withV 5 [9, 5, 7] (withV 4 [0x3F800000, 0x40000000, 0x40000000]
      { regs with m := regs.m.set 1 7, k := regs.k.set 2 { KList.launch with cap := 2 } }))))).cx.landBundles.landCycles.k[2]).entries = [⟨0x40000000, 5⟩, ⟨0x40000000, 7⟩] := by
  decide +kernel

end Sys2Proof.Tests
end

section
/-!
PROOFS. O36: what a CWR leaves in a control register (R62, R90, R289).
-/
namespace Sys2Proof.Machine

/-! ### Words cut to a field -/

/-- The low bits of a word, as a field keeps them and a read extends them. -/
theorem setWidth_field (x : X64) (n : Nat) (hn : n ≤ 64) :
    (x.setWidth n).setWidth 64 = x &&& BitVec.ofNat 64 (2 ^ n - 1) := by
  apply BitVec.eq_of_toNat_eq
  have hp : 2 ^ n ≤ 2 ^ 64 := Nat.pow_le_pow_right (by decide) hn
  have hm : x.toNat % 2 ^ n < 2 ^ 64 := Nat.lt_of_lt_of_le (Nat.mod_lt _ (Nat.two_pow_pos n)) hp
  have hc : (2 ^ n - 1) % 2 ^ 64 = 2 ^ n - 1 := Nat.mod_eq_of_lt (by have := Nat.two_pow_pos n; omega)
  simp only [BitVec.toNat_setWidth, BitVec.toNat_and, BitVec.toNat_ofNat, hc, Nat.and_two_pow_sub_one_eq_mod,
    Nat.mod_eq_of_lt hm]

/-- RRB as a read puts its three bases together (R61). -/
theorem rrb_fields (x : X64) : (x.setWidth 4).setWidth 64 ||| ((x >>> 8).setWidth 4).setWidth 64 <<< 8
    ||| ((x >>> 16).setWidth 3).setWidth 64 <<< 16 = x &&& 0x70F0F := by
  simp only [setWidth_field _ _ (by decide : 4 ≤ 64), setWidth_field _ _ (by decide : 3 ≤ 64)]
  apply BitVec.eq_of_getLsbD_eq
  intro i hi
  interval_cases i <;> simp

/-- MODE as a read puts its fields together (R63). -/
theorem mode_fields (x : X64) (priv : Bool) :
    BitVec.ofNat 64 ((x.getLsbD 0).toNat + 2 * ((x >>> 1).setWidth 2 : BitVec 2).toNat + 256 * priv.toNat)
      = (x &&& 7) ||| (if priv then 256 else 0) := by
  have h7 : x &&& 7 = BitVec.ofNat 64 (x.toNat % 8) := by
    apply BitVec.eq_of_toNat_eq
    rw [BitVec.toNat_and, BitVec.toNat_ofNat, Nat.mod_eq_of_lt (by omega : x.toNat % 8 < 2 ^ 64)]
    exact Nat.and_two_pow_sub_one_eq_mod x.toNat 3
  have hb : (x.getLsbD 0).toNat = x.toNat % 2 := by
    rcases Nat.mod_two_eq_zero_or_one x.toNat with h | h <;> simp [BitVec.getLsbD, Nat.testBit_zero, h]
  have hv : ((x >>> 1).setWidth 2 : BitVec 2).toNat = x.toNat / 2 % 4 := by
    simp [Nat.shiftRight_eq_div_pow]
  have hs : x.toNat % 2 + 2 * (x.toNat / 2 % 4) = x.toNat % 8 := by omega
  rw [hb, hv, hs, h7]
  cases priv with
  | false => simp
  | true =>
    apply BitVec.eq_of_toNat_eq
    have ho : x.toNat % 8 ||| 256 = 256 + x.toNat % 8 := by
      rw [Nat.or_comm]; exact (Nat.two_pow_add_eq_or_of_lt (i := 8) (by omega) 1).symm
    rw [if_pos rfl, BitVec.toNat_or, BitVec.toNat_ofNat, BitVec.toNat_ofNat, Nat.mod_eq_of_lt (by omega : x.toNat % 8 < 2 ^ 64)]
    exact (Nat.mod_eq_of_lt (by simp; omega)).trans ((Nat.add_comm _ _).trans ho.symm)

/-! ### A read after a write -/

/-- What a control-register read depends on (R62). -/
theorem State.crnRead_congr {s t : State} {core : Nat} (hcs : t.cs core = s.cs core) (hcycle : t.cycle = s.cycle)
    (hpod : t.pod = s.pod) (k n : Nat) : t.crnRead core k n = s.crnRead core k n := by
  unfold State.crnRead State.ctx
  rw [hcs, hcycle, hpod]

theorem CoreState.setCtx_ctx (v : CoreState) (k : Nat) : v.setCtx k (v.ctx k) = v := by
  have h : v.ctxs.setIfInBounds k (v.ctx k) = v.ctxs := by
    ext i hi : 1
    by_cases he : k = i
    · subst he; simp [CoreState.ctx, hi]
    · simp [he]
  unfold CoreState.setCtx
  rw [h]

/-- A change that changes nothing of a context leaves its core. -/
theorem State.core_modCtx_id (s : State) (core k : Nat) : (s.modCtx core k fun c => c).core core = s.core core := by
  have h : (s.cs core).setCtx k ((s.cs core).ctx k) = s.cs core := CoreState.setCtx_ctx _ _
  unfold State.modCtx State.modCS State.modCore
  rw [State.core_setCore]
  exact congrArg (fun v => ({ s.core core with cur := v } : Core)) h

/-- A context's register reads as the context stands after the write (R90). -/
theorem State.crnRead_crnWrite (s : State) (core : Nat) {k n : Nat} (x : X64) (hk : k < 4) (f : Ctx → X64)
    (hf : ∀ t : State, t.crnRead core k n = some (f (t.ctx core k))) :
    (s.crnWrite core k n x).crnRead core k n = some (f ((s.ctx core k).crnWrite n x)) := by
  rw [hf, State.crnWrite_ctx _ _ _ _ _ hk]

/-- A write of a number that neither the core nor its contexts take is ignored (R7). -/
theorem State.crnRead_crnWrite_ignored (s : State) (core k n m : Nat) (x : X64) (hc : ∀ t : State, t.coreCrnWrite core n x = t)
    (hx : ∀ c : Ctx, c.crnWrite n x = c) : (s.crnWrite core k n x).crnRead core k m = s.crnRead core k m := by
  have hw : s.crnWrite core k n x = s.modCtx core k fun c => c := by
    unfold State.crnWrite; rw [hc]; simp only [hx]
  rw [hw]
  exact State.crnRead_congr (congrArg Core.cur (s.core_modCtx_id core k)) rfl rfl k m

/-- A privileged register's write changes the running partition's state of the core (R62). -/
theorem State.crnWrite_cs (s : State) (core k n : Nat) (x : X64) (g : Core → CoreState → CoreState)
    (hg : ∀ t : State, t.coreCrnWrite core n x = t.modCS core (g (t.core core))) (hx : ∀ c : Ctx, c.crnWrite n x = c) :
    (s.crnWrite core k n x).cs core = g (s.core core) (s.cs core) := by
  unfold State.crnWrite
  simp only [hx]
  rw [hg, State.cs_modCS, State.core_modCtx_id]
  exact congrArg (fun v : Core => g (s.core core) v.cur) (s.core_modCtx_id core k)

theorem State.crnWrite_mem (s : State) (core k n : Nat) (x : X64) : (s.crnWrite core k n x).mem = s.mem := by
  unfold State.crnWrite State.coreCrnWrite
  split <;> rfl

/-! ### SGQUOTA (R289) -/

theorem foldl_max_le {α : Type} (f : α → Nat) (l : List α) (n : Nat) : ∀ a : Nat,
    l.foldl (fun m t => Nat.max m (f t)) a ≤ n ↔ a ≤ n ∧ ∀ t ∈ l, f t ≤ n := by
  induction l with
  | nil => intro a; simp
  | cons t r ih => intro a; rw [List.foldl_cons, ih, Nat.max_le, List.forall_mem_cons, and_assoc]

/-- The largest known-set sum is the least bound of the tickets' sums. -/
theorem CoreState.largestSet_le (v : CoreState) (n : Nat) :
    v.largestSet ≤ n ↔ ∀ t ∈ v.tickets, v.setSum t.known + t.extra ≤ n :=
  (foldl_max_le _ _ _ _).trans (and_iff_right (Nat.zero_le _))

/-- It is the sum of a ticket that no ticket exceeds. -/
theorem CoreState.largestSet_eq {v : CoreState} {t : Ticket} (ht : t ∈ v.tickets)
    (h : ∀ u ∈ v.tickets, v.setSum u.known + u.extra ≤ v.setSum t.known + t.extra) :
    v.largestSet = v.setSum t.known + t.extra :=
  Nat.le_antisymm ((v.largestSet_le _).mpr h) ((v.largestSet_le _).mp (Nat.le_refl _) t ht)

theorem CoreState.clampQuota_eq (v : CoreState) (store q : Nat) :
    v.clampQuota store q = min (max q v.largestSet) (store - v.pinnedTotal) := rfl

/-! ### The innermost loop level (R84) -/

/-- LC and EC read after their writes: the bits written, and 0 where the stack is empty. -/
theorem State.crnRead_crnWrite_loop (s : State) (core : Nat) {k : Nat} (x : X64) (hk : k < 4) :
    ((s.ctx core k).loops ≠ [] → (s.crnWrite core k 0x01 x).crnRead core k 0x01 = some (x &&& 0xFFFFFFFF)
      ∧ (s.crnWrite core k 0x02 x).crnRead core k 0x02 = some (x &&& 15))
    ∧ ((s.ctx core k).loops = [] → (s.crnWrite core k 0x01 x).crnRead core k 0x01 = some 0
      ∧ (s.crnWrite core k 0x02 x).crnRead core k 0x02 = some 0) := by
  have hlc := s.crnRead_crnWrite core x hk (fun c => match c.loops with | l :: _ => l.lc.setWidth 64 | [] => 0) (n := 0x01) fun _ => rfl
  have hec := s.crnRead_crnWrite core x hk (fun c => match c.loops with | l :: _ => l.ec.setWidth 64 | [] => 0) (n := 0x02) fun _ => rfl
  rw [hlc, hec]
  cases hl : (s.ctx core k).loops with
  | nil => simp [Ctx.crnWrite, Ctx.setInner, hl]
  | cons l r =>
    have h32 := setWidth_field x 32 (by decide)
    have h4 := setWidth_field x 4 (by decide)
    simpa [Ctx.crnWrite, Ctx.setInner, hl] using And.intro h32 h4

/-- The numbers of R62 that a CWR leaves as they are (R7). -/
theorem crnWrite_readOnly {n : Nat} (h : n ∈ [0x0B, 0x0C, 0x11, 0x18, 0x19, 0x1A, 0x1B, 0x1C, 0x1D, 0x1E, 0x1F, 0x20, 0x28, 0x29, 0x2A,
    0x2B, 0x2C, 0x30, 0x31, 0x32, 0x33, 0x34, 0x38]) (core : Nat) (x : X64) :
    (∀ t : State, t.coreCrnWrite core n x = t) ∧ ∀ c : Ctx, c.crnWrite n x = c := by
  fin_cases h <;> exact ⟨fun _ => rfl, fun _ => rfl⟩

/-- SGQUOTA after a write: the value raised to the largest outstanding sum, within what the PINNED total leaves of the store. -/
theorem State.crnWrite_quota (s : State) (core k : Nat) (x : X64) :
    ((s.crnWrite core k 0x80 x).cs core).quota = (s.cs core).clampQuota (storeGranules (s.core core).cacheKiB) x.toNat :=
  congrArg CoreState.quota
    (s.crnWrite_cs core k 0x80 x (fun w v => { v with quota := v.clampQuota (storeGranules w.cacheKiB) x.toNat }) (fun _ => rfl) fun _ => rfl)

/-- Settles O36: each written field is read back through the context's or the core's part of the write, SGQUOTA through its
clamp, and a read-only number through a write that changes nothing. -/
theorem controlRegisterWrites : Obligations.ControlRegisterWrites := by
  intro s core k x hk w reads
  have ctx := fun n => s.crnRead_crnWrite core x hk (n := n)
  have cs := fun n g hg => s.crnWrite_cs core k n x (fun _ => g) hg
  have h32 := setWidth_field x 32 (by decide)
  have h16 := setWidth_field x 16 (by decide)
  refine ⟨ctx 0x00 Ctx.link fun _ => rfl, ctx 0x09 Ctx.tvec fun _ => rfl, ctx 0x0A Ctx.tpc fun _ => rfl, ctx 0x0D Ctx.tsave fun _ => rfl,
    ctx 0x21 Ctx.bcount fun _ => rfl, (ctx 0x10 (fun c => c.wstep.setWidth 64) fun _ => rfl).trans (congrArg some h32),
    (ctx 0x41 (fun c => c.barto.setWidth 64) fun _ => rfl).trans (congrArg some h32),
    (ctx 0x42 (fun c => c.waitto.setWidth 64) fun _ => rfl).trans (congrArg some h32),
    (ctx 0x03 (fun c => c.rrb.xb.setWidth 64 ||| c.rrb.vb.setWidth 64 <<< 8 ||| c.rrb.pb.setWidth 64 <<< 16) fun _ => rfl).trans
      (congrArg some (rrb_fields x)),
    (ctx 0x08 (fun c => BitVec.ofNat 64 (c.mode.ilk.toNat + 2 * c.mode.vrm.toNat + 256 * c.mode.priv.toNat)) fun _ => rfl).trans
      (congrArg some (mode_fields x _)),
    ctx 0x40 (fun c => BitVec.ofNat 64 c.nprlim) fun _ => rfl,
    (s.crnRead_crnWrite_loop core x hk).1, (s.crnRead_crnWrite_loop core x hk).2,
    congrArg (fun v : CoreState => some v.ovfptr) (cs 0x81 (fun v => { v with ovfptr := x }) (fun _ => rfl) fun _ => rfl),
    (congrArg (fun v : CoreState => some (v.asid.setWidth 64))
      (cs 0x82 (fun v => { v with asid := x.setWidth 16 }) (fun _ => rfl) fun _ => rfl)).trans (congrArg some h16),
    congrArg (fun v : CoreState => some v.ptbase) (cs 0x83 (fun v => { v with ptbase := x }) (fun _ => rfl) fun _ => rfl), ?quota,
    fun n hn m => ?readOnly, fun n => ⟨s.crnWrite_mem core k n x, rfl⟩⟩
  case quota =>
    intro v most sum q
    have hq : q = v.clampQuota (storeGranules (s.core core).cacheKiB) x.toNat := s.crnWrite_quota core k x
    rw [CoreState.clampQuota_eq] at hq
    change q = min (max x.toNat v.largestSet) most at hq
    refine ⟨rfl, by omega, fun h => by omega, fun h hx => ?within, fun t ht hu hx hs => ?raised⟩
    case within =>
      have hl : v.largestSet ≤ x.toNat := (v.largestSet_le _).mpr h
      omega
    case raised =>
      have hl : v.largestSet = sum t := CoreState.largestSet_eq ht hu
      omega
  case readOnly =>
    obtain ⟨hcore, hctx⟩ := crnWrite_readOnly hn core x
    exact s.crnRead_crnWrite_ignored core k n m x hcore hctx

end Sys2Proof.Machine
end

section
/-!
PROOFS. O55: the host's accesses. The control window's areas and the vectors pending (R368, R371).
-/
namespace Sys2Proof

/-! ### Bytes of a table -/

@[simp] theorem Tab.writeBytes_nil (t : Tab Byte) (a : Nat) : t.writeBytes a [] = t := rfl

theorem Tab.writeBytes_cons (t : Tab Byte) (a : Nat) (b : Byte) (r : List Byte) :
    t.writeBytes a (b :: r) = (t.write 0 a b).writeBytes (a + 1) r := rfl

/-- A byte below the place written reads as before. -/
theorem Tab.read_writeBytes_below (bs : List Byte) : ∀ (t : Tab Byte) (a : Nat) {k : Nat}, k < a →
    (t.writeBytes a bs).read 0 k = t.read 0 k := by
  induction bs with
  | nil => intros; rfl
  | cons b r ih =>
    intro t a k h
    rw [Tab.writeBytes_cons, ih _ _ (Nat.lt_succ_of_lt h), Tab.read_write_other _ _ _ (Nat.ne_of_lt h)]

/-- Bytes written are read back. -/
theorem readBytes_writeBytes (bs : List Byte) : ∀ (t : Tab Byte) (a : Nat),
    readBytes (fun k => (t.writeBytes a bs).read 0 k) a bs.length = bs := by
  induction bs with
  | nil => intros; rfl
  | cons b r ih =>
    intro t a
    have hb : (t.writeBytes a (b :: r)).read 0 a = b := by
      rw [Tab.writeBytes_cons, Tab.read_writeBytes_below _ _ _ (Nat.lt_succ_self a), Tab.read_write_same]
    exact congrArg₂ List.cons hb (ih (t.write 0 a b) (a + 1))

/-- The first of consecutive bytes read. -/
theorem readBytes_take (rd : Nat → Byte) (n : Nat) : ∀ (m a : Nat), m ≤ n → readBytes rd a m = (readBytes rd a n).take m := by
  induction n with
  | zero => intro m a h; rw [Nat.le_zero.mp h]; rfl
  | succ n ih =>
    intro m a h
    cases m with
    | zero => rfl
    | succ m => exact congrArg (rd a :: ·) (ih m (a + 1) (Nat.le_of_succ_le_succ h))

@[simp] theorem leBytes_length (n v : Nat) : (leBytes n v).length = n := by
  induction n generalizing v with
  | zero => rfl
  | succ n ih => exact congrArg Nat.succ (ih _)

/-- A key that no entry of a table has reads as none. -/
theorem Tab.get_none {α : Type} {t : Tab α} {n : Nat} (h : ∀ e ∈ t, e.1 ≠ n) : t.get n = none := by
  cases hg : t.get n with
  | none => rfl
  | some w => exact absurd rfl (h _ (Machine.Tab.get_mem hg))

end Sys2Proof

namespace Sys2Proof.Machine

/-! ### Areas of the control window (R368, R371) -/

theorem State.winStore_nil (s : State) (a : Nat) : s.winStore a [] = s := rfl

/-- Of a write that lies in an area all is stored. -/
theorem State.winStoreIn_inside (s : State) {lo hi off : Nat} {bs : List Byte} (hlo : lo ≤ off) (hhi : off + bs.length ≤ hi) :
    s.winStoreIn lo hi off bs = s.winStore off bs := by
  have ha : Nat.max lo off = off := Nat.max_eq_right hlo
  simp only [State.winStoreIn]
  rw [ha, Nat.sub_self, List.drop_zero, List.take_of_length_le (by omega)]

/-- Of a write that lies beside an area nothing is stored. -/
theorem State.winStoreIn_outside (s : State) {lo hi off : Nat} {bs : List Byte} (h : off + bs.length ≤ lo ∨ hi ≤ off) :
    s.winStoreIn lo hi off bs = s := by
  have he : (bs.drop (Nat.max lo off - off)).take (hi - Nat.max lo off) = [] := by
    rcases h with h | h
    · have : lo ≤ Nat.max lo off := Nat.le_max_left _ _
      rw [List.drop_eq_nil_of_le (by omega), List.take_nil]
    · have : off ≤ Nat.max lo off := Nat.le_max_right _ _
      rw [Nat.sub_eq_zero_of_le (by omega), List.take_zero]
  simp only [State.winStoreIn]
  rw [he]
  rfl

/-! ### Pending vectors (R367, R368) -/

/-- A pending vector that the table does not mask is sent. -/
def State.sendVector (s : State) (n : Nat) : State :=
  if s.host.pending.getLsbD n && !(s.host.window.read 0 (0x400C + 16 * n)).getLsbD 0 then
    { s with host := { s.host with pending := s.host.pending &&& ~~~(BitVec.ofNat 32 (2 ^ n)), msix := s.host.msix ++ [n] } }
  else s

theorem State.sendPending_eq (s : State) : s.sendPending = (List.range 32).foldl State.sendVector s := rfl

theorem State.sendVector_idle {s : State} {n : Nat} (h : s.host.pending.getLsbD n = false) : s.sendVector n = s := by
  simp [State.sendVector, h]

theorem State.sendVector_masked {s : State} {n : Nat} (h : (s.host.window.read 0 (0x400C + 16 * n)).getLsbD 0 = true) :
    s.sendVector n = s := by rw [State.sendVector, h, Bool.not_true, Bool.and_false]; rfl

/-- With no vector pending nothing is sent. -/
theorem State.sendPending_idle {s : State} (h : s.host.pending = 0) : s.sendPending = s :=
  List.foldl_fixed' (fun n => State.sendVector_idle (by simp [h])) _

/-- The pending bit of one vector. -/
theorem vectorBit {k : Nat} (hk : k < 32) (n : Nat) : (BitVec.ofNat 32 (2 ^ k)).getLsbD n = decide (k = n) := by
  rw [BitVec.getLsbD_ofNat, Nat.testBit_two_pow]
  by_cases h : k = n
  · subst h; simp [hk]
  · simp [h]

/-- The one vector that is pending stays so while the table masks it. -/
theorem State.sendPending_masked {s : State} {k : Nat} (hk : k < 32) (hp : s.host.pending = BitVec.ofNat 32 (2 ^ k))
    (hm : (s.host.window.read 0 (0x400C + 16 * k)).getLsbD 0 = true) : s.sendPending = s := by
  refine List.foldl_fixed' (fun n => ?_) _
  by_cases hn : n = k
  · exact State.sendVector_masked (hn ▸ hm)
  · exact State.sendVector_idle (by rw [hp, vectorBit hk, decide_eq_false (Ne.symm hn)])

/-- The one vector that is pending is sent where the table does not mask it. -/
theorem State.sendPending_one {s : State} {k : Nat} (hk : k < 32) (hp : s.host.pending = BitVec.ofNat 32 (2 ^ k))
    (hm : (s.host.window.read 0 (0x400C + 16 * k)).getLsbD 0 = false) :
    s.sendPending = { s with host := { s.host with pending := 0, msix := s.host.msix ++ [k] } } := by
  have hsend : s.sendVector k = { s with host := { s.host with pending := 0, msix := s.host.msix ++ [k] } } := by
    rw [State.sendVector, hm, hp, vectorBit hk, decide_eq_true rfl, BitVec.and_not_self]
    rfl
  have hfold : ∀ m, (List.range m).foldl State.sendVector s = if k < m then s.sendVector k else s := by
    intro m
    induction m with
    | zero => rfl
    | succ m ih =>
      rw [List.range_succ, List.foldl_append, List.foldl_cons, List.foldl_nil, ih]
      rcases Nat.lt_trichotomy k m with h | h | h
      · rw [if_pos h, if_pos (by omega), hsend, State.sendVector_idle (by simp)]
      · rw [if_neg (by omega), if_pos (by omega), h]
      · rw [if_neg (by omega), if_neg (by omega), State.sendVector_idle (by rw [hp, vectorBit hk, decide_eq_false (by omega)])]
  rw [State.sendPending_eq, hfold, if_pos hk, hsend]

/-! ### A write in the control window (R368, R371) -/

/-- A write that commits no launch vector and names no register goes to the areas it meets. -/
theorem execControlWindowWrite_areas {s : State} {off : BitVec 17} {data : List Byte} (hr : off.toNat ∉ [0x20, 0x30, 0x38])
    (hc : off.toNat < 0x10000 ∨ s.host.ready = false ∨ data.length ≠ 8) : exec (.controlWindowWrite off data) s
      = .next ((s.winStoreIn 0x1000 0x4200 off.toNat data).winStoreIn 0x10000 0x18000 off.toNat data).sendPending := by
  have h20 : off.toNat ≠ 0x20 := fun e => hr (by simp [e])
  have h30 : off.toNat ≠ 0x30 := fun e => hr (by simp [e])
  have h38 : off.toNat ≠ 0x38 := fun e => hr (by simp [e])
  have hn : ¬ (0x10000 ≤ off.toNat ∧ off.toNat % 64 = 0 ∧ data.length = 8 ∧ off.toNat < 0x18000 ∧ s.host.ready = true) := by
    rintro ⟨h1, -, h2, -, h3⟩
    rcases hc with h | h | h
    · omega
    · rw [h] at h3; cases h3
    · exact h h2
  change execControlWindowWrite off data s = _
  unfold execControlWindowWrite
  simp only [if_neg hn, if_neg h20, if_neg h30, if_neg h38]

/-- The request and reply areas, the notice ring and the MSI-X table store what is written. -/
theorem execControlWindowWrite_lower {s : State} {off : BitVec 17} {data : List Byte} (hlo : 0x1000 ≤ off.toNat)
    (hhi : off.toNat + data.length ≤ 0x4200) :
    exec (.controlWindowWrite off data) s = .next (s.winStore off.toNat data).sendPending := by
  rw [execControlWindowWrite_areas (by simp; omega) (.inl (by omega)), State.winStoreIn_inside _ hlo hhi,
    State.winStoreIn_outside _ (.inl (by omega))]

/-- The launch vectors store what is written while READY is 0. -/
theorem execControlWindowWrite_vectors {s : State} {off : BitVec 17} {data : List Byte} (hr : s.host.ready = false)
    (hlo : 0x10000 ≤ off.toNat) (hhi : off.toNat + data.length ≤ 0x18000) :
    exec (.controlWindowWrite off data) s = .next (s.winStore off.toNat data).sendPending := by
  rw [execControlWindowWrite_areas (by simp; omega) (.inr (.inl hr)),
    State.winStoreIn_outside (lo := 0x1000) (hi := 0x4200) _ (.inr (by omega)), State.winStoreIn_inside _ hlo hhi]

/-- A write beside the areas and the registers is ignored (R7). -/
theorem execControlWindowWrite_reserved {s : State} {off : BitVec 17} {data : List Byte} (hp : s.host.pending = 0)
    (hr : off.toNat ∉ [0x20, 0x30, 0x38])
    (h : off.toNat + data.length ≤ 0x1000 ∨ 0x4200 ≤ off.toNat ∧ off.toNat + data.length ≤ 0x10000) :
    exec (.controlWindowWrite off data) s = .next s := by
  rw [execControlWindowWrite_areas hr (by omega), State.winStoreIn_outside _ (by omega), State.winStoreIn_outside _ (by omega),
    State.sendPending_idle hp]

/-- The aligned 8-byte write of a launch vector's first bytes while READY is 1. -/
theorem execControlWindowWrite_commit {s : State} {off : BitVec 17} {data : List Byte} (c : BitVec 9) (hr : s.host.ready = true)
    (ho : off.toNat = 0x10000 + 64 * c.toNat) (hn : data.length = 8) :
    exec (.controlWindowWrite off data) s = exec (.launchCommit c (BitVec.ofNat 64 (leNat data))) s := by
  have hc := c.isLt
  change execControlWindowWrite off data s = execLaunchCommit c (BitVec.ofNat 64 (leNat data)) s
  unfold execControlWindowWrite execLaunchCommit
  have hm : (off.toNat - 0x10000) / 64 = c.toNat := by omega
  simp only [if_pos (⟨by omega, by omega, hn, by omega, hr⟩ : 0x10000 ≤ off.toNat ∧ off.toNat % 64 = 0 ∧ data.length = 8
    ∧ off.toNat < 0x18000 ∧ s.host.ready = true), if_pos hr, hm]

/-- While READY is 0 a commit word is stored and launches nothing (R369, R371). -/
theorem execLaunchCommit_unready {s : State} (h : s.host.ready = false) (c : BitVec 9) (word : X64) :
    exec (.launchCommit c word) s = .next (s.winStore (0x10000 + 64 * c.toNat) (leBytes 8 word.toNat)) := by
  change execLaunchCommit c word s = _
  rw [execLaunchCommit, if_neg (by rw [h]; decide)]
  rfl

end Sys2Proof.Machine
end

section
/-!
PROOFS. O55: registers of the control window, the mailbox's reply and the accesses of the device-memory window (R370, R372,
R374, R376).
-/
namespace Sys2Proof.Machine

/-! ### Vectors raised and notices (R367, R374) -/

/-- A raised vector changes the pending bits and the messages alone. -/
theorem HostSide.raise_frame (h : HostSide) (n : Nat) : ∃ p m, h.raise n = { h with pending := p, msix := m } := by
  unfold HostSide.raise
  split <;> exact ⟨_, _, rfl⟩

@[simp] theorem HostSide.raise_window (h : HostSide) (n : Nat) : (h.raise n).window = h.window := by
  obtain ⟨p, m, e⟩ := h.raise_frame n; rw [e]
@[simp] theorem HostSide.raise_ready (h : HostSide) (n : Nat) : (h.raise n).ready = h.ready := by
  obtain ⟨p, m, e⟩ := h.raise_frame n; rw [e]
@[simp] theorem HostSide.raise_recov (h : HostSide) (n : Nat) : (h.raise n).recov = h.recov := by
  obtain ⟨p, m, e⟩ := h.raise_frame n; rw [e]
@[simp] theorem HostSide.raise_replies (h : HostSide) (n : Nat) : (h.raise n).replies = h.replies := by
  obtain ⟨p, m, e⟩ := h.raise_frame n; rw [e]

/-- A vector raised is pending where the table masks it, and sent where it does not (R368). -/
theorem HostSide.raise_vector (h : HostSide) {n : Nat} (hn : n < 32) :
    if ((h.raise n).window.read 0 (0x400C + 16 * n)).getLsbD 0 then
      (h.raise n).pending.getLsbD n = true ∧ (h.raise n).msix = h.msix
    else (h.raise n).msix = h.msix ++ [n] := by
  rw [HostSide.raise_window]
  by_cases hm : (h.window.read 0 (0x400C + 16 * n)).getLsbD 0 = true
  · rw [if_pos hm, HostSide.raise, if_pos hm]
    exact ⟨by rw [BitVec.getLsbD_or, vectorBit hn, decide_eq_true rfl, Bool.or_true], rfl⟩
  · rw [if_neg hm, HostSide.raise, if_neg hm]

theorem State.notice_replies (s : State) (kind part core : Nat) (body : List (Nat × List Byte)) :
    (s.notice kind part core body).host.replies = s.host.replies := by
  unfold State.notice State.postBytes
  dsimp only
  split
  · rfl
  · exact HostSide.raise_replies _ _

/-! ### FEAT_ACCEPT, NOTICE and DOORBELL (R370, R372, R374) -/

theorem State.acceptFeatures_ready {s : State} (hr : s.host.ready = true) (hp : s.partitions = []) (v : BitVec 128) :
    s.acceptFeatures v = { s with host := { s.host with featAccept := v &&& 1 } } := by
  simp [State.acceptFeatures, hr, hp]

theorem State.acceptFeatures_ignored {s : State} (h : s.host.ready = false ∨ s.partitions ≠ []) (v : BitVec 128) :
    s.acceptFeatures v = s := by
  have hn : ¬ (s.host.ready && s.partitions.isEmpty) = true := by
    rw [Bool.and_eq_true, List.isEmpty_iff]
    rintro ⟨hr, hp⟩
    rcases h with h | h
    · rw [h] at hr; cases hr
    · exact h hp
  rw [State.acceptFeatures, if_neg hn]

/-- With no notice held NRD alone moves. -/
theorem State.ackNotices_none {s : State} (h : s.host.heldNotices = []) (nrd : BitVec 16) :
    s.ackNotices nrd = { s with host := { s.host with nrd := nrd } } := by
  simp only [State.ackNotices, State.releaseNotices, h, List.foldl_nil]

theorem State.ringDoorbell_accepted {s : State} {v : Nat} (hb : s.host.busy = false) (hv : v % 2 ^ 16 = s.winNat 0x1002 2) :
    s.ringDoorbell v = { s with host := { s.host with busy := true, doorbell := BitVec.ofNat 64 (v % 2 ^ 16) } } := by
  rw [State.ringDoorbell, hb, hv, Bool.false_or, bne_self_eq_false]
  rfl

/-- A write at FEAT_ACCEPT, NOTICE or DOORBELL is the register's (R368). -/
theorem execControlWindowWrite_featAccept {s : State} {off : BitVec 17} (data : List Byte) (ho : off.toNat = 0x20) :
    exec (.controlWindowWrite off data) s = exec (.featAcceptWrite (BitVec.ofNat 128 (leNat (data.take 16)))) s := by
  change execControlWindowWrite off data s = execFeatAcceptWrite _ s
  simp [execControlWindowWrite, execFeatAcceptWrite, ho]

theorem execControlWindowWrite_notice {s : State} {off : BitVec 17} {data : List Byte} (ho : off.toNat = 0x38)
    (hn : 4 ≤ data.length) :
    exec (.controlWindowWrite off data) s = exec (.noticeAck (BitVec.ofNat 16 (leNat ((data.drop 2).take 2)))) s := by
  change execControlWindowWrite off data s = execNoticeAck _ s
  simp [execControlWindowWrite, execNoticeAck, ho, hn]

theorem execControlWindowWrite_doorbell {s : State} {off : BitVec 17} {data : List Byte} (ho : off.toNat = 0x30)
    (hn : 2 ≤ data.length) : exec (.controlWindowWrite off data) s = .next (s.ringDoorbell (leNat (data.take 8))) := by
  change execControlWindowWrite off data s = _
  simp [execControlWindowWrite, ho, hn]

/-! ### The mailbox's reply (R372) -/

/-- The 8 bytes of a reply's header. -/
theorem State.sendReply_header (s : State) (status detail : Nat) :
    readBytes (fun a => (s.sendReply status detail).host.window.read 0 a) 0x2000 8
      = leBytes 2 status ++ leBytes 2 (s.winNat 0x1002 2) ++ leBytes 2 0 ++ leBytes 2 detail := by
  have hw : (s.sendReply status detail).host.window = s.host.window.writeBytes 0x2000
      (leBytes 2 status ++ leBytes 2 (s.winNat 0x1002 2) ++ leBytes 2 0 ++ leBytes 2 detail) := HostSide.raise_window _ _
  rw [hw]
  exact readBytes_writeBytes _ _ _

/-- A reply leaves BUSY 0 and no reply owed, memory as it was, and vector 0 raised. -/
theorem State.sendReply_effects (s : State) (status detail : Nat) : let t := s.sendReply status detail
    t.mem = s.mem ∧ t.host.busy = false ∧ t.host.reply = none
      ∧ (if (t.host.window.read 0 0x400C).getLsbD 0 then t.host.pending.getLsbD 0 = true ∧ t.host.msix = s.host.msix
        else t.host.msix = s.host.msix ++ [0]) :=
  ⟨rfl, rfl, rfl, HostSide.raise_vector { s.host with window := _ } (by decide : 0 < 32)⟩

theorem execMailboxReply_owed {s : State} {status detail : Nat} (hr : s.host.reply = some (status, detail))
    (hb : s.host.busy = true) : exec .mailboxReply s = .next (s.sendReply status detail) := by
  change execMailboxReply s = _
  simp [execMailboxReply, hr, hb]

theorem execMailboxReply_unknown {s : State} (hr : s.host.reply = none) (hw : s.reqWaits = true)
    (ho : s.reqOp = 0 ∨ 11 < s.reqOp) : exec .mailboxReply s
      = .next (State.sendReply { s with fresh := s.fresh + 1 } 3 (Config.replyDetail s.fresh).toNat) := by
  change execMailboxReply s = _
  have hc : (s.reqWaits && (s.reqOp == 0 || decide (11 < s.reqOp))) = true := by simp [hw, ho]
  unfold execMailboxReply
  rw [hr]
  dsimp only
  rw [if_pos hc]

/-! ### Accesses of the device-memory window (R376) -/

theorem dividedAccess_short {off n : Nat} (h : n ≤ 8) : dividedAccess off n = [(off, n)] := if_pos h

theorem State.windowLocs_unbound {s : State} {off : Nat} (h : s.window off = none) (n : Nat) (write : Bool) :
    s.windowLocs off n write = .error .unbound := by simp only [State.windowLocs, h]

theorem State.windowLocs_ok {s : State} {off a part va n : Nat} {write : Bool} {ls : List Nat} (h : s.window off = some (a, part, va))
    (hi : off % s.apertureSize + n ≤ s.apertureSize) (hl : s.partLocs part va n write = .ok ls) :
    s.windowLocs off n write = .ok ls := by simp only [State.windowLocs, h, if_pos hi, hl]

theorem State.windowLocs_failed {s : State} {off a part va n : Nat} {write : Bool} {e : Nat × Nat} (h : s.window off = some (a, part, va))
    (hi : off % s.apertureSize + n ≤ s.apertureSize) (hl : s.partLocs part va n write = .error e) :
    s.windowLocs off n write = .error (.failed a part e.1 e.2) := by simp only [State.windowLocs, h, if_pos hi, hl]

/-- A read of an unbound offset is an Unsupported Request. -/
theorem execHostWindowRead_unbound {s : State} {place : WindowPlace} {len : BitVec 13} (h : s.window place.off.toNat = none)
    (hn : len.toNat ≤ 8) : exec (.hostWindowRead place len) s = .next (s.hostReply .unsupported) := by
  change execHostWindowRead place len s = _
  simp only [execHostWindowRead, dividedAccess_short hn, State.hostRead, State.windowLocs_unbound h, State.hostFail]

/-- A write of an unbound offset is dropped. -/
theorem execHostWindowWrite_unbound {s : State} {place : WindowPlace} {data : List Byte} (h : s.window place.off.toNat = none)
    (hn : data.length ≤ 8) : exec (.hostWindowWrite place data) s = .next s := by
  change execHostWindowWrite place data s = _
  simp only [execHostWindowWrite, dividedAccess_short hn, State.hostWrite, State.windowLocs_unbound h]

theorem State.hostAtomic_unbound {s : State} {off : Nat} (h : s.window off = none) (n : Nat) (f : Nat → Option Nat) :
    s.hostAtomic off n f = s.hostReply .unsupported := by simp only [State.hostAtomic, h]

/-- A read of sound words that translate answers their bytes. -/
theorem execHostWindowRead_sound {s : State} {place : WindowPlace} {len : BitVec 13} {a part va : Nat} {ls : List Nat}
    (h : s.window place.off.toNat = some (a, part, va)) (hn : len.toNat ≤ 8)
    (hi : place.off.toNat % s.apertureSize + len.toNat ≤ s.apertureSize) (hl : s.partLocs part va len.toNat false = .ok ls)
    (hs : s.soiled ls = none) :
    exec (.hostWindowRead place len) s = .next ((s.siteLines ls false).hostReply (.data (s.bytesAt ls))) := by
  change execHostWindowRead place len s = _
  simp only [execHostWindowRead, dividedAccess_short hn, State.hostRead, State.windowLocs_ok h hi hl, hs, List.nil_append]

/-- A read that does not translate is a Completer Abort, with a notice. -/
theorem execHostWindowRead_failed {s : State} {place : WindowPlace} {len : BitVec 13} {a part va : Nat} {e : Nat × Nat}
    (h : s.window place.off.toNat = some (a, part, va)) (hn : len.toNat ≤ 8)
    (hi : place.off.toNat % s.apertureSize + len.toNat ≤ s.apertureSize) (hl : s.partLocs part va len.toNat false = .error e) :
    exec (.hostWindowRead place len) s = .next ((s.windowNotice a part e.1 e.2).hostReply .abort) := by
  change execHostWindowRead place len s = _
  simp only [execHostWindowRead, dividedAccess_short hn, State.hostRead, State.windowLocs_failed h hi hl, State.hostFail]

theorem execHostWindowWrite_bound {s : State} {place : WindowPlace} {data : List Byte} {a part va : Nat} {ls : List Nat}
    (h : s.window place.off.toNat = some (a, part, va)) (hn : data.length ≤ 8)
    (hi : place.off.toNat % s.apertureSize + data.length ≤ s.apertureSize) (hl : s.partLocs part va data.length true = .ok ls) :
    exec (.hostWindowWrite place data) s = .next (s.hostStore place.off.toNat ls data) := by
  change execHostWindowWrite place data s = _
  simp only [execHostWindowWrite, dividedAccess_short hn, State.hostWrite, State.windowLocs_ok h hi hl, List.take_length]

/-! ### Quiet states stay quiet (R318, R320) -/

/-- A state whose counters are all another's, and which owes no action, is as quiet as that one. -/
theorem State.quiet.of_counters {s t : State} (h : s.quiet) (ha : t.actions = s.actions) (hc : ∀ c ∈ t.counters, c ∈ s.counters) :
    t.quiet := ⟨ha.trans h.1, fun c hm => h.2 c (hc c hm)⟩

/-- A change of a site that keeps its counters adds none. -/
theorem State.modSite_counters (s : State) (n : Nat) (f : Site → Site) (hf : (f (s.site n)).landing = (s.site n).landing) :
    ∀ c ∈ (s.modSite n f).counters, c ∈ s.counters := by
  intro c hc
  simp only [State.counters, State.modSite, List.mem_append, List.mem_flatMap] at hc ⊢
  refine hc.imp_left ?_
  rintro ⟨e, he, hl⟩
  rcases Tab.mem_insert he with rfl | hold
  · dsimp only at hl
    rw [hf] at hl
    cases hg : s.sites.get n with
    | none => simp [State.site, Tab.read, hg, Site.reset] at hl
    | some st =>
      refine ⟨(n, st), Tab.get_mem hg, ?_⟩
      simpa [State.site, Tab.read, hg] using hl
  · exact ⟨e, (Tab.mem_del hold).1, hl⟩

theorem State.modSite_quiet {s : State} (h : s.quiet) (n : Nat) (f : Site → Site)
    (hf : (f (s.site n)).landing = (s.site n).landing) : (s.modSite n f).quiet :=
  h.of_counters rfl (s.modSite_counters n f hf)

theorem State.quiet.freshen {s : State} (h : s.quiet) (n : Nat) : ({ s with fresh := n } : State).quiet := h

theorem State.siteTouch_quiet {s : State} (h : s.quiet) (loc : Nat) (write : Bool) : (s.siteTouch loc write).quiet := by
  unfold State.siteTouch
  dsimp only
  split
  · exact h
  · split
    · exact State.modSite_quiet h _ _ rfl
    · exact (State.modSite_quiet h _ _ rfl).freshen _

theorem State.spoil_quiet {s : State} (h : s.quiet) (core die : Option Nat) (line : Nat) : (s.spoil core die line).quiet := by
  refine h.of_counters rfl fun c hc => ?_
  have he : (s.spoil core die line).counters = s.counters := by
    simp only [State.counters, State.spoil, List.flatMap_map]
    congr 2
    funext e
    split <;> rfl
  exact he ▸ hc

theorem State.spoilAll_quiet {s : State} (h : s.quiet) (ls : List Nat) : (s.spoilAll ls).quiet := by
  have hspoil : ∀ (l : List Nat) (t : State), t.quiet → (l.foldl (fun t l => t.spoil none none l) t).quiet := fun l t ht =>
    List.foldlRecOn l _ ht fun u hu a _ => State.spoil_quiet hu none none a
  have hsite : ∀ (l : List Nat) (t : State), t.quiet → (l.foldl (fun t l => t.siteTouch (64 * l) true) t).quiet := fun l t ht =>
    List.foldlRecOn l _ ht fun u hu a _ => State.siteTouch_quiet hu (64 * a) true
  exact hsite _ _ (hspoil _ _ h)

/-- A counter that is not armed is not armed by a count. -/
theorem Landing.counted_unarmed {l : Landing} (h : l.state ≠ .armed) (b : Nat) : (l.counted b).1.state ≠ .armed := by
  unfold Landing.counted
  cases hs : l.state with
  | idle => simp [hs]
  | fired => simp
  | armed => exact absurd hs h

theorem countTable_unarmed (f : Nat → Landing → Nat) (t : Tab Landing) (h : ∀ e ∈ t, e.2.state ≠ .armed) :
    ∀ e ∈ (countTable f t).1, e.2.state ≠ .armed := by
  induction t with
  | nil => exact h
  | cons e r ih =>
    obtain ⟨i, l⟩ := e
    obtain ⟨hl, hr⟩ := List.forall_mem_cons.mp h
    simp only [countTable]
    split
    · exact List.forall_mem_cons.mpr ⟨hl, ih hr⟩
    · exact List.forall_mem_cons.mpr ⟨Landing.counted_unarmed hl _, ih hr⟩

theorem countSites_unarmed (ls : List Nat) (skip : Option Nat) (t : Tab Site) (h : ∀ e ∈ t, ∀ l ∈ e.2.landing, l.2.state ≠ .armed) :
    ∀ e ∈ (countSites ls skip t).1, ∀ l ∈ e.2.landing, l.2.state ≠ .armed := by
  induction t with
  | nil => exact h
  | cons e r ih =>
    obtain ⟨n, st⟩ := e
    obtain ⟨hst, hr⟩ := List.forall_mem_cons.mp h
    simp only [countSites]
    exact List.forall_mem_cons.mpr ⟨countTable_unarmed _ _ hst, ih hr⟩

/-- A global store in a quiet state leaves a quiet state. -/
theorem State.gstore_keeps_quiet {s : State} (h : s.quiet) (ls : List Nat) (bs : List Byte) : (s.gstore ls bs).quiet := by
  rw [State.gstore_quiet h]
  refine ⟨h.1, fun c hc => ?_⟩
  rcases List.mem_append.mp hc with hsite | hcore
  · obtain ⟨e, he, hl⟩ := List.mem_flatMap.mp hsite
    obtain ⟨l, hm, rfl⟩ := List.mem_map.mp hl
    exact countSites_unarmed ls none s.sites h.sites e he l hm
  · exact h.2 c (List.mem_append.mpr (.inr hcore))

theorem State.gstore_mem {s : State} (h : s.quiet) (ls : List Nat) (bs : List Byte) :
    (s.gstore ls bs).mem = Memory.writeAll s.mem ls bs := by rw [State.gstore_quiet h]; rfl

theorem State.gstore_host {s : State} (h : s.quiet) (ls : List Nat) (bs : List Byte) : (s.gstore ls bs).host = s.host := by
  rw [State.gstore_quiet h]; rfl

/-- Stores of single bytes one after another write what one store of them all writes. -/
theorem State.gstore_foldl_mem (ls : List Nat) : ∀ (s : State) (bs : List Byte), s.quiet →
    ((ls.zip bs).foldl (fun t e => t.gstore [e.1] [e.2]) s).mem = Memory.writeAll s.mem ls bs := by
  induction ls with
  | nil => intro s bs _; cases bs <;> rfl
  | cons l r ih =>
    intro s bs h
    cases bs with
    | nil => rfl
    | cons b bs =>
      rw [List.zip_cons_cons, List.foldl_cons, ih _ _ (State.gstore_keeps_quiet h _ _), State.gstore_mem h]
      rfl

/-- The host's store in a quiet state writes its bytes, aligned or not (R169). -/
theorem State.hostStore_mem {s : State} (h : s.quiet) (off : Nat) (ls : List Nat) (bs : List Byte) :
    (s.hostStore off ls bs).mem = Memory.writeAll s.mem ls bs := by
  have hq := State.spoilAll_quiet h ls
  have hm : (s.spoilAll ls).mem = s.mem := (State.spoilAll_noted s ls 0).2.1
  unfold State.hostStore
  dsimp only
  split
  · rw [State.gstore_mem hq, hm]
  · rw [State.gstore_foldl_mem _ _ _ hq, hm]

/-! ### AtomicOps (R376) -/

/-- Memory after an AtomicOp that writes a new value, or none where its compare fails (R172, R173). -/
def Memory.updated (m : Memory) (ls : List Nat) (n : Nat) : Option Nat → Memory
  | some x => m.writeAll ls (leBytes n x)
  | none => m

/-- An aligned AtomicOp on sound words answers the old value and writes what its function gives. -/
theorem State.hostAtomic_sound {s : State} (hq : s.quiet) {off a part va n : Nat} {ls : List Nat} (f : Nat → Option Nat)
    (h : s.window off = some (a, part, va)) (hn : va % n = 0) (hl : s.partLocs part va n true = .ok ls) (hs : s.soiled ls = none) :
    (s.hostAtomic off n f).mem = s.mem.updated ls n (f (leNat (s.bytesAt ls)))
      ∧ (s.hostAtomic off n f).host.replies = s.host.replies ++ [.data (s.bytesAt ls)] := by
  have hspoil := State.spoilAll_quiet hq ls
  obtain ⟨-, hmem, -, -, -, -, -, hhost, -⟩ := State.spoilAll_noted s ls 0
  obtain ⟨-, hmem', -, -, -, -, -, hhost', -⟩ := State.siteLines_noted s ls false 0
  simp only [State.hostAtomic, h, hl, hs, Option.isSome_none, Bool.false_eq_true, if_false, hn, ne_eq, not_true]
  cases f (leNat (s.bytesAt ls)) with
  | none => exact ⟨hmem', congrArg (fun g : HostSide => g.replies ++ _) hhost'⟩
  | some x =>
    refine ⟨(State.gstore_mem hspoil _ _).trans (congrArg (Memory.writeAll · _ _) hmem), ?_⟩
    exact congrArg (fun g : HostSide => g.replies ++ _) ((State.gstore_host hspoil _ _).trans hhost)

/-- A CAS of 32 or 64 bits. -/
theorem execAtomicCas_narrow {size : BitVec 2} (h : size.toNat < 2) (place : WindowPlace) (cmp v : X64) (s : State) :
    exec (.atomicCas place size cmp v) s = .next (s.hostAtomic place.off.toNat (if size = 0 then 4 else 8)
      fun old => if old = cmp.toNat % 2 ^ (8 * if size = 0 then 4 else 8) then some v.toNat else none) :=
  congrArg Host.Outcome.next (if_neg (Nat.not_le_of_lt h))

/-- A CAS of 128 bits is an Unsupported Request (R367). -/
theorem execAtomicCas_wide {size : BitVec 2} (h : 2 ≤ size.toNat) (place : WindowPlace) (cmp v : X64) (s : State) :
    exec (.atomicCas place size cmp v) s = .next (s.hostReply .unsupported) := congrArg Host.Outcome.next (if_pos h)

theorem execAtomicCas_unbound {s : State} {place : WindowPlace} (h : s.window place.off.toNat = none) (size : BitVec 2) (cmp v : X64) :
    exec (.atomicCas place size cmp v) s = .next (s.hostReply .unsupported) := by
  rcases Nat.lt_or_ge size.toNat 2 with hs | hs
  · rw [execAtomicCas_narrow hs, State.hostAtomic_unbound h]
  · exact execAtomicCas_wide hs place cmp v s

end Sys2Proof.Machine
end

section
/-!
PROOFS. O55: the resets of R382 and the firmware that a module reset starts (R383, R384).
-/
namespace Sys2Proof.Machine

/-! ### Firmware at a module reset (R383, R384) -/

theorem imageOk_iff (config img : List Byte) : imageOk config img = true
    ↔ Config.signatureOk img = true ∧ Config.minimumVersion config ≤ Config.securityVersion img := by
  rw [imageOk, Bool.and_eq_true, decide_eq_true_eq]

/-- A staged copy verifies where it is staged and its image does. -/
theorem Mgmt.stagedOk_iff {m : Mgmt} {k : Nat} {img : List Byte} (h : m.inactive[k]? = some img) (config : List Byte) :
    m.stagedOk config k = true ↔ m.staged[k]? = some true ∧ imageOk config img = true := by
  have hs : (m.staged[k]?).getD false = true ↔ m.staged[k]? = some true := by
    cases m.staged[k]? <;> simp
  rw [Mgmt.stagedOk, h, Bool.and_eq_true, hs, Option.getD_some]

theorem Mgmt.inactive_two (m : Mgmt) : m.inactive[2]? = some m.inactive[2] := Vector.getElem?_eq_getElem _

/-- The configuration record in force after the reset: a staged one that verifies under the old one and under itself (log 53). -/
theorem Mgmt.nextRecord_eq (m : Mgmt) : m.nextRecord = if m.staged[2] = true ∧ imageOk m.active[2] m.inactive[2] = true
    ∧ imageOk m.inactive[2] m.inactive[2] = true then m.inactive[2] else m.active[2] := by
  have hs : m.staged[2]? = some true ↔ m.staged[2] = true := by
    rw [Vector.getElem?_eq_getElem (by decide : 2 < 3), Option.some_inj]
  have hc : (m.stagedOk m.active[2] 2 && m.stagedOk m.inactive[2] 2) = true ↔ m.staged[2] = true
      ∧ imageOk m.active[2] m.inactive[2] = true ∧ imageOk m.inactive[2] m.inactive[2] = true := by
    rw [Bool.and_eq_true, Mgmt.stagedOk_iff m.inactive_two, Mgmt.stagedOk_iff m.inactive_two, hs]
    tauto
  unfold Mgmt.nextRecord
  simp only [hc]

/-- A copy becomes active at a module reset. -/
def Mgmt.promotes (m : Mgmt) (k : Nat) : Bool := m.stagedOk m.nextRecord k && (k != 2 || m.stagedOk m.active[2] 2)

theorem Mgmt.promotes_iff {m : Mgmt} {k : Nat} {img : List Byte} (h : m.inactive[k]? = some img) :
    m.promotes k = true ↔ m.staged[k]? = some true ∧ imageOk m.nextRecord img = true ∧ (k = 2 → imageOk m.active[2] img = true) := by
  have h2 : (k != 2 || m.stagedOk m.active[2] 2) = true ↔ (k = 2 → m.stagedOk m.active[2] k = true) := by
    by_cases hk : k = 2 <;> simp [hk]
  rw [Mgmt.promotes, Bool.and_eq_true, h2, Mgmt.stagedOk_iff h, Mgmt.stagedOk_iff h]
  tauto

theorem Mgmt.reboot_active (m : Mgmt) (k : Nat) : m.reboot.active[k]?
    = m.active[k]?.map fun old => if m.promotes k then (m.inactive[k]?).getD [] else old := Vector.getElem?_mapIdx

theorem Mgmt.reboot_inactive (m : Mgmt) (k : Nat) : m.reboot.inactive[k]?
    = m.inactive[k]?.map fun new => if m.promotes k then (m.active[k]?).getD [] else new := Vector.getElem?_mapIdx

theorem Mgmt.reboot_errorLog (m : Mgmt) : m.reboot.errorLog = m.errorLog ++ (List.range 3).filterMap fun k =>
    if (m.staged[k]?).getD false && !m.promotes k then some (1, k) else none := rfl

/-- A copy that becomes active changes places with the one before it. -/
theorem Mgmt.reboot_promoted {m : Mgmt} {k : Nat} {new : List Byte} (hk : m.inactive[k]? = some new) (hp : m.promotes k = true) :
    m.reboot.active[k]? = some new ∧ m.reboot.inactive[k]? = m.active[k]? := by
  have hlt : k < 3 := (Vector.getElem?_eq_some_iff.mp hk).1
  have ha : m.active[k]? = some m.active[k] := Vector.getElem?_eq_getElem hlt
  rw [Mgmt.reboot_active, Mgmt.reboot_inactive, hk, ha, hp]
  exact ⟨rfl, rfl⟩

/-- The previous copy stays where the staged one does not verify, and the failure is logged. -/
theorem Mgmt.reboot_kept {m : Mgmt} {k : Nat} {new : List Byte} (hk : m.inactive[k]? = some new) (hp : m.promotes k = false) :
    m.reboot.active[k]? = m.active[k]? ∧ m.reboot.inactive[k]? = some new
      ∧ (m.staged[k]? = some true → (1, k) ∈ m.reboot.errorLog) := by
  have hlt : k < 3 := (Vector.getElem?_eq_some_iff.mp hk).1
  refine ⟨?_, ?_, fun hs => ?_⟩
  · rw [Mgmt.reboot_active, hp]; exact Option.map_id'
  · rw [Mgmt.reboot_inactive, hk, hp]; rfl
  · rw [Mgmt.reboot_errorLog, List.mem_append]
    exact .inr (List.mem_filterMap.mpr ⟨k, List.mem_range.mpr hlt, by rw [hs, hp]; rfl⟩)

/-- Vectors raised one after another leave READY and the recovery state. -/
theorem HostSide.raise_foldl (n : Nat) (l : List Nat) (h : HostSide) :
    (l.foldl (fun g _ => g.raise n) h).ready = h.ready ∧ (l.foldl (fun g _ => g.raise n) h).recov = h.recov :=
  List.foldlRecOn (motive := fun g => g.ready = h.ready ∧ g.recov = h.recov) l _ ⟨rfl, rfl⟩
    fun g hg _ _ => ⟨(HostSide.raise_ready g n).trans hg.1, (HostSide.raise_recov g n).trans hg.2⟩

/-- After a module reset READY says that every active copy verifies, and the recovery state the opposite (R4, R383). -/
theorem execModuleReset_effects (s : State) : ∃ t, exec .moduleReset s = .next t ∧ t.mem = [] ∧ t.cores = [] ∧ t.partitions = []
    ∧ t.cycle = 0 ∧ t.host.ready = !t.host.recov ∧ t.host.ready = s.mgmt.reboot.verified ∧ t.mgmt = s.mgmt.reboot := by
  obtain ⟨hready, hrecov⟩ := HostSide.raise_foldl 2 (List.range (s.mgmt.reboot.errorLog.length - s.mgmt.errorLog.length))
    { HostSide.reset with ready := s.mgmt.reboot.verified, recov := !s.mgmt.reboot.verified }
  refine ⟨_, rfl, rfl, rfl, rfl, rfl, ?_, hready, rfl⟩
  exact hready.trans ((congrArg not hrecov).trans (Bool.not_not _)).symm

/-! ### Partitions that a reset ends (R356, R382) -/

/-- A partition that the test takes is gone. -/
theorem State.endParts_ended {s : State} {f : Nat → Partition → Bool} {p : Nat} {e : Partition} (hg : s.partitions.get p = some e)
    (hf : f p e = true) : (s.endParts f).partitions.get p = none := by
  have hm : p ∈ (s.partitions.filter fun q => f q.1 q.2).map (·.1) :=
    List.mem_map.mpr ⟨(p, e), List.mem_filter.mpr ⟨Tab.get_mem hg, hf⟩, rfl⟩
  exact (State.endPartition_foldl_get _ _ _).trans (if_pos hm)

/-- A partition none of whose entries the test takes stands. -/
theorem State.endParts_kept {s : State} {f : Nat → Partition → Bool} {p : Nat}
    (h : ∀ e ∈ s.partitions, e.1 = p → f e.1 e.2 = false) : (s.endParts f).partitions.get p = s.partitions.get p := by
  have hm : p ∉ (s.partitions.filter fun q => f q.1 q.2).map (·.1) := by
    intro hp
    obtain ⟨e, he, rfl⟩ := List.mem_map.mp hp
    obtain ⟨hmem, hf⟩ := List.mem_filter.mp he
    rw [h e hmem rfl] at hf
    cases hf
  exact (State.endPartition_foldl_get _ _ _).trans (if_neg hm)

theorem State.endParts_rest (s : State) (f : Nat → Partition → Bool) : (s.endParts f).mem = s.mem ∧ (s.endParts f).mgmt = s.mgmt :=
  State.endPartition_foldl_rest _ _

/-- When the test takes every partition none is left. -/
theorem State.endParts_all (s : State) (p : Nat) : (s.endParts fun _ _ => true).partitions.get p = none := by
  by_cases hm : p ∈ (s.partitions.filter fun _ => true).map (·.1)
  · exact (State.endPartition_foldl_get _ _ _).trans (if_pos hm)
  · have hn : s.partitions.get p = none := Tab.get_none fun e he hp =>
      hm (List.mem_map.mpr ⟨e, List.mem_filter.mpr ⟨he, rfl⟩, hp⟩)
    exact ((State.endPartition_foldl_get _ _ _).trans (if_neg hm)).trans hn

/-- Both link resets end every partition and reset what R382 lists. -/
theorem State.linkReset_effects (s : State) : let t := s.linkReset
    t.mem = s.mem ∧ (∀ p, t.partitions.get p = none) ∧ t.host.featAccept = 0 ∧ t.host.busy = false ∧ t.host.nwr = 0
      ∧ t.host.nrd = 0 ∧ t.host.apertures = [] ∧ t.mgmt = s.mgmt := by
  obtain ⟨hmem, hmgmt⟩ := s.endParts_rest fun _ _ => true
  exact ⟨hmem, s.endParts_all, rfl, rfl, rfl, rfl, rfl, hmgmt⟩

/-! ### The obligation -/

/-- Settles O55, clause by clause: the control window by the areas and registers a write meets, the mailbox's reply, the
window's accesses by their translation, AtomicOps by the function of the old value, and the resets by the partitions they
end and the firmware copies they promote. -/
theorem hostEvents : Obligations.HostEvents := by
  intro s c off data nrd v at_ len wide link size x y log2 d o n h host write
  refine ⟨fun hr ho hn => execControlWindowWrite_commit c hr ho hn, fun hr => execLaunchCommit_unready hr c x, fun hr hlo hhi hp => ?vectors,
    fun ho => execControlWindowWrite_featAccept data ho, fun ho hn => execControlWindowWrite_notice ho hn,
    fun ho hn hb hv => (execControlWindowWrite_doorbell ho hn).trans (congrArg _ (State.ringDoorbell_accepted hb hv)),
    fun hlo hhi => ?areas, fun hlo hhi hp => execControlWindowWrite_reserved hp (by simp; omega) (.inr ⟨hlo, hhi⟩),
    fun hlo hhi hr hp => execControlWindowWrite_reserved hp hr (.inl hhi),
    fun hr hp => congrArg Host.Outcome.next (State.acceptFeatures_ready hr hp v),
    fun hr => congrArg Host.Outcome.next (State.acceptFeatures_ignored hr v),
    fun hn => congrArg Host.Outcome.next (State.ackNotices_none hn nrd),
    fun st dt hr hb => ?reply, fun hr hw ho => ?unknown, fun hw => ?unbound, fun a part va hw => ?bound,
    fun hs => execAtomicCas_wide hs at_ x y s, fun h1 h2 => ?bar, ?moduleReset, fun i hi => ?linkReset, ?dieReset⟩
  case vectors =>
    exact (execControlWindowWrite_vectors hr hlo hhi).trans
      (congrArg Host.Outcome.next (State.sendPending_idle (s := s.winStore o data) hp))
  case areas =>
    intro w
    have stores {t : State} (ht : (s.winStore o data).sendPending = t) : exec write s = .next t :=
      (execControlWindowWrite_lower hlo hhi).trans (congrArg Host.Outcome.next ht)
    exact ⟨fun hp => stores (State.sendPending_idle hp), fun k hk hp =>
      ⟨fun hm => stores (State.sendPending_one hk hp hm), fun hm => stores (State.sendPending_masked hk hp hm)⟩⟩
  case reply =>
    obtain ⟨hmem, hbusy, hreply, hvector⟩ := s.sendReply_effects st dt
    exact ⟨_, execMailboxReply_owed hr hb, hmem, hbusy, hreply, hvector, s.sendReply_header st dt⟩
  case unknown =>
    refine ⟨_, execMailboxReply_unknown hr hw ho, rfl, ?_⟩
    rw [readBytes_take _ 8 2 _ (by decide), State.sendReply_header]
    rfl
  case unbound =>
    exact ⟨execHostWindowRead_unbound hw, execHostWindowWrite_unbound hw,
      congrArg Host.Outcome.next (State.hostAtomic_unbound hw _ _), congrArg Host.Outcome.next (State.hostAtomic_unbound hw _ _),
      execAtomicCas_unbound hw size x y⟩
  case bound =>
    intro inside
    refine ⟨fun ls hn hi hl hs => ?read, fun e hn hi hl => ?abort, fun ls hn hi hq hl => ?store, fun hq => ?atomics⟩
    case read =>
      obtain ⟨-, hmem, -, -, -, -, -, hhost, -⟩ := State.siteLines_noted s ls false 0
      exact ⟨_, execHostWindowRead_sound hw hn hi hl hs, hmem, congrArg (fun g : HostSide => g.replies ++ _) hhost⟩
    case abort =>
      exact ⟨_, execHostWindowRead_failed hw hn hi hl, State.notice_mem _ _ _ _ _,
        congrArg (· ++ [HostReply.abort]) (State.notice_replies _ _ _ _ _)⟩
    case store => exact ⟨_, execHostWindowWrite_bound hw hn hi hl, State.hostStore_mem hq _ _ _⟩
    case atomics =>
      intro k m atomic
      have sound : ∀ (i : Instr) (n : Nat) (f : Nat → Option Nat), exec i s = .next (s.hostAtomic at_.off.toNat n f) → atomic i n f := by
        intro i n f he hn ls hl hs
        obtain ⟨hmem, hreply⟩ := State.hostAtomic_sound hq f hw hn hl hs
        refine ⟨_, he, hmem.trans ?_, hreply⟩
        cases f (leNat (s.bytesAt ls)) <;> rfl
      exact ⟨sound (.atomicFetchadd at_ wide x) k _ rfl, sound (.atomicSwap at_ wide x) k _ rfl,
        fun hs => sound (.atomicCas at_ size x y) m _ (execAtomicCas_narrow hs at_ x y s)⟩
  case bar => exact congrArg Host.Outcome.next (if_pos ⟨h1, h2⟩)
  case moduleReset =>
    obtain ⟨t, he, hmem, hcores, hparts, hcycle, hrecov, hready, hmgmt⟩ := execModuleReset_effects s
    refine ⟨t, he, hmem, hcores, hparts, hcycle, hrecov, hready, congrArg Mgmt.errorLog hmgmt, ?_⟩
    intro m verifies config hconfig k new hk good
    have hnext : config = m.nextRecord := by
      rw [Mgmt.nextRecord_eq]
      simp only [imageOk_iff]
      split <;> rename_i hc
      · rwa [if_pos hc] at hconfig
      · rwa [if_neg hc] at hconfig
    have hgood : m.promotes k = true ↔ good := by
      simp only [Mgmt.promotes_iff hk, imageOk_iff, ← hnext]
      rfl
    rw [hmgmt]
    refine ⟨fun hg => Mgmt.reboot_promoted hk (hgood.mpr hg), fun hg => Mgmt.reboot_kept hk ?_⟩
    exact Bool.not_eq_true _ ▸ mt hgood.mp hg
  case linkReset =>
    have he : exec i s = .next s.linkReset := by
      rcases List.mem_pair.mp hi with rfl | rfl <;> rfl
    exact ⟨_, he, s.linkReset_effects⟩
  case dieReset =>
    refine ⟨_, rfl, (s.endParts_rest _).1, fun p e hg hc => ?ended, fun p hp => ?kept⟩
    case ended =>
      obtain ⟨core, hmem, hdie⟩ := hc
      exact State.endParts_ended hg (List.any_eq_true.mpr ⟨core, hmem, beq_iff_eq.mpr hdie⟩)
    case kept =>
      exact State.endParts_kept fun e he hq => List.any_eq_false.mpr fun core hc hb => hp e he hq core hc (beq_iff_eq.mp hb)

end Sys2Proof.Machine
end

section
/-!
PROOFS. O7: every instruction answers a next state, and so does a step that something from outside or the power of the
stacks drives (R28, R36, R381).
-/
namespace Sys2Proof.Machine

/-- The take of a ring's packet acts whatever its slot holds (R246, R248). -/
theorem execRingPacketTake_next (c : BitVec 9) (ring : BitVec 2) (s : State) : ∃ t, execRingPacketTake c ring s = .next t := by
  unfold execRingPacketTake
  extract_lets core r
  split
  · exact ⟨_, rfl⟩
  split
  · exact ⟨_, rfl⟩
  split
  · exact ⟨_, rfl⟩
  extract_lets
  split
  · exact ⟨_, rfl⟩
  split
  · exact ⟨_, rfl⟩
  split
  · exact ⟨_, rfl⟩
  extract_lets
  (repeat' split) <;> exact ⟨_, rfl⟩

/-- By the frame of an instruction: a slot's, a command's of the E slot, a pier's, a request's of the mailbox or of the segment
manager's queue; an event without a frame answers on each of its branches. -/
theorem exec_acts (i : Instr) (s : State) : Acts i s := by
  unfold Acts
  cases i with
  | bar | barx | sgstat | br | call | jr | jalr | ret | loop | loopi | mode | yield | halt | bkpt | trap | sysc | tret
    | eret | nprb | npre | ifence | efence | nop | vnop | wnop | enop | ld | st | amo | amo4 | cas | cas4 | pref | ctw
    | crd | cwr | waits | sigs | semset | waitw | isum | banksw | vldg | vstg | vgtg | vscg | tknext | tkdone | tkwait
    | pstop | add | sub | and | or | xor | shl | shr | sra | mul | mulh | div | rem | min | max | clz | ctz | popc
    | brev | sext | shadd | addi | andi | ori | xori | shli | shri | srai | movi | cmp | cmpeqi | cmplti | plog | pmovx
    | xmovp | fadd | fsub | fmul | fmin | fmax | fcmp | fcvt | vadd | vsub | vmul | vmin | vmax | vfma | vabs | vneg
    | vand | vor | vxor | vshl | vshr | vsra | vdiv | vrem | vsqrt | vrec | vrsq | vexp2 | vlog2 | vcmp | vsel | vmov
    | vbcast | viota | vext | vins | vred | vscan | vperm | vpart | mlog | mpop | mfromx | mtox | vcvt | vcv8 | vun8
    | vdec4 | venc4 | ldread | lddis | mscl | kinit | kclr | kins | kinsi | kmrg | kout | klen | kth => simp only [exec]; exact slotOp_next _ _ _
  | sel => simp only [exec]; exact finish_next _ _
  | sgdef | sgdrop | sgpin | sgunpin | sgpush | sgpull | sgsplit | lds8 | lds4 | sts8 | sts4 | vlds | vsts | vgts
    | vscs | ksave | kload | kmrgs | pget | pput | tkpost | fcmd | ldarm | mwld | mstr | mrank | mout | mzero | pcmd
    | pload => simp only [exec]; exact segOp_next _ _ _
  | pnop | pend | ploopImm | ploopReg | parg | padd | psetk | pldx | pzer | prow | prown | psto | pstob | pwait | pcvt
    | psig | pmov => simp only [exec]; exact pierOp_next _ _
  | createPartition | loadPatternImage | bindAperture | unbindAperture | bindRing | unbindRing | shootdown
    | assignLandingCounters | releaseLandingCounters | assignPiers | releasePiers | publishMonitors | freeze | unfreeze
    | swapOut | swapIn | stageSupervisorFirmware | stageManagementFirmware | stageConfigRecord => simp only [exec]; exact mailbox_next _ _ _ _ _ _
  | sgdropComplete | sgpinComplete | sgpushComplete | sgpullComplete => simp only [exec]; exact smHead_next _ _ _
  | ticketService | overflowRefill | taskPromotion | preemptContext | fixedLatencyLanding | globalLoadArrival
    | isumResult | tknextResult | sgstatResult | ldreadResult | launchCommit | monitorPublish | featAcceptWrite
    | noticeAck | controlWindowWrite | hostWindowRead | hostWindowWrite | atomicFetchadd | atomicSwap | atomicCas
    | moduleReset | hotReset | functionLevelReset | mgmtDieReset | mctpControl | pldmSensorRead | pldmFirmwareUpdate
    | errorLogRead | errorLogClear | setPowerLimit | getVersion | getCapabilities | negotiateAlgorithms | getDigests
    | getCertificate | challenge | getMeasurements | clockStretchBegin | clockStretchEnd | overtempPowerOff | flitRetry
    | portFailure | packageUnreachable | memorySideCacheFlush | pageMigration | resizableBarWrite => simp only [exec]; exact ⟨_, rfl⟩
  | configurePod => simp only [exec, execConfigurePod]; exact mailbox_next _ _ _ _ _ _
  | ringPacketTake c ring => exact execRingPacketTake_next c ring s
  | endPartition p =>
    simp only [exec, execEndPartition]
    split
    · exact mailbox_next _ _ _ _ _ _
    · exact ⟨_, rfl⟩
  | recallEnd | pushOutEnd | compactionMoveEnd | sgsplitComplete | waitwReread | bankswDecision | taskReceipt
    | gangStart | tkpostComplete | deferredPost | completionWriteRetry | pipeEnlarge | supervisorResume
    | resumePrivileged | stoppedContextWrite | issueRunLimit | watchdog | longWaitEvent | nprOverrun | ferryPacketStart
    | ferryResume | ferryReplay | ferryPacketComplete | ldarmArmed | landingWriteDeferred | matrixCmdStart
    | matrixCmdResume | mwldComplete | mstrComplete | moutComplete | mzeroComplete | pierOutboxDeliver | pierCmdStart
    | pierLoadApply | pierCmdComplete | mailboxReply | pageMigrationEnd =>
    simp only [exec,
    execRecallEnd, execPushOutEnd, execCompactionMoveEnd, execSgsplitComplete, execWaitwReread,
      execBankswDecision, execTaskReceipt, execGangStart, execTkpostComplete, execDeferredPost,
      execCompletionWriteRetry, execPipeEnlarge, execSupervisorResume, execResumePrivileged,
      execStoppedContextWrite, execIssueRunLimit, execWatchdog, execLongWaitEvent, execNprOverrun,
      execFerryPacketStart, execFerryResume, execFerryReplay, execFerryPacketComplete, execLdarmArmed,
      execLandingWriteDeferred, execMatrixCmdStart, execMatrixCmdResume, execMwldComplete, execMstrComplete,
      execMoutComplete, execMzeroComplete, execPierOutboxDeliver, execPierCmdStart, execPierLoadApply,
      execPierCmdComplete, execMailboxReply, execPageMigrationEnd]
    (repeat' split) <;> exact ⟨_, rfl⟩

/-- A step from outside answers a next state: a slot or pier instruction is none and leaves the state. -/
theorem outside_next (i : Instr) (s : State) : ∃ t, outside i s = .next t := by
  unfold outside
  split
  · exact ⟨_, rfl⟩
  split
  · exact ⟨_, rfl⟩
  · obtain ⟨t, ht⟩ := exec_acts i s
    exact ⟨t.settle, by rw [ht]⟩

/-- Nothing comes from outside only where nothing waits there or the powered machine's turns come first. -/
theorem State.nextEvent_none {s : State} (h : s.nextEvent = none) : s.agenda = [] ∨ s.mgmt.powered = true := by
  unfold State.nextEvent at h
  split at h
  · exact .inl ‹_›
  split at h
  · cases h
  split at h
  · rename_i hp
    exact .inr (Bool.and_eq_true_iff.mp hp).1
  · cases h

theorem step_next {s : State} (h : s.agenda ≠ [] ∨ s.mgmt.powered = true) : ∃ t, step s = .next t := by
  unfold step
  cases he : s.nextEvent with
  | some e => exact outside_next e.1 _
  | none =>
    have hp : s.mgmt.powered = true := h.elim (fun ha => (State.nextEvent_none he).resolve_left ha) id
    exact ⟨s.nextTurn, if_pos hp⟩

/-- Settles O7: an instruction acts by its frame or on each branch of its event, and the step runs one or takes its turn. -/
theorem everyInstructionActs : Obligations.EveryInstructionActs := ⟨exec_acts, fun _ => step_next⟩

end Sys2Proof.Machine
end

section
/-!
PROOFS. O60: stores in a segment, their frame (R159, R171, R177, R179, R279, R319).
-/
namespace Sys2Proof.Machine

/-! ### Slots that name segments -/

/-- A halt is noted in the issue. -/
@[simp] theorem State.halt_verdict (s : State) (h : Halt) : (s.halt h).issue.verdict = some h := by
  cases h <;> rfl

/-- What follows the effects of an instruction that names segments lets them stand or ends in a halt. -/
theorem settle_inv {s t : State} {r : Except Halt State} (h : Machine.settle s r = .next t) (hv : t.issue.verdict = none) :
    r = .ok t := by
  have halt : ∀ (u : State) (x : Halt), Host.Outcome.next (φ := Fault) (ρ := Refusal) (u.halt x) = .next t → False := by
    rintro u x ⟨⟩
    simp at hv
  cases r with
  | error x => exact (halt _ _ h).elim
  | ok u =>
    simp only [Machine.settle] at h
    split at h
    · exact (halt _ _ h).elim
    · split at h
      · exact (halt _ _ h).elim
      · cases h; rfl

/-- A slot that names segments and ends without a halt did nothing under a false guard, or did what its body does. -/
theorem segOp_inv {g : BitVec 4} {s t : State} {b : Except Halt State} (h : segOp g s b = .next t) (hv : t.issue.verdict = none) :
    s.readP g.toNat = .ok false ∧ t = s ∨ s.readP g.toNat = .ok true ∧ b = .ok t := by
  have hr := settle_inv h hv
  cases hp : s.readP g.toNat with
  | error x => simp [hp] at hr
  | ok v =>
    cases v with
    | false => simp only [hp, Except.ok.injEq] at hr; exact .inl ⟨rfl, hr.symm⟩
    | true => simp only [hp] at hr; exact .inr ⟨rfl, hr⟩

/-- Under a true guard it did what its body does. -/
theorem segOp_body {g : BitVec 4} {s t : State} {b : Except Halt State} (hg : s.readP g.toNat = .ok true) (h : segOp g s b = .next t)
    (hv : t.issue.verdict = none) : b = .ok t := by
  rcases segOp_inv h hv with ⟨hf, -⟩ | ⟨-, hb⟩
  · rw [hg] at hf; cases hf
  · exact hb

/-! ### Bytes of a segment -/

theorem Tab.read_writeBytes_above (bs : List Byte) : ∀ (t : Tab Byte) (a : Nat) {k : Nat}, a + bs.length ≤ k →
    (t.writeBytes a bs).read 0 k = t.read 0 k := by
  induction bs with
  | nil => intros; rfl
  | cons b r ih =>
    intro t a k h
    rw [List.length_cons] at h
    rw [Tab.writeBytes_cons, ih _ _ (by omega), Tab.read_write_other _ _ _ (by omega)]

theorem Tab.read_writeBytes_outside (t : Tab Byte) {a k : Nat} {bs : List Byte} (h : ¬ (a ≤ k ∧ k < a + bs.length)) :
    (t.writeBytes a bs).read 0 k = t.read 0 k := by
  by_cases hk : k < a
  · exact Tab.read_writeBytes_below _ _ _ hk
  · exact Tab.read_writeBytes_above _ _ _ (by omega)

/-- One byte of a segment. -/
theorem CoreState.segRead_one {v : CoreState} {id : Nat} {g : Seg} (h : v.seg id = some g) (a : Nat) :
    v.segRead id a 1 = [(v.segData g).read 0 a] := by
  unfold CoreState.segRead
  rw [h]
  rfl

/-- The bytes of a segment are told by its entry and the banks. -/
theorem CoreState.segRead_congr {v w : CoreState} {id : Nat} (hs : v.seg id = w.seg id) (h0 : v.bank0 = w.bank0)
    (h1 : v.bank1 = w.bank1) (a n : Nat) : v.segRead id a n = w.segRead id a n := by
  unfold CoreState.segRead CoreState.segData
  rw [hs, h0, h1]

/-- A segment's entry with bytes put into it. -/
def Seg.put (g : Seg) (off : Nat) (bs : List Byte) : Seg :=
  { g with data := if g.name = 0xFE ∨ g.name = 0xFF then g.data else g.data.writeBytes off bs, dirty := true }

theorem CoreState.segPut_some {v : CoreState} {id : Nat} {g : Seg} (h : v.seg id = some g) (off : Nat) (bs : List Byte) :
    v.segPut id off bs = { v with
      bank0 := if g.name = 0xFE then v.bank0.writeBytes off bs else v.bank0
      bank1 := if g.name = 0xFF then v.bank1.writeBytes off bs else v.bank1
      segs := v.segs.put id (g.put off bs) } := by
  unfold CoreState.segPut
  rw [h]
  rfl

theorem CoreState.segWrite_none {v : CoreState} {id : Nat} (h : v.seg id = none) (off : Nat) (bs : List Byte) :
    ∃ f, v.segWrite id off bs = { v with flaws := f } := by
  unfold CoreState.segWrite CoreState.segPut
  rw [h]
  exact ⟨_, rfl⟩

theorem CoreState.segWrite_some {v : CoreState} {id : Nat} {g : Seg} (h : v.seg id = some g) (off : Nat) (bs : List Byte) :
    ∃ f, v.segWrite id off bs = { v with
      bank0 := if g.name = 0xFE then v.bank0.writeBytes off bs else v.bank0
      bank1 := if g.name = 0xFF then v.bank1.writeBytes off bs else v.bank1
      segs := v.segs.put id (g.put off bs)
      flaws := f } := by
  unfold CoreState.segWrite
  rw [CoreState.segPut_some h]
  exact ⟨_, rfl⟩

/-- A byte outside those written reads as before. -/
theorem Seg.put_read (v : CoreState) {g : Seg} {off a : Nat} {bs : List Byte} (h : ¬ (off ≤ a ∧ a < off + bs.length)) (w : CoreState)
    (h0 : w.bank0 = if g.name = 0xFE then v.bank0.writeBytes off bs else v.bank0)
    (h1 : w.bank1 = if g.name = 0xFF then v.bank1.writeBytes off bs else v.bank1) :
    (w.segData (g.put off bs)).read 0 a = (v.segData g).read 0 a := by
  unfold CoreState.segData Seg.put
  dsimp only
  split
  · rename_i hn
    rw [h0, if_pos hn, Tab.read_writeBytes_outside _ h]
  · rename_i hn
    split
    · rename_i hm
      rw [h1, if_pos hm, Tab.read_writeBytes_outside _ h]
    · rename_i hm
      rw [if_neg (not_or.mpr ⟨hn, hm⟩), Tab.read_writeBytes_outside _ h]

/-! ### A store in a segment -/

/-- Bytes of a segment of the issuing core have been stored, at places of `stored` only: beside them the core's landing
counters and its record of errors may differ, and nothing else of the machine does. -/
def State.segStores (s t : State) (id : Nat) (stored : Nat → Prop) : Prop :=
  { t with cores := s.cores } = s ∧ (∀ d, d ≠ s.issue.core → t.core d = s.core d)
    ∧ t.core s.issue.core = { s.core s.issue.core with cur := { s.ccs with
        segs := t.ccs.segs, bank0 := t.ccs.bank0, bank1 := t.ccs.bank1, landing := t.ccs.landing, flaws := t.ccs.flaws } }
    ∧ (∀ a, ¬ stored a → t.ccs.segRead id a 1 = s.ccs.segRead id a 1) ∧ (∀ e, e ≠ id → t.ccs.seg e = s.ccs.seg e)
    ∧ ∀ g, s.ccs.seg id = some g → (∃ h, t.ccs.seg id = some h ∧ h.name = g.name)
      ∧ (g.name < 0xFE → t.ccs.bank0 = s.ccs.bank0 ∧ t.ccs.bank1 = s.ccs.bank1)

theorem State.segStores.refl (s : State) (id : Nat) (stored : Nat → Prop) : s.segStores s id stored :=
  ⟨rfl, fun _ _ => rfl, rfl, fun _ _ => rfl, fun _ _ => rfl, fun g hg => ⟨⟨g, hg, rfl⟩, fun _ => ⟨rfl, rfl⟩⟩⟩

theorem State.segStores.issue {s t : State} {id : Nat} {stored : Nat → Prop} (h : s.segStores t id stored) : t.issue = s.issue := by
  rw [← h.1]

theorem State.segStores.trans {s t u : State} {id : Nat} {stored : Nat → Prop} (h : s.segStores t id stored)
    (k : t.segStores u id stored) : s.segStores u id stored := by
  have hi := h.issue
  obtain ⟨h1, h2, h3, h4, h5, h6⟩ := h
  obtain ⟨k1, k2, k3, k4, k5, k6⟩ := k
  rw [hi] at k2 k3
  have hc : t.ccs = { s.ccs with segs := t.ccs.segs, bank0 := t.ccs.bank0, bank1 := t.ccs.bank1, landing := t.ccs.landing,
                                 flaws := t.ccs.flaws } := by
    change (t.core t.issue.core).cur = _
    rw [hi, h3]
  refine ⟨?_, fun d hd => (k2 d hd).trans (h2 d hd), ?_, fun a ha => (k4 a ha).trans (h4 a ha),
    fun e he => (k5 e he).trans (h5 e he), fun g hg => ?_⟩
  · rw [← h1, ← k1]
  · rw [k3, h3, hc]
  · obtain ⟨⟨h', hs, hn⟩, hb⟩ := h6 g hg
    obtain ⟨⟨g', ks, kn⟩, kb⟩ := k6 h' hs
    refine ⟨⟨g', ks, kn.trans hn⟩, fun hl => ?_⟩
    obtain ⟨b0, b1⟩ := hb hl
    obtain ⟨c0, c1⟩ := kb (hn ▸ hl)
    exact ⟨c0.trans b0, c1.trans b1⟩

theorem State.segStores.mono {s t : State} {id : Nat} {p q : Nat → Prop} (h : s.segStores t id p) (hq : ∀ a, p a → q a) :
    s.segStores t id q := by
  obtain ⟨h1, h2, h3, h4, h5⟩ := h
  exact ⟨h1, h2, h3, fun a ha => h4 a fun hp => ha (hq a hp), h5⟩

/-- A change of the issuing core's running state, told by that state. -/
theorem State.segStores.of_modCcs (s : State) {id : Nat} {stored : Nat → Prop} (f : CoreState → CoreState)
    (hf : f s.ccs = { s.ccs with segs := (f s.ccs).segs, bank0 := (f s.ccs).bank0, bank1 := (f s.ccs).bank1, landing := (f s.ccs).landing,
                                 flaws := (f s.ccs).flaws })
    (hr : ∀ a, ¬ stored a → (f s.ccs).segRead id a 1 = s.ccs.segRead id a 1) (hs : ∀ e, e ≠ id → (f s.ccs).seg e = s.ccs.seg e)
    (hb : ∀ g, s.ccs.seg id = some g → (∃ h, (f s.ccs).seg id = some h ∧ h.name = g.name)
      ∧ (g.name < 0xFE → (f s.ccs).bank0 = s.ccs.bank0 ∧ (f s.ccs).bank1 = s.ccs.bank1)) :
    s.segStores (s.modCS s.issue.core f) id stored := by
  have hc : (s.modCS s.issue.core f).ccs = f s.ccs := State.cs_modCS _ _ _
  refine ⟨rfl, fun d hd => State.core_setCore_other _ _ hd, ?_, ?_, ?_, ?_⟩
  · rw [hc, ← hf]; exact State.core_setCore _ _ _
  · rw [hc]; exact hr
  · rw [hc]; exact hs
  · rw [hc]; exact hb

theorem State.segWrite_stores (s : State) (id off : Nat) (bs : List Byte) :
    s.segStores (s.modCS s.issue.core fun v => v.segWrite id off bs) id fun a => off ≤ a ∧ a < off + bs.length := by
  cases hg : s.ccs.seg id with
  | none =>
    obtain ⟨f, hf⟩ := CoreState.segWrite_none hg off bs
    refine .of_modCcs s _ (by rw [hf]) (fun a _ => ?_) (fun e _ => ?_) (fun g h => absurd (h.symm.trans hg) (by simp))
    · rw [hf]; rfl
    · rw [hf]; rfl
  | some g =>
    obtain ⟨f, hf⟩ := CoreState.segWrite_some hg off bs
    have hself : (s.ccs.segWrite id off bs).seg id = some (g.put off bs) := by rw [hf]; exact Tab.get_put_same _ _ _
    refine .of_modCcs s _ (by rw [hf]) (fun a ha => ?_) (fun e he => ?_) fun g' hg' => ?_
    · rw [CoreState.segRead_one hself, CoreState.segRead_one hg, Seg.put_read s.ccs ha _ (by rw [hf]) (by rw [hf])]
    · rw [hf]; exact Tab.get_put_other _ _ he
    · obtain rfl : g' = g := Option.some.inj (hg'.symm.trans hg)
      refine ⟨⟨_, hself, rfl⟩, fun hl => ?_⟩
      rw [hf]
      exact ⟨if_neg (by omega), if_neg (by omega)⟩

/-- A segment store of the issuing core in a quiet state. -/
theorem State.sstore_stores {s : State} (h : s.quiet) (id off : Nat) (bs : List Byte) :
    s.segStores (s.sstore s.issue.core id off bs) id fun a => off ≤ a ∧ a < off + bs.length := by
  obtain ⟨l, hl⟩ := State.sstore_quiet h s.issue.core id off bs
  rw [hl]
  refine (s.segWrite_stores id off bs).trans ?_
  exact .of_modCcs (s.modCS s.issue.core fun v => v.segWrite id off bs) (fun v => { v with landing := l }) rfl (fun _ _ => rfl)
    (fun _ _ => rfl) fun g hg => ⟨⟨g, hg, rfl⟩, fun _ => ⟨rfl, rfl⟩⟩

/-- A change of a core that arms no counter leaves a quiet state. -/
theorem State.modCore_quiet {s : State} (h : s.quiet) (c : Nat) (f : Core → Core) (hs : (f (s.core c)).shadow = (s.core c).shadow)
    (hf : ∀ e ∈ (f (s.core c)).cur.landing, e.2.state ≠ .armed) : (s.modCore c f).quiet := by
  refine ⟨h.1, fun n hn => ?_⟩
  rcases List.mem_append.mp hn with hsite | hcore
  · exact h.2 n (List.mem_append.mpr (.inl hsite))
  · obtain ⟨e, he, hl⟩ := List.mem_flatMap.mp hcore
    rcases Tab.mem_insert he with rfl | hold
    · rcases List.mem_append.mp hl with hcur | hshadow
      · obtain ⟨l, hm, rfl⟩ := List.mem_map.mp hcur
        exact hf l hm
      · rw [hs] at hshadow
        cases hg : s.cores.get c with
        | none => simp [State.core, Tab.read, hg, Core.reset] at hshadow
        | some v =>
          refine h.2 n (List.mem_append.mpr (.inr (List.mem_flatMap.mpr ⟨(c, v), Tab.get_mem hg, List.mem_append.mpr (.inr ?_)⟩)))
          simpa [State.core, Tab.read, hg] using hshadow
    · exact h.2 n (List.mem_append.mpr (.inr (List.mem_flatMap.mpr ⟨e, (Tab.mem_del hold).1, hl⟩)))

theorem State.modCS_quiet {s : State} (h : s.quiet) (c : Nat) (f : CoreState → CoreState)
    (hf : ∀ e ∈ (f (s.cs c)).landing, e.2.state ≠ .armed) : (s.modCS c f).quiet := State.modCore_quiet h c _ rfl hf

/-- Bytes written into a segment leave the landing counters. -/
theorem CoreState.segWrite_landing (v : CoreState) (id off : Nat) (bs : List Byte) : (v.segWrite id off bs).landing = v.landing := by
  change (v.segPut id off bs).landing = _
  unfold CoreState.segPut
  split <;> rfl

/-- A segment store in a quiet state leaves a quiet state. -/
theorem State.sstore_keeps_quiet {s : State} (h : s.quiet) (core seg off : Nat) (bs : List Byte) : (s.sstore core seg off bs).quiet := by
  have hw : (s.modCS core fun v => v.segWrite seg off bs).quiet :=
    State.modCS_quiet h _ _ (by rw [CoreState.segWrite_landing]; exact h.core core)
  have hf := countTable_quiet (fun i l => if none = some (0x8000 + i) ∨ l.seg ≠ seg then 0 else l.overlap off bs.length) _ (hw.core core)
  unfold State.sstore State.putSeg State.countSeg
  dsimp only
  rw [hf, State.runActions_nil (by exact h.1)]
  exact State.modCS_quiet hw core (fun v => { v with landing := _ }) (countTable_unarmed _ _ (hw.core core))

/-- Segment stores of the issuing core in a quiet state, one for each element of a list. -/
theorem State.sstore_foldl_stores (id : Nat) (off : Nat → Nat) (bs : Nat → List Byte) (l : List Nat) : ∀ s : State, s.quiet →
    s.segStores (l.foldl (fun t n => t.sstore s.issue.core id (off n) (bs n)) s) id
      fun a => ∃ n ∈ l, off n ≤ a ∧ a < off n + (bs n).length := by
  induction l with
  | nil => exact fun s _ => .refl _ _ _
  | cons n r ih =>
    intro s h
    have hs := State.sstore_stores h id (off n) (bs n)
    have hr := ih _ (State.sstore_keeps_quiet h s.issue.core id (off n) (bs n))
    rw [hs.issue] at hr
    exact (hs.mono fun a ha => ⟨n, List.mem_cons_self, ha⟩).trans
      (hr.mono fun a ⟨m, hm, ha⟩ => ⟨m, List.mem_cons_of_mem _ hm, ha⟩)

/-! ### The frame of a segment store -/

/-- Bytes of segment `id` were stored at places of `stored` only, and of the issuing context only results of `regs` became
pending: what the statement says of a store in the segment that `name` reaches. -/
def State.segStored (s t : State) (name id : Nat) (g : Seg) (stored : Nat → Prop) (regs : List Reg) : Prop :=
  t.mem = s.mem ∧ (∀ a, ¬ stored a → t.ccs.segRead id a 1 = s.ccs.segRead id a 1)
    ∧ (∀ e, e ≠ id → t.ccs.seg e = s.ccs.seg e) ∧ (∀ c, c ≠ s.issue.core → t.cs c = s.cs c) ∧ t.ccs.sems = s.ccs.sems
    ∧ (name < 0xFE → g.name = name → t.ccs.bank0 = s.ccs.bank0 ∧ t.ccs.bank1 = s.ccs.bank1)
    ∧ s.othersKept t ∧ s.onlyRegs t regs

/-- A store in a ready segment, then results of registers. -/
theorem State.segStores.stored {s u t : State} {name id : Nat} {g : Seg} {stored : Nat → Prop} {regs : List Reg}
    (hg : s.ccs.seg id = some g) (h : (s.useSeg id g).segStores u id stored) (k : Keeps u t regs) :
    s.segStored t name id g stored regs := by
  have hu : u.issue = (s.useSeg id g).issue := h.issue
  have ht : t.issue = (s.useSeg id g).issue := k.issue.trans hu
  obtain ⟨h1, h2, h3, h4, h5, h6⟩ := h
  obtain ⟨k1, k2, k3, k4, k5, -⟩ := k
  rw [hu] at k2 k3
  change u.core s.issue.core = { s.core s.issue.core with cur := { s.ccs with
    segs := u.ccs.segs, bank0 := u.ccs.bank0, bank1 := u.ccs.bank1, landing := u.ccs.landing, flaws := u.ccs.flaws } } at h3
  change t.core s.issue.core = { u.core s.issue.core with cur := { u.ccs with ctxs := t.ccs.ctxs } } at k3
  have huc : u.ccs = { s.ccs with segs := u.ccs.segs, bank0 := u.ccs.bank0, bank1 := u.ccs.bank1, landing := u.ccs.landing,
                                  flaws := u.ccs.flaws } := by
    change (u.core u.issue.core).cur = _
    rw [hu]
    change (u.core s.issue.core).cur = _
    rw [h3]
  have htc : t.ccs = { u.ccs with ctxs := t.ccs.ctxs } := by
    change (t.core t.issue.core).cur = _
    rw [ht]
    change (t.core s.issue.core).cur = _
    rw [k3]
  have hctx : ∀ d j, u.ctx d j = s.ctx d j := by
    intro d j
    by_cases hd : d = s.issue.core
    · subst hd
      change ((u.core s.issue.core).cur).ctx j = _
      rw [h3]
      rfl
    · change ((u.core d).cur).ctx j = _
      rw [h2 d hd]
      rfl
  have hcx : u.cx = s.cx := by
    change u.ctx u.issue.core u.issue.ctx = _
    rw [hu]
    exact hctx _ _
  refine ⟨?_, fun a ha => ?_, fun e he => ?_, fun c hc => ?_, ?_, fun hn hname => ?_, fun d j hd => ?_, ?_⟩
  · calc t.mem = u.mem := by rw [← k1]
      _ = (s.useSeg id g).mem := by rw [← h1]
  · rw [htc]; exact h4 a ha
  · rw [htc]; exact h5 e he
  · exact congrArg Core.cur ((k2 c hc).trans (h2 c hc))
  · rw [htc, huc]
  · rw [htc]; exact (h6 g hg).2 (hname ▸ hn)
  · rw [k4 d j (by rw [hu]; exact hd), hctx]
  · unfold State.onlyRegs at k5 ⊢
    rwa [hcx] at k5

/-- The post-increment of a segment access touches its offset register only (R171). -/
theorem State.postInc_keeps {s : State} (hk : s.issue.ctx < 4) {r : Rrb} (hr : s.issue.rrb = r) (o : BitVec 6) (x : X64) (n : BitVec 1)
    (size : Nat) : Keeps s (s.postInc o x n size) (if n == 1 then destX r o else []) := by
  unfold State.postInc
  subst hr
  by_cases hn : n = 1
  · simpa [hn] using writeX_keeps s hk o _ 1 _ fun _ h => h
  · rw [if_neg hn]
    exact .refl s _

/-- The post-step of a vector access touches its offset register only (R177). -/
theorem State.postStep_keeps {s : State} (hk : s.issue.ctx < 4) {r : Rrb} (hr : s.issue.rrb = r) (o : BitVec 6) (x : X64) (m : BitVec 2) :
    Keeps s (s.postStep o x m) (if m == 1 then destX r o else []) := by
  unfold State.postStep
  subst hr
  by_cases hm : m = 1
  · simpa [hm] using writeX_keeps s hk o _ 1 _ fun _ h => h
  · rw [if_neg hm]
    exact .refl s _

end Sys2Proof.Machine
end

section
/-!
PROOFS. O60: stores that take the stack's overflow path (R158), their frame.
-/
namespace Sys2Proof.Machine

/-! ### Caches and translations arm no counter (R164, R301) -/

theorem State.dieTouch_quiet {s : State} (h : s.quiet) (d loc : Nat) (write : Bool) : (s.dieTouch d loc write).quiet := by
  unfold State.dieTouch
  dsimp only
  split
  · exact h
  · refine State.siteTouch_quiet ?_ loc write
    exact h.of_counters rfl fun _ hc => hc

/-- A change of every core that keeps its landing counters adds none. -/
theorem State.mapCores_quiet {s t : State} (h : s.quiet) (f : Nat → Core → Core) (hf : ∀ n v, (f n v).cur = v.cur ∧ (f n v).shadow = v.shadow)
    (ht : t.cores = s.cores.map fun e => (e.1, f e.1 e.2)) (hs : t.sites = s.sites) (ha : t.actions = s.actions) : t.quiet := by
  refine h.of_counters ha fun c hc => ?_
  have he : t.counters = s.counters := by
    simp only [State.counters, ht, hs, List.flatMap_map, (hf _ _).1, (hf _ _).2]
  exact he ▸ hc

theorem State.fillTlb_quiet {s : State} (h : s.quiet) (core : Nat) (e : TlbEntry) : (s.fillTlb core e).quiet :=
  State.modCore_quiet h core (fun w => { w with tlb := _ }) rfl (h.core core)

theorem State.fillLine_quiet {s : State} (h : s.quiet) (core : Nat) (e : L1Line) : (s.fillLine core e).quiet := by
  have hd : (s.dropSynonyms (dieOf core) e).quiet :=
    State.mapCores_quiet h (fun n v => if dieOf n = dieOf core then
      { v with l1 := v.l1.filter fun l => !(l.asid == e.asid && l.loc == e.loc && l.line != e.line) } else v)
      (fun n v => by split <;> exact ⟨rfl, rfl⟩) rfl rfl rfl
  exact State.modCore_quiet hd core (fun w => { w with l1 := _ }) rfl (hd.core core)

theorem State.missLine_quiet {s : State} (h : s.quiet) (core va loc : Nat) (write : Bool) : (s.missLine core va loc write).quiet := by
  unfold State.missLine
  refine State.dieTouch_quiet (State.quiet.freshen ?_ _) _ _ _
  split
  · exact h
  · split
    · exact State.fillTlb_quiet h _ _
    · exact State.fillLine_quiet (State.fillTlb_quiet h _ _) _ _

theorem State.touchLine_quiet {s : State} (h : s.quiet) (core va loc : Nat) (write : Bool) : (s.touchLine core va loc write).quiet := by
  have hm : (if (s.core core).holdsLine write va then (if write then s.dieTouch (dieOf core) loc true else s)
      else s.missLine core va loc write).quiet := by
    split
    · split
      · exact State.dieTouch_quiet h _ _ _
      · exact h
    · exact State.missLine_quiet h _ _ _ _
  cases write
  · exact hm
  · exact State.spoil_quiet hm _ _ _

theorem State.touch_quiet {s : State} (h : s.quiet) (core : Nat) (l : List (Nat × Nat)) (write : Bool) : (s.touch core l write).quiet :=
  List.foldlRecOn l _ (State.modCS_quiet h core (fun w => { w with mon := _ }) (h.core core)) fun _ hu p _ =>
    State.touchLine_quiet hu core p.1 p.2 write

/-- An access of a core leaves a quiet state. -/
theorem State.touchAll_quiet {s : State} (h : s.quiet) (core va n : Nat) (ls : List Nat) (write : Bool) :
    (s.touchAll core va n ls write).quiet := by
  unfold State.touchAll
  split
  · exact State.touch_quiet h _ _ _
  · exact List.foldlRecOn _ _ h fun _ hu p _ => State.touch_quiet hu core [p] write

/-! ### A global store -/

/-- Only bytes at locations of a list have been stored: of the cores no more than their counts differ. -/
def State.memStores (s t : State) (ls : List Nat) : Prop :=
  (∀ l, l ∉ ls → Memory.read t.mem l = Memory.read s.mem l) ∧ t.issue = s.issue ∧ ∀ c, ∃ m, t.cs c = { s.cs c with mon := m }

theorem State.memStores.trans {s t u : State} {ls : List Nat} (h : s.memStores t ls) (k : t.memStores u ls) : s.memStores u ls := by
  obtain ⟨h1, h2, h3⟩ := h
  obtain ⟨k1, k2, k3⟩ := k
  refine ⟨fun l hl => (k1 l hl).trans (h1 l hl), k2.trans h2, fun c => ?_⟩
  obtain ⟨m, hm⟩ := h3 c
  obtain ⟨n, hn⟩ := k3 c
  exact ⟨n, by rw [hn, hm]⟩

/-- Notes of caches and counts store nothing. -/
theorem State.noted.memStores {s t : State} {core : Nat} (h : s.noted t core) (ls : List Nat) : s.memStores t ls := by
  obtain ⟨-, hm, hi, -, -, -, -, -, -, ho, m, hc⟩ := h
  refine ⟨fun l _ => by rw [hm], hi, fun c => ?_⟩
  by_cases hd : c = core
  · exact ⟨m, hd ▸ hc⟩
  · exact ⟨(s.cs c).mon, ho c hd⟩

theorem State.gstore_memStores {s : State} (h : s.quiet) {ms ls : List Nat} (bs : List Byte) (hs : ∀ l ∈ ms, l ∈ ls) :
    s.memStores (s.gstore ms bs) ls := by
  rw [State.gstore_quiet h]
  exact ⟨fun l hl => Memory.read_writeAll_other fun hm => hl (hs l hm), rfl, fun c => ⟨(s.cs c).mon, rfl⟩⟩

/-- A store of the issuing core in a quiet state stores to its locations only, aligned or not (R169). -/
theorem State.storeAt_memStores {s : State} (h : s.quiet) (va n : Nat) (ls : List Nat) (bs : List Byte) :
    s.memStores (s.storeAt va n ls bs) ls := by
  have ht := (State.touchAll_noted s s.icore va n ls true).memStores ls
  have hq := State.touchAll_quiet h s.icore va n ls true
  unfold State.storeAt
  dsimp only
  split
  · exact ht.trans (State.gstore_memStores hq bs fun _ hl => hl)
  · refine ht.trans (List.foldlRecOn (motive := fun u => u.quiet ∧ (s.touchAll s.icore va n ls true).memStores u ls) (ls.zip bs) _
      ⟨hq, fun _ _ => rfl, rfl, fun c => ⟨_, rfl⟩⟩ fun u hu p hp => ?_).2
    have hmem : ∀ l ∈ [p.1], l ∈ ls := fun l hl => (List.mem_singleton.mp hl) ▸ (List.of_mem_zip hp).1
    exact ⟨State.gstore_keeps_quiet hu.1 _ _, hu.2.trans (State.gstore_memStores hu.1 _ hmem)⟩

/-! ### The frame of a store on the overflow path -/

/-- Only locations of `ls` were stored to and no segment changed, and of the issuing context only results of `regs` became
pending: what the statement says of a store on the overflow path. -/
def State.pushed (s t : State) (ls : List Nat) (regs : List Reg) : Prop :=
  (∀ l, l ∉ ls → Memory.read t.mem l = Memory.read s.mem l)
    ∧ (∀ c, (t.cs c).segs = (s.cs c).segs ∧ (t.cs c).sems = (s.cs c).sems) ∧ s.othersKept t ∧ s.onlyRegs t regs

/-- A global store of a bundle that has named a segment, then results of registers. -/
theorem State.memStores.pushed {s u t : State} {id : Nat} {g : Seg} {ls : List Nat} {regs : List Reg}
    (h : (s.useSeg id g).memStores u ls) (k : Keeps u t regs) : s.pushed t ls regs := by
  obtain ⟨h1, h2, h3⟩ := h
  obtain ⟨k1, k2, k3, k4, k5, -⟩ := k
  rw [h2] at k2 k3
  change ∀ c, ∃ m, u.cs c = { s.cs c with mon := m } at h3
  have hctx : ∀ d j, u.ctx d j = s.ctx d j := fun d j => by
    obtain ⟨m, hm⟩ := h3 d
    unfold State.ctx
    rw [hm]
    rfl
  have hcx : u.cx = s.cx := by
    change u.ctx u.issue.core u.issue.ctx = _
    rw [h2]
    exact hctx _ _
  refine ⟨fun l hl => ?_, fun c => ?_, fun d j hd => ?_, ?_⟩
  · rw [show t.mem = u.mem by rw [← k1]]; exact h1 l hl
  · obtain ⟨m, hm⟩ := h3 c
    have ht : (t.cs c).segs = (u.cs c).segs ∧ (t.cs c).sems = (u.cs c).sems := by
      by_cases hc : c = s.issue.core
      · subst hc
        change (t.core s.issue.core).cur.segs = _ ∧ (t.core s.issue.core).cur.sems = _
        have hu : u.ccs = u.cs s.issue.core := by unfold State.ccs; rw [h2]; rfl
        rw [show t.core s.issue.core = _ from k3, hu]
        exact ⟨rfl, rfl⟩
      · have := congrArg Core.cur (k2 c hc)
        exact ⟨congrArg CoreState.segs this, congrArg CoreState.sems this⟩
    rw [ht.1, ht.2, hm]
    exact ⟨rfl, rfl⟩
  · rw [k4 d j (by rw [h2]; exact hd), hctx]
  · unfold State.onlyRegs at k5 ⊢
    rwa [hcx] at k5

end Sys2Proof.Machine
end

section
/-!
PROOFS. O60: STS8, STS4, VSTS, VSCS and KSAVE (R149, R171, R177, R179).
-/
namespace Sys2Proof.Machine

/-! ### Lengths of what is stored -/

theorem vregBytes_length (v : VReg) : (vregBytes v).length = 256 := by
  simp [vregBytes, List.length_flatMap]

theorem KList.image_length (k : KList) : k.image.length = 520 := by
  unfold KList.image
  rw [List.length_append, leBytes_length, List.length_flatMap, List.map_congr_left (g := fun _ => 8) fun e _ => ?_]
  · simp
  · split
    · rw [List.length_append, leBytes_length, leBytes_length]
    · exact leBytes_length 8 0

/-! ### The stores -/

/-- A bind whose first part is known goes on with its value. -/
theorem bind_ok {α β : Type} {x : Except Halt α} {a : α} {f : α → Except Halt β} {t : β} (hx : x = .ok a) (h : x >>= f = .ok t) :
    f a = .ok t := by rwa [hx] at h

/-- A store of n bytes in a ready segment, and results of registers after it. -/
theorem State.segReady.stores {s u : State} {name id off n : Nat} {g : Seg} {bs : List Byte} {regs : List Reg} (h : s.quiet)
    (hs : s.ccs.seg id = some g) (hl : bs.length = n) (hu : Keeps ((s.useSeg id g).sstore s.icore id off bs) u regs) :
    s.segStored u name id g (fun a => off ≤ a ∧ a < off + n) regs :=
  hl ▸ (State.sstore_stores (s := s.useSeg id g) h id off bs).stored hs hu

/-- The issue after a segment store in a quiet state. -/
theorem State.sstore_issue {s : State} (h : s.quiet) (id off : Nat) (g : Seg) (bs : List Byte) :
    ((s.useSeg id g).sstore s.icore id off bs).issue = (s.useSeg id g).issue :=
  (State.sstore_stores (s := s.useSeg id g) h id off bs).issue

/-- The issue after a global store in a quiet state. -/
theorem State.storeAt_issue {s : State} (h : s.quiet) (id : Nat) (g : Seg) (va n : Nat) (ls : List Nat) (bs : List Byte) :
    ((s.useSeg id g).storeAt va n ls bs).issue = (s.useSeg id g).issue :=
  (State.storeAt_memStores (s := s.useSeg id g) h va n ls bs).2.1

/-- Every selected lane of a scatter lies in a ready segment. -/
theorem segLanes_within {s : State} {name id : Nat} {g : Seg} {k : BitVec 64} {off : Nat → Nat} (hr : s.segReady name id g)
    (hin : ∀ l ∈ selected k, off l + 4 ≤ 256 * g.len) :
    s.segLanes name k off = .ok (id, s.useSeg id g) := by
  have hf : (selected k).find? (fun i => decide (g.bytes < off i + 4)) = none := by
    rw [List.find?_eq_none]
    intro l hl
    have : off l + 4 ≤ g.bytes := hin l hl
    simpa using this
  unfold State.segLanes
  rw [hr.found]
  dsimp only
  rw [hf]

section
variable {s t : State} {gd : BitVec 4} {o : BitVec 6} {y : BitVec 8} {x : X64} {id : Nat} {g : Seg} (h : s.quiet)
  (hk : s.issue.ctx < 4) (hg : s.readP gd.toNat = .ok true) (hr : s.segReady y.toNat id g) (hs : s.ccs.seg id = some g)
  (hv : t.issue.verdict = none)
include h hk hg hr hs hv

theorem segStore_within {r : BitVec 6} {n : BitVec 1} {size : Nat} (hx : s.readX o = .ok x) (hin : x.toNat + size ≤ 256 * g.len)
    (he : segStore gd r y o n size s = .next t) : s.segStored t y.toNat id g (fun a => x.toNat ≤ a ∧ a < x.toNat + size)
      (if n == 1 then destX s.issue.rrb o else []) := by
  obtain ⟨v, -, hb⟩ := bind_inv (segOp_body hg he hv)
  have hb := bind_ok hx hb
  have hb := bind_ok (hr.here true hin) hb
  cases hb
  have hi := State.sstore_issue h id x.toNat g (leBytes size v.toNat)
  exact State.segReady.stores h hs (leBytes_length _ _) (State.postInc_keeps (hi ▸ hk) (r := s.issue.rrb) (congrArg Issue.rrb hi :) o x n size)

theorem vsts_within {v : BitVec 5} {m : BitVec 2} (hx : s.readX o = .ok x) (hin : (x + s.issue.step).toNat + 256 ≤ 256 * g.len)
    (he : exec (.vsts gd v y o m) s = .next t) :
    s.segStored t y.toNat id g (fun a => (x + s.issue.step).toNat ≤ a ∧ a < (x + s.issue.step).toNat + 256)
      (if m == 1 then destX s.issue.rrb o else []) := by
  obtain ⟨r, -, hb⟩ := bind_inv (segOp_body hg he hv)
  have hb := bind_ok hx hb
  have hb := bind_ok (hr.here true hin) hb
  cases hb
  have hi := State.sstore_issue h id (x + s.issue.step).toNat g (vregBytes r)
  exact State.segReady.stores h hs (vregBytes_length r) (State.postStep_keeps (hi ▸ hk) (r := s.issue.rrb) (congrArg Issue.rrb hi :) o x m)

omit hk in
theorem ksave_within {kk : BitVec 3} (hx : s.readX o = .ok x) (hin : (x + s.issue.step).toNat + 520 ≤ 256 * g.len)
    (he : exec (.ksave gd kk y o) s = .next t) :
    s.segStored t y.toNat id g (fun a => (x + s.issue.step).toNat ≤ a ∧ a < (x + s.issue.step).toNat + 520) [] := by
  obtain ⟨l, -, hb⟩ := bind_inv (segOp_body hg he hv)
  have hb := bind_ok hx hb
  have hb := bind_ok (hr.here false hin) hb
  cases hb
  exact State.segReady.stores h hs (KList.image_length l) (Keeps.refl _ _)

omit hk in
theorem vscs_within {v j : BitVec 5} {k : BitVec 3} {idx : VReg} {sel : BitVec 64} (hj : s.readV j = .ok idx) (hm : s.readM k = .ok sel)
    (hin : ∀ l ∈ selected sel, s.laneOffset idx l + 4 ≤ 256 * g.len) (he : exec (.vscs gd v y j k) s = .next t) :
    s.segStored t y.toNat id g (fun a => ∃ l ∈ selected sel, s.laneOffset idx l ≤ a ∧ a < s.laneOffset idx l + 4) [] := by
  have hb := bind_ok hm (segOp_body hg (show segOp gd s _ = _ from he) hv)
  have hb := bind_ok hj hb
  obtain ⟨r, -, hb⟩ := bind_inv hb
  have hb := bind_ok (segLanes_within hr hin) hb
  cases hb
  have hf := State.sstore_foldl_stores id (s.laneOffset idx) (fun l => leBytes 4 (r.lane l).toNat) (selected sel) (s.useSeg id g) h
  simp only [leBytes_length] at hf
  exact hf.stored hs (Keeps.refl _ _)

/-! ### The overflow path (R158) -/

omit hs in
theorem segStore_pushed {r : BitVec 6} {n : BitVec 1} {size va : Nat} (hsize : 0 < size) (hx : s.readX o = .ok x)
    (ho : s.overflowsTo g x.toNat va) (he : segStore gd r y o n size s = .next t) :
    ∃ ls, s.locs s.issue.core va size true = .ok ls ∧ s.pushed t ls (if n == 1 then destX s.issue.rrb o else []) := by
  obtain ⟨v, -, hb⟩ := bind_inv (segOp_body hg he hv)
  have hb := bind_ok hx hb
  have hb := bind_ok (hr.overflow hsize ho) hb
  obtain ⟨ls, hl, hb⟩ := bind_inv hb
  cases hb
  have hi := State.storeAt_issue h id g va size ls (leBytes size v.toNat)
  refine ⟨ls, ?_, (State.storeAt_memStores (s := s.useSeg id g) h va size ls (leBytes size v.toNat)).pushed
    (State.postInc_keeps (hi ▸ hk) (congrArg Issue.rrb hi) o x n size)⟩
  unfold State.check State.accessTrap at hl
  split at hl
  · cases hl; assumption
  · cases hl

omit hs in
theorem vsts_pushed {v : BitVec 5} {m : BitVec 2} {va : Nat} (hx : s.readX o = .ok x) (ho : s.overflowsTo g (x + s.issue.step).toNat va)
    (he : exec (.vsts gd v y o m) s = .next t) :
    ∃ ls, s.locs s.issue.core va 256 true = .ok ls ∧ s.pushed t ls (if m == 1 then destX s.issue.rrb o else []) := by
  obtain ⟨r, -, hb⟩ := bind_inv (segOp_body hg he hv)
  have hb := bind_ok hx hb
  have hb := bind_ok (hr.overflow (Nat.zero_lt_succ 255) ho) hb
  obtain ⟨ls, hl, hb⟩ := bind_inv hb
  cases hb
  have hi := State.storeAt_issue h id g va 256 ls (vregBytes r)
  refine ⟨ls, ?_, (State.storeAt_memStores (s := s.useSeg id g) h va 256 ls (vregBytes r)).pushed
    (State.postStep_keeps (hi ▸ hk) (congrArg Issue.rrb hi) o x m)⟩
  unfold State.checkVector at hl
  split at hl
  · cases hl; assumption
  · unfold State.accessTrap at hl; cases hl

end

end Sys2Proof.Machine
end

section
/-!
PROOFS. O60: what an E-slot command and a segment or landing-counter instruction leave at their issue (R31, R292, R322).
-/
namespace Sys2Proof.Machine

/-! ### The steps of an issue -/

/-- Nothing but the issue, its core's queues, tickets, counters and segment entries, and of its context only the commands in
flight (`l` joins them) and LDARM's wait differ; the bytes of every segment but `n` stand. -/
def State.commands (s t : State) (n : Nat) (l : List Nat) : Prop :=
  (t.mem = s.mem ∧ t.barriers = s.barriers ∧ t.partitions = s.partitions ∧ t.piers = s.piers ∧ t.host = s.host)
    ∧ (t.issue.core = s.issue.core ∧ t.issue.ctx = s.issue.ctx) ∧ (∀ c, c ≠ s.issue.core → t.cs c = s.cs c)
    ∧ (t.ccs.sems = s.ccs.sems ∧ t.ccs.quota = s.ccs.quota ∧ ∀ id a, id ≠ n → t.ccs.segRead id a 1 = s.ccs.segRead id a 1)
    ∧ (∀ j, j ≠ s.issue.ctx → t.ccs.ctx j = s.ccs.ctx j)
    ∧ ∃ b, t.cx = { s.cx with inflight := s.cx.inflight ++ l, armed := b }

theorem State.commands.trans {s t u : State} {n : Nat} {l m : List Nat} (h : s.commands t n l) (k : t.commands u n m) :
    s.commands u n (l ++ m) := by
  obtain ⟨⟨h1, h2, h3, h4, h5⟩, ⟨hc, hx⟩, ho, ⟨hs, hq, hr⟩, hj, b, hb⟩ := h
  obtain ⟨⟨k1, k2, k3, k4, k5⟩, ⟨kc, kx⟩, ko, ⟨ks, kq, kr⟩, kj, d, kd⟩ := k
  rw [hc] at ko
  rw [hx] at kj
  exact ⟨⟨k1.trans h1, k2.trans h2, k3.trans h3, k4.trans h4, k5.trans h5⟩, ⟨kc.trans hc, kx.trans hx⟩,
    fun c hn => (ko c hn).trans (ho c hn),
    ⟨ks.trans hs, kq.trans hq, fun id a hn => (kr id a hn).trans (hr id a hn)⟩, fun j hn => (kj j hn).trans (hj j hn), d,
    by rw [kd, hb, List.append_assoc]⟩

/-- A step that issues no command comes first. -/
theorem State.commands.andThen {s t u : State} {n : Nat} {l : List Nat} (h : s.commands t n []) (k : t.commands u n l) :
    s.commands u n l := h.trans k

/-- A change of what no core holds. -/
theorem State.commands.of_cores {s t : State} (n : Nat) (hc : t.cores = s.cores) (hi : t.issue.core = s.issue.core ∧ t.issue.ctx = s.issue.ctx)
    (h : t.mem = s.mem ∧ t.barriers = s.barriers ∧ t.partitions = s.partitions ∧ t.piers = s.piers ∧ t.host = s.host) :
    s.commands t n [] := by
  have hs : ∀ c, t.cs c = s.cs c := fun c => by unfold State.cs State.core; rw [hc]
  have hccs : t.ccs = s.ccs := by unfold State.ccs; rw [hi.1, hs]
  refine ⟨h, hi, fun c _ => hs c, by rw [hccs]; exact ⟨rfl, rfl, fun _ _ _ => rfl⟩, fun _ _ => by rw [hccs], s.cx.armed, ?_⟩
  rw [List.append_nil]
  unfold State.cx State.ctx
  rw [hi.1, hi.2, hs]

theorem State.commands.refl (s : State) (n : Nat) : s.commands s n [] := .of_cores n rfl ⟨rfl, rfl⟩ ⟨rfl, rfl, rfl, rfl, rfl⟩

/-- A change of the issuing core that keeps contexts, semaphores, SGQUOTA and the bytes of other segments. -/
theorem State.commands.of_modCore (s : State) (n : Nat) (f : Core → Core) (hx : (f (s.core s.issue.core)).cur.ctxs = s.ccs.ctxs)
    (hs : (f (s.core s.issue.core)).cur.sems = s.ccs.sems) (hq : (f (s.core s.issue.core)).cur.quota = s.ccs.quota)
    (hr : ∀ id a, id ≠ n → (f (s.core s.issue.core)).cur.segRead id a 1 = s.ccs.segRead id a 1) :
    s.commands (s.modCore s.issue.core f) n [] := by
  have hc : (s.modCore s.issue.core f).ccs = (f (s.core s.issue.core)).cur := congrArg Core.cur (State.core_setCore _ _ _)
  have hj : ∀ j, (s.modCore s.issue.core f).ccs.ctx j = s.ccs.ctx j := fun j => by
    rw [hc]
    unfold CoreState.ctx
    rw [hx]
  refine ⟨⟨rfl, rfl, rfl, rfl, rfl⟩, ⟨rfl, rfl⟩, fun c hn => congrArg Core.cur (State.core_setCore_other _ _ hn),
    by rw [hc]; exact ⟨hs, hq, hr⟩, fun j _ => hj j, s.cx.armed, ?_⟩
  rw [List.append_nil]
  exact hj s.issue.ctx

theorem State.commands.of_modCcs (s : State) (n : Nat) (f : CoreState → CoreState) (hx : (f s.ccs).ctxs = s.ccs.ctxs)
    (hs : (f s.ccs).sems = s.ccs.sems) (hq : (f s.ccs).quota = s.ccs.quota)
    (hr : ∀ id a, id ≠ n → (f s.ccs).segRead id a 1 = s.ccs.segRead id a 1) : s.commands (s.modCcs f) n [] :=
  .of_modCore s n (fun v => { v with cur := f v.cur }) hx hs hq hr

/-- A change of the issuing context's commands in flight and of LDARM's wait. -/
theorem State.commands.of_modCx {s : State} (hk : s.issue.ctx < 4) (n : Nat) (l : List Nat) (b : Bool) :
    s.commands (s.modCx fun c => { c with inflight := c.inflight ++ l, armed := b }) n l := by
  have hc : (s.modCx fun c => { c with inflight := c.inflight ++ l, armed := b }).ccs
      = s.ccs.setCtx s.issue.ctx { s.cx with inflight := s.cx.inflight ++ l, armed := b } := State.cs_modCS _ _ _
  refine ⟨⟨rfl, rfl, rfl, rfl, rfl⟩, ⟨rfl, rfl⟩, fun c hn => State.cs_modCS_other _ _ hn, by rw [hc]; exact ⟨rfl, rfl, fun _ _ _ => rfl⟩,
    fun j hj => ?_, b, cx_modCx s hk _⟩
  rw [hc, CoreState.ctx_setCtx_other _ hj]

theorem State.useSeg_commands (s : State) (id n : Nat) (g : Seg) : s.commands (s.useSeg id g) n [] :=
  .of_cores n rfl ⟨rfl, rfl⟩ ⟨rfl, rfl, rfl, rfl, rfl⟩

theorem State.useSegLater_commands (s : State) (id n : Nat) : s.commands (s.useSegLater id) n [] :=
  .of_cores n rfl ⟨rfl, rfl⟩ ⟨rfl, rfl, rfl, rfl, rfl⟩

theorem State.useSegOpt_commands (s : State) (id : Option Nat) (n : Nat) : s.commands (s.useSegOpt id) n [] := by
  cases id with
  | none => exact .refl s n
  | some i => exact s.useSegLater_commands i n

theorem State.drawTicket_commands (s : State) (n : Nat) : s.commands s.drawTicket.1 n [] := by
  unfold State.drawTicket
  split
  · exact .refl s n
  · exact (State.commands.of_modCore s n (fun c => { c with
      nextTicket := Nat.max c.nextTicket (s.issue.ticket + 1)
      cur := { c.cur with tickets := (c.cur.tickets.filter fun k => k.num != s.issue.ticket)
        ++ [⟨s.issue.ticket, s.issue.bundleSet, s.issue.cmdSet, true, false, [], false, false, false, false, 0⟩] } })
      rfl rfl rfl fun _ _ _ => rfl).trans (.of_cores n rfl ⟨rfl, rfl⟩ ⟨rfl, rfl, rfl, rfl, rfl⟩)

/-- A command joins those in flight under the next identity. -/
theorem State.command_commands {s : State} (hk : s.issue.ctx < 4) (n : Nat) : s.commands s.command.1 n [s.nextId] := by
  have hd := s.drawTicket_commands n
  have hx := State.commands.of_modCx (s := s.drawTicket.1) (by rw [s.drawTicket_issue.2]; exact hk) n [s.nextId] s.drawTicket.1.cx.armed
  exact (hd.trans hx).trans (.of_cores n rfl ⟨rfl, rfl⟩ ⟨rfl, rfl, rfl, rfl, rfl⟩)

/-- A command enters a queue of its core. -/
theorem State.enter_commands {s : State} (hk : s.issue.ctx < 4) (n : Nat) (f : CoreState → CoreState) (hx : ∀ v, (f v).ctxs = v.ctxs)
    (hs : ∀ v, (f v).sems = v.sems) (hq : ∀ v, (f v).quota = v.quota) (hr : ∀ v id a, (f v).segRead id a 1 = v.segRead id a 1) :
    s.commands (s.command.1.modCcs f) n [s.nextId] :=
  (s.command_commands hk n).trans (.of_modCcs _ n f (hx _) (hs _) (hq _) fun id a _ => hr _ id a)

theorem State.smEnter_commands {s : State} (hk : s.issue.ctx < 4) (n : Nat) (op : SmOp) (before : List Nat) :
    s.commands (s.smEnter op before) n [s.nextId] :=
  State.enter_commands hk n (fun v => { v with smq := _ }) (fun _ => rfl) (fun _ => rfl) (fun _ => rfl) fun _ _ _ => rfl

theorem State.mEnter_commands {s : State} (hk : s.issue.ctx < 4) (n : Nat) (op : MOp) : s.commands (s.mEnter op) n [s.nextId] :=
  State.enter_commands hk n (fun v => { v with mq := _ }) (fun _ => rfl) (fun _ => rfl) (fun _ => rfl) fun _ _ _ => rfl

theorem State.outEnter_commands {s : State} (hk : s.issue.ctx < 4) (n : Nat) (op : PierOp) (piers : List Nat) :
    s.commands (s.outEnter op piers) n [s.nextId] :=
  State.enter_commands hk n (fun v => { v with outbox := _ }) (fun _ => rfl) (fun _ => rfl) (fun _ => rfl) fun _ _ _ => rfl

/-- A command that completes at issue is never in flight. -/
theorem State.completeNow_commands (s : State) (n : Nat) (ticket : Bool) : s.commands (s.completeNow ticket) n [] := by
  have h1 : s.commands (if ticket then
      s.modCore s.icore fun c =>
        { c with nextTicket := Nat.max c.nextTicket (s.issue.ticket + 1), cur := c.cur.endTicket (some s.issue.ticket) }
      else s) n [] := by
    split
    · exact .of_modCore s n _ rfl rfl rfl fun _ _ _ => rfl
    · exact .refl s n
  unfold State.completeNow
  dsimp only
  generalize (if ticket = true then _ else s : State) = s1 at h1 ⊢
  have h2 : s.commands (s1.modIssue fun i => { i with issuedCmd := true, drawn := i.drawn || ticket }) n [] :=
    h1.trans (.of_cores n rfl ⟨rfl, rfl⟩ ⟨rfl, rfl, rfl, rfl, rfl⟩)
  split
  · exact h2
  · exact h2.trans (.of_modCcs _ n (fun v => v.addSemLater _ _) rfl rfl rfl fun _ _ _ => rfl)

/-- A change of a counter is one of its site or of the core's counters. -/
theorem State.setCounter_commands (s : State) (n id : Nat) (l : Landing) : s.commands (s.setCounter id s.issue.core l) n [] := by
  unfold State.setCounter
  split
  · exact .of_modCcs s n (fun v => { v with landing := _ }) rfl rfl rfl fun _ _ _ => rfl
  · exact .of_cores n rfl ⟨rfl, rfl⟩ ⟨rfl, rfl, rfl, rfl, rfl⟩

theorem State.arm_commands (s : State) (n id : Nat) (l : Landing) : s.commands (s.arm id l) n [] :=
  (State.commands.of_cores (t := { s with news := _ }) n rfl ⟨rfl, rfl⟩ ⟨rfl, rfl, rfl, rfl, rfl⟩).trans
    (State.setCounter_commands _ n id l)

/-- A change of a segment's entry that keeps its name and bytes. -/
theorem CoreState.segRead_modSeg (v : CoreState) (e : Nat) (f : Seg → Seg) (hf : ∀ g, (f g).name = g.name ∧ (f g).data = g.data)
    (id a n : Nat) : (v.modSeg e f).segRead id a n = v.segRead id a n := by
  unfold CoreState.modSeg
  split
  · rfl
  · rename_i g hg
    by_cases hi : id = e
    · subst hi
      have h1 : ({ v with segs := v.segs.put id (f g) } : CoreState).seg id = some (f g) := Tab.get_put_same _ _ _
      have h2 : v.seg id = some g := hg
      unfold CoreState.segRead
      rw [h1, h2]
      simp only [CoreState.segData, (hf g).1, (hf g).2]
    · have hs : ({ v with segs := v.segs.put e (f g) } : CoreState).seg id = v.seg id := Tab.get_put_other _ _ hi
      exact CoreState.segRead_congr hs rfl rfl a n

theorem CoreState.modSeg_rest (v : CoreState) (e : Nat) (f : Seg → Seg) :
    (v.modSeg e f).ctxs = v.ctxs ∧ (v.modSeg e f).sems = v.sems ∧ (v.modSeg e f).quota = v.quota := by
  unfold CoreState.modSeg
  split <;> exact ⟨rfl, rfl, rfl⟩

/-- A change of a segment's entry, and of what holds no bytes of a segment. -/
theorem State.commands.of_modSeg (s : State) (n e : Nat) (f : Seg → Seg) (hf : ∀ g, (f g).name = g.name ∧ (f g).data = g.data)
    (p : CoreState → Vector Pipe 8) (q : CoreState → Nat) :
    s.commands (s.modCcs fun v => { v.modSeg e f with pipes := p v, poolFree := q v }) n [] := by
  obtain ⟨h1, h2, h3⟩ := CoreState.modSeg_rest s.ccs e f
  exact .of_modCcs s n _ h1 h2 h3 fun id a _ => CoreState.segRead_modSeg s.ccs e f hf id a 1

end Sys2Proof.Machine
end

section
/-!
PROOFS. O60: the commands of the E slot and the segment and landing-counter instructions, one by one (R209, R244, R251, R252,
R264, R292, R322).
-/
namespace Sys2Proof.Machine

/-- An instruction issued at most one command. -/
def State.commandsOne (s t : State) (n : Nat) : Prop := s.commands t n [] ∨ s.commands t n [s.nextId]

section
variable {s t : State} {g : BitVec 4} {y : BitVec 8} {o : BitVec 6}

/-- A slot issues what its body issues. -/
theorem slot_commandsOne {n : Nat} {b : Except Halt State} (h : slotOp g s b = .next t) (hv : t.issue.verdict = none)
    (hb : ∀ t, b = .ok t → s.commandsOne t n) : s.commandsOne t n := by
  rcases slotOp_inv h hv with ⟨-, rfl⟩ | ⟨-, h⟩
  · exact .inl (.refl _ n)
  · exact hb _ h

theorem seg_commandsOne {n : Nat} {b : Except Halt State} (h : segOp g s b = .next t) (hv : t.issue.verdict = none)
    (hb : ∀ t, b = .ok t → s.commandsOne t n) : s.commandsOne t n := by
  rcases segOp_inv h hv with ⟨-, rfl⟩ | ⟨-, h⟩
  · exact .inl (.refl _ n)
  · exact hb _ h

/-- A command enters a queue behind the segments it names. -/
theorem State.commandsOne.queued {s u t : State} {n : Nat} (h : s.commands u n []) (hn : u.nextId = s.nextId) (k : u.commands t n [u.nextId]) :
    s.commandsOne t n := .inr (hn ▸ h.trans k)

/-- What a command reaches draws no identity. -/
@[simp] theorem State.useSegOpt_nextId (s : State) (id : Option Nat) : (s.useSegOpt id).nextId = s.nextId := by
  cases id <;> rfl

/-- A place within a segment is only reached. -/
theorem State.segPlace_commands {s u : State} {name off len : Nat} {b : Bool} {q : SegPlace} (n : Nat)
    (h : s.segPlace name off len b = .ok (q, u)) : s.commands u n [] ∧ u.nextId = s.nextId := by
  unfold State.segPlace at h
  split at h
  · cases h
  split at h
  · cases h
    exact ⟨s.useSeg_commands _ n _, rfl⟩
  split at h
  · cases h
    exact ⟨s.useSeg_commands _ n _, rfl⟩
  split at h <;> cases h
  exact ⟨s.useSeg_commands _ n _, rfl⟩

theorem State.absentPlace_commands {s u : State} {name off len : Nat} (n : Nat) (h : s.absentPlace name off len = some u) :
    s.commands u n [] := by
  unfold State.absentPlace at h
  split at h
  · next hq =>
    split at h <;> cases h
    exact (State.segPlace_commands n hq).1
  · cases h

/-- A segment entered under one number leaves the bytes of every other one. -/
theorem State.commands.of_put {s : State} (f : CoreState → CoreState) (n : Nat) (g : Seg) (h : (f s.ccs).segs = s.ccs.segs.put n g)
    (hx : (f s.ccs).ctxs = s.ccs.ctxs) (hs : (f s.ccs).sems = s.ccs.sems) (hq : (f s.ccs).quota = s.ccs.quota)
    (h0 : (f s.ccs).bank0 = s.ccs.bank0) (h1 : (f s.ccs).bank1 = s.ccs.bank1) : s.commands (s.modCcs f) n [] := by
  refine .of_modCcs s n f hx hs hq fun id a hid => CoreState.segRead_congr ?_ h0 h1 a 1
  unfold CoreState.seg
  rw [h]
  exact Tab.get_put_other _ _ hid

/-! ### Segment instructions (R292 to R299) -/

variable (hk : s.issue.ctx < 4) (n : Nat) (hv : t.issue.verdict = none)
include hv

theorem sgdef_commands (h : exec (.sgdef g y o) s = .next t) : s.commandsOne t s.ccs.nextSeg := by
  refine seg_commandsOne h hv fun t h => ?_
  obtain ⟨xy, -, h⟩ := bind_inv h
  dsimp only at h
  split at h
  · cases h
  split at h
  · cases h
  cases h
  refine .inl (State.commands.andThen ?_ (State.completeNow_commands _ _ _))
  refine (State.commands.of_cores (t := s.modIssue fun i => { i with defined := _ }) _ rfl ⟨rfl, rfl⟩ ⟨rfl, rfl, rfl, rfl, rfl⟩).andThen ?_
  exact .of_put _ _ _ rfl rfl rfl rfl rfl rfl

include hk in
theorem sgdrop_commands (h : exec (.sgdrop g y) s = .next t) : s.commandsOne t n := by
  refine seg_commandsOne h hv fun t h => ?_
  obtain ⟨_, -, h⟩ := bind_inv h
  obtain ⟨e, -, h⟩ := bind_inv h
  obtain ⟨_, -, h⟩ := bind_inv h
  cases h
  refine State.commandsOne.queued (s.useSegLater_commands e.1 n) rfl ?_
  exact (State.smEnter_commands (by exact hk) n _ _).trans
    (.of_modSeg _ n e.1 (fun g => { g with detached := true, pinned := false }) (fun _ => ⟨rfl, rfl⟩) _ _)

include hk in
theorem sgpin_commands (h : exec (.sgpin g y) s = .next t) : s.commandsOne t n := by
  refine seg_commandsOne h hv fun t h => ?_
  obtain ⟨_, -, h⟩ := bind_inv h
  obtain ⟨e, -, h⟩ := bind_inv h
  obtain ⟨_, -, h⟩ := bind_inv h
  dsimp only at h
  split at h
  · cases h
  cases h
  exact .queued (s.useSegLater_commands e.1 n) rfl (State.smEnter_commands (by exact hk) n _ _)

theorem sgunpin_commands (h : exec (.sgunpin g y) s = .next t) : s.commandsOne t n := by
  refine seg_commandsOne h hv fun t h => ?_
  obtain ⟨e, -, h⟩ := bind_inv h
  obtain ⟨_, -, h⟩ := bind_inv h
  cases h
  obtain ⟨h1, h2, h3⟩ := CoreState.modSeg_rest (s.useSegLater e.1).ccs e.1 fun g => { g with pinned := false }
  refine .inl (((s.useSegLater_commands e.1 n).trans (.of_modCcs _ n _ h1 h2 h3 fun id a _ => ?_)).trans
    (State.completeNow_commands _ n true))
  exact CoreState.segRead_modSeg (s.useSegLater e.1).ccs e.1 (fun g => { g with pinned := false }) (fun _ => ⟨rfl, rfl⟩) id a 1

include hk in
theorem sgpush_commands (h : exec (.sgpush g y) s = .next t) : s.commandsOne t n := by
  refine seg_commandsOne h hv fun t h => ?_
  obtain ⟨_, -, h⟩ := bind_inv h
  obtain ⟨e, -, h⟩ := bind_inv h
  obtain ⟨_, -, h⟩ := bind_inv h
  split at h
  · cases h
  cases h
  exact .queued (s.useSegLater_commands e.1 n) rfl (State.smEnter_commands (by exact hk) n _ _)

include hk in
theorem sgpull_commands (h : exec (.sgpull g y) s = .next t) : s.commandsOne t n := by
  refine seg_commandsOne h hv fun t h => ?_
  obtain ⟨_, -, h⟩ := bind_inv h
  obtain ⟨e, -, h⟩ := bind_inv h
  obtain ⟨_, -, h⟩ := bind_inv h
  cases h
  exact .queued (s.useSegLater_commands e.1 n) rfl (State.smEnter_commands (by exact hk) n _ _)

include hk in
theorem sgsplit_commands {a : BitVec 6} (h : exec (.sgsplit g a) s = .next t) : s.commandsOne t n := by
  refine seg_commandsOne h hv fun t h => ?_
  obtain ⟨_, -, h⟩ := bind_inv h
  obtain ⟨x, -, h⟩ := bind_inv h
  dsimp only at h
  split at h
  · cases h
  split at h
  · cases h
  split at h
  · cases h
  cases h
  exact .inr (State.smEnter_commands hk n _ _)

/-! ### Commands of the matrix unit (R209) -/

include hk

omit hv in
/-- A matrix command on a segment enters the queue. -/
theorem State.mEnter_one (id : Nat) (op : MOp) : s.commandsOne ((s.useSegLater id).mEnter op) n :=
  .queued (s.useSegLater_commands id n) rfl (State.mEnter_commands (by exact hk) n op)

theorem mwld_commands {p : BitVec 1} {f : BitVec 3} (h : exec (.mwld g y o p f) s = .next t) : s.commandsOne t n := by
  refine seg_commandsOne h hv fun t h => ?_
  obtain ⟨_, -, h⟩ := bind_inv h
  obtain ⟨x, -, h⟩ := bind_inv h
  obtain ⟨id, -, h⟩ := bind_inv h
  cases h
  exact State.mEnter_one hk n id _

theorem mstr_commands {d : BitVec 2} {a p : BitVec 1} {f : BitVec 3} (h : exec (.mstr g y o d a p f) s = .next t) :
    s.commandsOne t n := by
  refine seg_commandsOne h hv fun t h => ?_
  obtain ⟨_, -, h⟩ := bind_inv h
  obtain ⟨x, -, h⟩ := bind_inv h
  obtain ⟨count, -, h⟩ := bind_inv h
  obtain ⟨stride, -, h⟩ := bind_inv h
  obtain ⟨ctl, -, h⟩ := bind_inv h
  dsimp only at h
  split at h
  · cases h
  obtain ⟨id, -, h⟩ := bind_inv h
  cases h
  exact State.mEnter_one hk n id _

theorem mrank_commands {d : BitVec 2} {f : BitVec 3} (h : exec (.mrank g y o d f) s = .next t) : s.commandsOne t n := by
  refine seg_commandsOne h hv fun t h => ?_
  obtain ⟨_, -, h⟩ := bind_inv h
  obtain ⟨x, -, h⟩ := bind_inv h
  obtain ⟨count, -, h⟩ := bind_inv h
  obtain ⟨stride, -, h⟩ := bind_inv h
  obtain ⟨ctl, -, h⟩ := bind_inv h
  dsimp only at h
  split at h
  · cases h
  obtain ⟨id, -, h⟩ := bind_inv h
  cases h
  exact State.mEnter_one hk n id _

theorem mout_commands {d r : BitVec 2} {c : BitVec 3} (h : exec (.mout g y o d c r) s = .next t) : s.commandsOne t n := by
  refine seg_commandsOne h hv fun t h => ?_
  obtain ⟨_, -, h⟩ := bind_inv h
  obtain ⟨x, -, h⟩ := bind_inv h
  obtain ⟨rows, -, h⟩ := bind_inv h
  obtain ⟨stride, -, h⟩ := bind_inv h
  dsimp only at h
  split at h
  · cases h
  obtain ⟨id, -, h⟩ := bind_inv h
  cases h
  exact State.mEnter_one hk n id _

theorem mzero_commands {d : BitVec 2} (h : exec (.mzero g d) s = .next t) : s.commandsOne t n := by
  refine seg_commandsOne h hv fun t h => ?_
  obtain ⟨_, -, h⟩ := bind_inv h
  cases h
  exact .inr (State.mEnter_commands hk n _)

omit hk in
theorem mscl_commands {x : BitVec 6} {d : BitVec 1} (h : exec (.mscl g x d) s = .next t) : s.commandsOne t n := by
  refine slot_commandsOne h hv fun t h => ?_
  obtain ⟨v, -, h⟩ := bind_inv h
  cases h
  refine .inl (State.commands.andThen (.of_modCcs s n _ rfl rfl rfl fun _ _ _ => rfl) (State.completeNow_commands _ n false))

/-! ### Commands of the ferry, the piers and the task queue (R244, R251, R252, R264) -/

theorem fcmd_commands (h : exec (.fcmd g y o) s = .next t) : s.commandsOne t n := by
  refine seg_commandsOne h hv fun t h => ?_
  split at h
  · cases h
  obtain ⟨x, -, h⟩ := bind_inv h
  obtain ⟨e, -, h⟩ := bind_inv h
  split at h
  · cases h
    exact .inl (s.useSeg_commands e.1 n e.2)
  split at h
  · cases h
  obtain ⟨_, -, h⟩ := bind_inv h
  dsimp only at h
  split at h
  · cases h
  split at h
  · cases h
  split at h
  · cases h
  rename_i a b hab
  cases h
  have hu := (((s.useSeg_commands e.1 n e.2).andThen (State.useSegOpt_commands _ (if fCr (leNat (s.ccs.segRead e.1 (s.stepped x) 64))
    then some e.1 else none) n)).andThen (State.useSegOpt_commands _ a n)).andThen (State.useSegOpt_commands _ b n)
  refine .queued hu ?_ (State.enter_commands ?_ n (fun v => { v with fq := _ }) (fun _ => rfl) (fun _ => rfl) (fun _ => rfl) fun _ _ _ => rfl)
  · rw [State.useSegOpt_nextId, State.useSegOpt_nextId, State.useSegOpt_nextId]
    rfl
  · rw [hu.2.1.2]; exact hk

theorem pcmd_commands (h : exec (.pcmd g y o) s = .next t) : s.commandsOne t n := by
  refine seg_commandsOne h hv fun t h => ?_
  obtain ⟨⟨e, off, bits⟩, -, h⟩ := bind_inv h
  dsimp only at h
  split at h
  · cases h
    exact .inl (s.useSeg_commands e.1 n e.2)
  split at h
  · cases h
  split at h
  · cases h
  split at h
  · cases h
  cases h
  have hu := fun a => (s.useSeg_commands e.1 n e.2).andThen (State.useSegOpt_commands _ a n)
  exact .queued (hu _) (State.useSegOpt_nextId _ _) (State.outEnter_commands ((hu _).2.1.2 ▸ hk) n _ _)

theorem pload_commands (h : exec (.pload g y o) s = .next t) : s.commandsOne t n := by
  refine seg_commandsOne h hv fun t h => ?_
  obtain ⟨⟨e, off, bits⟩, -, h⟩ := bind_inv h
  dsimp only at h
  split at h
  · cases h
    exact .inl (s.useSeg_commands e.1 n e.2)
  split at h
  · cases h
  split at h
  · cases h
  split at h
  · cases h
  obtain ⟨_, -, h⟩ := bind_inv h
  cases h
  exact .queued (s.useSeg_commands e.1 n e.2) rfl (State.outEnter_commands (by exact hk) n _ _)

theorem tkpost_commands (h : exec (.tkpost g y o) s = .next t) : s.commandsOne t n := by
  refine seg_commandsOne h hv fun t h => ?_
  obtain ⟨x, -, h⟩ := bind_inv h
  obtain ⟨⟨q, u⟩, hq, h⟩ := bind_inv h
  obtain ⟨hu, hn⟩ := State.segPlace_commands n hq
  dsimp only at h
  split at h
  · cases h
    exact .inl hu
  split at h
  · cases h
    exact .inl hu
  obtain ⟨_, -, h⟩ := bind_inv h
  split at h
  · cases h
  split at h
  · cases h
  cases h
  refine .queued hu hn ((State.command_commands (hu.2.1.2 ▸ hk) n).trans ?_)
  exact .of_cores n rfl ⟨rfl, rfl⟩ ⟨rfl, rfl, rfl, rfl, rfl⟩

/-! ### Landing counters (R322, R323) -/

theorem ldarm_commands (h : exec (.ldarm g y o) s = .next t) : s.commandsOne t n := by
  refine seg_commandsOne h hv fun t h => .inl ?_
  obtain ⟨xy, -, h⟩ := bind_inv h
  dsimp only at h
  split at h
  · next hp =>
    cases h
    exact State.absentPlace_commands n hp
  obtain ⟨id, -, h⟩ := bind_inv h
  split at h
  · cases h
  obtain ⟨⟨q, u⟩, hq, h⟩ := bind_inv h
  obtain ⟨hu, hn⟩ := State.segPlace_commands n hq
  dsimp only at h
  split at h
  · cases h
    exact hu
  obtain ⟨_, -, h⟩ := bind_inv h
  split at h
  · cases h
  split at h
  · obtain ⟨rid, -, h⟩ := bind_inv h
    have hr := hu.andThen (u.useSegLater_commands rid n)
    split at h
    · cases h
      exact hr
    · cases h
      exact (hr.andThen (State.arm_commands _ n id _)).andThen (State.completeNow_commands _ n true)
  split at h
  · cases h
    exact hu
  obtain ⟨pages, -, h⟩ := bind_inv h
  split at h
  · cases h
  cases h
  have hw := State.commands.of_modCx (s := u) (by rw [hu.2.1.2]; exact hk) n [] false
  simp only [List.append_nil] at hw
  exact ((hu.andThen hw).andThen (State.arm_commands _ n id _)).andThen (State.completeNow_commands _ n true)

omit hk in
theorem lddis_commands {a : BitVec 6} (h : exec (.lddis g a) s = .next t) : s.commandsOne t n := by
  refine slot_commandsOne h hv fun t h => ?_
  obtain ⟨x, -, h⟩ := bind_inv h
  obtain ⟨id, -, h⟩ := bind_inv h
  cases h
  exact .inl ((State.setCounter_commands s n id _).andThen (State.completeNow_commands _ n false))

end

end Sys2Proof.Machine
end

section
/-!
PROOFS. O60: SGSTAT and LDREAD, which owe their destination a result, and the statement itself.
-/
namespace Sys2Proof.Machine

/-! ### Results delivered as a load's (R67) -/

/-- A result delivered as a load's makes a register of the list pending. -/
theorem enterLoad_keeps {s : State} (hk : s.issue.ctx < 4) (kind : LoadKind) (dests : List (Reg × RegVal)) (id due phys bundle : Nat)
    (err : Bool) {regs : List Reg} (hr : ∀ d ∈ dests, d.1 ∈ regs) :
    Keeps s (s.modCx fun c => c.enterLoad kind dests id due phys bundle err) regs := by
  refine modCx_keeps _ hk _ _ ?_ (Nat.le_succ _)
  unfold State.onlyRegs
  rw [cx_modCx s hk]
  refine ⟨rfl, fun e he => .inl he, fun e he _ => he, fun l hl => ?_, fun m hm => ?_⟩
  · rcases List.mem_append.1 hl with hl | hl
    · obtain ⟨m, hm, rfl⟩ := List.mem_map.1 hl
      exact .inl ⟨m, hm, rfl, fun d hd => (List.mem_filter.1 hd).1⟩
    · cases List.mem_singleton.1 hl
      exact .inr ⟨hr, Nat.le_refl _⟩
  · refine ⟨_, List.mem_append_left _ (List.mem_map.2 ⟨m, hm, rfl⟩), rfl, fun d hd hn => List.mem_filter.2 ⟨hd, ?_⟩⟩
    simp only [Bool.not_eq_true', List.contains_eq_mem, decide_eq_false_iff_not, List.mem_map, not_exists, not_and]
    exact fun e he h => hn (h ▸ hr e he)

/-- An instruction makes registers pending and issues at most one command. -/
def State.commandsOwing (s t : State) (n : Nat) (regs : List Reg) : Prop := ∃ u, Keeps s u regs ∧ u.commandsOne t n

theorem State.commandsOne.owing {s t : State} {n : Nat} (h : s.commandsOne t n) : s.commandsOwing t n [] := ⟨s, .refl s [], h⟩

/-- Steps that issue no command come after. -/
theorem State.commandsOwing.andThen {s t u : State} {n : Nat} {regs : List Reg} (h : s.commandsOwing t n regs)
    (k : t.commands u n []) : s.commandsOwing u n regs := by
  obtain ⟨v, hv, h | h⟩ := h
  · exact ⟨v, hv, .inl (h.trans k)⟩
  · exact ⟨v, hv, .inr (h.trans k)⟩

/-- A scalar result delivered as a load's. -/
theorem State.loadResult_owing {s : State} (hk : s.issue.ctx < 4) (kind : LoadKind) (d : BitVec 6) (v : X64) (due phys n : Nat) :
    s.commandsOwing (s.loadResult kind (s.xDest d v) due phys) n (destX s.issue.rrb d) := by
  unfold State.loadResult State.loadEnters
  split
  · exact ⟨s, .refl s _, .inl (.refl s n)⟩
  · refine ⟨_, enterLoad_keeps hk kind (s.xDest d v) s.nextId due phys s.issue.pc false fun e he => ?_, .inl ?_⟩
    · unfold State.xDest at he
      unfold destX
      split at he
      · cases he
      · rw [List.mem_singleton.1 he, if_neg ‹_›]
        exact List.mem_singleton_self _
    · exact .of_cores n rfl ⟨rfl, rfl⟩ ⟨rfl, rfl, rfl, rfl, rfl⟩

section
variable {s t : State} {g : BitVec 4} (hk : s.issue.ctx < 4) (n : Nat) (hv : t.issue.verdict = none)
include hk hv

/-- A slot owes what its body owes. -/
theorem slot_owing {b : Except Halt State} {regs : List Reg} (h : slotOp g s b = .next t)
    (hb : ∀ t, b = .ok t → s.commandsOwing t n regs) : s.commandsOwing t n regs := by
  rcases slotOp_inv h hv with ⟨-, rfl⟩ | ⟨-, h⟩
  · exact ⟨_, .refl _ regs, .inl (.refl _ n)⟩
  · exact hb _ h

theorem sgstat_owing {y : BitVec 8} {d : BitVec 6} (h : exec (.sgstat g y d) s = .next t) :
    s.commandsOwing t n (destX s.issue.rrb d) := by
  refine slot_owing hk n hv h fun t h => ?_
  cases h
  apply State.commandsOwing.andThen (State.loadResult_owing hk .sgstat d _ 0 0 n)
  refine State.commands.andThen ?_ (State.completeNow_commands _ n false)
  exact .of_cores n rfl ⟨rfl, rfl⟩ ⟨rfl, rfl, rfl, rfl, rfl⟩

theorem ldread_owing {d a : BitVec 6} (h : exec (.ldread g d a) s = .next t) : s.commandsOwing t n (destX s.issue.rrb d) := by
  refine slot_owing hk n hv h fun t h => ?_
  obtain ⟨x, -, h⟩ := bind_inv h
  obtain ⟨id, -, h⟩ := bind_inv h
  cases h
  exact (State.loadResult_owing hk .ldread d _ 0 0 n).andThen (State.completeNow_commands _ n false)

/-- Every instruction of the list issues at most one command and makes no other register pending than the list says; SGDEF
leaves the bytes of every segment but the new one, which is number `nextSeg`. -/
theorem commandRegs_owing {i : Instr} {regs : List Reg} (hi : i.commandRegs s.issue.rrb = some regs) (h : exec i s = .next t) :
    s.commandsOwing t s.ccs.nextSeg regs := by
  cases i <;> cases hi
  case sgstat => exact sgstat_owing hk _ hv h
  case ldread => exact ldread_owing hk _ hv h
  case sgdef => exact (sgdef_commands hv h).owing
  case mscl => exact (mscl_commands _ hv h).owing
  case sgunpin => exact (sgunpin_commands _ hv h).owing
  case lddis => exact (lddis_commands _ hv h).owing
  case mwld => exact (mwld_commands hk _ hv h).owing
  case mstr => exact (mstr_commands hk _ hv h).owing
  case mrank => exact (mrank_commands hk _ hv h).owing
  case mout => exact (mout_commands hk _ hv h).owing
  case mzero => exact (mzero_commands hk _ hv h).owing
  case fcmd => exact (fcmd_commands hk _ hv h).owing
  case pcmd => exact (pcmd_commands hk _ hv h).owing
  case pload => exact (pload_commands hk _ hv h).owing
  case tkpost => exact (tkpost_commands hk _ hv h).owing
  case ldarm => exact (ldarm_commands hk _ hv h).owing
  case sgdrop => exact (sgdrop_commands hk _ hv h).owing
  case sgpin => exact (sgpin_commands hk _ hv h).owing
  case sgpush => exact (sgpush_commands hk _ hv h).owing
  case sgpull => exact (sgpull_commands hk _ hv h).owing
  case sgsplit => exact (sgsplit_commands hk _ hv h).owing

end

/-! ### The frame of an issue that makes registers pending and issues a command -/

/-- Of the issuing context the commands in flight and LDARM's wait follow the command, and the pending results the registers. -/
theorem Keeps.onlyRegs_commands {s t u : State} {n : Nat} {l : List Nat} {regs : List Reg} (hk : s.issue.ctx < 4)
    (ho : Keeps s u regs) (h : u.commands t n l) :
    (s.modCx fun c => { c with inflight := t.cx.inflight, armed := t.cx.armed }).onlyRegs t regs
      ∧ t.cx.inflight = s.cx.inflight ++ l := by
  obtain ⟨-, -, -, -, -, b, hb⟩ := h
  obtain ⟨-, -, -, -, ⟨hx, h1, h2, h3, h4⟩, -⟩ := ho
  have hm := cx_modCx s hk fun c => { c with inflight := t.cx.inflight, armed := t.cx.armed }
  unfold State.onlyRegs
  rw [hm, hb]
  refine ⟨⟨?_, h1, h2, h3, h4⟩, ?_⟩
  · rw [hx]
  · rw [hx]

/-- Nothing but the cores differs. -/
theorem Keeps.rest {s u : State} {regs : List Reg} (h : Keeps s u regs) : u.mem = s.mem ∧ u.barriers = s.barriers
    ∧ u.partitions = s.partitions ∧ u.piers = s.piers ∧ u.host = s.host ∧ u.nextId = s.nextId := by
  rw [← h.1]
  exact ⟨rfl, rfl, rfl, rfl, rfl, rfl⟩

/-- Whatever lies outside the issuing core's tables stands as before. -/
theorem Keeps.frame_commands {s t u : State} {n : Nat} {l : List Nat} {regs : List Reg} (ho : Keeps s u regs) (h : u.commands t n l) :
    t.mem = s.mem ∧ (∀ c, c ≠ s.issue.core → t.cs c = s.cs c) ∧ t.ccs.sems = s.ccs.sems
      ∧ (∀ id a, id ≠ n → t.ccs.segRead id a 1 = s.ccs.segRead id a 1) ∧ t.ccs.quota = s.ccs.quota
      ∧ t.barriers = s.barriers ∧ t.partitions = s.partitions ∧ t.piers = s.piers ∧ t.host = s.host ∧ s.othersKept t := by
  obtain ⟨⟨hmem, hbar, hpart, hpier, hhost⟩, ⟨hc, hx⟩, hother, ⟨hsem, hquota, hread⟩, hctx, -⟩ := h
  have hi := ho.issue
  obtain ⟨r1, r2, r3, r4, r5, -⟩ := ho.rest
  obtain ⟨-, hcores, hcore, hkept, -⟩ := ho
  have hccs : u.ccs = { s.ccs with ctxs := u.ccs.ctxs } := by
    show (u.core u.issue.core).cur = _
    rw [hi, hcore]
  rw [hi] at hc hx hother hctx
  refine ⟨hmem.trans r1, fun c hn => (hother c hn).trans (congrArg Core.cur (hcores c hn)), ?_, fun id a hn => ?_, ?_,
    hbar.trans r2, hpart.trans r3, hpier.trans r4,
    hhost.trans r5, fun d j hdj => ?_⟩
  · rw [hsem, hccs]
  · rw [hread id a hn, hccs]
    rfl
  · rw [hquota, hccs]
  · rw [← hkept d j hdj]
    by_cases hd : d = s.issue.core
    · subst hd
      have hj := hctx j (hdj.resolve_left fun h => h rfl)
      unfold State.ccs at hj
      rw [hc, hi] at hj
      exact hj
    · unfold State.ctx
      rw [hother d hd]

/-- Settles O60: stores within a segment by the frame of their segment writes, stores on the overflow path by that of the
memory they reach, and the commands by the steps of their issue. -/
theorem segmentStoreFrame : Obligations.SegmentStoreFrame := by
  unfold Obligations.SegmentStoreFrame
  refine ⟨fun s t gd r o y n v j m k kk x idx sel id g hq hk hg hx hj hm hr hs hv => ?_, fun i s t regs hi hk h hv => ?_⟩
  · exact ⟨fun hin he => segStore_within hq hk hg hr hs hv hx hin he, fun hin he => segStore_within hq hk hg hr hs hv hx hin he,
      fun hin he => vsts_within hq hk hg hr hs hv hx hin he, fun hin he => vscs_within hq hg hr hs hv hj hm hin he,
      fun hin he => ksave_within hq hg hr hs hv hx hin he,
      fun va ho he => (segStore_pushed hq hk hg hr hv (Nat.zero_lt_succ 7) hx ho he).imp fun _ hl => hl,
      fun va ho he => (segStore_pushed hq hk hg hr hv (Nat.zero_lt_succ 3) hx ho he).imp fun _ hl => hl,
      fun va ho he => (vsts_pushed hq hk hg hr hv hx ho he).imp fun _ hl => hl⟩
  · obtain ⟨u, hu, hone⟩ := commandRegs_owing hk hv hi h
    obtain ⟨l, hl, hc⟩ : ∃ l, (l = [] ∨ l = [u.nextId]) ∧ u.commands t s.ccs.nextSeg l :=
      hone.elim (fun h => ⟨_, .inl rfl, h⟩) fun h => ⟨_, .inr rfl, h⟩
    obtain ⟨h1, h2, h3, h4, h5, h6, h7, h8, h9, h10⟩ := hu.frame_commands hc
    obtain ⟨h11, h12⟩ := hu.onlyRegs_commands hk hc
    obtain ⟨-, -, -, -, -, hn⟩ := hu.rest
    rw [hn] at hl
    refine ⟨h1, h2, h3, h4, h5, h6, h7, h8, h9, h10, h11, ?_⟩
    rcases hl with rfl | rfl
    · exact .inl (h12.trans (List.append_nil _))
    · exact .inr h12

end Sys2Proof.Machine
end

section
/-!
PROOFS. O1: the core's turn (R28, R29) and the attempt to issue (R36).
-/
namespace Sys2Proof.Machine

/-! ### The turn of a core -/

/-- With no stall of a trap entry and no context that holds the core, the one context that is ready is chosen. -/
theorem State.chosen_of_ready {u : State} {core k : Nat} (hk : k < 4) (hl : (u.cs core).lastIssuer < 4)
    (hh : ∀ j < 4, (u.ctx core j).holdsCore = false) : u.chosen core [k] = some k := by
  have hf : [0, 1, 2, 3].find? (fun k => (u.ctx core k).holdsCore) = none := by
    rw [List.find?_eq_none]
    intro j hj
    have hj4 : j < 4 := by
      simp only [List.mem_cons, List.not_mem_nil, or_false] at hj
      omega
    rw [hh j hj4]
    exact Bool.false_ne_true
  unfold State.chosen
  rw [hf]
  exact CoreState.find_order _ k hk hl

/-- The turn of a core with one ready context whose bundle issues. -/
theorem State.issueTurn_issued {s u t : State} {core k : Nat} (hstall : (s.cs core).stallTo = 0) (hsv : s.surveyed core = (u, [k]))
    (hc : u.chosen core [k] = some k) (ht : (u.waitTurn core (List.range k)).tryIssue core k = .issued t) :
    s.issueTurn core = (t.modCS core fun v =>
      { ((u.waitTurn core (List.range k)).cs core).countRun v k with mon := { v.mon with issued := v.mon.issued + 1 } }).waitTurn core
        (countFrom (k + 1) (3 - k)) := by
  have he : s.entryStalls core = false := by simp [State.entryStalls, hstall]
  unfold State.issueTurn
  rw [hsv]
  dsimp only
  rw [he, hc]
  unfold State.act
  simp only [ht, Bool.false_eq_true, if_false]

theorem step_issueTurn {s : State} {core : Nat} {r : List Turn} (ha : s.agenda = []) (hp : s.mgmt.powered = true)
    (ht : s.todo = .issue core :: r) : step s = .next (State.issueTurn { s with todo := r } core).settle := by
  have hn : s.nextEvent = none := by simp [State.nextEvent, ha]
  unfold step
  rw [hn]
  simp [hp, State.nextTurn, ht, State.turn]

/-! ### The attempt to issue -/

section
variable {s : State} {core k : Nat} (hm : (s.ctx core k).mayFetch s.cycle.toNat = true)
include hm

/-- A fetch that fails is the bundle's failure. -/
theorem State.tryIssue_fetch_error {h : Halt} (hf : (s.cs core).fetch (s.ctx core k) = .error h) :
    s.tryIssue core k = s.trapBundle core k (s.ctx core k) h := by
  simp [State.tryIssue, hm, hf]

variable {b : Bundle} (hf : (s.cs core).fetch (s.ctx core k) = .ok b)
include hf

theorem State.tryIssue_check {h : Halt} (hc : b.check (s.ctx core k).mode.priv (s.feature core) = some h) :
    s.tryIssue core k = s.trapBundle core k (s.ctx core k) h := by
  simp [State.tryIssue, hm, hf, hc]

variable (hc : b.check (s.ctx core k).mode.priv (s.feature core) = none)
include hc

theorem State.tryIssue_modeStalls (h : (s.ctx core k).modeStalls = true) : s.tryIssue core k = .stalled s := by
  simp [State.tryIssue, hm, hf, hc, h]

theorem State.tryIssue_syncWaits (h : (s.ctx core k).modeStalls = false) (hw : s.syncWaits core b = true) :
    s.tryIssue core k = .blocked (s.unparkBundle core k) .sync := by
  simp [State.tryIssue, hm, hf, hc, h, hw]

end

/-! ### The verdict of the slots -/

/-- A slot that blocks, segments apart, decides before every fault. -/
theorem blockOf_of_mem {hs : List (Halt × Bool)} {w : WaitReason} (h : (.blocked w, false) ∈ hs) (hw : w ≠ .segment) :
    ∃ v, blockOf hs = some v := by
  rw [← Option.isSome_iff_exists]
  unfold blockOf
  rw [List.findSome?_isSome_iff]
  refine ⟨_, h, ?_⟩
  cases w with
  | segment => exact absurd rfl hw
  | _ => rfl

theorem State.decideIssue_blocked {s t : State} {core k : Nat} {x : Ctx} {b : Bundle} {l : List SlotView} {bc : X64}
    {hs : List (Halt × Bool)} {w : WaitReason} (h : (.blocked w, false) ∈ hs) (hw : w ≠ .segment) :
    ∃ v, s.decideIssue t core k x b l bc hs = .blocked (s.unparkBundle core k) v := by
  obtain ⟨v, hv⟩ := blockOf_of_mem h hw
  refine ⟨v, ?_⟩
  unfold State.decideIssue
  simp only [hv]

/-- Where every slot that halts faults, none blocks or stalls. -/
theorem blockOf_traps {hs : List (Halt × Bool)} (h : ∀ e ∈ hs, ∃ c d n v, e = (Halt.trap c d n v, false)) :
    blockOf hs = none ∧ stallOf hs = false := by
  constructor
  · unfold blockOf
    rw [List.findSome?_eq_none_iff]
    intro e he
    obtain ⟨c, d, n, v, rfl⟩ := h e he
    rfl
  · unfold stallOf
    rw [List.any_eq_false]
    intro e he
    obtain ⟨c, d, n, v, rfl⟩ := h e he
    exact Bool.false_ne_true

theorem setTrap_of_ne {e : Bool} {c d n v : Nat} (h : c ≠ 8) : setTrap e (.trap c d n v) = false := by
  unfold setTrap
  split
  · next heq => exact absurd (Halt.trap.inj heq).1 h
  · rfl

/-- The first slot that faults traps. -/
theorem State.decideIssue_trap {s t : State} {core k : Nat} {x : Ctx} {b : Bundle} {l : List SlotView} {bc : X64}
    {hs : List (Halt × Bool)} {c d n v : Nat} (hh : hs.head? = some (.trap c d n v, false)) (hc : c ≠ 8)
    (h : ∀ e ∈ hs, ∃ c d n v, e = (Halt.trap c d n v, false)) (hstart : t.issue.start = none) (habs : t.issue.absent = false)
    (ho : x.overruns = false) :
    s.decideIssue t core k x b l bc hs = .trapped (s.takeTrap core k c d n v x.pc x.rep) := by
  obtain ⟨hb, hst⟩ := blockOf_traps h
  have ht : ∀ e, trapOf e hs = some (.trap c d n v) := by
    intro e
    cases hs with
    | nil => cases hh
    | cons a r =>
      cases Option.some.inj hh
      simp [trapOf, setTrap_of_ne hc]
  simp [State.decideIssue, hb, hst, habs, hstart, ho, ht, State.trapBundle]

end Sys2Proof.Machine
end

section
/-!
PROOFS. O1: the checks of stages 2 to 5 (R36, R39, R42, R43, R44).
-/
namespace Sys2Proof.Machine

/-- What a slot writes, for R39. -/
def SlotView.dests (v : SlotView) : List Dest :=
  match v.dec with
  | .ok i => i.dests
  | .error _ => []

/-- A stage passes where no slot fails it. -/
theorem firstSlot_none {l : List (Nat × Bool)} : firstSlot l = none ↔ ∀ e ∈ l, e.2 = false := by
  simp [firstSlot]

/-- The conflicts of the slots behind some destinations: one entry a slot. -/
theorem conflicts_cons (before : List Dest) (v : SlotView) (r : List SlotView) : conflicts before (v :: r)
    = (v.cls.number, v.dests.any fun d => before.contains d) :: conflicts (before ++ v.dests) r := by
  unfold SlotView.dests
  cases h : v.dec <;> simp [conflicts, SlotView.instr, h]

theorem conflicts_length (l : List SlotView) : ∀ before, (conflicts before l).length = l.length := by
  induction l with
  | nil => exact fun _ => rfl
  | cons v r ih => exact fun before => by rw [conflicts_cons, List.length_cons, ih, List.length_cons]

/-- No slot writes what a slot before it writes, or what stands before them all. -/
theorem conflicts_none (l : List SlotView) : ∀ before, (∀ e ∈ conflicts before l, e.2 = false) ↔
    (∀ v ∈ l, ∀ d ∈ v.dests, d ∉ before) ∧ l.Pairwise fun v w => ∀ d ∈ w.dests, d ∉ v.dests := by
  induction l with
  | nil => simp [conflicts]
  | cons v r ih =>
    intro before
    rw [conflicts_cons, List.forall_mem_cons, List.forall_mem_cons, List.pairwise_cons, ih]
    simp only [List.any_eq_false, List.contains_eq_mem, decide_eq_true_eq, List.mem_append, not_or]
    constructor
    · exact fun ⟨h1, h2, h3⟩ => ⟨⟨h1, fun w hw d hd => (h2 w hw d hd).1⟩, fun w hw d hd => (h2 w hw d hd).2, h3⟩
    · exact fun ⟨⟨h1, h2⟩, h3, h4⟩ => ⟨h1, fun w hw d hd => ⟨h2 w hw d hd, h3 w hw d hd⟩, h4⟩

/-- A test on pairs of two lists of one length, one part of it on either list. -/
theorem forall_zip_or {α β : Type} (f : α → Bool) (g : β → Bool) (l : List α) : ∀ m : List β, m.length = l.length →
    ((∀ e ∈ l.zip m, (f e.1 || g e.2) = false) ↔ (∀ a ∈ l, f a = false) ∧ ∀ b ∈ m, g b = false) := by
  induction l with
  | nil =>
    intro m hm
    obtain rfl := List.length_eq_zero_iff.1 hm
    simp
  | cons a r ih =>
    intro m hm
    cases m with
    | nil => cases hm
    | cons b m =>
      rw [List.zip_cons_cons, List.forall_mem_cons, List.forall_mem_cons, List.forall_mem_cons, ih m (Nat.succ.inj hm), Bool.or_eq_false_iff]
      tauto

/-! ### Stage 2 -/

/-- A slot's own part of stage 2. -/
def SlotView.form (b : Bundle) (v : SlotView) : Bool :=
  (match v.dec with
    | .error .reserved => true
    | _ => false)
  || (!v.kept && v.has fun i => i.usesB && b.bw.isNone)
  || v.has Instr.badDest
  || (!v.kept && b.rep != 0 && v.unrepeatable)

theorem Bundle.stage2_none (b : Bundle) (l : List SlotView) : b.stage2 l = none ↔
    (∀ v ∈ l, v.form b = false) ∧ (l.Pairwise fun v w => ∀ d ∈ w.dests, d ∉ v.dests)
      ∧ b.bw.any bwBad = false ∧ (b.sy.any fun w => syBad (b.slots.any fun e => e.1 = .E) w.1 w.2) = false := by
  have hz := forall_zip_or (SlotView.form b) Prod.snd l (conflicts [] l) (conflicts_length l [])
  rw [conflicts_none l []] at hz
  unfold Bundle.stage2
  dsimp only
  rw [firstSlot_none]
  simp only [List.forall_mem_append, List.forall_mem_map, List.forall_mem_singleton]
  refine Iff.trans (and_congr_left' hz) ?_
  simp [and_assoc]

/-- The forms of the broadcast word: an immediate, or a register with no bits in between and no code of 63. -/
theorem bwBad_false (w : Word) : bwBad w = false ↔ (w.getLsbD 31 = true → bitsOf w.toNat 30 6 = 0 ∧ bitsOf w.toNat 5 0 ≠ 63) := by
  unfold bwBad
  cases w.getLsbD 31 <;> simp

/-- The rules of the sync pair. -/
theorem syBad_false (hasE : Bool) (w0 w1 : Word) : syBad hasE w0 w1 = false ↔ bitsOf w0.toNat 5 0 = 0 ∧ bitsOf w1.toNat 14 0 = 0
    ∧ (w0.getLsbD 30 = true ↔ bitsOf w1.toNat 23 16 ≠ 0) ∧ (w1.getLsbD 15 = true → w0.getLsbD 30 = true ∧ hasE = true) := by
  unfold syBad
  cases w0.getLsbD 30 <;> cases w1.getLsbD 15 <;> cases hasE <;> simp [and_assoc]

/-! ### Stages 3 to 5 -/

/-- A slot's part of stage 3. -/
def SlotView.refused (b : Bundle) (feature : Bool) (l : List SlotView) (v : SlotView) : Bool :=
  !feature || (match v.instr with
    | some i => !i.fieldsOk || !i.loopEndOk b.len
    | none => true) || (decide (v.cls = .C) && sameBarrier l)

theorem Bundle.stage3_none (b : Bundle) (feature : Bool) (l : List SlotView) :
    b.stage3 feature l = none ↔ ∀ v ∈ l, v.refused b feature l = false := by
  unfold Bundle.stage3
  rw [firstSlot_none, List.forall_mem_map]
  exact Iff.rfl

theorem Bundle.stage4_none (b : Bundle) (l : List SlotView) : b.stage4 l = none ↔
    (∀ v ∈ l, v.instr.bind Instr.reservedReg = none) ∧ ∀ n, b.bw.bind bwReg = some n → ¬ (48 ≤ n ∧ n ≤ 62) := by
  unfold Bundle.stage4
  rw [List.head?_eq_none_iff, List.append_eq_nil_iff, List.filterMap_eq_nil_iff]
  refine and_congr ?_ ?_
  · simp
  · cases b.bw.bind bwReg with
    | none => simp
    | some n => simp [ite_eq_right_iff]

theorem stage5_none (priv : Bool) (l : List SlotView) : stage5 priv l = none ↔
    ∀ v ∈ l, ∀ i, v.instr = some i → i.privileged = true → priv = true := by
  unfold stage5
  cases priv with
  | true => simp
  | false =>
    simp only [Bool.false_eq_true, if_false, List.head?_eq_none_iff, List.filterMap_eq_nil_iff]
    refine forall₂_congr fun v _ => ?_
    cases v.instr with
    | none => simp
    | some i => simp

/-- A bundle passes where it passes each stage. -/
theorem Bundle.check_none (b : Bundle) (priv feature : Bool) : b.check priv feature = none ↔
    b.stage2 b.views = none ∧ b.stage3 feature b.views = none ∧ b.stage4 b.views = none ∧ stage5 priv b.views = none := by
  unfold Bundle.check
  dsimp only
  cases b.stage2 b.views <;> cases b.stage3 feature b.views <;> cases b.stage4 b.views <;> simp

/-! ### The bundle's checks -/

/-- What a slot's word is, where the slot's part of every stage passes. -/
theorem SlotView.passes_iff (b : Bundle) (priv feature : Bool) (l : List SlotView) (v : SlotView) :
    (v.form b = false ∧ v.refused b feature l = false ∧ v.instr.bind Instr.reservedReg = none
        ∧ ∀ i, v.instr = some i → i.privileged = true → priv = true)
      ↔ ∃ i, v.dec = .ok i ∧ feature = true ∧ i.fieldsOk = true ∧ i.loopEndOk b.len = true ∧ i.badDest = false
        ∧ i.reservedReg = none ∧ (i.privileged = true → priv = true) ∧ (v.cls = .C → sameBarrier l = false)
        ∧ (v.kept = false → (i.usesB = true → b.bw ≠ none) ∧ (b.rep ≠ 0 → v.unrepeatable = false)) := by
  unfold SlotView.form SlotView.refused SlotView.has SlotView.instr
  cases v.dec with
  | error e => simp
  | ok i => cases v.kept <;> simp [Option.isSome_iff_ne_none] <;> tauto

/-- The broadcast word's form and register code. -/
theorem bwForm_iff (bw : Option Word) : (bw.any bwBad = false ∧ ∀ n, bw.bind bwReg = some n → ¬ (48 ≤ n ∧ n ≤ 62))
    ↔ ∀ w, bw = some w → w.getLsbD 31 = true → bitsOf w.toNat 30 6 = 0 ∧ bitsOf w.toNat 5 0 < 48 := by
  cases bw with
  | none => simp
  | some w =>
    have h64 : bitsOf w.toNat 5 0 < 64 := Nat.mod_lt _ (by decide)
    simp only [Option.any_some, bwBad_false, Option.bind_some, bwReg, Option.some.injEq, forall_eq']
    cases w.getLsbD 31 with
    | false => simp
    | true =>
      simp only [forall_const, if_true, Option.some.injEq, forall_eq']
      omega

theorem syForm_iff (hasE : Bool) (sy : Option (Word × Word)) : (sy.any fun w => syBad hasE w.1 w.2) = false
    ↔ ∀ w0 w1, sy = some (w0, w1) → bitsOf w0.toNat 5 0 = 0 ∧ bitsOf w1.toNat 14 0 = 0
      ∧ (w0.getLsbD 30 = true ↔ bitsOf w1.toNat 23 16 ≠ 0) ∧ (w1.getLsbD 15 = true → w0.getLsbD 30 = true ∧ hasE = true) := by
  cases sy with
  | none => simp
  | some w =>
    obtain ⟨w0, w1⟩ := w
    simp only [Option.any_some, syBad_false, Option.some.injEq, Prod.mk.injEq]
    constructor
    · rintro h _ _ ⟨rfl, rfl⟩
      exact h
    · exact fun h => h w0 w1 ⟨rfl, rfl⟩

/-- A bundle passes its checks exactly where its slots, its broadcast word and its sync pair have their forms and no slot writes
what an earlier one writes. -/
theorem Bundle.check_iff (b : Bundle) (priv feature : Bool) : b.check priv feature = none ↔
    (∀ v ∈ b.views, ∃ i, v.dec = .ok i ∧ feature = true ∧ i.fieldsOk = true ∧ i.loopEndOk b.len = true ∧ i.badDest = false
        ∧ i.reservedReg = none ∧ (i.privileged = true → priv = true) ∧ (v.cls = .C → sameBarrier b.views = false)
        ∧ (v.kept = false → (i.usesB = true → b.bw ≠ none) ∧ (b.rep ≠ 0 → v.unrepeatable = false)))
      ∧ (b.views.Pairwise fun v w => ∀ d ∈ w.dests, d ∉ v.dests)
      ∧ (∀ w, b.bw = some w → w.getLsbD 31 = true → bitsOf w.toNat 30 6 = 0 ∧ bitsOf w.toNat 5 0 < 48)
      ∧ ∀ w0 w1, b.sy = some (w0, w1) → bitsOf w0.toNat 5 0 = 0 ∧ bitsOf w1.toNat 14 0 = 0
        ∧ (w0.getLsbD 30 = true ↔ bitsOf w1.toNat 23 16 ≠ 0)
        ∧ (w1.getLsbD 15 = true → w0.getLsbD 30 = true ∧ (b.slots.any fun e => e.1 = .E) = true) := by
  rw [b.check_none, b.stage2_none, b.stage3_none, b.stage4_none, stage5_none, ← bwForm_iff, ← syForm_iff]
  constructor
  · exact fun ⟨⟨hform, hpair, hbw, hsy⟩, href, ⟨hreg, hcode⟩, hpriv⟩ =>
      ⟨fun v hv => (v.passes_iff b priv feature b.views).1 ⟨hform v hv, href v hv, hreg v hv, hpriv v hv⟩, hpair, ⟨hbw, hcode⟩, hsy⟩
  · rintro ⟨h, hpair, ⟨hbw, hcode⟩, hsy⟩
    have hp := fun (v : SlotView) hv => (v.passes_iff b priv feature b.views).2 (h v hv)
    exact ⟨⟨fun v hv => (hp v hv).1, hpair, hbw, hsy⟩, fun v hv => (hp v hv).2.1, ⟨fun v hv => (hp v hv).2.2.1, hcode⟩,
      fun v hv => (hp v hv).2.2.2⟩

end Sys2Proof.Machine
end

section
/-!
PROOFS. O1: broadcast, sync pair, sticky slots and the places of a bundle's slots (R37, R40, R41, R43, R44).
-/
namespace Sys2Proof.Machine

/-! ### The broadcast word (R43) -/

theorem State.broadcast_none {s : State} {b : Bundle} (h : b.bw = none) : s.broadcast b = .ok 0 := by
  unfold State.broadcast
  rw [h]

theorem State.broadcast_immediate {s : State} {b : Bundle} {w : Word} (h : b.bw = some w) (hw : w.getLsbD 31 = false) :
    s.broadcast b = .ok ((w.setWidth 31).signExtend 64) := by
  unfold State.broadcast bwReg
  simp only [h, hw, Bool.false_eq_true, if_false]

/-- A broadcast register is read as an operand is, and a fault of it names slot 6. -/
theorem State.broadcast_register {s : State} {b : Bundle} {w : Word} (h : b.bw = some w) (hw : w.getLsbD 31 = true) :
    let r := physX s.issue.rrb (bitsOf w.toNat 5 0)
    (s.hazard (.x r) = .ok () → s.broadcast b = .ok (s.cx.getX r))
    ∧ (∀ v, s.hazard (.x r) = .error (.blocked v) → s.broadcast b = .error (.blocked v))
    ∧ (s.hazard (.x r) = .error .stalled → s.broadcast b = .error .stalled)
    ∧ ∀ c d m v, s.hazard (.x r) = .error (.trap c d m v) → s.broadcast b = .error (.trap c d 6 v) := by
  unfold State.broadcast bwReg
  simp only [h, hw, if_true]
  exact ⟨fun h => by rw [h], fun v h => by rw [h], fun h => by rw [h], fun c d m v h => by rw [h]⟩

/-! ### The sync pair (R44) -/

/-- The difference of count and threshold is negative. -/
theorem semHolds_false (y t : BitVec 16) : semHolds y t = false ↔ (y - t).toInt < 0 := by
  unfold semHolds
  rw [BitVec.msb_eq_toInt]
  simp

theorem State.syncWaits_iff (s : State) (core : Nat) (b : Bundle) : s.syncWaits core b = true ↔ ∃ w0 w1, b.sy = some (w0, w1)
    ∧ w0.getLsbD 31 = true
    ∧ ((s.cs core).sems.read 0 (bitsOf w0.toNat 29 22) - BitVec.ofNat 16 (bitsOf w0.toNat 21 6)).toInt < 0 := by
  unfold State.syncWaits
  cases b.sy with
  | none => simp
  | some w =>
    obtain ⟨w0, w1⟩ := w
    simp [semHolds_false]

theorem Bundle.signalNow_eq (b : Bundle) (i : Issue) : b.signalNow i = match b.sy with
    | some (w0, w1) => if w0.getLsbD 30 = true ∧ ¬ (w1.getLsbD 15 = true ∧ i.issuedCmd = true) then
        some (bitsOf w1.toNat 31 24, bitsOf w1.toNat 23 16) else none
    | none => none := by
  unfold Bundle.signalNow
  cases b.sy with
  | none => rfl
  | some w => simp only [Bool.and_eq_true, Bool.not_eq_true', Bool.and_eq_false_imp, not_and, Bool.not_eq_true]

/-- The wait of a sync pair observes words of the bank and nothing else of the context. -/
theorem State.syncObserves_ctx (s : State) {core k : Nat} (hk : k < 4) (b : Bundle) :
    ∃ l, (s.syncObserves core k b).ctx core k = { s.ctx core k with stale := l } := by
  unfold State.syncObserves
  split
  · split
    · exact ⟨_, State.ctx_modCtx _ _ hk _⟩
    · exact ⟨_, rfl⟩
  · exact ⟨_, rfl⟩

/-- What the issue of a bundle begins with. -/
theorem State.issues_issue (s : State) {core k : Nat} (hk : k < 4) (b : Bundle) : let x := s.ctx core k
    let i := (s.issues core k b).issue
    i.core = core ∧ i.ctx = k ∧ i.pc = b.pc ∧ i.npc = b.pc + 4 * b.len ∧ i.rep = x.rep ∧ i.lastRep = decide (b.rep ≤ x.rep)
      ∧ i.rrb = x.rrb ∧ i.mode = x.mode ∧ i.after = [] ∧ i.taken = false := by
  obtain ⟨l, h⟩ := s.syncObserves_ctx hk b (core := core)
  have hrep : ((s.syncObserves core k b).ctx core k).rep = (s.ctx core k).rep := by rw [h]
  have hrrb : ((s.syncObserves core k b).ctx core k).rrb = (s.ctx core k).rrb := by rw [h]
  have hmode : ((s.syncObserves core k b).ctx core k).mode = (s.ctx core k).mode := by rw [h]
  exact ⟨rfl, rfl, rfl, rfl, hrep, congrArg (fun n => decide (b.rep ≤ n)) hrep, hrrb, hmode, rfl, rfl⟩

/-! ### Sticky slots (R40, R41) -/

/-- The sticky entry that an issue of a slot leaves. -/
def Ctx.stickyAfter (x : Ctx) (bc : X64) (v : SlotView) : Sticky :=
  if v.kept then { x.sticky.get v.cls with n := (x.sticky.get v.cls).n + 1 }
  else ⟨v.word, if v.has Instr.usesB then bc else 0, x.rep, x.wstep⟩

theorem Ctx.keepSlots_nil (x : Ctx) (bc : X64) : x.keepSlots bc [] = x := rfl

theorem Ctx.keepSlots_cons (x : Ctx) (bc : X64) (v : SlotView) (l : List SlotView) :
    x.keepSlots bc (v :: l) = (x.keepSlots bc [v]).keepSlots bc l := rfl

theorem Ctx.keepSlots_one (x : Ctx) (bc : X64) (v : SlotView) : x.keepSlots bc [v]
    = { x with sticky := if v.cls = .C then x.sticky else x.sticky.set v.cls (x.stickyAfter bc v) } := by
  unfold Ctx.keepSlots Ctx.stickyAfter
  simp only [List.foldl_cons, List.foldl_nil, apply_ite (x.sticky.set v.cls)]

/-- The slots of a bundle leave all of a context but its sticky entries. -/
theorem Ctx.keepSlots_rest (x : Ctx) (bc : X64) (l : List SlotView) : x.keepSlots bc l = { x with sticky := (x.keepSlots bc l).sticky } := rfl

theorem State.slotBegins_eq (s : State) (x : Ctx) (bc : X64) (v : SlotView) : s.slotBegins x bc v = s.modIssue fun j => { j with
    slot := v.cls
    bcast := if v.kept then (x.sticky.get v.cls).bcast else bc
    step := if v.has Instr.steps = false then 0
      else if v.kept then BitVec.ofInt 64 (((x.sticky.get v.cls).n + 1 : Nat) * (x.sticky.get v.cls).step.toInt)
      else BitVec.ofInt 64 (x.rep * x.wstep.toInt) } := by
  have h : slotStep x v = if v.has Instr.steps = false then 0
      else if v.kept then BitVec.ofInt 64 (((x.sticky.get v.cls).n + 1 : Nat) * (x.sticky.get v.cls).step.toInt)
      else BitVec.ofInt 64 (x.rep * x.wstep.toInt) := by
    unfold slotStep
    cases v.has Instr.steps <;> rfl
  unfold State.slotBegins
  rw [h]

end Sys2Proof.Machine
end

section
/-!
PROOFS. O1: what a bundle leaves behind that issues with no effect after it (R40, R42, R44, R64, R87).
-/
namespace Sys2Proof.Machine

/-! ### The context after the bundle -/

/-- The close of a loop writes loop levels, rotated bases and predicates. -/
theorem Ctx.closeLoops_frame (l : List LoopLevel) : ∀ (c : Ctx) (pc : Nat),
    ∃ r p o, (c.closeLoops l pc).1 = { c with rrb := r, p := p, loops := o } := by
  have hrot : ∀ (c : Ctx) (b : Bool) (o : List LoopLevel), ∃ r p, { c.rotated b with loops := o } = { c with rrb := r, p := p, loops := o } := by
    intro c b o
    unfold Ctx.rotated Ctx.setP
    dsimp only
    split <;> exact ⟨_, _, rfl⟩
  induction l with
  | nil => exact fun c _ => ⟨c.rrb, c.p, [], rfl⟩
  | cons l r ih =>
    intro c pc
    obtain ⟨start, stop, lc, ec, rot⟩ := l
    unfold Ctx.closeLoops
    split
    · exact ⟨c.rrb, c.p, _, rfl⟩
    split
    · cases rot with
      | false => exact ⟨c.rrb, c.p, _, rfl⟩
      | true =>
        obtain ⟨a, p, h⟩ := hrot c true (⟨start, stop, lc - 1, ec, true⟩ :: r)
        exact ⟨a, p, _, h⟩
    split
    · obtain ⟨a, p, h⟩ := hrot c false (⟨start, stop, lc, ec - 1, rot⟩ :: r)
      exact ⟨a, p, _, h⟩
    · exact ih c pc

/-- The entries of the record that a bundle lands write registers. -/
theorem Ctx.stepBundles_frame (c : Ctx) : ∃ x p w m k h f g,
    c.stepBundles = { c with x := x, p := p, v := w, m := m, k := k, kth := h, flaws := f, flight := g } := by
  unfold Ctx.stepBundles
  dsimp only
  obtain ⟨x, p, w, m, k, h, f, e⟩ := Ctx.landList_frame _ _ { c with flight := _ } (Nat.le_refl _)
  exact ⟨x, p, w, m, k, h, f, _, e⟩

/-- The entries after the bundle: those of an interlocked context that comes from exposed mode have all landed. -/
def Ctx.landed (c : Ctx) (ilk : Bool) : Ctx :=
  let c1 := c.stepBundles
  if c1.mode.ilk && !ilk then c1.landBundles else c1

/-- Landings write registers. -/
theorem Ctx.landed_frame (c : Ctx) (ilk : Bool) : (c.landed ilk).sticky = c.sticky ∧ (c.landed ilk).bcount = c.bcount
    ∧ (c.landed ilk).rep = c.rep ∧ (c.landed ilk).pc = c.pc ∧ (c.landed ilk).loops = c.loops := by
  obtain ⟨x, p, w, m, k, h, f, g, hs⟩ := c.stepBundles_frame
  unfold Ctx.landed
  rw [hs]
  dsimp only
  split
  · obtain ⟨x, p, w, m, k, h, f, hl⟩ := Ctx.landBundles_frame { c with x := x, p := p, v := w, m := m, k := k, kth := h, flaws := f, flight := g }
    rw [hl]
    exact ⟨rfl, rfl, rfl, rfl, rfl⟩
  · exact ⟨rfl, rfl, rfl, rfl, rfl⟩

/-- The place after the bundle is no matter of its sticky slots or of the count of bundles. -/
theorem Ctx.advance_frame (c : Ctx) (i : Issue) : (c.advance i).sticky = c.sticky ∧ (c.advance i).bcount = c.bcount := by
  unfold Ctx.advance
  split
  · exact ⟨rfl, rfl⟩
  split
  · exact ⟨rfl, rfl⟩
  · obtain ⟨r, p, o, h⟩ := Ctx.closeLoops_frame c.loops c i.npc
    dsimp only
    rw [h]
    exact ⟨rfl, rfl⟩

/-- A repetition short of the last stays at the bundle. -/
theorem Ctx.advance_repeats (c : Ctx) (i : Issue) (h : i.lastRep = false) :
    (c.advance i).rep = c.rep + 1 ∧ (c.advance i).pc = c.pc ∧ (c.advance i).loops = c.loops := by
  unfold Ctx.advance
  rw [h]
  exact ⟨rfl, rfl, rfl⟩

/-- The last repetition goes on where a transfer leads, or behind the bundle where no loop stands. -/
theorem Ctx.advance_last (c : Ctx) (i : Issue) (h : i.lastRep = true) : (c.advance i).rep = 0
    ∧ (i.taken = true → (c.advance i).pc = i.npc ∧ (c.advance i).loops = c.loops)
    ∧ (i.taken = false → c.loops = [] → (c.advance i).pc = i.npc ∧ (c.advance i).loops = []) := by
  unfold Ctx.advance
  simp only [h, Bool.not_true, Bool.false_eq_true, if_false]
  cases i.taken with
  | true => exact ⟨rfl, fun _ => ⟨rfl, rfl⟩, fun h => absurd h (by decide)⟩
  | false =>
    refine ⟨rfl, fun h => absurd h (by decide), fun _ hl => ?_⟩
    simp [hl, Ctx.closeLoops]

/-! ### The state after the bundle -/

/-- The state with the pair's signal made and the tickets settled. -/
def State.signalled (t : State) (x : Ctx) (b : Bundle) : State :=
  State.modCore (match b.signalNow t.issue with
    | some e => t.modCS t.issue.core fun v => v.addSem e.1 e.2
    | none => t) t.issue.core fun v => v.settleTicket t.issue x.ticket

/-- The context that a bundle's issue counts. -/
def Ctx.counted (c : Ctx) (x : Ctx) (b : Bundle) (l : List SlotView) (bc : X64) : Ctx :=
  { c.keepSlots bc l with
    bcount := c.bcount + 1
    region := countRegion x (holdsNpre l) c.region
    barAt := if c.arrivals.isEmpty then c.barAt else (b.pc, x.rep)
    ticket := none
    wait := if c.arrivals.isEmpty then .none else .barrier
    waitCycles := 0
    waitCounted := false }

/-- A bundle with no effect after it: its signal, its tickets, and one context's change. -/
theorem State.commit_eq {t : State} {x : Ctx} {b : Bundle} {l : List SlotView} {bc : X64} (ha : t.issue.after = []) (hk : t.issue.ctx < 4) :
    t.commit x b l bc = (t.signalled x b).modCtx t.issue.core t.issue.ctx fun c =>
      ((c.counted x b l bc).advance t.issue).landed x.mode.ilk := by
  unfold State.commit
  simp only [ha, List.foldl_nil]
  exact State.modCtx_modCtx _ _ hk _ _

/-- The tickets and the signal are no part of a context. -/
theorem Core.settleTicket_cur (v : Core) (i : Issue) (w : Option Nat) :
    (v.settleTicket i w).cur.ctxs = v.cur.ctxs ∧ (v.settleTicket i w).cur.sems = v.cur.sems := by
  unfold Core.settleTicket CoreState.endTicket
  dsimp only
  split <;> exact ⟨rfl, rfl⟩

theorem State.signalled_frame (t : State) (x : Ctx) (b : Bundle) :
    (∀ k, (t.signalled x b).ctx t.issue.core k = t.ctx t.issue.core k) ∧ (t.signalled x b).mem = t.mem
    ∧ ((t.signalled x b).cs t.issue.core).sems = match b.signalNow t.issue with
      | some (sem, inc) =>
        (t.cs t.issue.core).sems.write 0 sem ((t.cs t.issue.core).sems.read 0 sem + BitVec.ofNat 16 inc)
      | none => (t.cs t.issue.core).sems := by
  unfold State.signalled
  have hc : ∀ u : State, (u.modCore t.issue.core fun v => v.settleTicket t.issue x.ticket).cs t.issue.core
      = ((u.core t.issue.core).settleTicket t.issue x.ticket).cur := fun u => congrArg Core.cur (State.core_setCore _ _ _)
  have hx : ∀ u : State, ∀ k, (u.modCore t.issue.core fun v => v.settleTicket t.issue x.ticket).ctx t.issue.core k
      = (u.ctx t.issue.core k) := fun u k => by
    unfold State.ctx CoreState.ctx
    rw [hc, (Core.settleTicket_cur _ _ _).1]
    rfl
  cases b.signalNow t.issue with
  | none =>
    refine ⟨hx t, rfl, ?_⟩
    dsimp only
    rw [hc, (Core.settleTicket_cur _ _ _).2]
    rfl
  | some e =>
    refine ⟨fun k => (hx _ k).trans ?_, rfl, ?_⟩
    · unfold State.ctx
      rw [State.cs_modCS]
      rfl
    · dsimp only
      rw [hc, (Core.settleTicket_cur _ _ _).2]
      exact congrArg CoreState.sems (State.cs_modCS t t.issue.core fun v => v.addSem e.1 e.2)

/-- What a bundle leaves that issues with no effect after it. -/
theorem State.commit_frame (t : State) (x : Ctx) (b : Bundle) (l : List SlotView) (bc : X64) : let i := t.issue
    let c := t.ctx i.core i.ctx
    let u := t.commit x b l bc
    let y := u.ctx i.core i.ctx
    i.after = [] → i.ctx < 4 →
    y.sticky = (c.keepSlots bc l).sticky ∧ y.bcount = c.bcount + 1 ∧ u.mem = t.mem
    ∧ (i.lastRep = false → y.rep = c.rep + 1 ∧ y.pc = c.pc ∧ y.loops = c.loops)
    ∧ (i.lastRep = true → y.rep = 0 ∧ (i.taken = true → y.pc = i.npc ∧ y.loops = c.loops)
      ∧ (i.taken = false → c.loops = [] → y.pc = i.npc ∧ y.loops = []))
    ∧ (u.cs i.core).sems = match b.signalNow i with
      | some (sem, inc) => (t.cs i.core).sems.write 0 sem ((t.cs i.core).sems.read 0 sem + BitVec.ofNat 16 inc)
      | none => (t.cs i.core).sems := by
  intro i c u y ha hk
  obtain ⟨hctx, hmem, hsems⟩ := t.signalled_frame x b
  have hu : u = _ := State.commit_eq ha hk
  have hy : y = ((c.counted x b l bc).advance i).landed x.mode.ilk := by
    show u.ctx i.core i.ctx = _
    rw [hu, State.ctx_modCtx _ _ hk, hctx]
  obtain ⟨h1, h2, h3, h4, h5⟩ := Ctx.landed_frame ((c.counted x b l bc).advance i) x.mode.ilk
  obtain ⟨a1, a2⟩ := Ctx.advance_frame (c.counted x b l bc) i
  rw [hy, h1, h2, h3, h4, h5, a1, a2]
  refine ⟨rfl, rfl, by rw [hu]; exact hmem, Ctx.advance_repeats (c.counted x b l bc) i, Ctx.advance_last (c.counted x b l bc) i, ?_⟩
  rw [hu]
  unfold State.modCtx
  rw [State.cs_modCS]
  exact hsems

end Sys2Proof.Machine
end

section
/-!
PROOFS. O1: null bundles (R45), and the statement itself.
-/
namespace Sys2Proof.Machine

/-! ### Null bundles (R45) -/

/-- Nothing is skipped in exposed mode, or where no bundle may be fetched. -/
theorem State.skipNulls_exposed {s : State} {core k : Nat} (n : Nat)
    (h : (s.ctx core k).mode.ilk = false ∨ (s.ctx core k).mayFetch s.cycle.toNat = false) : State.skipNulls core k n s = s := by
  cases n with
  | zero => rfl
  | succ n =>
    unfold State.skipNulls
    rcases h with h | h <;> simp [h]

section
variable {s : State} {core k : Nat} {b : Bundle} (n : Nat) (hi : (s.ctx core k).mode.ilk = true)
  (hm : (s.ctx core k).mayFetch s.cycle.toNat = true) (hr : (s.ctx core k).returned s.cycle.toNat = false)
  (hf : (s.cs core).fetch (s.ctx core k) = .ok b)
include hi hm hr hf

/-- A null bundle that passes its checks is skipped, and then those behind it. -/
theorem State.skipNulls_null (hn : (s.ctx core k).isNull b = true) (hc : b.check (s.ctx core k).mode.priv (s.feature core) = none) :
    State.skipNulls core k (n + 1) s = State.skipNulls core k n (s.modCtx core k fun c => c.skip b) := by
  rw [State.skipNulls]
  simp [hi, hm, hr, hf, hn, hc]

theorem State.skipNulls_other
    (h : (s.ctx core k).isNull b = false ∨ ¬ b.check (s.ctx core k).mode.priv (s.feature core) = none) :
    State.skipNulls core k (n + 1) s = s := by
  unfold State.skipNulls
  rcases h with h | h
  · simp [hi, hm, hr, hf, h]
  · simp [hi, hm, hr, hf, Option.isSome_iff_ne_none.2 h]

end

/-- A slot does nothing for sure where its guard reads false and is not pending. -/
theorem Ctx.slotNull_iff (c : Ctx) (v : SlotView) : c.slotNull v = true ↔ ∃ i, v.dec = .ok i ∧ i.isSel = false
    ∧ c.getP (physP c.rrb i.guard) = false ∧ c.pending (.p (physP c.rrb i.guard)) = false := by
  unfold Ctx.slotNull SlotView.instr
  cases v.dec with
  | error e => simp
  | ok i => simp [and_assoc]

theorem Ctx.isNull_iff (c : Ctx) (b : Bundle) : c.isNull b = true ↔ b.slots ≠ [] ∧ b.sy = none
    ∧ (∀ v ∈ b.views, ∃ i, v.dec = .ok i ∧ i.isSel = false ∧ c.getP (physP c.rrb i.guard) = false
      ∧ c.pending (.p (physP c.rrb i.guard)) = false)
    ∧ ∀ w, b.bw = some w → w.getLsbD 31 = true → c.pending (.x (physX c.rrb (bitsOf w.toNat 5 0))) = false := by
  unfold Ctx.isNull
  simp only [Bool.and_eq_true, List.all_eq_true, Ctx.slotNull_iff, Bool.not_eq_true', List.isEmpty_eq_false_iff,
    Option.isNone_iff_eq_none, and_assoc]
  refine and_congr_right' (and_congr_right' (and_congr_right' ?_))
  cases b.bw with
  | none => simp
  | some w =>
    simp only [Option.bind_some, bwReg, Option.some.injEq, forall_eq']
    cases w.getLsbD 31 <;> simp

/-- Slots issued again and again leave all of a context but its repetition and its sticky entries. -/
theorem Ctx.foldl_keepSlots (bc : X64) (vs : List SlotView) (l : List Nat) : ∀ c : Ctx, ∃ n st,
    l.foldl (fun d n => { d with rep := n }.keepSlots bc vs) c = { c with rep := n, sticky := st } := by
  induction l with
  | nil => exact fun c => ⟨c.rep, c.sticky, rfl⟩
  | cons a r ih =>
    intro c
    obtain ⟨n, st, h⟩ := ih ({ c with rep := a }.keepSlots bc vs)
    exact ⟨n, st, h⟩

/-- A skipped bundle is left behind where no loop stands. -/
theorem Ctx.skip_place (x : Ctx) (b : Bundle) (h : x.loops = []) :
    (x.skip b).rep = 0 ∧ (x.skip b).pc = b.pc + 4 * b.len ∧ (x.skip b).bcount = x.bcount := by
  obtain ⟨n, st, e⟩ := Ctx.foldl_keepSlots (x.nullBroadcast b) b.views (countFrom x.rep (b.rep + 1 - x.rep)) x
  unfold Ctx.skip
  rw [e]
  rw [h]
  exact ⟨rfl, rfl, rfl⟩

/-- A kept slot's step index advances with every repetition. -/
theorem Ctx.foldl_kept (bc : X64) {v : SlotView} (hv : v.kept = true) (hc : v.cls ≠ .C) (m : Nat) : ∀ (a : Nat) (c : Ctx),
    ((countFrom a m).foldl (fun d n => { d with rep := n }.keepSlots bc [v]) c).sticky
      = c.sticky.set v.cls { c.sticky.get v.cls with n := (c.sticky.get v.cls).n + m } := by
  induction m with
  | zero =>
    intro a c
    cases hs : v.cls <;> simp [countFrom, StickySet.set, StickySet.get]
  | succ m ih =>
    intro a c
    rw [countFrom, List.foldl_cons, ih, Ctx.keepSlots_one]
    unfold Ctx.stickyAfter
    cases hs : v.cls <;> simp_all [StickySet.set, StickySet.get, Nat.add_comm, Nat.add_left_comm]

theorem Ctx.skip_kept (x : Ctx) (b : Bundle) {v : SlotView} (hb : b.views = [v]) (hv : v.kept = true) (hc : v.cls ≠ .C)
    (h : x.loops = []) :
    (x.skip b).sticky = x.sticky.set v.cls { x.sticky.get v.cls with n := (x.sticky.get v.cls).n + (b.rep + 1 - x.rep) } := by
  obtain ⟨n, st, e⟩ := Ctx.foldl_keepSlots (x.nullBroadcast b) [v] (countFrom x.rep (b.rep + 1 - x.rep)) x
  have hk := Ctx.foldl_kept (x.nullBroadcast b) hv hc (b.rep + 1 - x.rep) x.rep x
  rw [e] at hk
  unfold Ctx.skip
  rw [hb, e]
  rw [h]
  exact hk

/-! ### The statement -/

/-- Settles O1: the turn by the choice of the one ready context, the attempt by its stages, and the checks, slots and null
bundles each by what their definition says. -/
theorem stepRunsSlotWord : Obligations.StepRunsSlotWord := by
  unfold Obligations.StepRunsSlotWord
  refine ⟨fun s u t core k r ha hp ht hst hsv hk hl hh hw => ?_, fun s core k hm => ⟨fun c d n v hf => ?_, fun b hf => ⟨fun c d n v hc => ?_,
      fun hc => ⟨fun hms => ?_, fun hms hsy => ?_, fun hms hsy bc ts hbc hts hstart habs hq ho => ?_⟩⟩⟩,
    fun s t core k x b l bc hs => ⟨fun w h hw => State.decideIssue_blocked h hw,
      fun c d n v hh hc h hstart habs ho => State.decideIssue_trap hh hc h hstart habs ho⟩,
    fun b priv feature => ?_, fun s core k b => ⟨State.broadcast_none, fun w => State.broadcast_immediate, fun w n hb hw hn => ?_,
      s.syncWaits_iff core b, fun hk => s.issues_issue hk b, b.signalNow_eq⟩,
    fun x bc v l => ⟨⟨x.keepSlots_cons bc v l, rfl, x.keepSlots_one bc v⟩, fun s => s.slotBegins_eq x bc v⟩,
    fun _ _ _ _ _ _ => rfl, fun t x b l bc ha hk _ => t.commit_frame x b l bc ha hk,
    fun s core k n => ⟨State.skipNulls_exposed n, fun hi hm hr b hf => ⟨State.skipNulls_null n hi hm hr hf, State.skipNulls_other n hi hm hr hf,
      Ctx.isNull_iff _ b, Ctx.skip_place _ b, fun v hb hv hc h => Ctx.skip_kept _ b hb hv hc h⟩⟩⟩
  · rw [step_issueTurn ha hp ht, State.issueTurn_issued (s := { s with todo := r }) hst hsv (State.chosen_of_ready hk hl hh) hw]
    rfl
  · exact State.tryIssue_fetch_error hm hf
  · exact State.tryIssue_check hm hf hc
  · exact State.tryIssue_modeStalls hm hf hc hms
  · exact State.tryIssue_syncWaits hm hf hc hms hsy
  · exact State.tryIssue_of_act hm hms ho hf hc hsy hbc hts hstart habs hq
  · have h := b.check_iff priv feature
    simp only [List.any_eq_true, decide_eq_true_eq] at h
    exact h
  · subst hn
    exact State.broadcast_register hb hw

end Sys2Proof.Machine
end

section
/-!
PROOFS. O25: what ends a context's run of its code (R91, R267, R350).
-/
namespace Sys2Proof.Machine

/-! ### Pending results land (R91) -/

/-- The destinations of a load that arrives write registers. -/
theorem Ctx.foldl_land_frame (l : List (Reg × RegVal)) : ∀ c : Ctx, ∃ x p w m k h f,
    l.foldl (fun c d => c.land d.1 d.2) c = { c with x := x, p := p, v := w, m := m, k := k, kth := h, flaws := f } := by
  induction l with
  | nil => exact fun c => ⟨c.x, c.p, c.v, c.m, c.k, c.kth, c.flaws, rfl⟩
  | cons d r ih =>
    intro c
    obtain ⟨x, p, w, m, k, h, f, e⟩ := Ctx.land_frame c d.1 d.2
    obtain ⟨x', p', w', m', k', h', f', e'⟩ := ih (c.land d.1 d.2)
    rw [List.foldl_cons, e', e]
    exact ⟨x', p', w', m', k', h', f', rfl⟩

/-- An arrival takes loads of its number off, discards results that the load outlasts, and writes registers. -/
theorem Ctx.arrive_frame (c : Ctx) (id : Nat) : ∃ x p w m k h f g d o,
    c.arrive id = { c with x := x, p := p, v := w, m := m, k := k, kth := h, flaws := f, flight := g, held := d, loads := o }
      ∧ (∀ e ∈ g, e ∈ c.flight) ∧ ∀ l ∈ o, l ∈ c.loads ∧ l.id ≠ id := by
  unfold Ctx.arrive
  split
  · next hn =>
    refine ⟨_, _, _, _, _, _, _, _, _, _, rfl, fun e h => h, fun l h => ⟨h, ?_⟩⟩
    simpa using List.find?_eq_none.1 hn l h
  · next l _ =>
    obtain ⟨x, p, w, m, k, h, f, e⟩ :=
      Ctx.foldl_land_frame l.dests ({ c with loads := c.loads.filter fun m => m.id != id }.dropOutlasted l)
    exact ⟨x, p, w, m, k, h, f, _, _, _, e, fun e h => (List.mem_filter.1 h).1,
      fun m h => ⟨(List.mem_filter.1 h).1, by simpa using (List.mem_filter.1 h).2⟩⟩

/-- A load of a list arrives, stays marked or is marked. -/
def Ctx.arriveOne (c : Ctx) (l : Load) : Ctx :=
  if l.bad then c
  else if l.err then { c with loads := c.loads.map fun m => if m.id = l.id then { m with bad := true } else m }
  else c.arrive l.id

theorem Ctx.arriveAll_eq (c : Ctx) : c.arriveAll = c.loads.foldl Ctx.arriveOne c := rfl

/-- Behind a load's turn it is marked or gone. -/
theorem Ctx.arriveOne_frame (c : Ctx) (l : Load) : ∃ x p w m k h f g d o,
    c.arriveOne l = { c with x := x, p := p, v := w, m := m, k := k, kth := h, flaws := f, flight := g, held := d, loads := o }
      ∧ (∀ e ∈ g, e ∈ c.flight) ∧ ∀ m ∈ o, m.bad = true ∨ m ∈ c.loads ∧ m ≠ l := by
  unfold Ctx.arriveOne
  split
  · next hb =>
    refine ⟨_, _, _, _, _, _, _, _, _, _, rfl, fun e h => h, fun m h => ?_⟩
    by_cases hm : m = l
    · exact .inl (hm ▸ hb)
    · exact .inr ⟨h, hm⟩
  split
  · refine ⟨_, _, _, _, _, _, _, _, _, _, rfl, fun e h => h, fun m h => ?_⟩
    obtain ⟨n, hn, rfl⟩ := List.mem_map.1 h
    split
    · exact .inl rfl
    · next hid => exact .inr ⟨hn, fun he => hid (congrArg Load.id he)⟩
  · obtain ⟨x, p, w, m, k, h, f, g, d, o, e, hg, ho⟩ := c.arrive_frame l.id
    exact ⟨x, p, w, m, k, h, f, g, d, o, e, hg, fun m hm => .inr ⟨(ho m hm).1, fun he => (ho m hm).2 (congrArg Load.id he)⟩⟩

/-- Behind the turns of a list of loads, those of the list are marked or gone. -/
theorem Ctx.foldl_arriveOne_frame (r : List Load) : ∀ c : Ctx, ∃ x p w m k h f g d o,
    r.foldl Ctx.arriveOne c = { c with x := x, p := p, v := w, m := m, k := k, kth := h, flaws := f, flight := g, held := d, loads := o }
      ∧ (∀ e ∈ g, e ∈ c.flight) ∧ ∀ m ∈ o, m.bad = true ∨ m ∈ c.loads ∧ m ∉ r := by
  induction r with
  | nil => exact fun c => ⟨_, _, _, _, _, _, _, _, _, _, rfl, fun e h => h, fun m h => .inr ⟨h, List.not_mem_nil⟩⟩
  | cons l r ih =>
    intro c
    obtain ⟨x, p, w, m, k, h, f, g, d, o, e, hg, ho⟩ := c.arriveOne_frame l
    obtain ⟨x', p', w', m', k', h', f', g', d', o', e', hg', ho'⟩ := ih (c.arriveOne l)
    rw [e] at e' hg' ho'
    refine ⟨x', p', w', m', k', h', f', g', d', o', by rw [List.foldl_cons, e, e'], fun e h => hg e (hg' e h), fun n hn => ?_⟩
    rcases ho' n hn with h | ⟨h, hr⟩
    · exact .inl h
    rcases ho n h with h | ⟨h, hl⟩
    · exact .inl h
    · exact .inr ⟨h, by simp [hl, hr]⟩

/-- Every load lands or is marked. -/
theorem Ctx.arriveAll_frame (c : Ctx) : ∃ x p w m k h f g d o,
    c.arriveAll = { c with x := x, p := p, v := w, m := m, k := k, kth := h, flaws := f, flight := g, held := d, loads := o }
      ∧ (∀ e ∈ g, e ∈ c.flight) ∧ ∀ l ∈ o, l.bad = true := by
  obtain ⟨x, p, w, m, k, h, f, g, d, o, e, hg, ho⟩ := Ctx.foldl_arriveOne_frame c.loads c
  exact ⟨x, p, w, m, k, h, f, g, d, o, e, hg, fun l hl => (ho l hl).resolve_right fun h => h.2 h.1⟩

/-- All that is pending lands: no result stays in the record, and no load but those marked. -/
theorem Ctx.landAll_frame (c : Ctx) : ∃ x p w m k h f d o,
    c.landCycles.landBundles.arriveAll
        = { c with x := x, p := p, v := w, m := m, k := k, kth := h, flaws := f, flight := [], held := d, loads := o }
      ∧ ∀ l ∈ o, l.bad = true := by
  obtain ⟨_, _, _, _, _, _, _, e1⟩ := c.landCycles_frame
  obtain ⟨_, _, _, _, _, _, _, e2⟩ := c.landCycles.landBundles_frame
  obtain ⟨x, p, w, m, k, h, f, g, d, o, e3, hg, ho⟩ := c.landCycles.landBundles.arriveAll_frame
  have hf : c.landCycles.landBundles.flight = [] := by
    rw [e2, e1]
    simp
  obtain rfl : g = [] := List.eq_nil_iff_forall_not_mem.2 fun e he => by
    have := hg e he
    rw [hf] at this
    cases this
  refine ⟨x, p, w, m, k, h, f, d, o, ?_, ho⟩
  rw [e3, e2, e1]

end Sys2Proof.Machine
end

section
/-!
PROOFS. O25: modes, stops, regions, fences and no-operations, and the statement itself (R86, R89, R93, R98, R267, R350, R357).
-/
namespace Sys2Proof.Machine

/-! ### Changes of one context -/

/-- Of the contexts only one differs, and memory stands. -/
def State.leaves (s t : State) (core k : Nat) (y : Ctx) : Prop :=
  t.ctx core k = y ∧ t.mem = s.mem ∧ ∀ c j, c ≠ core ∨ j ≠ k → t.ctx c j = s.ctx c j

theorem State.leaves_modCtx (s : State) {core k : Nat} (hk : k < 4) (f : Ctx → Ctx) : s.leaves (s.modCtx core k f) core k (f (s.ctx core k)) :=
  s.modCtx_frame core k hk f

/-- A change of what holds no context and no memory follows. -/
theorem State.leaves.of_cores {s t u : State} {core k : Nat} {y : Ctx} (h : s.leaves t core k y) (hc : u.cores = t.cores) (hm : u.mem = t.mem) :
    s.leaves u core k y := by
  obtain ⟨h1, h2, h3⟩ := h
  have hx : ∀ c j, u.ctx c j = t.ctx c j := fun c j => by
    unfold State.ctx State.cs State.core
    rw [hc]
  exact ⟨(hx _ _).trans h1, hm.trans h2, fun c j hcj => (hx c j).trans (h3 c j hcj)⟩

/-- A change of a core that holds its contexts. -/
theorem State.ctx_modCS_of_ctxs (s : State) (core : Nat) {f : CoreState → CoreState} (hf : ∀ v, (f v).ctxs = v.ctxs) (c j : Nat) :
    (s.modCS core f).ctx c j = s.ctx c j := by
  by_cases hc : c = core
  · subst hc
    rw [State.ctx, State.cs_modCS, CoreState.ctx, hf]
    rfl
  · rw [State.ctx, State.cs_modCS_other _ _ hc]
    rfl

/-- Two changes of one context are one. -/
theorem State.leaves.trans {s t u : State} {core k : Nat} {y z : Ctx} (h : s.leaves t core k y) (g : t.leaves u core k z) :
    s.leaves u core k z := by
  obtain ⟨-, h2, h3⟩ := h
  obtain ⟨g1, g2, g3⟩ := g
  exact ⟨g1, g2.trans h2, fun c j hcj => (g3 c j hcj).trans (h3 c j hcj)⟩

/-! ### The end of a context's part (R22, R267) -/

/-- The tickets of the environments that a context held aside end. -/
theorem endTickets_ctxs (l : List Nat) : ∀ v : CoreState, (l.foldl (fun v t => v.endTicket (some t)) v).ctxs = v.ctxs
    ∧ (l.foldl (fun v t => v.endTicket (some t)) v).gang = v.gang := by
  induction l with
  | nil => exact fun v => ⟨rfl, rfl⟩
  | cons a r ih => exact fun v => ih (v.endTicket (some a))

/-- A context that leaves its work: its results have landed and its region is closed. -/
def Ctx.left (x : Ctx) (run : Run) : Ctx := { x.landCycles.landBundles.arriveAll with run := run, region := none }

/-- The context once its part has ended too. -/
def Ctx.partless (x : Ctx) (run : Run) : Ctx :=
  { x.landCycles.landBundles.arriveAll with run := run, region := none, task := none }

theorem Ctx.partless_eq (x : Ctx) (run : Run) : x.partless run = { x.left run with task := none } := rfl

/-- No result stays pending but the loads that met an error, and the part stands as it did. -/
theorem Ctx.left_frame (x : Ctx) (run : Run) : (x.left run).flight = [] ∧ (∀ l ∈ (x.left run).loads, l.bad = true)
    ∧ (x.left run).task = x.task ∧ (x.left run).tklo = x.tklo ∧ (x.left run).tkhi = x.tkhi := by
  obtain ⟨_, _, _, _, _, _, _, _, _, h, hb⟩ := x.landAll_frame
  unfold Ctx.left
  rw [h]
  exact ⟨rfl, hb, rfl, rfl, rfl⟩

/-- The state before the context's part ends. -/
def State.leftWork (s : State) (core k : Nat) (run : Run) : State :=
  (s.modCS core fun v => ((s.ctx core k).held.filterMap (·.ticket)).foldl (fun v t => v.endTicket (some t)) v).modCtx core k fun c =>
    c.left run

theorem State.retire_eq (s : State) (core k : Nat) (run : Run) :
    s.retire core k run = (s.leftWork core k run).endPart core k (run != .halted) := rfl

theorem State.leftWork_leaves (s : State) {core k : Nat} (hk : k < 4) (run : Run) : s.leaves (s.leftWork core k run) core k
    ((s.ctx core k).left run) := by
  have hf := fun v => (endTickets_ctxs ((s.ctx core k).held.filterMap (·.ticket)) v).1
  have h := State.leaves_modCtx (s.modCS core fun v => ((s.ctx core k).held.filterMap (·.ticket)).foldl (fun v t => v.endTicket (some t)) v)
    hk (core := core) fun c => c.left run
  rw [State.ctx_modCS_of_ctxs s core hf] at h
  obtain ⟨h1, h2, h3⟩ := h
  exact ⟨h1, h2, fun c j hcj => (h3 c j hcj).trans (State.ctx_modCS_of_ctxs s core hf c j)⟩

theorem State.leftWork_gang (s : State) (core k : Nat) (run : Run) : ((s.leftWork core k run).cs core).gang = (s.cs core).gang := by
  unfold State.leftWork State.modCtx
  rw [State.cs_modCS, State.cs_modCS]
  exact (endTickets_ctxs _ _).2

/-- With no part nothing ends. -/
theorem State.endPart_none {t : State} {core k : Nat} (fires : Bool) (h : (t.ctx core k).task = none) : t.endPart core k fires = t := by
  unfold State.endPart
  simp only [h]

section
variable {t : State} {core k id : Nat} {task : Task} (fires : Bool) (h : (t.ctx core k).task = some id) (hg : (t.cs core).gang = none)
include h hg

/-- Chunks left become an orphaned part of the quad. -/
theorem State.endPart_orphan (hlo : (t.ctx core k).tklo.toInt < (t.ctx core k).tkhi.toInt) : t.endPart core k fires
    = (t.modCtx core k fun c => { c with task := none }).modQuad (quadOf core) fun q =>
      { q with orphans := q.orphans ++ [(id, (t.ctx core k).tklo, (t.ctx core k).tkhi)] } := by
  unfold State.endPart
  simp [h, hg, hlo]

variable (hlo : (t.ctx core k).tkhi.toInt ≤ (t.ctx core k).tklo.toInt) (ht : t.tasks.get id = some task)
include hlo ht

/-- A part with none left is one part fewer. -/
theorem State.endPart_part (hp : 1 < task.parts) : t.endPart core k fires
    = { t.modCtx core k fun c => { c with task := none } with tasks := t.tasks.put id { task with parts := task.parts - 1 } } := by
  unfold State.endPart
  simp [h, hg, Int.not_lt.2 hlo, ht, Nat.not_le.2 hp]

/-- The last part ends the task. -/
theorem State.endPart_last (hp : task.parts ≤ 1) : t.endPart core k fires =
    let u : State := { t.modCtx core k fun c => { c with task := none } with tasks := t.tasks.del id }
    if fires then u.taskAction core task else u := by
  unfold State.endPart State.endTask
  simp [h, hg, Int.not_lt.2 hlo, ht, hp]

end

section
variable (s : State) {core k : Nat} (hk : k < 4) (run : Run)
include hk

/-- The part of a context that has left its work is gone. -/
theorem State.leftWork_partless : s.leaves ((s.leftWork core k run).modCtx core k fun c => { c with task := none }) core k
    ((s.ctx core k).partless run) := by
  have hw := s.leftWork_leaves hk run (core := core)
  have h := State.leaves_modCtx (s.leftWork core k run) hk (core := core) fun c => { c with task := none }
  rw [hw.1, ← Ctx.partless_eq] at h
  exact hw.trans h

theorem State.retire_none (h : (s.ctx core k).task = none) :
    s.leaves (s.retire core k run) core k ((s.ctx core k).partless run) := by
  have hw := s.leftWork_leaves hk run (core := core)
  obtain ⟨-, -, htask, -, -⟩ := (s.ctx core k).left_frame run
  have hn : ((s.leftWork core k run).ctx core k).task = none := by rw [hw.1, htask, h]
  have he : (s.ctx core k).partless run = (s.ctx core k).left run := by rw [Ctx.partless_eq, ← h, ← htask]
  rw [State.retire_eq, State.endPart_none _ hn, he]
  exact hw

variable {id : Nat} {task : Task} (h : (s.ctx core k).task = some id) (hg : (s.cs core).gang = none) (ht : s.tasks.get id = some task)
include h hg ht

/-- What becomes of the part of a context that leaves its work. -/
theorem State.retire_part : let x := s.ctx core k
    let t := s.retire core k run
    let y := x.partless run
    (x.tklo.toInt < x.tkhi.toInt → s.leaves t core k y ∧ t.tasks = s.tasks
        ∧ (t.quad (quadOf core)).orphans = (s.quad (quadOf core)).orphans ++ [(id, x.tklo, x.tkhi)])
      ∧ (x.tkhi.toInt ≤ x.tklo.toInt → 1 < task.parts → s.leaves t core k y ∧ t.tasks = s.tasks.put id { task with parts := task.parts - 1 })
      ∧ (x.tkhi.toInt ≤ x.tklo.toInt → task.parts ≤ 1 → ∃ u, s.leaves u core k y ∧ u.tasks = s.tasks.del id
        ∧ t = if run = .halted then u else u.taskAction core task) := by
  intro x t y
  have hw := s.leftWork_leaves hk run (core := core)
  have hp := s.leftWork_partless hk run (core := core)
  obtain ⟨-, -, htask, hlo, hhi⟩ := x.left_frame run
  rw [← hw.1] at htask hlo hhi
  have hgang := (s.leftWork_gang core k run).trans hg
  have ht' : (s.leftWork core k run).tasks.get id = some task := ht
  refine ⟨fun hc => ?_, fun hc h1 => ?_, fun hc h1 => ?_⟩
  · have he := (s.retire_eq core k run).trans (State.endPart_orphan (run != .halted) (htask.trans h) hgang (by rw [hlo, hhi]; exact hc))
    rw [hlo, hhi] at he
    rw [show t = _ from he]
    exact ⟨hp.of_cores rfl rfl, rfl, congrArg Quad.orphans (Tab.read_put_same _ _ _ _)⟩
  · have he := (s.retire_eq core k run).trans (State.endPart_part (run != .halted) (htask.trans h) hgang (by rw [hlo, hhi]; exact hc) ht' h1)
    rw [show t = _ from he]
    exact ⟨hp.of_cores rfl rfl, rfl⟩
  · have he := (s.retire_eq core k run).trans (State.endPart_last (run != .halted) (htask.trans h) hgang (by rw [hlo, hhi]; exact hc) ht' h1)
    refine ⟨_, hp.of_cores (u := { (s.leftWork core k run).modCtx core k fun c => { c with task := none } with tasks := s.tasks.del id })
      rfl rfl, rfl, ?_⟩
    rw [show t = _ from he]
    cases run <;> rfl

end

/-! ### Effects in force for the next bundle (R86, R89, R350) -/

/-- A rotating loop's entry leaves P8 true, P9 to P15 false and those below as they are (R86). -/
theorem Ctx.enterRotation_getP (c : Ctx) {n : Nat} (hn : n < 16) : c.enterRotation.getP n = if n < 8 then c.getP n else decide (n = 8) := by
  unfold Ctx.enterRotation Ctx.getP
  simp only [BitVec.getLsbD_or, BitVec.getLsbD_and]
  interval_cases n <;> simp

/-- A notice changes no context. -/
theorem State.leaves.notice {s t : State} {core k : Nat} {y : Ctx} (h : s.leaves t core k y) (kind part c : Nat)
    (body : List (Nat × List Byte)) : s.leaves (t.notice kind part c body) core k y := by
  obtain ⟨w, e⟩ := t.notice_frame kind part c body
  rw [e]
  exact h.of_cores rfl rfl

/-- SYSC's stop: the notice changes no context (R350). -/
theorem State.applyEnd_service (s : State) {core k : Nat} (hk : k < 4) (imm : Nat) : s.leaves (State.applyEnd core k s (.service imm)) core k
    { s.ctx core k with tpc := BitVec.ofNat 64 (s.ctx core k).pc, stop := some ⟨.service, (s.ctx core k).pc, 0⟩ } :=
  (s.leaves_modCtx hk _).notice _ _ _ _

/-! ### The instructions -/

/-- Settles O25: each instruction by its body under a true guard, and what follows the bundle by the end of the context's
part. -/
theorem controlResults : Obligations.ControlResults := by
  unfold Obligations.ControlResults
  refine ⟨fun s g i hg => ?_, fun s core k hk => ⟨fun ilk vrm => s.leaves_modCtx hk _,
    ⟨_, s.leaves_modCtx hk _, rfl, fun n hn => Ctx.enterRotation_getP _ hn⟩, fun imm => rfl, fun imm => s.applyEnd_service hk imm, fun e he => ?_⟩⟩
  · have ok : ∀ t : State, slotOp g s (.ok t) = .next t := fun t => by rw [slotOp_true hg]; rfl
    have when : ∀ (c : Prop) [Decidable c] (t : State) (h : Halt), c → slotOp g s (if c then .ok t else .error h) = .next t := fun c _ t h hc => by
      rw [if_pos hc, ok]
    have whenNot : ∀ (c : Prop) [Decidable c] (t : State) (h : Halt), ¬ c → slotOp g s (if c then .error h else .ok t) = .next t :=
      fun c _ t h hc => by rw [if_neg hc, ok]
    refine ⟨ok _, ok _, ok _, ok _, ok _, fun ht => when _ _ _ ht, ok _, fun h r hh hp => when _ _ _ ?_, fun hp => when _ _ _ hp,
      fun hr => ?_, ok _, fun hi => when _ _ _ ?_, ok _, fun c l => ⟨rfl, rfl⟩, ok _, ok _, ok _, ok _⟩
    · simp [Ctx.handles, hh, hp]
    · exact whenNot _ _ _ (by simp [hr])
    · rw [hi]
      rfl
  · obtain ⟨hflight, hloads, -⟩ := (s.ctx core k).left_frame e.2
    have ht : State.applyEnd core k s e.1 = s.retire core k e.2 := by
      simp only [List.mem_cons, List.not_mem_nil, or_false] at he
      rcases he with rfl | rfl | rfl <;> rfl
    have hnone := fun h => s.retire_none hk e.2 h (core := core)
    have hpart := fun id task h hg ht => s.retire_part hk e.2 h hg ht (core := core) (id := id) (task := task)
    rw [← ht] at hnone hpart
    exact ⟨hflight, hloads, hnone, hpart⟩

end Sys2Proof.Machine
end

section
/-!
PROOFS. O49: resumes, pre-emption and the registers of a stopped context (R32, R274, R348).
-/
namespace Sys2Proof.Machine

/-- An event of a context leaves the context as given, and nothing else of contexts or memory differs. -/
def State.becomes (s : State) (core k : Nat) (i : Instr) (y : Ctx) : Prop := ∃ t, exec i s = .next t ∧ s.leaves t core k y

theorem State.leaves_of_modCtx (s : State) {core k : Nat} (hk : k < 4) {f : Ctx → Ctx} {y : Ctx} (hf : f (s.ctx core k) = y) :
    s.leaves (s.modCtx core k f) core k y := hf ▸ s.leaves_modCtx hk f

/-- An event that changes one context. -/
theorem State.becomes_of_modCtx {s : State} {core k : Nat} (hk : k < 4) {i : Instr} {y : Ctx} (f : Ctx → Ctx)
    (h : exec i s = .next (s.modCtx core k f)) (hf : f (s.ctx core k) = y) : s.becomes core k i y :=
  ⟨_, h, s.leaves_of_modCtx hk hf⟩

/-! ### Resumes (R348) -/

section
variable (s : State) (c : BitVec 9) (k : BitVec 2) {st : Stop} (h : (s.ctx c.toNat k.toNat).stop = some st)
include h

theorem execSupervisorResume_stopped : exec (.supervisorResume c k) s = .next (s.modCtx c.toNat k.toNat fun y =>
    { y.cleared with pc := ((s.ctx c.toNat k.toNat).resumeAt st).1, rep := ((s.ctx c.toNat k.toNat).resumeAt st).2 }) := by
  show execSupervisorResume c k s = _
  unfold State.ctx at h
  unfold execSupervisorResume
  simp only [h]
  rfl

theorem execResumePrivileged_stopped {e : BitVec 17} (he : firmwareEntry e.toNat = true) :
    exec (.resumePrivileged c k e) s = .next (s.modCtx c.toNat k.toNat fun y =>
      { { y.cleared.landCycles with tpc := BitVec.ofNat 64 ((s.ctx c.toNat k.toNat).resumeAt st).1 }.enterEnv true
          (if st.cause = StopCause.service then none else some ((s.ctx c.toNat k.toNat).resumeAt st).1) e.toNat with
        readyAt := Nat.max y.readyAt (s.cycle.toNat + y.lastLanding) }) := by
  show execResumePrivileged c k e s = _
  unfold execResumePrivileged
  extract_lets x
  rw [show x.stop = some st from h]
  exact if_pos he

end

/-- The fresh environment of a routine holds MODE, loops, sticky slots and what is counted in bundles aside: the landing of
results touches none of them. -/
theorem Ctx.enterEnv_landCycles (x : Ctx) (tpc : X64) (at_ : Option Nat) (e : Nat) :
    ({ x.landCycles with tpc := tpc }).enterEnv true at_ e = { x.landCycles with
      tpc := tpc
      held := ⟨true, x.mode, x.loops, x.sticky, x.flight.filter fun e => !e.cycles, at_, x.ticket⟩ :: x.held
      ticket := none
      mode := ⟨true, 0, true⟩, loops := [], sticky := .nop, flight := [], pc := e, rep := 0 } := by
  obtain ⟨fx, fp, fv, fm, fk, fh, ff, hl⟩ := x.landCycles_frame
  unfold Ctx.enterEnv
  rw [hl]
  simp [List.filter_filter]

/-! ### Pre-emption (R32, R274, R357) -/

/-- A context is asked to stop. -/
theorem Ctx.asked_eq {x : Ctx} (h : x.stop = none) : (if x.stop.isNone then { x with preempt := true } else x) = { x with preempt := true } := by
  rw [h]
  rfl

/-- A context of no gang, or a member that is parked, stops at its bundle once no region is open. -/
theorem CoreState.settlePreempt_stops {v : CoreState} {k : Nat} (hp : (v.ctx k).preempt = true) (hs : (v.ctx k).stop = none)
    (hr : (v.ctx k).region = none) (hm : (v.gang.any fun q => q.live.contains k) = false ∨ (v.ctx k).parked = true) :
    v.settlePreempt k = v.setCtx k { v.ctx k with preempt := false, stop := some ⟨.preempt, (v.ctx k).pc, (v.ctx k).rep⟩ } := by
  unfold CoreState.settlePreempt
  extract_lets x member
  have hstays : (!x.preempt || x.stop.isSome || x.region.isSome) = false := by
    rw [show x.preempt = true from hp, show x.stop = none from hs, show x.region = none from hr]
    rfl
  have hdrains : (member && !x.parked) = false := by
    rcases hm with hm | hm
    · rw [show member = false from hm, Bool.false_and]
    · rw [show x.parked = true from hm, Bool.not_true, Bool.and_false]
  rw [hstays, hdrains]
  rfl

theorem CoreState.settlePreempt_region {v : CoreState} {k : Nat} (hr : (v.ctx k).region.isSome = true) : v.settlePreempt k = v := by
  unfold CoreState.settlePreempt
  simp [hr]

/-- Where the gang drains already, or its member is in a region, nothing more happens. -/
theorem CoreState.settlePreempt_drains {v : CoreState} {k : Nat} {q : Gang} (hg : v.gang = some q) (hs : q.stopping = true)
    (hl : q.live.contains k = true) (hp : (v.ctx k).parked = false) : v.settlePreempt k = v := by
  unfold CoreState.settlePreempt
  have hv : ({ v with gang := some q } : CoreState) = v := by rw [← hg]
  simp only [hg, Option.any_some, hl, hp, Bool.not_false, Bool.and_self, if_true, Option.map_some, hs, hv, ite_self]

/-- The state in which a context is asked to stop. -/
def State.askStop (s : State) (core k : Nat) : State := s.modCtx core k fun x => if x.stop.isNone then { x with preempt := true } else x

theorem State.askStop_leaves (s : State) {core k : Nat} (hk : k < 4) (h : (s.ctx core k).stop = none) :
    s.leaves (s.askStop core k) core k { s.ctx core k with preempt := true } :=
  s.leaves_of_modCtx hk (Ctx.asked_eq h)

theorem State.askStop_gang (s : State) (core k : Nat) : ((s.askStop core k).cs core).gang = (s.cs core).gang := by
  unfold State.askStop State.modCtx
  rw [State.cs_modCS]
  rfl

/-- A change of one context through its core. -/
theorem State.leaves.modCS_setCtx {s t : State} {core k : Nat} {y : Ctx} (hk : k < 4) (h : s.leaves t core k y)
    (f : CoreState → CoreState) (z : Ctx) (hf : f (t.cs core) = (t.cs core).setCtx k z) : s.leaves (t.modCS core f) core k z := by
  obtain ⟨h1, h2, h3⟩ := h
  refine ⟨?_, h2, fun d j hdj => ?_⟩
  · rw [State.ctx, State.cs_modCS, hf, CoreState.ctx_setCtx _ hk]
  · rw [← h3 d j hdj]
    by_cases hd : d = core
    · subst hd
      rw [State.ctx, State.cs_modCS, hf, CoreState.ctx_setCtx_other _ (hdj.resolve_left fun h => h rfl)]
      rfl
    · rw [State.ctx, State.cs_modCS_other _ _ hd]
      rfl

section
variable (s : State) (c : BitVec 9) (k : BitVec 2)

/-- A pre-emption begins a drain where a member of a gang that does not drain yet has not parked. -/
theorem execPreemptContext_eq : exec (.preemptContext c k) s = .next (State.modCS
    (if ((s.askStop c.toNat k.toNat).cs c.toNat).gang.any fun q =>
        q.live.contains k.toNat && !q.stopping && !((s.askStop c.toNat k.toNat).ctx c.toNat k.toNat).parked then
      (s.askStop c.toNat k.toNat).beginDrain c.toNat else s.askStop c.toNat k.toNat) c.toNat fun v => v.settlePreempt k.toNat) := rfl

variable (hs : (s.ctx c.toNat k.toNat).stop = none)
include hs

section
variable (hg : ∀ q, (s.cs c.toNat).gang = some q → q.live.contains k.toNat = false ∨ (s.ctx c.toNat k.toNat).parked = true)
include hg

theorem execPreemptContext_alone :
    exec (.preemptContext c k) s = .next ((s.askStop c.toNat k.toNat).modCS c.toNat fun v => v.settlePreempt k.toNat) := by
  obtain ⟨hx, -, -⟩ := s.askStop_leaves k.isLt hs (core := c.toNat)
  rw [execPreemptContext_eq, if_neg]
  rw [s.askStop_gang, hx]
  cases hq : (s.cs c.toNat).gang with
  | none => simp
  | some q =>
    rcases hg q hq with h | h <;> simp only [Option.any_some, h, Bool.false_and, Bool.not_true, Bool.and_false, Bool.false_eq_true,
      not_false_eq_true]

/-- Outside a region it stops at its bundle. -/
theorem preemptContext_stops (hr : (s.ctx c.toNat k.toNat).region = none) : s.becomes c.toNat k.toNat (.preemptContext c k)
    { s.ctx c.toNat k.toNat with
      preempt := false, stop := some ⟨.preempt, (s.ctx c.toNat k.toNat).pc, (s.ctx c.toNat k.toNat).rep⟩ } := by
  have hl := s.askStop_leaves k.isLt hs (core := c.toNat)
  have hx := hl.1
  have hv : (s.askStop c.toNat k.toNat).ctx c.toNat k.toNat = ((s.askStop c.toNat k.toNat).cs c.toNat).ctx k.toNat := rfl
  refine ⟨_, execPreemptContext_alone s c k hs hg, hl.modCS_setCtx k.isLt _ _ ?_⟩
  rw [hv] at hx
  rw [CoreState.settlePreempt_stops (by rw [hx]) (by rw [hx]; exact hs) (by rw [hx]; exact hr), hx]
  rw [s.askStop_gang, hx]
  cases hq : (s.cs c.toNat).gang with
  | none => exact .inl rfl
  | some q => exact hg q hq

/-- In a region it waits. -/
theorem preemptContext_waits (hr : (s.ctx c.toNat k.toNat).region.isSome = true) : s.becomes c.toNat k.toNat (.preemptContext c k)
    { s.ctx c.toNat k.toNat with preempt := true } := by
  have hl := s.askStop_leaves k.isLt hs (core := c.toNat)
  have hx := hl.1
  refine ⟨_, execPreemptContext_alone s c k hs hg, hl.modCS_setCtx k.isLt _ _ ?_⟩
  rw [CoreState.settlePreempt_region, ← hx]
  · exact (CoreState.setCtx_ctx _ _).symm
  · show ((s.askStop c.toNat k.toNat).ctx c.toNat k.toNat).region.isSome = true
    rw [hx]
    exact hr

end

/-- A live member of a gang drains it. -/
theorem preemptContext_drains {q : Gang} (hq : (s.cs c.toNat).gang = some q) (hl : q.live.contains k.toNat = true) (hst : q.stopping = false)
    (hp : (s.ctx c.toNat k.toNat).parked = false) : ∃ t, exec (.preemptContext c k) s = .next t
      ∧ t.ctx c.toNat k.toNat = { s.ctx c.toNat k.toNat with preempt := true }
      ∧ (t.cs c.toNat).gang = some { q with stopping := true, stopped := [], put := false } := by
  obtain ⟨hx, -, -⟩ := s.askStop_leaves k.isLt hs (core := c.toNat)
  have hg := (s.askStop_gang c.toNat k.toNat).trans hq
  have hd : (((s.askStop c.toNat k.toNat).beginDrain c.toNat).cs c.toNat)
      = { (s.askStop c.toNat k.toNat).cs c.toNat with gang := some { q with stopping := true, stopped := [], put := false } } := by
    unfold State.beginDrain
    rw [State.cs_modCS, hg]
    rfl
  have hpark : (((s.askStop c.toNat k.toNat).cs c.toNat).ctx k.toNat).parked = false := by
    show ((s.askStop c.toNat k.toNat).ctx c.toNat k.toNat).parked = false
    rw [hx]
    exact hp
  have hcs : ((((s.askStop c.toNat k.toNat).beginDrain c.toNat).modCS c.toNat fun v => v.settlePreempt k.toNat).cs c.toNat)
      = { (s.askStop c.toNat k.toNat).cs c.toNat with gang := some { q with stopping := true, stopped := [], put := false } } := by
    rw [State.cs_modCS, hd]
    exact CoreState.settlePreempt_drains rfl rfl hl hpark
  refine ⟨_, ?_, ?_, congrArg CoreState.gang hcs⟩
  · rw [execPreemptContext_eq, if_pos]
    rw [hg, hx]
    simp [hp, hst, List.contains_iff_mem.1 hl]
  · rw [State.ctx, hcs]
    exact hx

end

end Sys2Proof.Machine
end

section
/-!
PROOFS. O49: the registers of a stopped context, results that arrive and the timers (R62, R67, R94, R100, R348, R357).
-/
namespace Sys2Proof.Machine

/-! ### The registers of a stopped context (R348) -/

/-- With no uncorrectable error none is mended. -/
theorem Ctx.mended_eq {x : Ctx} (h : x.flaws = []) (r : Reg) (v : RegVal) : x.mended r v = x := by
  unfold Ctx.mended
  extract_lets whole
  rw [h, List.filter_nil, ← h]

/-- A list's image that KLOAD takes. -/
theorem rankedOf_eq (w : BitVec 64) (es : List (BitVec 64)) : let h := KHeader.ofBytes (leBytes 8 w.toNat)
    let ok := 1 ≤ h.cap ∧ h.cap ≤ 64 ∧ h.len ≤ 64 ∧ h.dir ≤ 1
    (∀ t, KType.ofCode h.type = some t → ok → rankedOf w es = some (.load false h.cap (h.dir == 1) t
        (imageEntries (leBytes 8 0 ++ es.flatMap fun e => leBytes 8 e.toNat) h.len) h.nanDropped))
      ∧ (KType.ofCode h.type = none ∨ ¬ ok → rankedOf w es = none) := by
  intro h ok
  have hok : (h.cap = 0 ∨ 64 < h.cap ∨ 64 < h.len ∨ 1 < h.dir) ↔ ¬ ok := by
    show _ ↔ ¬ (1 ≤ h.cap ∧ h.cap ≤ 64 ∧ h.len ≤ 64 ∧ h.dir ≤ 1)
    omega
  unfold rankedOf
  constructor
  · intro t ht hk
    rw [if_neg (by rw [hok]; exact not_not_intro hk), ht]
    rfl
  · intro hn
    by_cases hk : ok
    · rw [if_neg (by rw [hok]; exact not_not_intro hk), hn.resolve_right (not_not_intro hk)]
      rfl
    · rw [if_pos (hok.2 hk)]

/-- A number that is none of the registers a supervisor alone writes. -/
theorem Ctx.readOnlyWrite_other {n : Nat} (hn : n ∉ [0x0B, 0x0C, 0x30, 0x31, 0x32, 0x33, 0x34] ++ countFrom 0x18 8) (x : Ctx) (w : X64) :
    x.readOnlyWrite n w = x := by
  unfold Ctx.readOnlyWrite
  split
  case h_16 => rfl
  all_goals exact absurd (by decide) hn

/-- The thresholds that KTH writes. -/
theorem Ctx.readOnlyWrite_kth {n : Nat} (h1 : 0x18 ≤ n) (h2 : n ≤ 0x1F) (x : Ctx) (w : X64) :
    x.readOnlyWrite n w = x.land (.kth (n - 0x18)) (.kth (w.setWidth 32)) := by
  interval_cases n <;> rfl

/-- A register of a context written by its name; a control register is written through CWR's path first. -/
def Ctx.stoppedWrite (x : Ctx) (v : BitVec 64) : StopReg → Ctx
  | .x n => if n.toNat < 48 then x.land (.x (physX x.rrb n.toNat)) (.x v) else x
  | .p n => x.land (.p (physP x.rrb n.toNat)) (.p (v.getLsbD 0))
  | .m n => x.land (.m n.toNat) (.m v)
  | .lane n l =>
    { x with v := x.v.setIfInBounds (physV x.rrb n.toNat) ((x.getV (physV x.rrb n.toNat)).setIfInBounds l.toNat (v.setWidth 32)) }
  | .k n entries => match rankedOf v entries with
    | some u => x.land (.k n.toNat) (.k u)
    | none => x
  | .control crn => x.readOnlyWrite crn.toNat v

/-- The state whose context takes the value: only a control register has a path of its own. -/
def State.stoppedBase (s : State) (core k : Nat) (v : BitVec 64) : StopReg → State
  | .control crn => s.crnWrite core k crn.toNat v
  | _ => s

section
variable (s : State) (c : BitVec 9) (k : BitVec 2) {st : Stop} (h : (s.ctx c.toNat k.toNat).stop = some st)
include h

theorem execStoppedContextWrite_stopped (r : StopReg) (v : BitVec 64) :
    exec (.stoppedContextWrite c k r v) s = .next ((s.stoppedBase c.toNat k.toNat v r).modCtx c.toNat k.toNat fun x => x.stoppedWrite v r) := by
  show execStoppedContextWrite c k r v s = _
  unfold execStoppedContextWrite
  extract_lets core
  rw [if_neg (by rw [h]; exact Bool.false_ne_true)]
  cases r <;> rfl

/-- A register that is none of the control registers. -/
theorem stoppedContextWrite_plain (r : StopReg) (v : BitVec 64) (hr : s.stoppedBase c.toNat k.toNat v r = s) :
    s.becomes c.toNat k.toNat (.stoppedContextWrite c k r v) ((s.ctx c.toNat k.toNat).stoppedWrite v r) := by
  have he := execStoppedContextWrite_stopped s c k h r v
  rw [hr] at he
  exact State.becomes_of_modCtx k.isLt _ he rfl

/-- A register that CWR leaves as it is. -/
theorem stoppedContextWrite_readOnly {r : BitVec 8} (w : X64) {y : Ctx}
    (hr : r.toNat ∈ [0x0B, 0x0C, 0x11, 0x18, 0x19, 0x1A, 0x1B, 0x1C, 0x1D, 0x1E, 0x1F, 0x20, 0x28, 0x29, 0x2A, 0x2B, 0x2C, 0x30, 0x31,
      0x32, 0x33, 0x34, 0x38])
    (hy : (s.ctx c.toNat k.toNat).readOnlyWrite r.toNat w = y) :
    s.becomes c.toNat k.toNat (.stoppedContextWrite c k (.control r) w) y := by
  obtain ⟨hcore, hctx⟩ := crnWrite_readOnly hr c.toNat w
  refine ⟨_, execStoppedContextWrite_stopped s c k h _ _, ?_⟩
  unfold State.stoppedBase State.crnWrite Ctx.stoppedWrite
  dsimp only
  rw [hcore, State.modCtx_modCtx _ _ k.isLt]
  exact s.leaves_of_modCtx k.isLt (by rw [hctx]; exact hy)

theorem stoppedContextWrite_control {r : BitVec 8} (w : X64)
    (hr : r.toNat ∉ [0x0B, 0x0C, 0x30, 0x31, 0x32, 0x33, 0x34] ++ countFrom 0x18 8) : ∃ t,
      exec (.stoppedContextWrite c k (.control r) w) s = .next t ∧ t.mem = s.mem
      ∧ let u := s.crnWrite c.toNat k.toNat r.toNat w
        ∀ d j, t.ctx d j = u.ctx d j ∧ ∀ m, t.crnRead d j m = u.crnRead d j m := by
  refine ⟨_, execStoppedContextWrite_stopped s c k h _ _, s.crnWrite_mem _ _ _ _, fun d j => ?_⟩
  unfold State.stoppedBase Ctx.stoppedWrite
  simp only [Ctx.readOnlyWrite_other hr]
  have hcs : ∀ u : State, (u.modCtx c.toNat k.toNat fun x => x).cs d = u.cs d := fun u => by
    by_cases hd : d = c.toNat
    · subst hd
      exact congrArg Core.cur (u.core_modCtx_id _ _)
    · exact State.cs_modCS_other _ _ hd
  exact ⟨congrArg (fun v : CoreState => v.ctx j) (hcs _), fun m => State.crnRead_congr (hcs _) rfl rfl j m⟩

end

/-! ### Results that arrive (R65, R67, R68) -/

/-- A load discards what was issued before it to its registers. -/
theorem Load.outlasts_eq (l : Load) (e : FlightEntry) :
    l.outlasts e = ((l.dests.map (·.1)).contains e.reg && decide (e.seq < l.seq)) := by
  unfold Load.outlasts
  congr 1
  rw [Bool.eq_iff_iff]
  simp [List.any_eq_true]

section
variable {s : State} {c : BitVec 9} {k : BitVec 2} {id : Nat} {l : Load}
  (hl : (s.ctx c.toNat k.toNat).loads.find? (fun m => m.id == id) = some l)
include hl

theorem Ctx.arrive_found : (s.ctx c.toNat k.toNat).arrive id = l.dests.foldl (fun y d => y.land d.1 d.2)
    { s.ctx c.toNat k.toNat with
      loads := (s.ctx c.toNat k.toNat).loads.filter (fun m => m.id != id)
      flight := (s.ctx c.toNat k.toNat).flight.filter fun e => !((l.dests.map (·.1)).contains e.reg && decide (e.seq < l.seq))
      held := (s.ctx c.toNat k.toNat).held.map fun h =>
        { h with frozen := h.frozen.filter fun e => !((l.dests.map (·.1)).contains e.reg && decide (e.seq < l.seq)) } } := by
  unfold Ctx.arrive Ctx.dropOutlasted
  simp only [hl, Load.outlasts_eq]

/-- A result of a kind of its own arrives once it is due. -/
theorem resultArrives_due {kind : LoadKind} {i : Instr} (hi : exec i s = resultArrives c k id kind s) (hk : l.kind = kind)
    (hd : l.due ≤ s.cycle.toNat) : s.becomes c.toNat k.toNat i ((s.ctx c.toNat k.toNat).arrive id) := by
  refine s.becomes_of_modCtx k.isLt _ (hi.trans rfl) ?_
  simp only [hl, hk, hd, and_self, if_true]

/-- Data of a load arrive, or mark it where they met an uncorrectable error. -/
theorem globalLoadArrival_found (hk : l.kind = .memory ∨ l.kind = .segment) (hb : l.bad = false) (bad : Bool) :
    s.becomes c.toNat k.toNat (.globalLoadArrival c k id bad) (if bad ∨ l.err then
      { s.ctx c.toNat k.toNat with
        loads := (s.ctx c.toNat k.toNat).loads.map fun m => if m.id = id then { m with bad := true } else m }
      else (s.ctx c.toNat k.toNat).arrive id) := by
  refine State.becomes_of_modCtx k.isLt _ rfl ?_
  simp only [hl, hk, hb, Bool.false_eq_true, not_false_eq_true, and_self, if_true]

end

end Sys2Proof.Machine
end

section
/-!
PROOFS. O49: BANKSW, the run limit, WATCHDOG, LONGWAIT, NPR_OVERRUN and WAITW (R29, R62, R92, R94, R100, R357, R360).
-/
namespace Sys2Proof.Machine

/-! ### A region's limit (R357) -/

/-- The next bundle of a context that runs no handler would be beyond its region's limit. -/
theorem Ctx.overruns_iff (x : Ctx) : x.overruns = true ↔ ∃ b, x.region = some b ∧ x.nprlim ≤ b ∧ x.held = [] := by
  unfold Ctx.overruns
  cases x.region with
  | none => simp
  | some b => simp

/-- NPR_OVERRUN is taken with the region closed. -/
theorem State.overrun_frame (s : State) {core k : Nat} (hk : k < 4) : ∃ u : State,
    s.overrun core k = u.takeTrap core k 0x10 0 7 (s.ctx core k).nprlim (s.ctx core k).pc (s.ctx core k).rep
      ∧ u.ctx core k = { s.ctx core k with region := none } ∧ u.mem = s.mem :=
  ⟨_, rfl, (s.leaves_modCtx hk _).1, rfl⟩

section
variable (s : State) (c : BitVec 9) (k : BitVec 2)

/-- A switch of banks that fails its check decides. -/
theorem execBankswDecision_fails {w : BankWait} (hw : (s.ctx c.toNat k.toNat).bank = some w) (hd : w.due ≤ s.cycle.toNat)
    (hs : w.sum ≠ w.expect) (hr : (s.ctx c.toNat k.toNat).run = .running) (hst : (s.ctx c.toNat k.toNat).stop = none)
    (hf : (s.ctx c.toNat k.toNat).frozen = false) (hsw : (s.ctx c.toNat k.toNat).swapStop = false) :
    exec (.bankswDecision c k) s = .next (if (s.ctx c.toNat k.toNat).overruns then s.overrun c.toNat k.toNat
      else s.takeTrap c.toNat k.toNat 0x0E 0 0 w.sum.toNat w.pc w.rep) := by
  show execBankswDecision c k s = _
  unfold execBankswDecision
  simp only [hw]
  exact if_pos ⟨hd, hs, hr, hst, by rw [hf]; exact Bool.false_ne_true, by rw [hsw]; exact Bool.false_ne_true⟩

/-- The run limit ends the run where another context looks ready. -/
theorem execIssueRunLimit_acts (h : 65536 ≤ (s.cs c.toNat).runCount) (hr : ((s.cs c.toNat).ctx (s.cs c.toNat).lastIssuer).rep = 0)
    (ho : ∃ j < 4, j ≠ (s.cs c.toNat).lastIssuer ∧ ((s.cs c.toNat).ctx j).looksReady = true
      ∧ ((s.cs c.toNat).ctx j).readyAt ≤ s.cycle.toNat) :
    exec (.issueRunLimit c) s = .next (s.modCS c.toNat fun w => { w with runOver := true }) := by
  show execIssueRunLimit c s = _
  unfold execIssueRunLimit
  extract_lets v other
  have hother : other = true := by
    obtain ⟨j, hj, hn, hl, hc⟩ := ho
    refine List.any_eq_true.2 ⟨j, List.mem_range.2 hj, ?_⟩
    simp only [bne_iff_ne.2 (show j ≠ v.lastIssuer from hn), show (v.ctx j).looksReady = true from hl,
      decide_eq_true (show (v.ctx j).readyAt ≤ s.cycle.toNat from hc), Bool.and_self]
  rw [hother, decide_eq_true (show 65536 ≤ v.runCount from h), beq_iff_eq.2 (show (v.ctx v.lastIssuer).rep = 0 from hr)]
  rfl

/-- Arrivals withdrawn touch no memory. -/
theorem State.withdraw_foldl_mem (core k : Nat) (l : List Arrival) : ∀ t : State,
    (l.foldl (fun t a => t.withdraw core k a) t).mem = t.mem := by
  have h1 : ∀ (t : State) (a : Arrival), (t.withdraw core k a).mem = t.mem := fun t a => by
    unfold State.withdraw
    dsimp only
    split <;> rfl
  induction l with
  | nil => exact fun _ => rfl
  | cons a r ih => exact fun t => (ih _).trans (h1 t a)

/-- The state with a context's arrivals withdrawn. -/
def State.withdrawAll (s : State) (core k : Nat) : State :=
  let x := s.ctx core k
  (x.arrivals.foldl (fun t a => t.withdraw core k a) s).modCtx core k fun y =>
    { y with arrivals := [], withdrawn := ⟨x.held.length, x.barAt.1, x.barAt.2, x.pc, x.rep, x.arrivals⟩ :: y.withdrawn, wait := .none }

/-- WATCHDOG withdraws the arrivals of a context that has waited too long. -/
theorem execWatchdog_expires (ha : (s.ctx c.toNat k.toNat).arrivals ≠ []) (hb : (s.ctx c.toNat k.toNat).barto ≠ 0)
    (hc : (s.ctx c.toNat k.toNat).barto.toNat < (s.ctx c.toNat k.toNat).barCycles) (hst : (s.ctx c.toNat k.toNat).stop = none)
    (hf : (s.ctx c.toNat k.toNat).frozen = false) : ∃ u : State,
      exec (.watchdog c k) s = .next (u.takeTrap c.toNat k.toNat 0x12 0 (s.ctx c.toNat k.toNat).waitSlot
        (s.ctx c.toNat k.toNat).barCycles (s.ctx c.toNat k.toNat).barAt.1 (s.ctx c.toNat k.toNat).barAt.2)
      ∧ (u.ctx c.toNat k.toNat).arrivals = [] ∧ u.mem = s.mem := by
  have hcond : ((s.ctx c.toNat k.toNat).arrivals.isEmpty || (s.ctx c.toNat k.toNat).barto == 0
      || decide ((s.ctx c.toNat k.toNat).barCycles ≤ (s.ctx c.toNat k.toNat).barto.toNat)
      || (s.ctx c.toNat k.toNat).stop.isSome || (s.ctx c.toNat k.toNat).frozen) = false := by
    simp only [List.isEmpty_eq_false_iff.2 ha, beq_eq_false_iff_ne.2 hb, decide_eq_false (Nat.not_le.2 hc), hst, hf, Option.isSome_none,
      Bool.or_self]
  refine ⟨s.withdrawAll c.toNat k.toNat, if_neg (by rw [hcond]; exact Bool.false_ne_true), ?_, State.withdraw_foldl_mem _ _ _ s⟩
  unfold State.withdrawAll
  rw [State.ctx_modCtx _ _ k.isLt]

/-- LONGWAIT counts a wait once. -/
theorem execLongWaitEvent_counts (hw : (s.ctx c.toNat k.toNat).wait = .sync ∨ (s.ctx c.toNat k.toNat).wait = .waits
      ∨ ∃ a w, (s.ctx c.toNat k.toNat).wait = .waitw a w) (h0 : (s.ctx c.toNat k.toNat).waitto ≠ 0)
    (hc : (s.ctx c.toNat k.toNat).waitto.toNat ≤ (s.ctx c.toNat k.toNat).waitCycles)
    (hn : (s.ctx c.toNat k.toNat).waitCounted = false) : ∃ t, exec (.longWaitEvent c k) s = .next t
      ∧ t.ctx c.toNat k.toNat = { s.ctx c.toNat k.toNat with waitCounted := true }
      ∧ (t.cs c.toNat).mon.longWait = (s.cs c.toNat).mon.longWait + 1 := by
  refine ⟨s.modCS c.toNat fun v => { v.setCtx k.toNat { v.ctx k.toNat with waitCounted := true } with
    mon := { v.mon with longWait := v.mon.longWait + 1 } }, ?_, ?_, ?_⟩
  · show execLongWaitEvent c k s = _
    unfold execLongWaitEvent
    extract_lets x counts
    have hcounts : counts = true := by
      show (match x.wait with
        | .sync | .waits | .waitw _ _ => true
        | _ => false) = true
      rcases hw with h | h | ⟨a, w, h⟩ <;> rw [show x.wait = _ from h]
    rw [hcounts, bne_iff_ne.2 (show x.waitto ≠ 0 from h0), decide_eq_true (show x.waitto.toNat ≤ x.waitCycles from hc),
      show x.waitCounted = false from hn]
    rfl
  · rw [State.ctx, State.cs_modCS]
    exact CoreState.ctx_setCtx _ k.isLt _
  · rw [State.cs_modCS]

/-- NPR_OVERRUN stops a bundle that would issue beyond its region's limit. -/
theorem execNprOverrun_stops {b : Bundle} (ho : (s.ctx c.toNat k.toNat).overruns = true) (hw : (s.ctx c.toNat k.toNat).wouldIssue = true)
    (hf : (s.cs c.toNat).fetch (s.ctx c.toNat k.toNat) = .ok b)
    (hc : b.check (s.ctx c.toNat k.toNat).mode.priv (s.feature c.toNat) = none) (hn : holdsNpre b.views = false) :
    exec (.nprOverrun c k) s = .next (s.overrun c.toNat k.toNat) := by
  show execNprOverrun c k s = _
  unfold execNprOverrun
  simp only [hf, ho, hw, hc, hn]
  rfl

end

/-! ### WAITW (R92, R360) -/

/-- Notes of caches and translations announce nothing. -/
theorem State.dieTouch_news (s : State) (d l : Nat) (w : Bool) : (s.dieTouch d l w).news = s.news := by
  unfold State.dieTouch State.siteTouch
  dsimp only
  split
  · rfl
  split
  · rfl
  split <;> rfl

theorem State.touchLine_news (s : State) (core va loc : Nat) (w : Bool) : (s.touchLine core va loc w).news = s.news := by
  have hm : (s.missLine core va loc w).news = s.news := by
    unfold State.missLine
    dsimp only
    rw [State.dieTouch_news]
    split
    · rfl
    · split <;> rfl
  have hl : (if (s.core core).holdsLine w va then (if w then s.dieTouch (dieOf core) loc true else s)
      else s.missLine core va loc w).news = s.news := by
    split
    · split
      · exact State.dieTouch_news _ _ _ _
      · rfl
    · exact hm
  cases w <;> exact hl

theorem State.touch_news (s : State) (core : Nat) (l : List (Nat × Nat)) (w : Bool) : (s.touch core l w).news = s.news :=
  List.foldlRecOn (motive := fun t : State => t.news = s.news) l _ rfl fun t ht p _ => (t.touchLine_news core p.1 p.2 w).trans ht

theorem State.touchAll_news (s : State) (core va n : Nat) (ls : List Nat) (w : Bool) : (s.touchAll core va n ls w).news = s.news := by
  unfold State.touchAll
  split
  · exact s.touch_news _ _ _
  · exact List.foldlRecOn (motive := fun t : State => t.news = s.news) _ _ rfl fun t ht p _ => (t.touch_news core [p] w).trans ht

/-- An access's notes leave contexts and memory. -/
theorem State.noted.leaves {s t : State} {core : Nat} (h : s.noted t core) (k : Nat) : s.leaves t core k (s.ctx core k) := by
  obtain ⟨-, hm, -, -, -, -, -, -, -, ho, m, hc⟩ := h
  have hx : ∀ d j, t.ctx d j = s.ctx d j := fun d j => by
    unfold State.ctx
    by_cases hd : d = core
    · rw [hd, hc]
      rfl
    · rw [ho d hd]
  exact ⟨hx _ _, hm, fun d j _ => hx d j⟩

section
variable (s : State) (c : BitVec 9) (k : BitVec 2) {a : Nat} {w : X64} (hw : (s.ctx c.toNat k.toNat).wait = .waitw a w)
  (hr : (s.ctx c.toNat k.toNat).run = .running) (hst : (s.ctx c.toNat k.toNat).stop = none)
  (hf : (s.ctx c.toNat k.toNat).frozen = false) (he : (s.ctx c.toNat k.toNat).waitwEnded = false)
include hw hr hst hf he

omit hw in
/-- A context in WAITW that runs and has not been answered reads its word again. -/
theorem waitw_goesOn : ¬ ((s.ctx c.toNat k.toNat).run ≠ .running ∨ (s.ctx c.toNat k.toNat).stop.isSome = true
    ∨ (s.ctx c.toNat k.toNat).frozen = true ∨ (s.ctx c.toNat k.toNat).waitwEnded = true) := by
  simp [hr, hst, hf, he]

/-- A walk that fails traps. -/
theorem execWaitwReread_failed {cause addr : Nat} (hl : s.locs c.toNat a 8 false = .error (cause, addr)) :
    exec (.waitwReread c k) s = .next (s.takeTrap c.toNat k.toNat cause 0 0 (s.pageValue c.toNat (s.ctx c.toNat k.toNat).pc cause addr 0)
      (s.ctx c.toNat k.toNat).pc (s.ctx c.toNat k.toNat).rep) := by
  have hgo := waitw_goesOn s c k hr hst hf he
  show execWaitwReread c k s = _
  unfold execWaitwReread
  simp only [hw, hl]
  rw [if_neg hgo, State.xlateValue_eq]

/-- A word with an error traps. -/
theorem execWaitwReread_soiled {ls : List Nat} (hl : s.locs c.toNat a 8 false = .ok ls) (hs : (s.soiled ls).isSome = true) :
    exec (.waitwReread c k) s = .next ((s.touchAll c.toNat a 8 ls false).takeTrap c.toNat k.toNat memUncorrectable 0 0
      (memErrorValue (s.ctx c.toNat k.toNat).pc (s.physAt c.toNat a)) (s.ctx c.toNat k.toNat).pc (s.ctx c.toNat k.toNat).rep) := by
  have hgo := waitw_goesOn s c k hr hst hf he
  show execWaitwReread c k s = _
  unfold execWaitwReread
  simp only [hw, hl]
  rw [if_neg hgo, if_pos hs]

theorem execWaitwReread_sound {ls : List Nat} (hl : s.locs c.toNat a 8 false = .ok ls) (hs : s.soiled ls = none) :
    exec (.waitwReread c k) s = .next (if leNat (s.bytesAt ls) = w.toNat then s.touchAll c.toNat a 8 ls false
      else ((s.touchAll c.toNat a 8 ls false).observeWords c.toNat k.toNat ls).modCtx c.toNat k.toNat fun c => { c with waitwEnded := true }) := by
  have hgo := waitw_goesOn s c k hr hst hf he
  have hclean : ¬ (s.soiled ls).isSome = true := by rw [hs]; exact Bool.false_ne_true
  show execWaitwReread c k s = _
  unfold execWaitwReread
  simp only [hw, hl]
  rw [if_neg hgo, if_neg hclean]
  split <;> rfl

/-- A word without an error ends the wait where it differs from the operand. -/
theorem waitwReread_sound {ls : List Nat} (hl : s.locs c.toNat a 8 false = .ok ls) (hs : s.soiled ls = none) :
    s.becomes c.toNat k.toNat (.waitwReread c k) (if leNat (s.bytesAt ls) = w.toNat then s.ctx c.toNat k.toNat
      else { (s.observeWords c.toNat k.toNat ls).ctx c.toNat k.toNat with waitwEnded := true }) := by
  have hnoted := (s.touchAll_noted c.toNat a 8 ls false).leaves k.toNat
  have hnews := s.touchAll_news c.toNat a 8 ls false
  refine ⟨_, execWaitwReread_sound s c k hw hr hst hf he hl hs, ?_⟩
  split
  · exact hnoted
  · refine hnoted.trans ?_
    unfold State.observeWords State.newsAt
    rw [State.modCtx_modCtx _ _ k.isLt, hnews, State.ctx_modCtx _ _ k.isLt]
    exact State.leaves_of_modCtx _ k.isLt (by rw [hnoted.1])

end

end Sys2Proof.Machine
end

section
/-!
PROOFS. O49: the statement itself.
-/
namespace Sys2Proof.Machine

/-- Settles O49, event by event: each by the one context that it changes, or by the state in which its trap is taken. -/
theorem contextEvents : Obligations.ContextEvents := by
  rintro s c k x rfl
  refine ⟨fun st hst => ⟨?resume, fun e h1 h2 h3 => ?privileged, fun hfl => ⟨fun r w hr => ?xs, fun r w => ?ps, fun r w => ?ms, fun r w h1 h2 => ?kth⟩,
      fun r l w => ?lane, fun r es w => ?ranked, fun w => ?readOnly, fun r w hr => stoppedContextWrite_control s c k hst w hr⟩,
    fun hst hg => ?alone, fun q hq hl hstop hp hst => preemptContext_drains s c k hst hq hl hstop hp, fun q hq hl hp hst => ?parked,
    ?landing, fun id l hl => ?loads, fun w hw hd hne hr hst hf hsw => ?banksw, fun h hr ho => execIssueRunLimit_acts s c h hr ho,
    fun ha hb hc hst hf => execWatchdog_expires s c k ha hb hc hst hf, fun hw h0 hc hn => execLongWaitEvent_counts s c k hw h0 hc hn,
    fun b ho hw hf hc hn => ?npr, fun a w hw hr hst hf he => ?waitw⟩
  case resume => exact State.becomes_of_modCtx k.isLt _ (execSupervisorResume_stopped s c k hst) rfl
  case privileged =>
    have he : firmwareEntry e.toNat = true := by simp [firmwareEntry, h1, h2, h3]
    refine State.becomes_of_modCtx k.isLt _ (execResumePrivileged_stopped s c k hst he) ?_
    rw [Ctx.enterEnv_landCycles]
    rfl
  case xs =>
    have h := stoppedContextWrite_plain s c k hst (.x r) w rfl
    rw [Ctx.stoppedWrite, if_pos hr, Ctx.land, Ctx.mended_eq hfl] at h
    exact h
  case ps =>
    have h := stoppedContextWrite_plain s c k hst (.p r) w rfl
    rw [Ctx.stoppedWrite, Ctx.land, Ctx.mended_eq hfl] at h
    exact h
  case ms =>
    have h := stoppedContextWrite_plain s c k hst (.m r) w rfl
    rw [Ctx.stoppedWrite, Ctx.land, Ctx.mended_eq hfl] at h
    exact h
  case kth =>
    refine stoppedContextWrite_readOnly s c k hst w (by simp only [List.mem_cons]; omega) ?_
    rw [Ctx.readOnlyWrite_kth h1 h2, Ctx.land, Ctx.mended_eq hfl]
  case lane => exact stoppedContextWrite_plain s c k hst (.lane r l) w rfl
  case ranked =>
    obtain ⟨htake, hrefuse⟩ := rankedOf_eq w es
    have h := stoppedContextWrite_plain s c k hst (.k r es) w rfl
    refine ⟨fun t ht hok => ?_, fun hn => ?_⟩
    · rw [Ctx.stoppedWrite, htake t ht hok] at h
      exact h
    · rw [Ctx.stoppedWrite, hrefuse hn] at h
      exact h
  case readOnly =>
    have put := fun (r : BitVec 8) y hr hy => stoppedContextWrite_readOnly s c k hst (r := r) (y := y) w hr hy
    exact ⟨put 0x0B _ (by decide) rfl, put 0x0C _ (by decide) rfl, put 0x30 _ (by decide) rfl, put 0x31 _ (by decide) rfl,
      put 0x32 _ (by decide) rfl, put 0x33 _ (by decide) rfl, put 0x34 _ (by decide) rfl⟩
  case alone =>
    have hg' := fun q hq => Or.inl (b := (s.ctx c.toNat k.toNat).parked = true) (hg q hq)
    exact ⟨preemptContext_stops s c k hst hg', preemptContext_waits s c k hst hg'⟩
  case parked =>
    have hg' := fun q' (_ : (s.cs c.toNat).gang = some q') => Or.inr (a := q'.live.contains k.toNat = false) hp
    exact ⟨preemptContext_stops s c k hst hg', preemptContext_waits s c k hst hg'⟩
  case landing => exact State.becomes_of_modCtx k.isLt _ rfl rfl
  case loads =>
    have harrive := Ctx.arrive_found hl
    refine ⟨fun hk hb => ⟨fun he => ?_, fun he => ?_, ?_⟩, fun hd => ⟨fun hk => ?_, fun hk => ?_, fun hk => ?_, fun hk => ?_⟩⟩
    · have h := globalLoadArrival_found hl hk hb false
      rw [if_neg (by simp [he]), harrive] at h
      exact h
    · have h := globalLoadArrival_found hl hk hb false
      rw [if_pos (.inr he)] at h
      exact h
    · have h := globalLoadArrival_found hl hk hb true
      rw [if_pos (.inl rfl)] at h
      exact h
    · exact harrive ▸ resultArrives_due hl rfl hk hd
    · exact harrive ▸ resultArrives_due hl rfl hk hd
    · exact harrive ▸ resultArrives_due hl rfl hk hd
    · exact harrive ▸ resultArrives_due hl rfl hk hd
  case banksw =>
    have h := execBankswDecision_fails s c k hw hd hne hr hst hf hsw
    refine ⟨fun hb => ?_, fun hb => ?_⟩
    · rw [if_neg (by rw [Ctx.overruns_iff]; exact hb)] at h
      exact h
    · rw [if_pos ((Ctx.overruns_iff _).2 hb)] at h
      obtain ⟨u, hu, hx, hm⟩ := s.overrun_frame k.isLt (core := c.toNat)
      exact ⟨u, h.trans (congrArg _ hu), hx, hm⟩
  case npr =>
    obtain ⟨u, hu, hx, hm⟩ := s.overrun_frame k.isLt (core := c.toNat)
    exact ⟨u, (execNprOverrun_stops s c k ((Ctx.overruns_iff _).2 ho) hw hf hc hn).trans (congrArg _ hu), hx, hm⟩
  case waitw =>
    refine ⟨fun ls hl hs => waitwReread_sound s c k hw hr hst hf he hl hs, fun ls hl hs => ?_,
      fun cause f hl => execWaitwReread_failed s c k hw hr hst hf he hl⟩
    obtain ⟨hx, hm, -⟩ := (s.touchAll_noted c.toNat a 8 ls false).leaves k.toNat
    exact ⟨_, execWaitwReread_soiled s c k hw hr hst hf he hl hs, hx, hm⟩

end Sys2Proof.Machine
end

section
/-!
PROOFS. O50: records that are promoted, refilled and posted (R27, R263, R264).
-/
namespace Sys2Proof.Machine

@[simp] theorem State.quad_modQuad (s : State) (q : Nat) (f : Quad → Quad) : (s.modQuad q f).quad q = f (s.quad q) :=
  s.quads.read_put_same _ _ _

/-- A record enters the queue of a quad, or its partition's ring where the queue is full. -/
def Quad.entered (a b : Quad) (r : QueueRec) : Prop :=
  if a.queue.length < 64 then b.queue = a.queue ++ [r] ∧ b.rings = a.rings
  else b.queue = a.queue ∧ b.rings.read [] r.part = a.rings.read [] r.part ++ [r]

/-- The record that a post made now enters. -/
def State.postRec (s : State) (part : Nat) (bits : BitVec 512) : QueueRec :=
  ⟨bits, part, s.cycle.toNat, recPrio bits.toNat, s.cycle.toNat⟩

theorem State.post_entered (s : State) (n part : Nat) (bits : BitVec 512) :
    (s.quad n).entered ((s.post n part bits).quad n) (s.postRec part bits) ∧ ((s.post n part bits).quad n).posts = (s.quad n).posts := by
  unfold State.post Quad.entered
  rw [State.quad_modQuad]
  by_cases h : (s.quad n).queue.length < 64
  · simp [h, State.postRec]
  · simp [h, State.postRec]

theorem State.post_frame (s : State) (n part : Nat) (bits : BitVec 512) :
    (s.post n part bits).mem = s.mem ∧ (s.post n part bits).cores = s.cores := ⟨rfl, rfl⟩

/-- A waiting post is made. -/
def State.postWaiting (s : State) (n i part : Nat) (bits : BitVec 512) : State :=
  (s.modQuad n fun q => { q with posts := q.posts.eraseIdx i }).post n part bits

theorem State.postWaiting_quad (s : State) (n i part : Nat) (bits : BitVec 512) :
    ((s.postWaiting n i part bits).quad n).posts = (s.quad n).posts.eraseIdx i
      ∧ (s.quad n).entered ((s.postWaiting n i part bits).quad n) (s.postRec part bits) := by
  obtain ⟨he, hp⟩ := State.post_entered (s.modQuad n fun q => { q with posts := q.posts.eraseIdx i }) n part bits
  rw [State.quad_modQuad] at he hp
  exact ⟨hp, he⟩

theorem execTaskPromotion_queue (s : State) (q : BitVec 7) : ∃ t, exec (.taskPromotion q) s = .next t ∧ t.mem = s.mem
    ∧ (t.quad q.toNat).queue = (s.quad q.toNat).queue.map fun r => r.promote s.cycle.toNat := by
  refine ⟨_, rfl, rfl, ?_⟩
  rw [State.quad_modQuad]

theorem execOverflowRefill_room {s : State} {q : BitVec 7} {part : Nat} {r : QueueRec} (hq : (s.quad q.toNat).queue.length < 64)
    (hr : (s.quad q.toNat).oldestRing = some (part, r)) : ∃ t, exec (.overflowRefill q) s = .next t ∧ t.mem = s.mem
      ∧ (t.quad q.toNat).queue = (s.quad q.toNat).queue ++ [r]
      ∧ (t.quad q.toNat).rings.read [] part = ((s.quad q.toNat).rings.read [] part).drop 1 := by
  refine ⟨_, rfl, rfl, ?_⟩
  rw [State.quad_modQuad, if_neg (Nat.not_le.mpr hq), hr]
  exact ⟨rfl, Tab.read_put_same _ _ _ _⟩

theorem execDeferredPost_room {s : State} {q : BitVec 7} {w : WaitingPost} {i : Nat}
    (h : ((s.quad q.toNat).posts.zipIdx).find? (fun p => p.1.tag.isNone && s.room q.toNat p.1.part) = some (w, i)) :
    exec (.deferredPost q) s = .next (s.postWaiting q.toNat i w.part w.bits) := by
  show execDeferredPost q s = _
  unfold execDeferredPost
  extract_lets n
  rw [show List.find? _ ((s.quad n).posts.zipIdx) = some (w, i) from h]
  rfl

theorem execTkpostComplete_room {s : State} {c : BitVec 9} {id n i core : Nat} {w : WaitingPost} {tag : CmdTag}
    (hf : s.findPost c.toNat id = some (n, i, w)) (ht : w.tag = some (core, tag)) (hr : s.room n w.part = true) :
    exec (.tkpostComplete c id) s = .next ((s.postWaiting n i w.part w.bits).complete core w.part tag) := by
  show execTkpostComplete c id s = _
  obtain ⟨q, part, bits, wtag⟩ := w
  obtain rfl : wtag = some (core, tag) := ht
  unfold execTkpostComplete
  rw [hf]
  simp only [show s.room n part = true from hr]
  rfl

/-! ### The completion event of a command -/

theorem State.modPart_running (s : State) {core part : Nat} (h : (s.cs core).part = some part) (f : CoreState → CoreState) :
    s.modPart core part f = s.modCS core f := by
  unfold State.modPart State.modCS State.modCore
  exact congrArg (s.setCore core) (if_pos h)

theorem State.signal_running (s : State) {core part : Nat} (h : (s.cs core).part = some part) (sem inc : Nat) :
    s.signal core part sem inc = (s.modCS core fun w => w.addSemLater sem inc, true) := by
  unfold State.signal
  exact if_pos h

/-- A command that completes is one fewer in flight. -/
def CoreState.withdrawn (v : CoreState) (tag : CmdTag) : CoreState :=
  (v.endTicket tag.ticket).setCtx tag.ctx { v.ctx tag.ctx with inflight := (v.ctx tag.ctx).inflight.filter fun i => i != tag.id }

theorem CoreState.withdrawn_inflight (v : CoreState) (tag : CmdTag) :
    ((v.withdrawn tag).ctx tag.ctx).inflight = (v.ctx tag.ctx).inflight.filter fun i => i != tag.id := by
  by_cases hk : tag.ctx < 4
  · rw [CoreState.withdrawn, CoreState.ctx_setCtx _ hk]
  · have hout : ∀ u : CoreState, u.ctx tag.ctx = Ctx.reset := fun u => by
      rw [CoreState.ctx, Vector.getElem?_eq_none (by omega), Option.getD_none]
    rw [hout, hout]
    rfl

theorem State.complete_running (s : State) {core part : Nat} (h : (s.cs core).part = some part) (tag : CmdTag) :
    s.complete core part tag = s.modCS core fun v =>
      { v.withdrawn tag with incs := v.incs ++ tag.signal.toList } := by
  unfold State.complete
  rw [State.modPart_running s h]
  cases hs : tag.signal with
  | none => simp only [Option.toList_none, List.append_nil]; rfl
  | some e =>
    obtain ⟨sem, inc⟩ := e
    have h1 : ((s.modCS core fun v => v.withdrawn tag).cs core).part = some part := by
      rw [State.cs_modCS]; exact h
    show (State.signal (s.modCS core fun v => v.withdrawn tag) core part sem inc).1 = _
    rw [State.signal_running _ h1, State.modCS_modCS]
    rfl

theorem State.complete_completed (s : State) {core part : Nat} (h : (s.cs core).part = some part) (tag : CmdTag) :
    s.completed (s.complete core part tag) core tag := by
  rw [State.complete_running s h]
  unfold State.completed
  rw [State.cs_modCS]
  exact ⟨(s.cs core).withdrawn_inflight tag, rfl, rfl⟩

end Sys2Proof.Machine
end

section
/-!
PROOFS. O50: parts that a context receives, and gangs (R25, R265, R269).
-/
namespace Sys2Proof.Machine

/-- The volatile range holds registers alone. -/
theorem Ctx.clearVolatile_frame (c : Ctx) : ∃ x v, c.clearVolatile = { c with x := x, v := v } := by
  have hx : ∀ (l : List Nat) (c : Ctx), ∃ x, l.foldl (fun c n => c.setX (physX c.rrb n) 0) c = { c with x := x } := by
    intro l
    induction l with
    | nil => exact fun c => ⟨c.x, rfl⟩
    | cons n l ih =>
      intro c
      obtain ⟨x, hx⟩ := ih (c.setX (physX c.rrb n) 0)
      refine ⟨x, hx.trans ?_⟩
      unfold Ctx.setX
      split <;> rfl
  have hv : ∀ (l : List Nat) (c : Ctx), ∃ v,
      l.foldl (fun c n => { c with v := c.v.setIfInBounds (physV c.rrb n) (.replicate 64 0) }) c = { c with v := v } := by
    intro l
    induction l with
    | nil => exact fun c => ⟨c.v, rfl⟩
    | cons n l ih =>
      intro c
      obtain ⟨v, hv⟩ := ih { c with v := c.v.setIfInBounds (physV c.rrb n) (.replicate 64 0) }
      exact ⟨v, hv⟩
  obtain ⟨x, hx⟩ := hx (countFrom c.vol.1 c.vol.2.1) c
  obtain ⟨v, hv⟩ := hv (countFrom c.vol.2.2.1 c.vol.2.2.2) { c with x := x }
  refine ⟨x, v, ?_⟩
  unfold Ctx.clearVolatile
  simp only [hx, hv]

/-- A context holds a part of a task, at the first bundle of its kernel. -/
def Ctx.holdsPart (y : Ctx) (id bits entry : Nat) (lo hi : X64) : Prop :=
  y.run = .running ∧ y.task = some id ∧ y.pc = entry ∧ y.rep = 0 ∧ y.tklo = lo ∧ y.tkhi = hi
    ∧ y.tkgrain = BitVec.ofNat 64 (bitsOf bits 223 192) ∧ y.tkarg = BitVec.ofNat 64 (bitsOf bits 191 128)
    ∧ y.tkid = BitVec.ofNat 64 (bitsOf bits 479 448)

section
variable (s : State) (core : Nat) {k : Nat} (hk : k < 4) (id bits : Nat) (lo hi : X64) (entry : Nat)

theorem State.startPart_frame : (s.startPart core k id bits lo hi entry).quads = s.quads
    ∧ (s.startPart core k id bits lo hi entry).tasks = s.tasks := ⟨rfl, rfl⟩

include hk in
theorem State.startPart_holds :
    ∃ y, s.leaves (s.startPart core k id bits lo hi entry) core k y ∧ y.holdsPart id bits entry lo hi := by
  obtain ⟨x, v, h⟩ := Ctx.clearVolatile_frame { (s.ctx core k).kernelMode ((s.cs core).kernelAt entry) with
      vol := kernelVol ((s.cs core).kernelAt entry)
      tklo := lo
      tkhi := hi
      tkgrain := BitVec.ofNat 64 (recGrain bits)
      tkarg := recArg bits
      tkid := BitVec.ofNat 64 (recTkid bits)
      sticky := .nop
      pc := entry
      rep := 0
      run := .running
      task := some id
      wait := .none
      waitCycles := 0 }
  refine ⟨_, s.leaves_modCtx hk _, ?_⟩
  rw [h]
  exact ⟨rfl, rfl, rfl, rfl, rfl, rfl, rfl, rfl, rfl⟩

end

theorem State.leaves.holds {s t : State} {core k : Nat} {y : Ctx} {id bits entry : Nat} {lo hi : X64} (h : s.leaves t core k y)
    (hy : y.holdsPart id bits entry lo hi) : (t.ctx core k).holdsPart id bits entry lo hi := h.1 ▸ hy

/-- Only the four contexts of a core hold a part. -/
theorem State.lt_of_task {s : State} {a b id : Nat} (h : (s.ctx a b).task = some id) : b < 4 := by
  by_contra hb
  rw [State.ctx, CoreState.ctx, Vector.getElem?_eq_none (by omega), Option.getD_none] at h
  cases h

/-! ### A record and an orphaned part (R25, R265) -/

theorem State.takeRecord_eq (s : State) (n i : Nat) (r : QueueRec) :
    ((s.takeRecord n i r).1.quad n).queue = (s.quad n).queue.eraseIdx i ∧ (s.takeRecord n i r).1.mem = s.mem
      ∧ (s.takeRecord n i r).1.cores = s.cores ∧ (s.takeRecord n i r).2 = s.nextTask
      ∧ (s.takeRecord n i r).1.tasks.get s.nextTask = some ⟨r.bits, r.part, 1⟩ := by
  refine ⟨?_, rfl, rfl, rfl, Tab.get_put_same _ _ _⟩
  exact congrArg Quad.queue (State.quad_modQuad s n fun q => { q with queue := q.queue.eraseIdx i })

section
variable {s : State} {c : BitVec 9} {k : BitVec 2} {part : Nat} (hp : (s.cs c.toNat).part = some part)
    (hm : s.mayReceive c.toNat k.toNat = true)
include hp hm

theorem execTaskReceipt_orphan {i id : Nat} {lo hi : X64} {task : Task}
    (h : s.orphan (quadOf c.toNat) part = some (i, id, lo, hi, task)) :
    exec (.taskReceipt c k) s = .next ((s.modQuad (quadOf c.toNat) fun q => { q with orphans := q.orphans.eraseIdx i }).startPart
      c.toNat k.toNat id task.bits.toNat lo hi (recEntry task.bits.toNat)) := by
  show execTaskReceipt c k s = _
  unfold execTaskReceipt
  simp only [hp, hm, h]
  rfl

variable (ho : s.orphan (quadOf c.toNat) part = none)
include ho

theorem execTaskReceipt_record {i : Nat} {r : QueueRec}
    (h : (s.quad (quadOf c.toNat)).best part (k != 3 && s.mayHost c.toNat) = some (i, r)) (hg : recGang r.bits.toNat = false) :
    exec (.taskReceipt c k) s = .next ((s.takeRecord (quadOf c.toNat) i r).1.startPart c.toNat k.toNat
      (s.takeRecord (quadOf c.toNat) i r).2 r.bits.toNat (recLo r.bits.toNat) (recHi r.bits.toNat) (recEntry r.bits.toNat)) := by
  show execTaskReceipt c k s = _
  unfold execTaskReceipt
  simp only [hp, hm, ho, h, hg]
  rfl

theorem execTaskReceipt_gang {i j host : Nat} {r g : QueueRec}
    (h : (s.quad (quadOf c.toNat)).best part (k != 3 && s.mayHost c.toNat) = some (i, r)) (hg : recGang r.bits.toNat = true)
    (hh : s.gangHost (quadOf c.toNat) = some (host, j, g)) :
    exec (.taskReceipt c k) s = .next (if host = c.toNat then s.startGang c.toNat j g else s) := by
  show execTaskReceipt c k s = _
  unfold execTaskReceipt
  simp only [hp, hm, ho, h, hg, hh]
  rfl

theorem execTaskReceipt_split {vic : Nat × Nat} (h : (s.quad (quadOf c.toNat)).best part (k != 3 && s.mayHost c.toNat) = none)
    (hv : s.victim (quadOf c.toNat) part = some vic) : exec (.taskReceipt c k) s = .next (s.split c.toNat k.toNat vic) := by
  show execTaskReceipt c k s = _
  unfold execTaskReceipt
  simp only [hp, hm, ho, h, hv]
  rfl

end

theorem State.mayReceive_task {s : State} {core k : Nat} (h : s.mayReceive core k = true) : (s.ctx core k).task = none := by
  unfold State.mayReceive at h
  simp only [Bool.and_eq_true] at h
  exact Option.isNone_iff_eq_none.mp h.1.1.1.1.2

/-- Where the upper half of a part begins. -/
def Ctx.middle (x : Ctx) : X64 := x.tklo + BitVec.ofNat 64 (x.tkgrain.toNat * ((x.grains + 1) / 2))

/-- The victim of a split keeps the lower half of its grains, and the task has one part more. -/
def State.halve (s : State) (a b id : Nat) (task : Task) : State :=
  { s.modCtx a b fun c => { c with tkhi := (s.ctx a b).middle } with tasks := s.tasks.put id { task with parts := task.parts + 1 } }

theorem State.halve_frame (s : State) (a b id : Nat) (task : Task) : (s.halve a b id task).mem = s.mem
    ∧ (s.halve a b id task).tasks.get id = some { task with parts := task.parts + 1 } := ⟨rfl, Tab.get_put_same _ _ _⟩

theorem State.halve_victim (s : State) {a b : Nat} (hb : b < 4) (id : Nat) (task : Task) :
    ((s.halve a b id task).ctx a b).tkhi = (s.ctx a b).middle :=
  congrArg Ctx.tkhi (s.modCtx_frame a b hb fun c => { c with tkhi := (s.ctx a b).middle }).1

theorem State.split_eq {s : State} {core k a b id : Nat} {task : Task} (hid : (s.ctx a b).task = some id)
    (ht : s.tasks.get id = some task) : s.split core k (a, b) = (s.halve a b id task).startPart core k id task.bits.toNat
      (s.ctx a b).middle (s.ctx a b).tkhi (recEntry task.bits.toNat) := by
  unfold State.split
  extract_lets x
  rw [show x.task = some id from hid]
  simp only [ht]
  rfl

theorem State.split_halves {s : State} {core k a b id : Nat} {task : Task} (hk : k < 4) (hm : (s.ctx core k).task = none)
    (hid : (s.ctx a b).task = some id) (ht : s.tasks.get id = some task) :
    (s.split core k (a, b)).mem = s.mem ∧ ((s.split core k (a, b)).ctx a b).tkhi = (s.ctx a b).middle
      ∧ (s.split core k (a, b)).tasks.get id = some { task with parts := task.parts + 1 }
      ∧ ((s.split core k (a, b)).ctx core k).holdsPart id task.bits.toNat (recEntry task.bits.toNat) (s.ctx a b).middle
        (s.ctx a b).tkhi := by
  have hne : a ≠ core ∨ b ≠ k := by
    by_contra h
    obtain ⟨rfl, rfl⟩ : a = core ∧ b = k := by omega
    rw [hm] at hid
    cases hid
  rw [State.split_eq hid ht]
  obtain ⟨hmem, htask⟩ := s.halve_frame a b id task
  obtain ⟨y, hl, hy⟩ := (s.halve a b id task).startPart_holds core hk id task.bits.toNat (s.ctx a b).middle (s.ctx a b).tkhi
    (recEntry task.bits.toNat)
  have hy := hl.holds hy
  obtain ⟨-, hmem', ho⟩ := hl
  refine ⟨hmem'.trans hmem, ?_, htask, hy⟩
  rw [ho a b hne]
  exact s.halve_victim (State.lt_of_task hid) id task

/-! ### A gang (R269) -/

/-- The parts of a gang's contexts 0, 1 and 2, each at its own entry. -/
def State.gangParts (s : State) (core id bits : Nat) : State :=
  (((s.startPart core 0 id bits (recLo bits) (recHi bits) (recEntry bits)).startPart
    core 1 id bits (recLo bits) (recHi bits) (recEntryC bits)).startPart core 2 id bits (recLo bits) (recHi bits) (recEntryS bits))

theorem State.gangParts_holds (s : State) (core id bits : Nat) :
    ((s.gangParts core id bits).ctx core 0).holdsPart id bits (recEntry bits) (recLo bits) (recHi bits)
      ∧ ((s.gangParts core id bits).ctx core 1).holdsPart id bits (recEntryC bits) (recLo bits) (recHi bits)
      ∧ ((s.gangParts core id bits).ctx core 2).holdsPart id bits (recEntryS bits) (recLo bits) (recHi bits) := by
  unfold State.gangParts
  set s0 := s.startPart core 0 id bits (recLo bits) (recHi bits) (recEntry bits) with h0
  set s1 := s0.startPart core 1 id bits (recLo bits) (recHi bits) (recEntryC bits) with h1
  obtain ⟨y0, l0, p0⟩ := s.startPart_holds core (k := 0) (by decide) id bits (recLo bits) (recHi bits) (recEntry bits)
  obtain ⟨y1, l1, p1⟩ := s0.startPart_holds core (k := 1) (by decide) id bits (recLo bits) (recHi bits) (recEntryC bits)
  obtain ⟨y2, l2, p2⟩ := s1.startPart_holds core (k := 2) (by decide) id bits (recLo bits) (recHi bits) (recEntryS bits)
  have c0 := l0.holds p0
  have c1 := l1.holds p1
  obtain ⟨-, -, o1⟩ := l1
  refine ⟨?_, ?_, l2.holds p2⟩ <;> obtain ⟨-, -, o2⟩ := l2
  · rw [o2 core 0 (.inr (by decide)), o1 core 0 (.inr (by decide))]
    exact c0
  · rw [o2 core 1 (.inr (by decide))]
    exact c1

theorem State.startGang_eq (s : State) (core i : Nat) (r : QueueRec) : s.startGang core i r =
    ((s.takeRecord (quadOf core) i r).1.gangParts core s.nextTask r.bits.toNat).modCS core fun w =>
      { w with gang := some ⟨s.nextTask, [0, 1, 2], false, [], false⟩ } := rfl

theorem State.startGang_frame (s : State) (core i : Nat) (r : QueueRec) : (s.startGang core i r).mem = s.mem
    ∧ ((s.startGang core i r).cs core).gang = some ⟨s.nextTask, [0, 1, 2], false, [], false⟩
    ∧ ((s.startGang core i r).quad (quadOf core)).queue = (s.quad (quadOf core)).queue.eraseIdx i := by
  rw [State.startGang_eq]
  refine ⟨rfl, congrArg CoreState.gang (State.cs_modCS _ _ _), ?_⟩
  exact (s.takeRecord_eq (quadOf core) i r).1

theorem State.startGang_ctx (s : State) (core i : Nat) (r : QueueRec) (j : Nat) : (s.startGang core i r).ctx core j
    = ((s.takeRecord (quadOf core) i r).1.gangParts core s.nextTask r.bits.toNat).ctx core j := by
  rw [State.startGang_eq]
  generalize (s.takeRecord (quadOf core) i r).1.gangParts core s.nextTask r.bits.toNat = t
  exact t.ctx_modCS_of_ctxs core (f := fun w => { w with gang := some ⟨s.nextTask, [0, 1, 2], false, [], false⟩ }) (fun _ => rfl) core j

theorem execGangStart_host {s : State} {q : BitVec 7} {core i : Nat} {r : QueueRec} (h : s.gangHost q.toNat = some (core, i, r)) :
    exec (.gangStart q) s = .next (s.startGang core i r) := by
  show execGangStart q s = _
  unfold execGangStart
  rw [h]

end Sys2Proof.Machine
end

section
/-!
PROOFS. O50: writes of actions that are made, a gang's pipe, LDARM and the records of a monitor area (R268, R273, R321, R322, R326).
-/
namespace Sys2Proof.Machine

/-! ### Writes to memory by an action -/

/-- A counted global write in a quiet state writes its bytes and may mark counters that have fired. -/
theorem State.putGlobal_quiet {s : State} (h : s.quiet) (ls : List Nat) (bs : List Byte) (skip : Option Nat) :
    s.putGlobal ls bs skip = { s.writeLocs ls bs with sites := (countSites ls skip s.sites).1 } := by
  have hc := countSites_quiet ls skip s.sites h.sites
  have ha := h.1
  simp only [State.putGlobal, State.countGlobal, State.writeLocs, hc, List.map_nil, List.nil_append]

/-- Announcements are news alone. -/
theorem State.announceWords_news (ls : List Nat) (packets : List (Nat × Nat)) : ∀ s : State,
    ∃ n, s.announceWords ls packets = { s with news := n } := by
  induction ls with
  | nil => exact fun s => ⟨s.news, rfl⟩
  | cons l ls ih =>
    intro s
    obtain ⟨n, hn⟩ := ih (s.announce (.word l) packets)
    exact ⟨n, hn⟩

theorem State.siteTouch_failedWrites (s : State) (l : Nat) (w : Bool) : (s.siteTouch l w).failedWrites = s.failedWrites := by
  unfold State.siteTouch
  extract_lets line st s1
  split
  · rfl
  · split <;> rfl

theorem State.spoilAll_failedWrites (s : State) (ls : List Nat) : (s.spoilAll ls).failedWrites = s.failedWrites := by
  have hspoil : ∀ l (t : State), (List.foldl (fun t l => t.spoil none none l) t l).failedWrites = t.failedWrites := fun l t =>
    List.foldlRecOn (motive := fun u : State => u.failedWrites = t.failedWrites) l _ rfl fun _ h _ _ => h
  have hsite : ∀ l (t : State), (List.foldl (fun t l => t.siteTouch (64 * l) true) t l).failedWrites = t.failedWrites := fun l t =>
    List.foldlRecOn (motive := fun u : State => u.failedWrites = t.failedWrites) l _ rfl fun u h a _ =>
      (u.siteTouch_failedWrites (64 * a) true).trans h
  exact (hsite _ _).trans (hspoil _ _)

/-- What a write of an action leaves: its bytes, and every context and failed write as they were. -/
theorem State.actionWrite_frame {s : State} (h : s.quiet) (ls : List Nat) (bs : List Byte) (skip : Option Nat)
    (told : List (Nat × Nat)) (n : Nat) :
    let t := (((s.spoilAll ls).putGlobal ls bs skip).announceWords ls told).runActions n
    t.mem = Memory.writeAll s.mem ls bs ∧ t.failedWrites = s.failedWrites ∧ ∀ d j, t.ctx d j = s.ctx d j := by
  have hq := State.spoilAll_quiet h ls
  obtain ⟨-, hm, -⟩ := s.spoilAll_noted ls 0
  have hx : ∀ d j, (s.spoilAll ls).ctx d j = s.ctx d j := fun d j => ((s.spoilAll_noted ls d).leaves j).1
  rw [State.putGlobal_quiet hq]
  obtain ⟨w, hw⟩ := State.announceWords_news ls told { (s.spoilAll ls).writeLocs ls bs with sites := (countSites ls skip (s.spoilAll ls).sites).1 }
  rw [hw, State.runActions_nil (by exact hq.1)]
  refine ⟨?_, s.spoilAll_failedWrites ls, hx⟩
  rw [← hm]
  rfl

theorem execCompletionWriteRetry_translates {s : State} {n part va : Nat} {w : X64} {l : Option (Nat × Nat)} {ls : List Nat} (hq : s.quiet)
    (h : s.failedWrites[n]? = some (part, va, w, l)) (hl : s.partLocs part va 8 true = .ok ls) : ∃ t,
      exec (.completionWriteRetry n) s = .next t ∧ t.mem = Memory.writeAll s.mem ls (leBytes 8 w.toNat)
      ∧ t.failedWrites = s.failedWrites.eraseIdx n ∧ ∀ d j, t.ctx d j = s.ctx d j := by
  have hx : ∃ told, exec (.completionWriteRetry n) s = .next (State.runActions actionFuel (State.announceWords (State.putGlobal
      (State.spoilAll { s with failedWrites := s.failedWrites.eraseIdx n } ls) ls (leBytes 8 w.toNat) (l.map (·.1))) ls told)) := by
    show ∃ told, execCompletionWriteRetry n s = _
    unfold execCompletionWriteRetry
    simp only [h, hl]
    exact ⟨_, rfl⟩
  obtain ⟨told, hx⟩ := hx
  exact ⟨_, hx, State.actionWrite_frame (s := { s with failedWrites := s.failedWrites.eraseIdx n }) hq _ _ _ _ _⟩

theorem State.areaStore_mem {s : State} (hq : s.quiet) {part va : Nat} {ls : List Nat} (x : X64)
    (hl : s.partLocs part va 8 false = .ok ls) : (s.areaStore part va x).mem = Memory.writeAll s.mem ls (leBytes 8 x.toNat) := by
  obtain ⟨-, hm, -⟩ := s.spoilAll_noted ls 0
  unfold State.areaStore
  rw [hl]
  dsimp only
  rw [State.gstore_mem (State.spoilAll_quiet hq ls), hm]

/-! ### A held WRITE into a segment (R321) -/

/-- Bytes written into a segment are read back, from a bank or from its own data. -/
theorem CoreState.segRead_segWrite {v : CoreState} {id : Nat} {g : Seg} (h : v.seg id = some g) (off : Nat) (bs : List Byte) :
    (v.segWrite id off bs).segRead id off bs.length = bs := by
  obtain ⟨f, hf⟩ := CoreState.segWrite_some h off bs
  have hself : (v.segWrite id off bs).seg id = some (g.put off bs) := by rw [hf]; exact Tab.get_put_same _ _ _
  unfold CoreState.segRead
  rw [hself, hf]
  unfold CoreState.segData Seg.put
  by_cases h0 : g.name = 0xFE
  · simp only [h0, if_true]
    exact readBytes_writeBytes bs _ _
  by_cases h1 : g.name = 0xFF
  · simp only [h1, if_true]
    exact readBytes_writeBytes bs _ _
  · simp only [h0, h1, if_false, or_self]
    exact readBytes_writeBytes bs _ _

theorem CoreState.segWrite_heldActions (v : CoreState) (id off : Nat) (bs : List Byte) :
    (v.segWrite id off bs).heldActions = v.heldActions := by
  change (v.segPut id off bs).heldActions = _
  unfold CoreState.segPut
  split <;> rfl

/-- A counted segment write in a quiet state. -/
theorem State.putSeg_quiet {s : State} (h : s.quiet) (core seg off : Nat) (bs : List Byte) (skip : Option Nat) : ∃ l : Tab Landing,
    s.putSeg core seg off bs skip = s.modCS core fun v => { v.segWrite seg off bs with landing := l } := by
  have hl : ((s.modCS core fun v => v.segWrite seg off bs).cs core).landing = (s.cs core).landing := by
    rw [State.cs_modCS, CoreState.segWrite_landing]
  have hc := countTable_quiet (fun i l => if skip = some (0x8000 + i) ∨ l.seg ≠ seg then 0 else l.overlap off bs.length)
    ((s.modCS core fun v => v.segWrite seg off bs).cs core).landing (by rw [hl]; exact h.core core)
  refine ⟨(countTable (fun i l => if skip = some (0x8000 + i) ∨ l.seg ≠ seg then 0 else l.overlap off bs.length)
    ((s.modCS core fun v => v.segWrite seg off bs).cs core).landing).1, ?_⟩
  unfold State.putSeg State.countSeg
  dsimp only
  rw [hc, State.modCS_modCS]
  rfl

/-- The held WRITE at a place leaves the list, and its ticket ends. -/
def CoreState.unheld (v : CoreState) (tk : Option Nat) (i : Nat) : CoreState :=
  { v.endTicket tk with heldActions := v.heldActions.eraseIdx i }

/-- The WRITE of a landing counter into a resident segment, in a quiet state. -/
theorem State.landingSegWrite_resident {s : State} (h : s.quiet) (n core seg : Nat) {off : Int} (w : X64) {g : Seg}
    (hg : (s.cs core).seg seg = some g) (hr : g.state = .resident) (h0 : 0 ≤ off) (h8 : off + 8 ≤ ((256 * g.len : Nat) : Int)) :
    ∃ l : Tab Landing, s.landingSegWrite n core seg off w
      = s.modCS core fun v => { v.segWrite seg off.toNat (leBytes 8 w.toNat) with landing := l } := by
  obtain ⟨l, hl⟩ := State.putSeg_quiet h core seg off.toNat (leBytes 8 w.toNat) (some n)
  refine ⟨l, ?_⟩
  unfold State.landingSegWrite
  rw [hg]
  dsimp only
  rw [if_neg (by unfold Seg.bytes; omega), if_pos hr]
  exact hl

theorem heldFires_eraseIdx {n : Nat} {l : List Action} (h : heldFires n l = []) (i : Nat) : heldFires n (l.eraseIdx i) = [] := by
  unfold heldFires at h ⊢
  exact List.sublist_nil.mp (h ▸ (List.eraseIdx_sublist l i).filter _)

theorem execLandingWriteDeferred_ready {s : State} {c : BitVec 9} {a n seg i : Nat} {off : Int} {w : X64} {tk : Option Nat} {g : Seg}
    (hq : s.quiet)
    (hf : ((s.cs c.toNat).heldActions.zipIdx).find? (fun e => (s.cs c.toNat).writeReady e.1) = some (.segWrite a n seg off w tk, i))
    (hg : (s.cs c.toNat).seg seg = some g) (hr : g.state = .resident) (h0 : 0 ≤ off) (h8 : off + 8 ≤ ((256 * g.len : Nat) : Int))
    (hn : heldFires n (s.cs c.toNat).heldActions = []) : ∃ t, exec (.landingWriteDeferred c) s = .next t
      ∧ (t.cs c.toNat).segRead seg off.toNat 8 = leBytes 8 w.toNat
      ∧ (t.cs c.toNat).heldActions = (s.cs c.toNat).heldActions.eraseIdx i ∧ t.mem = s.mem := by
  obtain ⟨l, hl⟩ := State.landingSegWrite_resident (s := s.modCS c.toNat fun v => v.unheld tk i)
    (State.modCS_quiet hq _ _ (hq.core c.toNat)) n c.toNat seg w (g := g) (by rw [State.cs_modCS]; exact hg) hr h0 h8
  rw [State.modCS_modCS] at hl
  set wrote : State := s.modCS c.toNat fun v => { (v.unheld tk i).segWrite seg off.toNat (leBytes 8 w.toNat) with landing := l }
  have hc : wrote.cs c.toNat = { ((s.cs c.toNat).unheld tk i).segWrite seg off.toNat (leBytes 8 w.toNat) with landing := l } :=
    State.cs_modCS _ _ _
  have hread : (wrote.cs c.toNat).segRead seg off.toNat 8 = leBytes 8 w.toNat := by
    have hr := CoreState.segRead_segWrite (v := (s.cs c.toNat).unheld tk i) hg off.toNat (leBytes 8 w.toNat)
    rw [leBytes_length] at hr
    rw [hc]
    exact hr
  have hheld : (wrote.cs c.toNat).heldActions = (s.cs c.toNat).heldActions.eraseIdx i := by
    rw [hc]
    exact ((s.cs c.toNat).unheld tk i).segWrite_heldActions _ _ _
  have hfires : heldFires n (wrote.cs c.toNat).heldActions = [] := by
    rw [hheld]
    exact heldFires_eraseIdx hn i
  have hx : exec (.landingWriteDeferred c) s = .next (if (wrote.cs c.toNat).landingWaits n then wrote else
      wrote.modCS c.toNat fun w => { w with heldActions := w.heldActions.filter fun a => !([] : List Action).contains a }) := by
    show execLandingWriteDeferred c s = _
    unfold execLandingWriteDeferred
    extract_lets core v
    rw [show List.find? _ _ = some (.segWrite a n seg off w tk, i) from hf]
    change (let t := ((s.modCS c.toNat fun v => v.unheld tk i).landingSegWrite n c.toNat seg off w).runActions actionFuel
      if (t.cs c.toNat).landingWaits n then Host.Outcome.next t
      else .next ((heldFires n (t.cs c.toNat).heldActions).foldl (fun t a => (t.doAction a).runActions actionFuel)
        (t.modCS c.toNat fun w => { w with
          heldActions := w.heldActions.filter fun a => !(heldFires n (t.cs c.toNat).heldActions).contains a }))) = _
    rw [hl, State.runActions_nil (n := actionFuel) (s := wrote) (by exact hq.1)]
    dsimp only
    rw [hfires]
    split <;> rfl
  refine ⟨_, hx, ?_⟩
  by_cases hw : (wrote.cs c.toNat).landingWaits n = true
  · rw [if_pos hw]
    exact ⟨hread, hheld, rfl⟩
  · rw [if_neg hw, State.cs_modCS]
    exact ⟨hread, (List.filter_eq_self.mpr fun _ _ => rfl).trans hheld, rfl⟩

/-! ### A gang's pipe, LDARM and a monitor area -/

section
variable {s : State} {c : BitVec 9} {n : Nat} {p : Pipe} (hb : (s.cs c.toNat).gangBlocked = true) (hp : (s.cs c.toNat).fullPipe = some (n, p))
include hb hp

theorem execPipeEnlarge_deadlock (h : (s.cs c.toNat).poolFree = 0) : exec (.pipeEnlarge c) s = .next (s.takeTrap c.toNat 0 0x0F 0
    (match ((s.cs c.toNat).ctx 0).wait with | .pipePut _ => 3 | _ => 7) n ((s.cs c.toNat).ctx 0).pc ((s.cs c.toNat).ctx 0).rep) := by
  show execPipeEnlarge c s = _
  unfold execPipeEnlarge
  simp only [hb, hp, h]
  rfl

theorem execPipeEnlarge_gain (h : 0 < (s.cs c.toNat).poolFree) : exec (.pipeEnlarge c) s = .next (s.modCS c.toNat fun w => { w with
    pipes := w.pipes.setIfInBounds n { p with
      cap := p.cap + Nat.min p.cap (s.cs c.toNat).poolFree, extra := p.extra + Nat.min p.cap (s.cs c.toNat).poolFree }
    poolFree := w.poolFree - Nat.min p.cap (s.cs c.toNat).poolFree }) := by
  show execPipeEnlarge c s = _
  unfold execPipeEnlarge
  simp only [hb, hp, Nat.pos_iff_ne_zero.mp h]
  rfl

end

theorem execLdarmArmed_waits {s : State} {c : BitVec 9} {k : BitVec 2} (h : (s.ctx c.toNat k.toNat).wait = .arm) :
    exec (.ldarmArmed c k) s = .next (s.modCtx c.toNat k.toNat fun y => { y with armed := true }) := by
  show execLdarmArmed c k s = _
  unfold execLdarmArmed
  rw [if_pos h]

/-- A record's words are stored one by one behind the odd sequence number. -/
theorem State.writeRecord_eq (s : State) (part va : Nat) (seq : X64) (fields : List X64) : s.writeRecord part va seq fields
    = ((fields ++ List.replicate (31 - fields.length) 0).zipIdx.foldl (fun (t : State) (x : X64 × Nat) => t.areaStore part (va + 8 * (1 + x.2)) x.1)
      (s.areaStore part (va + 8 * 0) (seq + 1))).areaStore part (va + 8 * 0) (seq + 2) := by
  have hplace : ∀ (t : State) (x : X64 × Nat), t.areaStore part (va + 8 + 8 * x.2) x.1 = t.areaStore part (va + 8 * (1 + x.2)) x.1 :=
    fun t x => congrArg (fun a => t.areaStore part a x.1) (by omega)
  unfold State.writeRecord
  simp only [hplace]
  rfl

/-- An area of one core's record is published as that record alone. -/
theorem execMonitorPublish_one {s : State} {p : BitVec 8} {e : Partition} {va core : Nat} (he : s.partitions.get p.toNat = some e)
    (hm : e.monitors = some (va, false, false)) (hc : e.cores = [core]) : exec (.monitorPublish p) s =
      .next (({ s with partitions := s.partitions.put p.toNat { e with monSeq := e.monSeq + 2 }, fresh := s.fresh + 72 } : State).writeRecord
        p.toNat va e.monSeq (((s.partState core p.toNat).getD .reset).record s.cycle)) := by
  show Host.Outcome.next (s.publish p.toNat) = _
  have hrecords : s.records p.toNat e false false = [((s.partState core p.toNat).getD .reset).record s.cycle] := by
    unfold State.records
    rw [hc]
    rfl
  unfold State.publish
  rw [he]
  dsimp only
  rw [hm]
  dsimp only
  rw [hrecords]
  simp only [List.zipIdx_cons, List.zipIdx_nil, List.foldl_cons, List.foldl_nil, Nat.mul_zero, Nat.add_zero]

end Sys2Proof.Machine
end

section
/-!
PROOFS. O50: a launch vector (R306, R371, R375).
-/
namespace Sys2Proof.Machine

/-! ### The partitions of a core -/

/-- The same partitions run on a core and stand in its shadow storage. -/
def State.sameParts (s t : State) (core : Nat) : Prop :=
  (t.core core).cur.part = (s.core core).cur.part
    ∧ (t.core core).shadow.map (fun v => v.part) = (s.core core).shadow.map (fun v => v.part)

theorem State.sameParts.trans {s t u : State} {core : Nat} (h : s.sameParts t core) (g : t.sameParts u core) : s.sameParts u core :=
  ⟨g.1.trans h.1, g.2.trans h.2⟩

theorem State.sameParts.of_cores {s t : State} (core : Nat) (h : t.cores = s.cores) : s.sameParts t core := by
  unfold State.sameParts State.core
  rw [h]
  exact ⟨rfl, rfl⟩

theorem State.partState_part {s : State} {core part : Nat} {v : CoreState} (h : s.partState core part = some v) : v.part = some part := by
  unfold State.partState at h
  dsimp only at h
  split at h
  next hp => exact Option.some.inj h ▸ hp
  next =>
    split at h
    next w _ =>
      split at h
      next hp => exact Option.some.inj h ▸ hp
      next => cases h
    next => cases h

/-- A partition has a state on a core where its number runs or stands there. -/
theorem State.partState_isSome (s : State) (core part : Nat) : (s.partState core part).isSome
    = decide ((s.core core).cur.part = some part ∨ (s.core core).shadow.map (fun v => v.part) = some (some part)) := by
  unfold State.partState
  dsimp only
  by_cases hc : (s.core core).cur.part = some part
  · simp [hc]
  cases (s.core core).shadow with
  | none => simp [hc]
  | some w => by_cases hw : w.part = some part <;> simp [hc, hw]

theorem State.sameParts.isSome {s t : State} {core : Nat} (h : s.sameParts t core) (part : Nat) :
    (t.partState core part).isSome = (s.partState core part).isSome := by
  rw [State.partState_isSome, State.partState_isSome, h.1, h.2]

/-- A change of a partition's state on a core. -/
theorem State.partState_modPart {s : State} {core part : Nat} {v : CoreState} {f : CoreState → CoreState}
    (h : s.partState core part = some v) (hf : (f v).part = some part) : (s.modPart core part f).partState core part = some (f v) := by
  have hp := State.partState_part h
  unfold State.partState at h
  unfold State.partState State.modPart State.modCore
  rw [State.core_setCore]
  dsimp only at h ⊢
  split at h
  next hc =>
    obtain rfl := Option.some.inj h
    simp only [hc, hf, if_true]
  next hc =>
    split at h
    next w hw =>
      split at h
      next hwp =>
        obtain rfl := Option.some.inj h
        simp only [hc, hw, hwp, hf, if_false, if_true, Option.map_some]
      next => cases h
    next => cases h

theorem State.modPart_sameParts (s : State) (core part : Nat) {f : CoreState → CoreState} (hf : ∀ v, (f v).part = v.part) :
    s.sameParts (s.modPart core part f) core := by
  unfold State.sameParts State.modPart State.modCore
  rw [State.core_setCore]
  dsimp only
  split
  · exact ⟨hf _, rfl⟩
  · refine ⟨rfl, ?_⟩
    cases (s.core core).shadow with
    | none => rfl
    | some w =>
      simp only [Option.map_some]
      split
      · rw [hf]
      · rfl

/-- Notes of caches leave the partitions of a core. -/
theorem State.spoil_sameParts (s : State) (c d : Option Nat) (l core : Nat) : s.sameParts (s.spoil c d l) core := by
  unfold State.sameParts State.core State.spoil Tab.read
  dsimp only
  generalize s.cores = t
  induction t with
  | nil => exact ⟨rfl, rfl⟩
  | cons e r ih =>
    simp only [List.map_cons, Tab.get]
    by_cases he : e.1 = core
    · simp only [he, if_true, Option.getD_some]
      split <;> exact ⟨rfl, rfl⟩
    · simp only [he, if_false]
      exact ih

theorem State.siteTouch_cores (s : State) (l : Nat) (w : Bool) : (s.siteTouch l w).cores = s.cores := by
  unfold State.siteTouch
  extract_lets line st s1
  split
  · rfl
  · split <;> rfl

theorem State.dieTouch_cores (s : State) (d l : Nat) (w : Bool) : (s.dieTouch d l w).cores = s.cores := by
  unfold State.dieTouch
  extract_lets line s1
  split
  · rfl
  · exact State.siteTouch_cores _ _ _

theorem State.engineTouch_sameParts (core : Nat) (w : Bool) (ls : List Nat) : ∀ (s : State) (last : Option Nat),
    s.sameParts (s.engineTouch core w last ls) core := by
  induction ls with
  | nil => exact fun s _ => .of_cores core rfl
  | cons l r ih =>
    intro s last
    refine State.sameParts.trans ?_ (ih _ _)
    have hd : s.sameParts (if last = some (l / 64) then s else s.dieTouch (dieOf core) l w) core := by
      split
      · exact .of_cores core rfl
      · exact .of_cores core (s.dieTouch_cores _ _ _)
    split
    · exact hd.trans (State.spoil_sameParts _ _ _ _ _)
    · exact hd

/-! ### Room for a launch (R280, R283) -/

theorem CoreState.modSeg_part (v : CoreState) (id : Nat) (f : Seg → Seg) : (v.modSeg id f).part = v.part := by
  unfold CoreState.modSeg
  split <;> rfl

theorem State.pushOut_sameParts {s t : State} {core part id : Nat} (h : s.pushOut core part id = some t) : s.sameParts t core := by
  unfold State.pushOut at h
  split at h
  next => exact Option.some.inj h ▸ .of_cores core rfl
  next g _ =>
    have hgone : ∀ u : State, u.sameParts (u.modPart core part fun v =>
        { (v.modSeg id (fun g => { g with state := .absent, dirty := false, data := [] })).mendAll id with
          mon := { v.mon with pushouts := v.mon.pushouts + 1 } }) core := fun u =>
      u.modPart_sameParts core part fun v => v.modSeg_part id _
    dsimp only at h
    split at h
    next => exact Option.some.inj h ▸ hgone s
    next =>
      split at h
      next => cases h
      next ls _ =>
        refine Option.some.inj h ▸ State.sameParts.trans ?_ (hgone _)
        exact (State.sameParts.of_cores core rfl).trans (State.engineTouch_sameParts core true ls _ none)

theorem State.roomFor_sameParts (core part need : Nat) (n : Nat) : ∀ (kept : List Nat) (s : State),
    s.sameParts (State.roomFor core part need n kept s) core := by
  induction n with
  | zero => exact fun _ s => .of_cores core rfl
  | succ n ih =>
    intro kept s
    unfold State.roomFor
    split
    next => exact .of_cores core rfl
    next v _ =>
      split
      next => exact .of_cores core rfl
      next =>
        split
        next => exact .of_cores core rfl
        next id _ =>
          split
          next t ht => exact (State.pushOut_sameParts ht).trans (ih _ _)
          next => exact ih _ _

/-- Where the quota holds what is needed, nothing is pushed out. -/
theorem State.roomFor_fits {s : State} {core part need : Nat} {v : CoreState} (h : s.partState core part = some v)
    (hq : v.unpinned + need ≤ v.quota) (n : Nat) (kept : List Nat) : State.roomFor core part need n kept s = s := by
  cases n with
  | zero => rfl
  | succ n =>
    unfold State.roomFor
    rw [h]
    exact if_pos hq

/-! ### What a launch leaves in the contexts (R58, R306) -/

theorem CoreState.compactAll_part (store : Nat) (pinnedToo : Bool) (n : Nat) : ∀ v : CoreState,
    (CoreState.compactAll store pinnedToo n v).part = v.part := by
  induction n with
  | zero => exact fun _ => rfl
  | succ n ih =>
    intro v
    unfold CoreState.compactAll
    split
    · exact (ih _).trans (v.modSeg_part _ _)
    · rfl

theorem CoreState.placeRun_part (v : CoreState) (store len : Nat) : (v.placeRun store len).1.part = v.part := by
  unfold CoreState.placeRun
  dsimp only
  cases hf : List.findSome? (fun w : CoreState => (w.lowestRun w.nextSeg len store).map fun b => (w, b))
      [v, CoreState.compactAll store false v.segs.length v, CoreState.compactAll store true v.segs.length v] with
  | none => rfl
  | some p =>
    obtain ⟨w, hw, hp⟩ := List.exists_of_findSome?_eq_some hf
    obtain ⟨b, -, rfl⟩ := Option.map_eq_some_iff.mp hp
    simp only [List.mem_cons, List.not_mem_nil, or_false] at hw
    obtain rfl | rfl | rfl := hw
    · rfl
    · exact CoreState.compactAll_part _ _ _ v
    · exact CoreState.compactAll_part _ _ _ v

theorem CoreState.defineSeg_part (v : CoreState) (store : Nat) (g : Seg) : (v.defineSeg store g).part = v.part :=
  v.placeRun_part store g.len

theorem CoreState.imageSeg_part (v : CoreState) (store : Nat) (e : Nat × Nat × Role × Nat × Nat) (copy : Copy) :
    (v.imageSeg store e copy).part = v.part := by
  obtain ⟨name, len, role, pipe, backing⟩ := e
  unfold CoreState.imageSeg
  dsimp only
  split
  · rfl
  · split
    · exact v.defineSeg_part _ _
    · exact v.defineSeg_part _ _

theorem CoreState.launchSegments_part (v : CoreState) (store stack pool : Nat) (copy : Nat → Nat → Copy) :
    (v.launchSegments store stack pool copy).part = v.part := by
  unfold CoreState.launchSegments
  extract_lets v0 emptied banks top stacked pooled
  have hbanks : banks.part = v.part :=
    List.foldlRecOn (motive := fun u : CoreState => u.part = v.part) [0xFE, 0xFF] _ (b := emptied) rfl fun u hu n _ => by
      split
      · exact hu
      · exact hu
  have hpooled : pooled.part = v.part := (stacked.defineSeg_part _ _).trans ((banks.defineSeg_part _ _).trans hbanks)
  exact List.foldlRecOn (motive := fun u : CoreState => u.part = v.part) pooled.launchSegs _ hpooled fun u hu _ _ =>
    (u.imageSeg_part _ _ _).trans hu

/-- A change of each of the four contexts in turn. -/
theorem CoreState.ctx_setAll (v : CoreState) (f : Nat → Ctx → Ctx) {n : Nat} (hn : n < 4) :
    ((List.range 4).foldl (fun v k => v.setCtx k (f k (v.ctx k))) v).ctx n = f n (v.ctx n) := by
  obtain rfl | rfl | rfl | rfl : n = 0 ∨ n = 1 ∨ n = 2 ∨ n = 3 := by omega
  all_goals simp [List.range_succ, CoreState.ctx_setCtx, CoreState.ctx_setCtx_other]

theorem CoreState.setAll_rest (f : Nat → Ctx → Ctx) (l : List Nat) : ∀ v : CoreState, ∃ x,
    l.foldl (fun v k => v.setCtx k (f k (v.ctx k))) v = { v with ctxs := x } := by
  induction l with
  | nil => exact fun v => ⟨v.ctxs, rfl⟩
  | cons k l ih =>
    intro v
    obtain ⟨x, hx⟩ := ih (v.setCtx k (f k (v.ctx k)))
    exact ⟨x, hx⟩

/-- A context that the vector names starts at its entry with X1 to X4, another stands idle. -/
def Ctx.startsAs (y : Ctx) (bits n : Nat) : Prop :=
  if bitOf bits (20 + n) then y.run = .running ∧ y.pc = bitsOf bits 16 0 ∧ y.rep = 0 ∧ y.participant = true
    ∧ ∀ j < 4, y.getX (j + 1) = BitVec.ofNat 64 (bits / 2 ^ (64 + 64 * j))
  else y.run = .idle ∧ y.participant = false

theorem Ctx.launched_starts (c : Ctx) (kern : Option Nat) (bits n : Nat) :
    (if bitOf bits (20 + n) then
        c.launched kern (bitsOf bits 16 0) ((List.range 4).map fun n => BitVec.ofNat 64 (bits / 2 ^ (64 + 64 * n)))
      else c.idled).startsAs bits n := by
  unfold Ctx.startsAs
  split
  · refine ⟨rfl, rfl, rfl, rfl, fun j hj => ?_⟩
    obtain rfl | rfl | rfl | rfl : j = 0 ∨ j = 1 ∨ j = 2 ∨ j = 3 := by omega
    all_goals rfl
  · exact ⟨rfl, rfl⟩

/-- A partition's state at step 1 of a launch: its segments stand, its semaphores are 0 and bank 0 is active (R96, R313). -/
def CoreState.launchReady (v : CoreState) (store bits : Nat) (copy : Nat → Nat → Copy) : CoreState :=
  { v.launchSegments store (stackLen (v.kernelAt (bitsOf bits 16 0)))
      (if bitsOf bits 47 32 = 0 then v.poolLen else bitsOf bits 47 32) copy with sems := [], incs := [], active := false }

/-- What a launch makes of a context. -/
def Ctx.atLaunch (kern : Option Nat) (bits k : Nat) (y : Ctx) : Ctx :=
  if bitOf bits (20 + k) then
    y.launched kern (bitsOf bits 16 0) ((List.range 4).map fun n => BitVec.ofNat 64 (bits / 2 ^ (64 + 64 * n)))
  else y.idled

theorem CoreState.launch_eq (v : CoreState) (store bits : Nat) (copy : Nat → Nat → Copy) : v.launch store bits copy
    = (List.range 4).foldl (fun w k => w.setCtx k ((w.ctx k).atLaunch (v.kernelAt (bitsOf bits 16 0)) bits k))
      (v.launchReady store bits copy) := rfl

theorem CoreState.launchReady_rest (v : CoreState) (store bits : Nat) (copy : Nat → Nat → Copy) :
    (v.launchReady store bits copy).part = v.part ∧ (v.launchReady store bits copy).sems = []
      ∧ (v.launchReady store bits copy).active = false := by
  have hp := v.launchSegments_part store (stackLen (v.kernelAt (bitsOf bits 16 0)))
    (if bitsOf bits 47 32 = 0 then v.poolLen else bitsOf bits 47 32) copy
  unfold CoreState.launchReady
  generalize v.launchSegments store (stackLen (v.kernelAt (bitsOf bits 16 0)))
    (if bitsOf bits 47 32 = 0 then v.poolLen else bitsOf bits 47 32) copy = u at hp ⊢
  exact ⟨hp, rfl, rfl⟩

theorem CoreState.launch_starts (v : CoreState) (store bits : Nat) (copy : Nat → Nat → Copy) :
    (v.launch store bits copy).part = v.part ∧ (v.launch store bits copy).sems = [] ∧ (v.launch store bits copy).active = false
      ∧ ∀ n < 4, ((v.launch store bits copy).ctx n).startsAs bits n := by
  rw [CoreState.launch_eq]
  obtain ⟨hp, hs, ha⟩ := v.launchReady_rest store bits copy
  generalize v.launchReady store bits copy = u at hp hs ha ⊢
  obtain ⟨x, hx⟩ := CoreState.setAll_rest (fun k y => y.atLaunch (v.kernelAt (bitsOf bits 16 0)) bits k) (List.range 4) u
  refine ⟨?_, ?_, ?_, fun n hn => ?_⟩
  · rw [hx]
    exact hp
  · rw [hx]
    exact hs
  · rw [hx]
    exact ha
  · rw [CoreState.ctx_setAll u (fun k y => y.atLaunch (v.kernelAt (bitsOf bits 16 0)) bits k) hn]
    exact Ctx.launched_starts _ _ _ _

/-! ### The commit of a launch vector (R371) -/

/-- The state with room made for a launch. -/
def State.launchRoom (s : State) (core part bits : Nat) (v : CoreState) : State :=
  State.roomFor core part
    (v.launchNeed (stackLen (v.kernelAt (bitsOf bits 16 0))) (if bitsOf bits 47 32 = 0 then v.poolLen else bitsOf bits 47 32))
    (2 * v.segs.length)
    ((v.segs.filter fun e => v.launchNames.contains e.2.name).map (fun e => e.1) ++ (v.oldestParked.map Ticket.members).getD [])
    (s.modPart core part fun v => (v.undefine 0xF8).undefine 0xF9)

theorem State.launchRoom_partState {s : State} {core part : Nat} {v : CoreState} (h : s.partState core part = some v) (bits : Nat) :
    ∃ w, (s.launchRoom core part bits v).partState core part = some w := by
  have hs : s.sameParts (s.launchRoom core part bits v) core :=
    (s.modPart_sameParts core part (f := fun v => (v.undefine 0xF8).undefine 0xF9) fun _ => rfl).trans
      (State.roomFor_sameParts _ _ _ _ _ _)
  exact Option.isSome_iff_exists.mp (by rw [hs.isSome, h]; rfl)

theorem State.launchRoom_mem {s : State} {core part : Nat} {v : CoreState} (h : s.partState core part = some v) {bits : Nat}
    (hq : ((v.undefine 0xF8).undefine 0xF9).unpinned + v.launchNeed (stackLen (v.kernelAt (bitsOf bits 16 0)))
      (if bitsOf bits 47 32 = 0 then v.poolLen else bitsOf bits 47 32) ≤ v.quota) : (s.launchRoom core part bits v).mem = s.mem := by
  have hp : v.part = some part := State.partState_part h
  have hu := State.partState_modPart (f := fun v => (v.undefine 0xF8).undefine 0xF9) h hp
  unfold State.launchRoom
  rw [State.roomFor_fits hu hq]
  rfl

theorem State.acceptLaunch_eq {s : State} {core part : Nat} {v : CoreState} (h : s.partState core part = some v) (bits : Nat) :
    ∃ store p, s.acceptLaunch core part bits = { (s.launchRoom core part bits v).modPart core part fun w =>
      w.launch store bits ((s.launchRoom core part bits v).copyAt part) with
        fresh := (s.launchRoom core part bits v).fresh + 2 ^ 33, partitions := p } := by
  unfold State.acceptLaunch
  rw [h]
  exact ⟨_, _, rfl⟩

theorem State.acceptLaunch_starts {s : State} {core part : Nat} {v : CoreState} (h : s.partState core part = some v) (bits : Nat) :
    ∃ w, (s.acceptLaunch core part bits).partState core part = some w
      ∧ (((v.undefine 0xF8).undefine 0xF9).unpinned + v.launchNeed (stackLen (v.kernelAt (bitsOf bits 16 0)))
        (if bitsOf bits 47 32 = 0 then v.poolLen else bitsOf bits 47 32) ≤ v.quota → (s.acceptLaunch core part bits).mem = s.mem)
      ∧ w.sems = [] ∧ w.active = false ∧ ∀ n < 4, (w.ctx n).startsAs bits n := by
  obtain ⟨store, p, he⟩ := State.acceptLaunch_eq h bits
  obtain ⟨u, hu⟩ := State.launchRoom_partState h bits
  obtain ⟨hp, hsems, hact, hctx⟩ := u.launch_starts store bits ((s.launchRoom core part bits v).copyAt part)
  refine ⟨u.launch store bits ((s.launchRoom core part bits v).copyAt part), ?_, fun hq => ?_, hsems, hact, hctx⟩
  · rw [he]
    exact State.partState_modPart (f := fun w => w.launch store bits ((s.launchRoom core part bits v).copyAt part)) hu
      (hp.trans (State.partState_part hu))
  · rw [he]
    exact State.launchRoom_mem h hq

/-- The vector that a commit makes, with its last word written. -/
def State.launchBits (s : State) (core : Nat) (word : X64) : Nat :=
  leNat (readBytes (fun a => (s.host.window.writeBytes (0x10000 + 64 * core) (leBytes 8 word.toNat)).read 0 a) (0x10000 + 64 * core) 64)

section
variable {s : State} (hr : s.host.ready = true) (c : BitVec 9) (word : X64)
include hr

theorem execLaunchCommit_eq : exec (.launchCommit c word) s = .next (
    match launchRefusal (s.partState c.toNat (bitsOf (s.launchBits c.toNat word) 31 24)) (s.cs c.toNat).busyMask
      (s.launchBits c.toNat word) with
    | some reason => (s.putLaunchWord c.toNat word).notice 2 (bitsOf (s.launchBits c.toNat word) 31 24) c.toNat
        [(8, leBytes 1 reason), (9, leBytes 1 (s.cs c.toNat).busyMask)]
    | none => (s.putLaunchWord c.toNat word).acceptLaunch c.toNat (bitsOf (s.launchBits c.toNat word) 31 24) (s.launchBits c.toNat word)) := by
  show execLaunchCommit c word s = _
  unfold execLaunchCommit
  rw [if_pos hr]
  rfl

/-- A vector that is refused is answered by a notice alone. -/
theorem execLaunchCommit_refused {reason : Nat} (h : launchRefusal (s.partState c.toNat (bitsOf (s.launchBits c.toNat word) 31 24))
    (s.cs c.toNat).busyMask (s.launchBits c.toNat word) = some reason) :
    ∃ t, exec (.launchCommit c word) s = .next t ∧ t.mem = s.mem ∧ t.cores = s.cores := by
  rw [execLaunchCommit_eq hr, h]
  exact ⟨_, rfl, State.notice_mem _ _ _ _ _, State.notice_cores _ _ _ _ _⟩

theorem execLaunchCommit_accepted (h : launchRefusal (s.partState c.toNat (bitsOf (s.launchBits c.toNat word) 31 24))
    (s.cs c.toNat).busyMask (s.launchBits c.toNat word) = none) : exec (.launchCommit c word) s =
      .next ((s.putLaunchWord c.toNat word).acceptLaunch c.toNat (bitsOf (s.launchBits c.toNat word) 31 24) (s.launchBits c.toNat word)) := by
  rw [execLaunchCommit_eq hr, h]

end

end Sys2Proof.Machine
end

section
/-!
PROOFS. O50: the statement itself (R25, R27, R263 to R269, R273, R306, R321, R322, R326).
-/
namespace Sys2Proof.Machine

section
variable {s : State} {c : BitVec 9} {k : BitVec 2} {part : Nat} (hp : (s.cs c.toNat).part = some part)
    (hm : s.mayReceive c.toNat k.toNat = true)
include hp hm

theorem taskReceipt_orphan {i id : Nat} {lo hi : X64} {task : Task}
    (h : s.orphan (quadOf c.toNat) part = some (i, id, lo, hi, task)) : ∃ t, exec (.taskReceipt c k) s = .next t ∧ t.mem = s.mem
      ∧ (t.quad (quadOf c.toNat)).orphans = (s.quad (quadOf c.toNat)).orphans.eraseIdx i
      ∧ (t.ctx c.toNat k.toNat).holdsPart id task.bits.toNat (bitsOf task.bits.toNat 240 224) lo hi := by
  refine ⟨_, execTaskReceipt_orphan hp hm h, ?_⟩
  obtain ⟨y, hl, hy⟩ := (s.modQuad (quadOf c.toNat) fun q => { q with orphans := q.orphans.eraseIdx i }).startPart_holds c.toNat k.isLt
    id task.bits.toNat lo hi (recEntry task.bits.toNat)
  have hy := hl.holds hy
  obtain ⟨-, hmem, -⟩ := hl
  exact ⟨hmem, congrArg Quad.orphans (s.quad_modQuad (quadOf c.toNat) fun q => { q with orphans := q.orphans.eraseIdx i }), hy⟩

variable (ho : s.orphan (quadOf c.toNat) part = none)
include ho

theorem taskReceipt_record {i : Nat} {r : QueueRec}
    (h : (s.quad (quadOf c.toNat)).best part (k != 3 && s.mayHost c.toNat) = some (i, r)) (hg : bitOf r.bits.toNat 243 = false) :
    ∃ t, exec (.taskReceipt c k) s = .next t ∧ t.mem = s.mem
      ∧ (t.quad (quadOf c.toNat)).queue = (s.quad (quadOf c.toNat)).queue.eraseIdx i
      ∧ t.tasks.get s.nextTask = some ⟨r.bits, r.part, 1⟩
      ∧ (t.ctx c.toNat k.toNat).holdsPart s.nextTask r.bits.toNat (bitsOf r.bits.toNat 240 224) (BitVec.ofNat 64 r.bits.toNat)
        (BitVec.ofNat 64 (bitsOf r.bits.toNat 127 64)) := by
  refine ⟨_, execTaskReceipt_record hp hm ho h hg, ?_⟩
  obtain ⟨hq, hmem, -, hid, ht⟩ := s.takeRecord_eq (quadOf c.toNat) i r
  rw [hid]
  obtain ⟨y, hl, hy⟩ := (s.takeRecord (quadOf c.toNat) i r).1.startPart_holds c.toNat k.isLt s.nextTask r.bits.toNat
    (recLo r.bits.toNat) (recHi r.bits.toNat) (recEntry r.bits.toNat)
  have hy := hl.holds hy
  obtain ⟨-, hmem', -⟩ := hl
  exact ⟨hmem'.trans hmem, hq, ht, hy⟩

end

/-- Settles O50: an event of tasks, gangs and their actions is one change of a quad, a part or a write, and a lemma says which. -/
theorem taskEvents : Obligations.TaskEvents := by
  unfold Obligations.TaskEvents
  intro s c k q
  extract_lets core now u v entered gets nq running
  refine ⟨execTaskPromotion_queue s q, fun part r hq hr => execOverflowRefill_room hq hr, fun w i h => ?_, ?_, ?_, ?_, ?_, ?_,
    execLdarmArmed_waits, ?_, ?_, ?_⟩
  case refine_1 =>
    exact ⟨_, execDeferredPost_room h, rfl, s.postWaiting_quad q.toNat i w.part w.bits⟩
  case refine_2 =>
    rintro id n i w tag part hf ht rfl hr hp
    have hc := State.complete_running (s.postWaiting n i w.part w.bits) hp tag
    refine ⟨_, execTkpostComplete_room hf ht hr, ?_⟩
    obtain ⟨hposts, hin⟩ := s.postWaiting_quad n i w.part w.bits
    have hd := State.complete_completed (s.postWaiting n i w.part w.bits) hp tag
    rw [hc] at hd ⊢
    exact ⟨rfl, hposts, hin, hd⟩
  case refine_3 =>
    intro part hp hm
    refine ⟨fun i id lo hi task h => taskReceipt_orphan hp hm h, fun i r ho h hg => taskReceipt_record hp hm ho h hg,
      fun i r host j g ho h hg hh => ?_, fun a b id task ho h hv hid ht => ?_⟩
    · rw [execTaskReceipt_gang hp hm ho h hg hh]
      exact ⟨fun he => by rw [if_pos he], fun he => by rw [if_neg he]⟩
    · exact ⟨_, execTaskReceipt_split hp hm ho h hv, State.split_halves k.isLt (State.mayReceive_task hm) hid ht⟩
  case refine_4 =>
    intro i r hh hq b
    obtain ⟨hmem, hgang, hqueue⟩ := s.startGang_frame core i r
    obtain ⟨h0, h1, h2⟩ := (s.takeRecord (quadOf core) i r).1.gangParts_holds core s.nextTask r.bits.toNat
    rw [← s.startGang_ctx core i r] at h0 h1 h2
    rw [hq] at hqueue
    exact ⟨_, execGangStart_host hh, rfl, hmem, hgang, hqueue, h0, h1, h2⟩
  case refine_5 =>
    intro n p hb hp
    exact ⟨execPipeEnlarge_deadlock hb hp, execPipeEnlarge_gain hb hp⟩
  case refine_6 =>
    intro n part va w l ls hq h hl
    exact execCompletionWriteRetry_translates hq h hl
  case refine_7 =>
    intro a n seg off w tk i g hq hf hg hr h0 h8 hn
    exact execLandingWriteDeferred_ready hq hf hg hr h0 h8 hn
  case refine_8 =>
    intro word hr win bits part
    refine ⟨fun reason h => execLaunchCommit_refused hr c word h, ?_⟩
    intro w0 h hw
    obtain ⟨w, hw⟩ := State.acceptLaunch_starts (s := s.putLaunchWord c.toNat word) hw bits
    exact ⟨_, w, execLaunchCommit_accepted hr c word h, hw⟩
  case refine_9 =>
    intro p e va he hm hc fields store s1 odd full
    refine ⟨?_, fun a x ls hq hl => State.areaStore_mem hq x hl⟩
    exact (execMonitorPublish_one he hm hc).trans (congrArg Host.Outcome.next (State.writeRecord_eq s1 p.toNat va e.monSeq fields))

end Sys2Proof.Machine
end

section
/-!
PROOFS. O54: the frame of a mailbox request and the fields of its payload (R372, R373).
-/
namespace Sys2Proof.Machine

/-! ### Fields that must be 0 -/

theorem mem_countFrom {i : Nat} : ∀ {n a : Nat}, i ∈ countFrom a n ↔ a ≤ i ∧ i < a + n
  | 0, a => by simp [countFrom]
  | n + 1, a => by
    rw [countFrom, List.mem_cons, mem_countFrom]
    omega

/-- A bit of a range is one of its value. -/
theorem bitOf_bitsOf {v hi lo i : Nat} (hl : lo ≤ i) (hh : i < lo + (hi + 1 - lo)) : bitOf v i = (bitsOf v hi lo).testBit (i - lo) := by
  unfold bitOf bitsOf
  rw [Nat.testBit_mod_two_pow, Nat.testBit_div_two_pow, Nat.sub_add_cancel hl, Nat.testBit_eq_decide_div_mod_eq,
    decide_eq_true (show i - lo < hi + 1 - lo by omega), Bool.true_and]
  rfl

/-- A range holds 0 where no bit of it is set. -/
theorem mustZero_eq_nil {v hi lo : Nat} : mustZero v hi lo = [] ↔ bitsOf v hi lo = 0 := by
  have hnone : mustZero v hi lo = [] ↔ ∀ i ∈ countFrom lo (hi + 1 - lo), bitOf v i = false := by
    unfold mustZero
    cases hf : (countFrom lo (hi + 1 - lo)).find? fun i => bitOf v i with
    | none => simpa using hf
    | some i =>
      have hbit : bitOf v i = true := List.find?_some (p := fun i => bitOf v i) hf
      refine ⟨fun h => (List.cons_ne_nil _ _ h).elim, fun h => ?_⟩
      rw [h i (List.mem_of_find?_eq_some hf)] at hbit
      cases hbit
  rw [hnone]
  constructor
  · intro h
    refine Nat.eq_of_testBit_eq fun j => ?_
    rw [Nat.zero_testBit]
    by_cases hj : j < hi + 1 - lo
    · have hbit := h (lo + j) (mem_countFrom.mpr ⟨by omega, by omega⟩)
      rwa [bitOf_bitsOf (i := lo + j) (lo := lo) (hi := hi) (by omega) (by omega), Nat.add_sub_cancel_left] at hbit
    · unfold bitsOf
      rw [Nat.testBit_mod_two_pow, decide_eq_false hj, Bool.false_and]
  · intro h i hm
    obtain ⟨h1, h2⟩ := mem_countFrom.mp hm
    rw [bitOf_bitsOf (hi := hi) h1 h2, h, Nat.zero_testBit]

/-- A range that is not 0 is named by a bit of it. -/
theorem mustZero_of_ne {v hi lo : Nat} (h : bitsOf v hi lo ≠ 0) : ∃ i, lo ≤ i ∧ i ≤ hi ∧ mustZero v hi lo = [i] := by
  unfold mustZero
  cases hf : (countFrom lo (hi + 1 - lo)).find? fun i => bitOf v i with
  | none => exact absurd (mustZero_eq_nil.mp (by unfold mustZero; rw [hf])) h
  | some i =>
    obtain ⟨h1, h2⟩ := mem_countFrom.mp (List.mem_of_find?_eq_some hf)
    exact ⟨i, h1, by omega, rfl⟩

theorem State.payZero_nil {s : State} {hi lo : Nat} (h : s.payBits hi lo = 0) : s.payZero hi lo = [] := by
  unfold State.payZero
  rw [mustZero_eq_nil.mpr h]
  rfl

theorem State.payBits_lt (s : State) (hi lo : Nat) : s.payBits hi lo < 2 ^ (hi + 1 - lo) := Nat.mod_lt _ (Nat.two_pow_pos _)

theorem payBad_false (off : Nat) : payBad false off = [] := rfl

theorem payBad_true (off : Nat) : payBad true off = [off] := rfl

theorem mem_payBad {bad : Bool} {off b : Nat} : b ∈ payBad bad off ↔ bad = true ∧ b = off := by
  cases bad <;> simp [payBad]

theorem payBad_aligned {x n : Nat} (h : x % n = 0) (off : Nat) : payBad (x % n != 0) off = [] := by
  rw [h]
  rfl

theorem firstFail_eq_min? : ∀ l : List Nat, firstFail l = l.min?
  | [] => rfl
  | a :: l => by
    unfold firstFail
    rw [firstFail_eq_min? l, List.min?_cons]
    cases l.min? <;> rfl

/-- The first of failing fields is one of them, and none stands before it. -/
theorem firstFail_eq_some {l : List Nat} {a : Nat} (ha : a ∈ l) (h : ∀ b ∈ l, a ≤ b) : firstFail l = some a := by
  rw [firstFail_eq_min?]
  exact List.min?_eq_some_iff.mpr ⟨ha, h⟩

/-! ### The answer (R372) -/

/-- What the answer of the supervisor leaves. -/
def State.answered (s : State) : Answer → State
  | .done t => t.answer 0 none
  | .refused => s.answer 1 none
  | .failed t => t.answer 1 none
  | .wait t => t

section
variable {s : State} {op len : Nat} {sel : Bool} {bad : Option Nat} {act : State → Answer}

/-- A request whose fields are right is carried out or refused. -/
theorem mailbox_asked (ha : s.asked op len) (hs : sel = true) (hb : bad = none) :
    mailbox s op sel len bad act = .next (s.answered (act s)) := by
  obtain ⟨hw, ho, hl, hq, hz⟩ := ha
  unfold mailbox
  simp only [hw, ho, hl, hs, hb, hz, beq_eq_false_iff_ne.mpr hq, bne_self_eq_false, Bool.not_true, Bool.or_false, Bool.false_eq_true,
    if_false]
  cases act s <;> rfl

theorem mailbox_fails (ha : s.asked op len) (hs : sel = true) {off : Nat} (hb : bad = some off) :
    mailbox s op sel len bad act = .next (s.answer 2 (some off)) := by
  obtain ⟨hw, ho, hl, hq, hz⟩ := ha
  unfold mailbox
  simp only [hw, ho, hl, hs, hb, hz, beq_eq_false_iff_ne.mpr hq, bne_self_eq_false, Bool.not_true, Bool.or_false, Bool.false_eq_true,
    if_false]

/-- A request of a length not its own is malformed, with the failing field where the payload reaches it. -/
theorem mailbox_length (hw : s.reqWaits = true) (ho : s.reqOp = op) (hs : sel = true) (hl : s.reqLen ≠ len) :
    mailbox s op sel len bad act = .next (s.answer 2 (bad.filter fun off => decide (off < s.reqLen))) := by
  unfold mailbox
  simp only [hw, ho, hs, bne_self_eq_false, Bool.not_true, Bool.or_false, Bool.false_eq_true, if_false]
  rw [if_pos (by rw [bne_iff_ne.mpr hl]; rfl)]

end

/-- A request of an OP with a length not its own is malformed; where a field fails, the answer names it. -/
def State.malformed (s : State) (op len : Nat) (r : Host.Outcome State Fault Refusal) : Prop :=
  s.reqWaits = true → s.reqOp = op → s.reqLen ≠ len → ∃ d, r = .next (s.answer 2 d) ∧ ∀ n, d = some n → n < s.reqLen

theorem mailbox_malformed {s : State} {op len : Nat} {sel : Bool} {bad : Option Nat} {act : State → Answer} (hs : sel = true) :
    s.malformed op len (mailbox s op sel len bad act) := fun hw ho hl =>
  ⟨_, mailbox_length hw ho hs hl, fun _ hd => of_decide_eq_true (Option.filter_eq_some_iff.mp hd).2⟩

end Sys2Proof.Machine
end

section
/-!
PROOFS. O54: what a request changes: partitions, rings, translations, owners and frozen contexts (R16, R246, R251, R302, R316, R359).
-/
namespace Sys2Proof.Machine

/-! ### Owners of counters and piers (R251, R316) -/

theorem Tab.get_foldl_put {α : Type} (w : α) (l : List Nat) : ∀ (t : Tab α) (n : Nat),
    (l.foldl (fun t i => t.put i w) t).get n = if n ∈ l then some w else t.get n := by
  induction l with
  | nil => exact fun _ _ => rfl
  | cons a l ih =>
    intro t n
    rw [List.foldl_cons, ih]
    by_cases hl : n ∈ l
    · simp [hl]
    · by_cases ha : n = a
      · simp [ha]
      · simp [hl, ha, Tab.get_put_other t w ha]

theorem Tab.get_foldl_del {α : Type} (l : List Nat) : ∀ (t : Tab α) (n : Nat),
    (l.foldl (fun t i => t.del i) t).get n = if n ∈ l then none else t.get n := by
  induction l with
  | nil => exact fun _ _ => rfl
  | cons a l ih =>
    intro t n
    rw [List.foldl_cons, ih]
    by_cases hl : n ∈ l
    · simp [hl]
    · by_cases ha : n = a
      · simp [ha, Tab.get_del_same]
      · simp [hl, ha, Tab.get_del_other t ha]

section
variable {t : Tab Nat} {part : Nat} {l : List Nat}

theorem assignAll_free (h : ∀ n ∈ l, t.get n = none ∨ t.get n = some part) :
    ∃ u, assignAll t part l = some u ∧ ∀ n ∈ l, u.get n = some part := by
  refine ⟨_, if_pos (List.all_eq_true.mpr fun n hn => decide_eq_true (h n hn)), fun n hn => ?_⟩
  rw [Tab.get_foldl_put, if_pos hn]

theorem assignAll_taken (h : ∃ n ∈ l, t.get n ≠ none ∧ t.get n ≠ some part) : assignAll t part l = none := by
  obtain ⟨n, hn, h0, h1⟩ := h
  refine if_neg fun hall => ?_
  exact (of_decide_eq_true (List.all_eq_true.mp hall n hn)).elim h0 h1

theorem releaseAll_owned (h : ∀ n ∈ l, t.get n = some part) :
    ∃ u, releaseAll t part l = some u ∧ ∀ n ∈ l, u.get n = none := by
  refine ⟨_, if_pos (List.all_eq_true.mpr fun n hn => decide_eq_true (h n hn)), fun n hn => ?_⟩
  rw [Tab.get_foldl_del, if_pos hn]

theorem releaseAll_foreign (h : ∃ n ∈ l, t.get n ≠ some part) : releaseAll t part l = none := by
  obtain ⟨n, hn, h1⟩ := h
  refine if_neg fun hall => ?_
  exact h1 (of_decide_eq_true (List.all_eq_true.mp hall n hn))

end

theorem State.site_modSite (s : State) (n m : Nat) (f : Site → Site) :
    (s.modSite n f).site m = if m = n then f (s.site n) else s.site m := by
  unfold State.site State.modSite
  by_cases h : m = n
  · rw [if_pos h, h]
    exact Tab.read_put_same _ _ _ _
  · rw [if_neg h]
    exact Tab.read_put_other _ _ _ h

theorem State.counter_global (s : State) {j : Nat} (hj : j < 0x8000) :
    s.counter j 0 = (s.site (j / 1024)).landing.read .idle (j % 1024) := if_neg (Nat.not_le.mpr hj)

/-- A global counter after a counter has been set. -/
theorem State.counter_setCounter (s : State) {i j : Nat} (hi : i < 0x8000) (hj : j < 0x8000) (l : Landing) :
    (s.setCounter i 0 l).counter j 0 = if j = i then l else s.counter j 0 := by
  have hset : s.setCounter i 0 l = s.modSite (i / 1024) fun st => { st with landing := st.landing.put (i % 1024) l } :=
    if_neg (Nat.not_le.mpr hi)
  rw [hset, State.counter_global _ hj, State.counter_global _ hj, State.site_modSite]
  by_cases hq : j / 1024 = i / 1024
  · rw [if_pos hq]
    by_cases hji : j = i
    · rw [if_pos hji, hji]
      exact Tab.read_put_same _ _ _ _
    · rw [if_neg hji, hq]
      exact Tab.read_put_other _ _ _ (by omega)
  · rw [if_neg hq, if_neg fun hji => hq (congrArg (· / 1024) hji)]

/-- A counter that is released is not ARMED, whatever counters are released behind it. -/
theorem State.disarmAll_counter {l : List Nat} : ∀ {s : State} {n : Nat}, (∀ i ∈ l, i < 0x8000) → n < 0x8000 →
    n ∈ l ∨ (s.counter n 0).state ≠ .armed → ((s.disarmAll l).counter n 0).state ≠ .armed := by
  induction l with
  | nil => exact fun _ _ h => h.resolve_left List.not_mem_nil
  | cons i l ih =>
    intro s n hl hn h
    obtain ⟨hi, hl⟩ := List.forall_mem_cons.mp hl
    refine ih (s := if (s.counter i 0).state = .armed then s.setCounter i 0 { s.counter i 0 with state := .idle } else s) hl hn ?_
    by_cases hnl : n ∈ l
    · exact .inl hnl
    right
    by_cases hni : n = i
    · subst hni
      split
      · rw [State.counter_setCounter s hi hn, if_pos rfl]
        exact nofun
      · assumption
    · have hs := h.resolve_left fun hm => (List.mem_cons.mp hm).elim hni hnl
      split
      · rwa [State.counter_setCounter s hi hn, if_neg hni]
      · exact hs

theorem State.disarmAll_landingOwner (s : State) (l : List Nat) : (s.disarmAll l).landingOwner = s.landingOwner :=
  List.foldlRecOn (motive := fun u : State => u.landingOwner = s.landingOwner) l _ rfl fun u hu i _ => by
    extract_lets c
    split
    · unfold State.setCounter
      split
      · exact hu
      · exact hu
    · exact hu

theorem bitmapBits_lt {m n i : Nat} (h : i ∈ bitmapBits m n) : i < n := List.mem_range.mp (List.mem_of_mem_filter h)

/-! ### Shootdown (R302) -/

theorem State.shootdown_tlb (s : State) (asid base len : Nat) :
    (∀ e ∈ (s.shootdown asid base len).cores, ∀ x ∈ e.2.tlb, x.asid = asid → meets x.vbase x.size base len = false)
      ∧ ∀ e ∈ (s.shootdown asid base len).quads, ∀ x ∈ e.2.tlb, x.asid = asid → meets x.vbase x.size base len = false := by
  have hkept : ∀ {x : TlbEntry} {l : List TlbEntry}, x ∈ l.filter (fun e => e.asid != asid || !meets e.vbase e.size base len) →
      x.asid = asid → meets x.vbase x.size base len = false := fun hx ha => by
    have hkeep := (List.mem_filter.mp hx).2
    rw [ha, bne_self_eq_false, Bool.false_or] at hkeep
    exact Bool.not_eq_true' _ ▸ hkeep
  constructor
  · intro e he x hx
    obtain ⟨d, -, rfl⟩ := List.mem_map.mp he
    exact hkept hx
  · intro e he x hx
    obtain ⟨d, -, rfl⟩ := List.mem_map.mp he
    exact hkept hx

/-! ### Rings (R246) and frozen contexts (R359) -/

/-- A slot of a channel is freed. -/
def CoreState.freeSlot (v : CoreState) (slot : Nat) : CoreState := { v with rings := v.rings.setIfInBounds slot none }

theorem State.unbindRing_bound {s : State} {part core slot : Nat} {v : CoreState} {r : Ring} (h : s.partState core part = some v)
    (hr : v.rings[slot]? = some (some r)) : ∃ t w, s.unbindRing part core slot r.header = some t
      ∧ t.partState core part = some w ∧ w.rings[slot]? = some none := by
  have hp : v.part = some part := State.partState_part h
  refine ⟨s.modPart core part fun v => v.freeSlot slot, v.freeSlot slot, ?_, State.partState_modPart h hp, ?_⟩
  · unfold State.unbindRing
    rw [h]
    dsimp only
    rw [hr]
    exact if_pos rfl
  · have hs : slot < 4 := by
      by_contra hs
      rw [Vector.getElem?_eq_none (by omega)] at hr
      cases hr
    simp [CoreState.freeSlot, hs]

theorem State.setFrozen_ctx {s : State} {part core k : Nat} {v : CoreState} (h : s.partState core part = some v) (hk : k < 4) (f : Bool) :
    ∃ w, (s.setFrozen part core k f).partState core part = some w ∧ w.ctx k = { v.ctx k with frozen := f } := by
  have hp : v.part = some part := State.partState_part h
  exact ⟨_, State.partState_modPart (f := fun v => v.setCtx k { v.ctx k with frozen := f }) h hp, v.ctx_setCtx hk _⟩

theorem State.freezeRequest_context {s : State} {v : CoreState} (hs : s.payBits 11 9 = 7) (hp : s.payBits 17 12 = s.pod.pkgid)
    (hx : (s.partitions.get (s.payBits 7 0)).isSome = true)
    (hv : s.partState (64 * s.payBits 20 18 + s.payBits 26 21) (s.payBits 7 0) = some v) (f : Bool) :
    s.freezeRequest f = .done (s.setFrozen (s.payBits 7 0) (64 * s.payBits 20 18 + s.payBits 26 21) (s.payBits 28 27) f) := by
  obtain ⟨p, hx⟩ := Option.isSome_iff_exists.mp hx
  unfold State.freezeRequest
  simp [hs, hp, hx, hv]

/-! ### A partition of one core (R16, R57) -/

/-- A core's state of a partition as it is created. -/
def PartRequest.fresh (r : PartRequest) (quota : Nat) : CoreState :=
  { CoreState.reset with
    part := some r.part
    ovfptr := BitVec.ofNat 64 r.ovfBase
    asid := BitVec.ofNat 16 r.asid
    ptbase := BitVec.ofNat 64 r.root
    quota := quota }

theorem PartRequest.fresh_clampQuota (r : PartRequest) (n store q : Nat) : (r.fresh n).clampQuota store q = Nat.min q store := by
  rw [CoreState.clampQuota_eq, show (r.fresh n).largestSet = 0 from rfl, show (r.fresh n).pinnedTotal = 0 from rfl, Nat.max_zero,
    Nat.sub_zero]

/-- The first core of a partition runs it where no other runs there. -/
theorem State.addCore_first {s : State} {r : PartRequest} {c : Nat} (hn : (s.cs c).part = none) :
    (s.addCore r 0 c).core c = { s.core c with cur := r.fresh (Nat.min r.quota (16384 - 4 * (s.core c).cacheKiB)) } := by
  have hfree : (s.core c).cur.part.isNone = true := Option.isNone_iff_eq_none.mpr hn
  unfold State.addCore State.modCore
  simp only [State.core_setCore, Nat.zero_mul, Nat.add_zero]
  refine (if_pos hfree).trans ?_
  rw [← r.fresh_clampQuota CoreState.reset.quota]
  rfl

theorem State.createPart_one {s : State} {r : PartRequest} {c : Nat} (hp : s.partitions.get r.part = none) (hc : r.cores = [c])
    (hf : s.coreFree c = true) (hn : (s.cs c).part = none) : ∃ t, s.createPart r = some t
      ∧ t.cs c = r.fresh (Nat.min r.quota (16384 - 4 * (s.core c).cacheKiB))
      ∧ ∃ p, t.partitions.get r.part = some p ∧ p.cores = [c] ∧ p.feats = s.host.featAccept := by
  have hfree : ¬ ((s.partitions.get r.part).isSome || !r.cores.all (fun c => s.coreFree c)) = true := by
    simp [hp, hc, hf]
  have hcore := State.addCore_first (r := r) hn
  refine ⟨_, if_neg hfree, ?_, _, Tab.get_put_same _ _ _, hc, rfl⟩
  rw [hc]
  exact congrArg Core.cur hcore

end Sys2Proof.Machine
end

section
/-!
PROOFS. O54: the routes of a pod (R373, R379).
-/
namespace Sys2Proof.Machine

/-! ### A pod (R373, R379) -/

/-- The packages that a pod request gives a route, but for the one itself. -/
def State.podNamed (s : State) (l : List Nat) : List Nat := l.filter fun n => n != s.payBits 5 0 && s.pay (8 + 2 * n) 2 != 0

/-- A route that must be 0 and is not. -/
def State.podFails (s : State) (n : Nat) : Prop :=
  s.pay (8 + 2 * n) 2 ≠ 0 ∧ (n = s.payBits 5 0 ∨ s.payBits 14 8 ≤ 1 + (s.podNamed (List.range n)).length)

theorem State.podBad_eq (s : State) : s.podBad = firstFail (payBad (s.payBits 14 8 == 0 || decide (64 < s.payBits 14 8)) 1
    ++ (List.range 64).flatMap fun p => payBad (s.pay (8 + 2 * p) 2 != 0
      && (p == s.payBits 5 0 || decide (s.payBits 14 8 ≤ 1 + (s.podNamed (List.range p)).length))) (8 + 2 * p)) := rfl

/-- The places of the failing routes. -/
theorem State.mem_podRoutes {s : State} {b : Nat} : b ∈ ((List.range 64).flatMap fun p => payBad (s.pay (8 + 2 * p) 2 != 0
    && (p == s.payBits 5 0 || decide (s.payBits 14 8 ≤ 1 + (s.podNamed (List.range p)).length))) (8 + 2 * p))
      ↔ ∃ p < 64, s.podFails p ∧ b = 8 + 2 * p := by
  simp only [List.mem_flatMap, List.mem_range, mem_payBad, State.podFails, Bool.and_eq_true, bne_iff_ne, Bool.or_eq_true, beq_iff_eq,
    decide_eq_true_eq]

theorem State.podBad_count {s : State} (h : s.payBits 14 8 = 0 ∨ 64 < s.payBits 14 8) : s.podBad = some 1 := by
  have hc : (s.payBits 14 8 == 0 || decide (64 < s.payBits 14 8)) = true := by simpa using h
  rw [State.podBad_eq, hc, payBad_true, List.singleton_append]
  refine firstFail_eq_some List.mem_cons_self fun b hb => ?_
  rcases List.mem_cons.mp hb with rfl | hb
  · exact Nat.le_refl 1
  · obtain ⟨p, -, -, rfl⟩ := State.mem_podRoutes.mp hb
    omega

section
variable {s : State} (h1 : 1 ≤ s.payBits 14 8) (h64 : s.payBits 14 8 ≤ 64)
include h1 h64

/-- The failing routes, lowest first, are what a pod of 1 to 64 packages fails by. -/
theorem State.podBad_routes : s.podBad = firstFail ((List.range 64).flatMap fun p => payBad (s.pay (8 + 2 * p) 2 != 0
    && (p == s.payBits 5 0 || decide (s.payBits 14 8 ≤ 1 + (s.podNamed (List.range p)).length))) (8 + 2 * p)) := by
  have hc : (s.payBits 14 8 == 0 || decide (64 < s.payBits 14 8)) = false := by
    rw [beq_eq_false_iff_ne.mpr (by omega), decide_eq_false (by omega), Bool.false_or]
  rw [State.podBad_eq, hc, payBad_false, List.nil_append]

theorem State.podBad_none (h : ∀ p < 64, ¬ s.podFails p) : s.podBad = none := by
  rw [State.podBad_routes h1 h64]
  refine (congrArg firstFail (List.eq_nil_iff_forall_not_mem.mpr fun b hb => ?_)).trans (b := firstFail []) rfl
  obtain ⟨p, hp, hf, -⟩ := State.mem_podRoutes.mp hb
  exact h p hp hf

theorem State.podBad_first {n : Nat} (hn : n < 64) (hb : s.podFails n) (hf : ∀ j < n, ¬ s.podFails j) : s.podBad = some (8 + 2 * n) := by
  rw [State.podBad_routes h1 h64]
  refine firstFail_eq_some (State.mem_podRoutes.mpr ⟨n, hn, hb, rfl⟩) fun b hb => ?_
  obtain ⟨p, -, hp, rfl⟩ := State.mem_podRoutes.mp hb
  have hnp : n ≤ p := Nat.not_lt.mp fun hpn => hf p hpn hp
  omega

/-- With fewer routes than other packages, and none to the package itself, no route fails. -/
theorem State.podBad_fits (h0 : s.pay (8 + 2 * s.payBits 5 0) 2 = 0) (hl : (s.podNamed (List.range 64)).length < s.payBits 14 8) :
    s.podBad = none := by
  refine State.podBad_none h1 h64 fun p hp hf => ?_
  obtain ⟨hr, hid | hcount⟩ := hf
  · exact hr (hid ▸ h0)
  · have hne : p ≠ s.payBits 5 0 := fun hid => hr (hid ▸ h0)
    have hnamed : s.podNamed (List.range (p + 1)) = s.podNamed (List.range p) ++ [p] := by
      unfold State.podNamed
      rw [List.range_succ, List.filter_append]
      congr 1
      exact List.filter_cons_of_pos (by simp [hne, hr])
    have hsub : (s.podNamed (List.range (p + 1))).length ≤ (s.podNamed (List.range 64)).length :=
      ((List.range_sublist.mpr hp).filter _).length_le
    rw [hnamed, List.length_append, List.length_singleton] at hsub
    omega

end

end Sys2Proof.Machine
end

section
/-!
PROOFS. O54: each request with fields that are right, and the statement itself (R372, R373, R379, R384).
-/
namespace Sys2Proof.Machine

section
variable {s : State}

theorem State.done_of {i : Instr} {a : Answer} {t : State} (h : exec i s = .next (s.answered a)) (ha : a = .done t) :
    exec i s = .next (t.answer 0 none) := by
  rw [h, ha]
  rfl

theorem State.refused_of {i : Instr} {a : Answer} (h : exec i s = .next (s.answered a)) (ha : a = .refused) :
    exec i s = .next (s.answer 1 none) := by
  rw [h, ha]
  rfl

/-- A request that is carried out at once or refused. -/
theorem State.answered_of {i : Instr} {r : Option State} (h : exec i s = .next (s.answered (.of r))) :
    (r = none → exec i s = .next (s.answer 1 none)) ∧ ∀ t, r = some t → exec i s = .next (t.answer 0 none) :=
  ⟨fun hr => State.refused_of h (by rw [hr]; rfl), fun t hr => State.done_of h (by rw [hr]; rfl)⟩

/-! ### Partitions and images -/

/-- The request that the payload of CREATE_PARTITION holds. -/
def State.partRequest (s : State) : PartRequest :=
  ⟨s.payBits 7 0, s.payBits 23 8, s.payBits 63 32, s.pay 8 8, s.pay 16 8, s.pay 24 8, maskCores (s.pay 32 64)⟩

/-- The first failing field of CREATE_PARTITION. -/
def State.createBad (s : State) : Option Nat :=
  firstFail (s.payZero 31 24 ++ payBad (s.pay 16 8 % 256 != 0) 16 ++ payBad (s.pay 24 8 % 256 != 0) 24)

theorem execCreatePartition_eq : exec .createPartition s = mailbox s 1 true 96 s.createBad fun s => .of (s.createPart s.partRequest) := rfl

theorem State.createBad_none (h16 : s.pay 16 8 % 256 = 0) (h24 : s.pay 24 8 % 256 = 0) (hz : s.payBits 31 24 = 0) : s.createBad = none := by
  unfold State.createBad
  rw [State.payZero_nil hz, payBad_aligned h16, payBad_aligned h24]
  rfl

/-- Bits [31:24] stand in byte 3, before every other field. -/
theorem State.createBad_three (hz : s.payBits 31 24 ≠ 0) : s.createBad = some 3 := by
  obtain ⟨i, h1, h2, hi⟩ := mustZero_of_ne hz
  have hbyte : i / 8 = 3 := by omega
  unfold State.createBad State.payZero
  rw [hi, List.map_singleton, hbyte]
  refine firstFail_eq_some (by simp) fun b hb => ?_
  simp only [List.mem_append, List.mem_singleton, mem_payBad] at hb
  omega

theorem createPartition_asked (ha : s.asked 1 96) (hz : s.payBits 31 24 = 0) (h16 : s.pay 16 8 % 256 = 0) (h24 : s.pay 24 8 % 256 = 0) :
    exec .createPartition s = .next (s.answered (.of (s.createPart s.partRequest))) :=
  show execCreatePartition s = _ from mailbox_asked ha rfl (State.createBad_none h16 h24 hz)

theorem createPartition_length (hw : s.reqWaits = true) (ho : s.reqOp = 1) (hl : s.reqLen ≠ 96) :
    exec .createPartition s = .next (s.answer 2 (s.createBad.filter fun off => decide (off < s.reqLen))) :=
  show execCreatePartition s = _ from mailbox_length hw ho rfl hl

theorem loadPatternImage_asked (ha : s.asked 2 40) (hz : s.payBits 63 8 = 0) (h24 : s.pay 24 8 % 256 = 0) :
    exec .loadPatternImage s
      = .next (s.answered (.of (s.loadPattern (s.payBits 7 0) (s.pay 8 8) (s.pay 16 8) (s.pay 24 8) (s.pay 32 8)))) :=
  show execLoadPatternImage s = _ from mailbox_asked ha rfl (by rw [State.payZero_nil hz, payBad_aligned h24]; rfl)

/-! ### Apertures and rings -/

section
variable (ha : s.asked 3 16) (h7 : s.payBits 7 5 = 0) (h63 : s.payBits 63 16 = 0) (hb : s.pay 8 8 % s.apertureSize = 0)
include h7 h63 hb

theorem State.apertureBad_none : s.apertureBad = none := by
  unfold State.apertureBad
  rw [State.payZero_nil h7, State.payZero_nil h63, payBad_aligned hb]
  rfl

include ha

theorem bindAperture_asked (h4 : s.payBits 4 4 = 1) : exec .bindAperture s = .next (s.answered (
    if (s.partitions.get (s.payBits 15 8)).isNone then .refused
    else .done { s with host := { s.host with apertures := s.host.apertures.put (s.payBits 3 0) (s.payBits 15 8, s.pay 8 8) } })) :=
  show execBindAperture s = _ from mailbox_asked ha (beq_iff_eq.mpr h4) (State.apertureBad_none h7 h63 hb)

theorem unbindAperture_asked (h4 : s.payBits 4 4 = 0) : exec .unbindAperture s = .next (s.answered (
    .done { s with host := { s.host with apertures := s.host.apertures.del (s.payBits 3 0) } })) :=
  show execUnbindAperture s = _ from mailbox_asked ha (beq_iff_eq.mpr h4) (State.apertureBad_none h7 h63 hb)

end

section
variable (ha : s.asked 4 16) (hz : s.payBits 63 20 = 0)
include ha hz

theorem bindRing_asked (h : s.payBits 19 19 = 1) :
    exec .bindRing s = .next (s.answered (.of (s.bindRing (s.payBits 7 0) s.payCore (s.payBits 18 17) (s.pay 8 8)))) :=
  show execBindRing s = _ from mailbox_asked ha (beq_iff_eq.mpr h) (by rw [State.payZero_nil hz]; rfl)

theorem unbindRing_asked (h : s.payBits 19 19 = 0) :
    exec .unbindRing s = .next (s.answered (.of (s.unbindRing (s.payBits 7 0) s.payCore (s.payBits 18 17) (s.pay 8 8)))) :=
  show execUnbindRing s = _ from mailbox_asked ha (beq_iff_eq.mpr h) (by rw [State.payZero_nil hz]; rfl)

end

/-! ### Translations and owners -/

/-- What a shootdown request is answered. -/
def State.shootAnswer (s : State) : Answer :=
  if s.shootArmed (s.payBits 15 0) (s.pay 8 8) (s.pay 16 8) then .refused
  else if s.shootBusy (s.payBits 15 0) (s.pay 8 8) (s.pay 16 8) then .wait s
  else .done (s.shootdown (s.payBits 15 0) (s.pay 8 8) (s.pay 16 8))

section
variable (ha : s.shootArmed (s.payBits 15 0) (s.pay 8 8) (s.pay 16 8) = false)
include ha

theorem State.shootAnswer_wait (hb : s.shootBusy (s.payBits 15 0) (s.pay 8 8) (s.pay 16 8) = true) : s.shootAnswer = .wait s := by
  unfold State.shootAnswer
  rw [if_neg (by rw [ha]; decide), if_pos hb]

theorem State.shootAnswer_done (hb : s.shootBusy (s.payBits 15 0) (s.pay 8 8) (s.pay 16 8) = false) :
    s.shootAnswer = .done (s.shootdown (s.payBits 15 0) (s.pay 8 8) (s.pay 16 8)) := by
  unfold State.shootAnswer
  rw [if_neg (by rw [ha]; decide), if_neg (by rw [hb]; decide)]

end

theorem shootdown_asked (ha : s.asked 5 24) (hz : s.payBits 63 16 = 0) (h8 : s.pay 8 8 % 65536 = 0) (h16 : s.pay 16 8 % 65536 = 0) :
    exec .shootdown s = .next (s.answered s.shootAnswer) :=
  show execShootdown s = _ from mailbox_asked ha rfl (by rw [State.payZero_nil hz, payBad_aligned h8, payBad_aligned h16]; rfl)

section
variable (hz : s.payBits 63 10 = 0)
include hz

theorem State.assignBad_none : s.assignBad = none := by
  unfold State.assignBad
  rw [State.payZero_nil hz]
  rfl

theorem assignLandingCounters_asked (ha : s.asked 6 2056) (h : s.payBits 9 8 = 2)
    (hp : (s.partitions.get (s.payBits 7 0)).isSome = true) : exec .assignLandingCounters s = .next (s.answered (.of
      ((assignAll s.landingOwner (s.payBits 7 0) (bitmapBits (s.pay 8 2048) 16384)).map fun t => { s with landingOwner := t }))) := by
  refine (show execAssignLandingCounters s = _ from mailbox_asked ha (beq_iff_eq.mpr h) (State.assignBad_none hz)).trans ?_
  rw [if_neg (by rwa [Bool.not_eq_true, Option.isNone_eq_false_iff])]

theorem releaseLandingCounters_asked (ha : s.asked 6 2056) (h : s.payBits 9 8 = 0) :
    exec .releaseLandingCounters s = .next (s.answered (.of
      ((releaseAll s.landingOwner (s.payBits 7 0) (bitmapBits (s.pay 8 2048) 16384)).map fun t =>
        State.disarmAll { s with landingOwner := t } (bitmapBits (s.pay 8 2048) 16384)))) :=
  show execReleaseLandingCounters s = _ from mailbox_asked ha (beq_iff_eq.mpr h) (State.assignBad_none hz)

theorem assignPiers_asked (ha : s.asked 6 136) (h : s.payBits 9 8 = 3)
    (hp : (s.partitions.get (s.payBits 7 0)).isSome = true) : exec .assignPiers s = .next (s.answered (.of
      ((assignAll s.pierOwner (s.payBits 7 0) (bitmapBits (s.pay 8 128) 1024)).map fun t => { s with pierOwner := t }))) := by
  refine (show execAssignPiers s = _ from mailbox_asked ha (beq_iff_eq.mpr h) (State.assignBad_none hz)).trans ?_
  rw [if_neg (by rwa [Bool.not_eq_true, Option.isNone_eq_false_iff])]

theorem releasePiers_asked (ha : s.asked 6 136) (h : s.payBits 9 8 = 1) : exec .releasePiers s = .next (s.answered (.of
    ((releaseAll s.pierOwner (s.payBits 7 0) (bitmapBits (s.pay 8 128) 1024)).map fun t => { s with pierOwner := t }))) :=
  show execReleasePiers s = _ from mailbox_asked ha (beq_iff_eq.mpr h) (State.assignBad_none hz)

/-- The counters of a bitmap are assigned, or the request is refused. -/
theorem assignLandingCounters_owners (ha : s.asked 6 2056) (h : s.payBits 9 8 = 2)
    (hp : (s.partitions.get (s.payBits 7 0)).isSome = true) :
    ((∀ n ∈ bitmapBits (s.pay 8 2048) 16384, s.landingOwner.get n = none ∨ s.landingOwner.get n = some (s.payBits 7 0)) → ∃ t : State,
      exec .assignLandingCounters s = .next (t.answer 0 none)
        ∧ ∀ n ∈ bitmapBits (s.pay 8 2048) 16384, t.landingOwner.get n = some (s.payBits 7 0))
    ∧ ((∃ n ∈ bitmapBits (s.pay 8 2048) 16384, s.landingOwner.get n ≠ none ∧ s.landingOwner.get n ≠ some (s.payBits 7 0)) →
      exec .assignLandingCounters s = .next (s.answer 1 none)) := by
  have hx := State.answered_of (assignLandingCounters_asked hz ha h hp)
  constructor
  · intro hfree
    obtain ⟨u, hu, hown⟩ := assignAll_free hfree
    exact ⟨{ s with landingOwner := u }, hx.2 _ (by rw [hu]; rfl), hown⟩
  · intro htaken
    exact hx.1 (by rw [assignAll_taken htaken]; rfl)

/-- The counters of a bitmap are released and none of them stays ARMED, or the request is refused. -/
theorem releaseLandingCounters_owners (ha : s.asked 6 2056) (h : s.payBits 9 8 = 0) :
    ((∀ n ∈ bitmapBits (s.pay 8 2048) 16384, s.landingOwner.get n = some (s.payBits 7 0)) → ∃ t : State,
      exec .releaseLandingCounters s = .next (t.answer 0 none)
        ∧ ∀ n ∈ bitmapBits (s.pay 8 2048) 16384, t.landingOwner.get n = none ∧ (t.counter n 0).state ≠ .armed)
    ∧ ((∃ n ∈ bitmapBits (s.pay 8 2048) 16384, s.landingOwner.get n ≠ some (s.payBits 7 0)) →
      exec .releaseLandingCounters s = .next (s.answer 1 none)) := by
  have hx := State.answered_of (releaseLandingCounters_asked hz ha h)
  constructor
  · intro hown
    obtain ⟨u, hu, hfree⟩ := releaseAll_owned hown
    have hlt : ∀ i ∈ bitmapBits (s.pay 8 2048) 16384, i < 0x8000 := fun i hi => Nat.lt_trans (bitmapBits_lt hi) (by decide)
    refine ⟨State.disarmAll { s with landingOwner := u } (bitmapBits (s.pay 8 2048) 16384), hx.2 _ (by rw [hu]; rfl), fun n hn => ⟨?_, ?_⟩⟩
    · rw [State.disarmAll_landingOwner]
      exact hfree n hn
    · exact State.disarmAll_counter hlt (hlt n hn) (.inl hn)
  · intro hforeign
    exact hx.1 (by rw [releaseAll_foreign hforeign]; rfl)

theorem assignPiers_owners (ha : s.asked 6 136) (h : s.payBits 9 8 = 3) (hp : (s.partitions.get (s.payBits 7 0)).isSome = true)
    (hfree : ∀ n ∈ bitmapBits (s.pay 8 128) 1024, s.pierOwner.get n = none ∨ s.pierOwner.get n = some (s.payBits 7 0)) : ∃ t : State,
      exec .assignPiers s = .next (t.answer 0 none) ∧ ∀ n ∈ bitmapBits (s.pay 8 128) 1024, t.pierOwner.get n = some (s.payBits 7 0) := by
  obtain ⟨u, hu, hown⟩ := assignAll_free hfree
  exact ⟨{ s with pierOwner := u }, (State.answered_of (assignPiers_asked hz ha h hp)).2 _ (by rw [hu]; rfl), hown⟩

theorem releasePiers_owners (ha : s.asked 6 136) (h : s.payBits 9 8 = 1)
    (hown : ∀ n ∈ bitmapBits (s.pay 8 128) 1024, s.pierOwner.get n = some (s.payBits 7 0)) : ∃ t : State,
      exec .releasePiers s = .next (t.answer 0 none) ∧ ∀ n ∈ bitmapBits (s.pay 8 128) 1024, t.pierOwner.get n = none := by
  obtain ⟨u, hu, hfree⟩ := releaseAll_owned hown
  exact ⟨{ s with pierOwner := u }, (State.answered_of (releasePiers_asked hz ha h)).2 _ (by rw [hu]; rfl), hfree⟩

end

/-! ### Monitors, freezes, swaps and the end -/

theorem publishMonitors_asked {p : Partition} (ha : s.asked 7 16) (hz : s.payBits 63 10 = 0)
    (hp : s.partitions.get (s.payBits 7 0) = some p) : exec .publishMonitors s = .next (s.answered (.done (State.publish { s with
      partitions := s.partitions.put (s.payBits 7 0)
        { p with monitors := some (s.pay 8 8, s.payBits 8 8 == 1, s.payBits 9 9 == 1) } } (s.payBits 7 0)))) := by
  refine (show execPublishMonitors s = _ from mailbox_asked ha rfl (by rw [State.payZero_nil hz]; rfl)).trans ?_
  dsimp only
  rw [hp]

theorem State.freezeBad_none (h : s.payBits 11 9 = 7) : s.freezeBad = none := by
  unfold State.freezeBad
  rw [h]
  rfl

theorem freeze_asked (ha : s.asked 8 8) (h : s.payBits 11 9 = 7) (hf : s.payBits 8 8 = 1) :
    exec .freeze s = .next (s.answered (s.freezeRequest true)) :=
  show execFreeze s = _ from mailbox_asked ha (beq_iff_eq.mpr hf) (State.freezeBad_none h)

theorem unfreeze_asked (ha : s.asked 8 8) (h : s.payBits 11 9 = 7) (hf : s.payBits 8 8 = 0) :
    exec .unfreeze s = .next (s.answered (s.freezeRequest false)) :=
  show execUnfreeze s = _ from mailbox_asked ha (beq_iff_eq.mpr hf) (State.freezeBad_none h)

theorem swapOut_asked (ha : s.asked 9 72) (h : s.payBits 9 8 = 0) :
    exec .swapOut s = .next (s.answered (s.swapCores (s.payBits 7 0) (maskCores (s.pay 8 64)) true)) :=
  show execSwapOut s = _ from mailbox_asked ha (by rw [h]; rfl) (by rw [h]; rfl)

theorem swapIn_asked (ha : s.asked 9 72) (h : s.payBits 9 8 = 1) :
    exec .swapIn s = .next (s.answered (s.swapCores (s.payBits 7 0) (maskCores (s.pay 8 64)) false)) :=
  show execSwapIn s = _ from mailbox_asked ha (beq_iff_eq.mpr h) rfl

/-- The end of a partition that request 0x09 asks for is a mailbox request. -/
theorem execEndPartition_request {p : BitVec 8} (hw : s.reqWaits = true) (ho : s.reqOp = 9) (h : s.payBits 9 8 = 2)
    (hp : p.toNat = s.payBits 7 0) : exec (.endPartition p) s = mailbox s 9 true 72 none fun s =>
      if (s.partitions.get p.toNat).isNone then .refused else .done (s.endPartition p.toNat) := by
  refine if_pos ?_
  rw [hw, ho, h, hp]
  simp

theorem endPartition_asked {p : BitVec 8} (ha : s.asked 9 72) (h : s.payBits 9 8 = 2) (hp : p.toNat = s.payBits 7 0)
    (hx : (s.partitions.get (s.payBits 7 0)).isSome = true) :
    exec (.endPartition p) s = .next (s.answered (.done (s.endPartition p.toNat))) := by
  rw [execEndPartition_request ha.1 ha.2.1 h hp, mailbox_asked ha rfl rfl, if_neg (by rwa [hp, Bool.not_eq_true, Option.isNone_eq_false_iff])]

theorem State.endPartition_gone (s : State) (p : Nat) : (s.endPartition p).partitions.get p = none ∧ (s.endPartition p).mem = s.mem := by
  obtain ⟨hmem, -⟩ := s.endPartition_rest p
  exact ⟨by rw [State.endPartition_get, if_pos rfl], hmem⟩

/-! ### Pods and images of firmware -/

/-- The pod that a request configures. -/
def State.podAsked (s : State) : Pod :=
  ⟨s.payBits 5 0, s.payBits 14 8, (List.range 64).map fun p => BitVec.ofNat 16 (s.pay (8 + 2 * p) 2), true, [], []⟩

/-- The package under its number in the pod: its bytes keep their places there. -/
def State.configured (s : State) : State :=
  { s with
    pod := s.podAsked
    mem := s.mem.foldl (fun m c => Memory.write m (renamePkg s.pod.pkgid (s.payBits 5 0) c.1) c.2) []
    flaws := s.flaws.map fun w => renamePkg s.pod.pkgid (s.payBits 5 0) (8 * w) / 8 }

theorem configurePod_asked (ha : s.asked 10 136) (hb : s.podBad = none) :
    exec .configurePod s = .next (s.answered (.done s.configured)) := by
  show execConfigurePod s = _
  unfold execConfigurePod
  exact mailbox_asked ha rfl hb

theorem configurePod_fails (ha : s.asked 10 136) {off : Nat} (hb : s.podBad = some off) :
    exec .configurePod s = .next (s.answer 2 (some off)) := by
  show execConfigurePod s = _
  unfold execConfigurePod
  exact mailbox_fails ha rfl hb

theorem configurePod_malformed : s.malformed 10 136 (exec .configurePod s) := by
  show s.malformed 10 136 (execConfigurePod s)
  unfold execConfigurePod
  exact mailbox_malformed rfl

/-- An image of sound memory is staged as the inactive copy. -/
theorem State.stage_image {kind : Nat} (hk : kind < 3) {i : Instr} (h : exec i s = .next (s.answered (s.stage kind))) :
    (∀ ls, s.partLocs (s.payBits 7 0) (s.pay 8 8) (s.pay 16 8) false = .ok ls → s.soiled ls = none → ∃ t : State,
      exec i s = .next (t.answer 0 none) ∧ t.mgmt.inactive[kind]? = some (s.bytesAt ls) ∧ t.mgmt.staged[kind]? = some true)
    ∧ ∀ e, s.partLocs (s.payBits 7 0) (s.pay 8 8) (s.pay 16 8) false = .error e → exec i s = .next (s.answer 1 none) := by
  constructor
  · intro ls hl hs
    have hst : s.stage kind = .done { s with mgmt := { s.mgmt with
        inactive := s.mgmt.inactive.setIfInBounds kind (s.bytesAt ls)
        staged := s.mgmt.staged.setIfInBounds kind true } } := by
      unfold State.stage
      rw [hl]
      exact if_neg (by rw [hs]; decide)
    exact ⟨_, State.done_of h hst, Vector.getElem?_setIfInBounds_self_of_lt hk, Vector.getElem?_setIfInBounds_self_of_lt hk⟩
  · intro e he
    refine State.refused_of h ?_
    unfold State.stage
    rw [he]

theorem stageSupervisorFirmware_asked (ha : s.asked 11 24) (h : s.payBits 9 8 = 0) :
    exec .stageSupervisorFirmware s = .next (s.answered (s.stage 0)) :=
  show execStageSupervisorFirmware s = _ from mailbox_asked ha (by rw [h]; rfl) (by rw [h]; rfl)

theorem stageManagementFirmware_asked (ha : s.asked 11 24) (h : s.payBits 9 8 = 1) :
    exec .stageManagementFirmware s = .next (s.answered (s.stage 1)) :=
  show execStageManagementFirmware s = _ from mailbox_asked ha (beq_iff_eq.mpr h) rfl

theorem stageConfigRecord_asked (ha : s.asked 11 24) (h : s.payBits 9 8 = 2) :
    exec .stageConfigRecord s = .next (s.answered (s.stage 2)) :=
  show execStageConfigRecord s = _ from mailbox_asked ha (beq_iff_eq.mpr h) rfl

end

end Sys2Proof.Machine
end

section
/-!
PROOFS. O54: the statement itself (R372, R373).
-/
namespace Sys2Proof.Machine

/-- What a swap leaves is answered as the swap ends. -/
theorem State.answered_swap {s : State} {i : Instr} {a : Answer} (h : exec i s = .next (s.answered a)) :
    match (generalizing := false) a with
    | .done t => exec i s = .next (t.answer 0 none)
    | .refused => exec i s = .next (s.answer 1 none)
    | .failed t => exec i s = .next (t.answer 1 none)
    | .wait t => exec i s = .next t := by
  cases a <;> exact h

/-- Settles O54, request by request: each is the mailbox's frame around one change of the state. -/
theorem partitionRequests : Obligations.PartitionRequests := by
  unfold Obligations.PartitionRequests
  intro s
  extract_lets answers refused f part exists_
  refine ⟨?create, ?image, ?aperture, ?ring, ?shootdown, ?owners, ?monitors, ?freeze, ?cores, ?ended, ?pod, ?stage, ?length, ?wrong⟩
  case create =>
    intro ha hz h16 h24
    have hx := createPartition_asked ha hz h16 h24
    refine ⟨(State.answered_of hx).1, (State.answered_of hx).2, fun c hp hc hf hn => ?_⟩
    obtain ⟨t, ht, hcs, hpart⟩ := State.createPart_one (r := s.partRequest) hp hc hf hn
    exact ⟨t, (State.answered_of hx).2 t ht, hcs, hpart⟩
  case image =>
    intro ha hz h24
    exact State.answered_of (loadPatternImage_asked ha hz h24)
  case aperture =>
    intro ha h7 h63 hb
    refine ⟨fun h4 hx => ?_, fun h4 hx => ?_, fun h4 => ?_⟩
    · refine ⟨_, State.done_of (bindAperture_asked ha h7 h63 hb h4) (if_neg ?_), rfl, rfl⟩
      rw [Bool.not_eq_true, Option.isNone_eq_false_iff]
      exact hx
    · exact State.refused_of (bindAperture_asked ha h7 h63 hb h4) (if_pos (Option.isNone_iff_eq_none.mpr hx))
    · exact ⟨_, State.done_of (unbindAperture_asked ha h7 h63 hb h4) rfl, Tab.get_del_same _ _, rfl⟩
  case ring =>
    intro ha hz
    refine ⟨fun h => ?_, fun h => ?_⟩
    · have hx := State.answered_of (bindRing_asked ha hz h)
      exact ⟨hx.2, hx.1⟩
    · have hx := State.answered_of (unbindRing_asked ha hz h)
      refine ⟨fun v r hv hr hh => ?_, hx.1⟩
      obtain ⟨t, w, ht, hw, hslot⟩ := State.unbindRing_bound hv hr
      exact ⟨t, w, hx.2 t (hh ▸ ht), hw, hslot⟩
  case shootdown =>
    intro ha hz h8 h16
    have hx := shootdown_asked ha hz h8 h16
    refine ⟨fun harm => State.refused_of hx (if_pos harm), fun harm hbusy => ?_, fun harm hbusy => ?_⟩
    · rw [hx, State.shootAnswer_wait harm hbusy]
      rfl
    · exact ⟨_, State.done_of hx (State.shootAnswer_done harm hbusy), rfl, s.shootdown_tlb _ _ _⟩
  case owners =>
    intro hz
    exact ⟨fun ha h hp => assignLandingCounters_owners hz ha h hp, fun ha h => releaseLandingCounters_owners hz ha h,
      fun ha h hp hfree => assignPiers_owners hz ha h hp hfree, fun ha h hown => releasePiers_owners hz ha h hown⟩
  case monitors =>
    intro p ha hz hp
    exact State.done_of (publishMonitors_asked ha hz hp) rfl
  case freeze =>
    intro ha hs hp hx v hv
    refine ⟨fun h => ?_, fun h => ?_⟩
    · obtain ⟨w, hw, hc⟩ := State.setFrozen_ctx hv (k := s.payBits 28 27) (State.payBits_lt s 28 27) true
      exact ⟨_, w, State.done_of (freeze_asked ha hs h) (State.freezeRequest_context hs hp hx hv true), hw, hc⟩
    · obtain ⟨w, hw, hc⟩ := State.setFrozen_ctx hv (k := s.payBits 28 27) (State.payBits_lt s 28 27) false
      exact ⟨_, w, State.done_of (unfreeze_asked ha hs h) (State.freezeRequest_context hs hp hx hv false), hw, hc⟩
  case cores =>
    intro ha
    refine ⟨fun h => State.answered_swap (swapOut_asked ha h), fun h => State.answered_swap (swapIn_asked ha h), fun h p hp hx => ?_⟩
    obtain ⟨hgone, hmem⟩ := s.endPartition_gone p.toNat
    exact ⟨_, State.done_of (endPartition_asked ha h hp hx) rfl, hp ▸ hgone, hmem⟩
  case ended =>
    intro hw p
    exact ⟨_, if_neg (by simp [hw]), s.endPartition_gone p.toNat⟩
  case pod =>
    intro ha
    refine ⟨fun h => configurePod_fails ha (State.podBad_count h), fun h1 h64 => ⟨fun h0 hl => ?_, fun n hn hb hf => ?_⟩⟩
    · exact ⟨_, State.done_of (configurePod_asked ha (State.podBad_fits h1 h64 h0 hl)) rfl, rfl⟩
    · exact configurePod_fails ha (State.podBad_first h1 h64 hn hb hf)
  case stage =>
    intro ha
    exact ⟨fun h => State.stage_image (by decide) (stageSupervisorFirmware_asked ha h),
      fun h => State.stage_image (by decide) (stageManagementFirmware_asked ha h),
      fun h => State.stage_image (by decide) (stageConfigRecord_asked ha h)⟩
  case length =>
    intro hw ho hl
    refine ⟨fun hz h16 h24 => ?_, fun hz h3 => ?_⟩
    · rw [createPartition_length hw ho hl, State.createBad_none h16 h24 hz]
      rfl
    · rw [createPartition_length hw ho hl, State.createBad_three hz]
      exact congrArg (fun d => Host.Outcome.next (s.answer 2 d)) (if_pos (decide_eq_true h3))
  case wrong =>
    refine ⟨(mailbox_malformed rfl : s.malformed 1 96 (execCreatePartition s)),
      (mailbox_malformed rfl : s.malformed 2 40 (execLoadPatternImage s)),
      (mailbox_malformed rfl : s.malformed 5 24 (execShootdown s)),
      (mailbox_malformed rfl : s.malformed 7 16 (execPublishMonitors s)),
      configurePod_malformed,
      fun h => (mailbox_malformed (beq_iff_eq.mpr h) : s.malformed 3 16 (execBindAperture s)),
      fun h => (mailbox_malformed (beq_iff_eq.mpr h) : s.malformed 3 16 (execUnbindAperture s)),
      fun h => (mailbox_malformed (beq_iff_eq.mpr h) : s.malformed 4 16 (execBindRing s)),
      fun h => (mailbox_malformed (beq_iff_eq.mpr h) : s.malformed 4 16 (execUnbindRing s)),
      fun h => (mailbox_malformed (beq_iff_eq.mpr h) : s.malformed 8 8 (execFreeze s)),
      fun h => (mailbox_malformed (beq_iff_eq.mpr h) : s.malformed 8 8 (execUnfreeze s)),
      fun h => ⟨(mailbox_malformed (beq_iff_eq.mpr h) : s.malformed 6 2056 (execReleaseLandingCounters s)),
        (mailbox_malformed (by rw [show s.payBits 9 8 = 0 from h]; rfl) : s.malformed 9 72 (execSwapOut s)),
        (mailbox_malformed (by rw [show s.payBits 9 8 = 0 from h]; rfl) : s.malformed 11 24 (execStageSupervisorFirmware s))⟩,
      fun h => ⟨(mailbox_malformed (beq_iff_eq.mpr h) : s.malformed 6 136 (execReleasePiers s)),
        (mailbox_malformed (beq_iff_eq.mpr h) : s.malformed 9 72 (execSwapIn s)),
        (mailbox_malformed (beq_iff_eq.mpr h) : s.malformed 11 24 (execStageManagementFirmware s))⟩,
      fun h => ⟨(mailbox_malformed (beq_iff_eq.mpr h) : s.malformed 6 2056 (execAssignLandingCounters s)),
        (mailbox_malformed (beq_iff_eq.mpr h) : s.malformed 11 24 (execStageConfigRecord s)),
        fun p hp hw ho hl => ?_⟩,
      fun h => (mailbox_malformed (beq_iff_eq.mpr h) : s.malformed 6 136 (execAssignPiers s))⟩
    rw [execEndPartition_request hw ho h hp]
    exact mailbox_malformed rfl hw ho hl

end Sys2Proof.Machine
end

section
/-!
PROOFS. O4, O5, O6: decoding and encoding are inverse to each other, row by row of the opcode maps (R38, R46, R48 to R54, R255).
-/
namespace Sys2Proof

/-! ### A class that decodes a word encodes it -/

/-- What `encode` makes of the instructions of a row: `base` is the guard and the opcode in their places. -/
def Row.encodes (r : Row) (width base : Nat) : Prop :=
  widthSum r.1 = width ∧ ∀ vs i, (∀ e ∈ r.1.zip vs, e.2 < 2 ^ e.1) → r.2 vs = some i →
    encode i = some (BitVec.ofNat 32 (base + packFields (r.1.zip vs)))

/-- A slot word holds its fields cut to their widths, so fields that pack alike give one word. -/
theorem encode_of_code {i : Instr} {c : SlotClass} {op g : Nat} {fs gs : List (Nat × Nat)} (h : i.code = some (c, op, g, fs))
    (hc : c ≠ .P) (hp : packFields fs = packFields gs) :
    encode i = some (BitVec.ofNat 32 (g * 2 ^ 28 + op * 2 ^ 21 + packFields gs)) := by
  cases c
  case P => exact absurd rfl hc
  all_goals simp only [encode, h, hp]

theorem encode_of_pier_code {i : Instr} {op g : Nat} {fs gs : List (Nat × Nat)} (h : i.code = some (.P, op, g, fs))
    (hp : packFields fs = packFields gs) : encode i = some (BitVec.ofNat 32 (op * 2 ^ 26 + packFields gs)) := by
  simp only [encode, h, hp]

/-- Row by row: an instruction's code holds the opcode and the fields of the row that builds it. -/
theorem classRow_encodes {c : SlotClass} (hc : c ≠ .P) {g : BitVec 4} {op : Nat} {r : Row} (h : classRow c g op = some r) :
    r.encodes 21 (g.toNat * 2 ^ 28 + op * 2 ^ 21) := by
  cases c
  case P => exact absurd rfl hc
  all_goals
    simp only [classRow, cRow, sRow, vRow, wRow, eRow, aluRow] at h
    (repeat' split at h) <;> cases h
  all_goals
    refine ⟨rfl, fun vs i _ hm => ?_⟩
    dsimp only at hm
    split at hm <;> cases hm
    exact encode_of_code rfl (by decide) (by simp)

/-- The same of the pier's rows; PLOOP's count stands in two fields. -/
theorem pRow_encodes {op : Nat} {r : Row} (h : pRow op = some r) : r.encodes 26 (op * 2 ^ 26) := by
  unfold pRow at h
  split at h <;> cases h
  case h_3 =>
    refine ⟨rfl, fun vs i hv hm => ?_⟩
    dsimp only at hm
    split at hm <;> cases hm
    case h_1 a n l =>
      refine encode_of_pier_code rfl ?_
      have hn : n < 2 ^ 10 := hv (10, n) (by simp)
      simp
      omega
    case h_2 => exact encode_of_pier_code rfl (by simp)
  all_goals
    refine ⟨rfl, fun vs i _ hm => ?_⟩
    dsimp only at hm
    split at hm <;> cases hm
    exact encode_of_pier_code rfl (by simp)

/-- Unpacked fields fit their widths. -/
theorem lt_of_mem_zip_unpackFields {ws : List Nat} {v : Nat} {e : Nat × Nat} (h : e ∈ ws.zip (unpackFields ws v)) :
    e.2 < 2 ^ e.1 := by
  induction ws with
  | nil => cases h
  | cons w r ih =>
    rcases List.mem_cons.1 h with rfl | h
    · exact Nat.mod_lt _ (Nat.two_pow_pos w)
    · exact ih h

/-- What an applied row decodes to is encoded by the row's guard and opcode and by the operand field. -/
theorem encode_of_applyRow {row : Option Row} {width base v : Nat} {i : Instr} (hr : ∀ r, row = some r → r.encodes width base)
    (h : applyRow row v = .ok i) : encode i = some (BitVec.ofNat 32 (base + v % 2 ^ width)) := by
  obtain _ | r := row
  · cases h
  obtain ⟨hw, he⟩ := hr r rfl
  simp only [applyRow] at h
  split at h <;> cases h
  rename_i hm
  rw [he _ _ (fun _ => lt_of_mem_zip_unpackFields) hm, packFields_unpackFields, hw]

/-- Settles O5: the row of the word's opcode encodes what it builds by the word's guard, opcode and operand field. -/
theorem encodeOfDecode : Obligations.EncodeOfDecode := by
  unfold Obligations.EncodeOfDecode
  intro c w i h
  have hlt := w.isLt
  by_cases hc : c = .P
  · subst hc
    rw [encode_of_applyRow (fun _ => pRow_encodes) h, Nat.mod_mod, Nat.div_add_mod']
    simp
  · have hd : applyRow (classRow c (BitVec.ofNat 4 (w.toNat / 2 ^ 28)) (w.toNat / 2 ^ 21 % 2 ^ 7)) (w.toNat % 2 ^ 21) = .ok i := by
      cases c
      case P => exact absurd rfl hc
      all_goals exact h
    rw [encode_of_applyRow (fun _ => classRow_encodes hc) hd]
    have hw : (BitVec.ofNat 4 (w.toNat / 2 ^ 28)).toNat * 2 ^ 28 + w.toNat / 2 ^ 21 % 2 ^ 7 * 2 ^ 21 + w.toNat % 2 ^ 21 % 2 ^ 21
        = w.toNat := by
      rw [BitVec.toNat_ofNat]
      omega
    rw [hw]
    simp

/-! ### A word is decoded to what it encodes -/

/-- The row of an instruction's class and opcode builds it from the fields of its code. -/
theorem classRow_of_code {i : Instr} {c : SlotClass} {op g : Nat} {fs : List (Nat × Nat)} (h : i.code = some (c, op, g, fs))
    (hc : c ≠ .P) : op < 128 ∧ g < 16 ∧ widthSum (fs.map (·.1)) = 21
      ∧ ∃ mk, classRow c (BitVec.ofNat 4 g) op = some (fs.map (·.1), mk) ∧ mk (fs.map fun e => e.2 % 2 ^ e.1) = some i := by
  cases i <;> cases h
  case pnop | pend | ploopImm | ploopReg | parg | padd | psetk | pldx | pzer | prow | prown | psto | pstob | pwait | pcvt | psig
    | pmov => exact absurd rfl hc
  all_goals
    refine ⟨by decide, BitVec.isLt _, rfl, _, rfl, ?_⟩
    simp only [List.map_cons, List.map_nil, ofNat_toNat_mod, Nat.zero_mod, BitVec.ofNat_toNat, BitVec.setWidth_eq]

theorem pRow_of_code {i : Instr} {op g : Nat} {fs : List (Nat × Nat)} (h : i.code = some (.P, op, g, fs)) :
    op < 64 ∧ widthSum (fs.map (·.1)) = 26
      ∧ ∃ mk, pRow op = some (fs.map (·.1), mk) ∧ mk (fs.map fun e => e.2 % 2 ^ e.1) = some i := by
  cases i <;> cases h
  case ploopImm n l =>
    -- the count stands in two fields, its upper three bits and its lower ten
    refine ⟨by decide, rfl, _, rfl, ?_⟩
    have hn : n.toNat / 2 ^ 10 % 2 ^ 3 * 2 ^ 10 + n.toNat % 2 ^ 10 = n.toNat := by omega
    simp only [List.map_cons, List.map_nil, ofNat_toNat_mod, Nat.zero_mod, Nat.mod_mod, hn, BitVec.ofNat_toNat, BitVec.setWidth_eq]
  case ploopReg =>
    refine ⟨by decide, rfl, _, rfl, ?_⟩
    have h1 : 1 % 2 ^ 1 = 1 := rfl
    simp only [List.map_cons, List.map_nil, ofNat_toNat_mod, Nat.zero_mod, h1]
  all_goals
    refine ⟨by decide, rfl, _, rfl, ?_⟩
    simp only [List.map_cons, List.map_nil, ofNat_toNat_mod, Nat.zero_mod]

/-- Settles O4: the map of the instruction's class finds its row, which builds it from the fields that `encode` packed. -/
theorem decodeOfEncode : Obligations.DecodeOfEncode := by
  unfold Obligations.DecodeOfEncode
  intro i c op g fs w h he
  by_cases hc : c = .P
  · subst hc
    obtain ⟨hop, hw, mk, hr, hm⟩ := pRow_of_code h
    rw [encode_of_pier_code h rfl] at he
    cases he
    rw [decode_pier op fs hop hw]
    exact applyRow_packFields hr rfl hm
  · obtain ⟨hop, hg, hw, mk, hr, hm⟩ := classRow_of_code h hc
    rw [encode_of_code h hc rfl] at he
    cases he
    rw [decode_slot c hc op g fs hop hg hw]
    exact applyRow_packFields hr rfl hm

/-- Settles O6: the printed words by evaluation of the decoder. -/
theorem specWordsDecode : Obligations.SpecWordsDecode := by
  unfold Obligations.SpecWordsDecode
  decide

end Sys2Proof
end

section
/-!
PROOFS. O8: a slot whose guard is false (R38).
-/
namespace Sys2Proof.Machine

/-! ### A false guard -/

/-- A slot that names segments stands behind no bundle that has named one, so its false guard leaves nothing to settle (R38, R285). -/
theorem segOp_false {g : BitVec 4} {s : State} {b : Except Halt State} (hb : s.issue.bundleSet = []) (hc : s.issue.cmdSet = [])
    (hd : s.issue.defined = 0) (ha : s.issue.absent = false) (h : s.readP g.toNat = .ok false) : segOp g s b = .next s := by
  have hn : s.issue.named = false := by simp [Issue.named, Issue.knownSet, hb, hc, hd]
  unfold segOp
  rw [h]
  exact settle_ok ha (.inl hn)

/-- Settles O8, by the frame of each slot instruction: that of a slot, or that of a slot which names segments. -/
theorem falseGuardDoesNothing : Obligations.FalseGuardDoesNothing := by
  unfold Obligations.FalseGuardDoesNothing
  intro i s hi hp hs hb hc hd ha hg
  cases i with
  | bar | barx | sgstat | br | call | jr | jalr | ret | loop | loopi | mode | yield | halt | bkpt | trap | sysc | tret
    | eret | nprb | npre | ifence | efence | nop | vnop | wnop | enop | ld | st | amo | amo4 | cas | cas4 | pref | ctw
    | crd | cwr | waits | sigs | semset | waitw | isum | banksw | vldg | vstg | vgtg | vscg | tknext | tkdone | tkwait
    | pstop | add | sub | and | or | xor | shl | shr | sra | mul | mulh | div | rem | min | max | clz | ctz | popc
    | brev | sext | shadd | addi | andi | ori | xori | shli | shri | srai | movi | cmp | cmpeqi | cmplti | plog | pmovx
    | xmovp | fadd | fsub | fmul | fmin | fmax | fcmp | fcvt | vadd | vsub | vmul | vmin | vmax | vfma | vabs | vneg
    | vand | vor | vxor | vshl | vshr | vsra | vdiv | vrem | vsqrt | vrec | vrsq | vexp2 | vlog2 | vcmp | vsel | vmov
    | vbcast | viota | vext | vins | vred | vscan | vperm | vpart | mlog | mpop | mfromx | mtox | vcvt | vcv8 | vun8
    | vdec4 | venc4 | ldread | lddis | mscl | kinit | kclr | kins | kinsi | kmrg | kout | klen | kth => exact slotOp_false hg
  | sgdef | sgdrop | sgpin | sgunpin | sgpush | sgpull | sgsplit | lds8 | lds4 | sts8 | sts4 | vlds | vsts | vgts
    | vscs | ksave | kload | kmrgs | pget | pput | tkpost | fcmd | ldarm | mwld | mstr | mrank | mout | mzero | pcmd
    | pload => exact segOp_false hb hc hd ha hg
  | sel => cases hs
  | pnop | pend | ploopImm | ploopReg | parg | padd | psetk | pldx | pzer | prow | prown | psto | pstob | pwait | pcvt
    | psig | pmov => cases hp
  | _ => cases hi

end Sys2Proof.Machine
end

section
/-!
PROOFS. O12: what a scalar source field reads (R43, R47, R59, R66, R67, R175, R360).
-/
namespace Sys2Proof.Machine

/-! ### What stands in the way of reading a register (R66, R67, R175, R360) -/

/-- The oldest pending load that owes a register its value. -/
def State.owing (s : State) (r : Reg) : Option Load := s.issue.pendLoads.find? fun l => l.dests.any fun d => decide (d.1 = r)

section
variable {s : State} {r : Reg}

theorem State.hazard_owed {l : Load} (h : s.owing r = some l) (hb : l.bad = false) : s.hazard r = .error (.blocked .load) := by
  unfold State.owing at h
  simp [State.hazard, h, hb]

theorem State.hazard_bad {l : Load} (h : s.owing r = some l) (hb : l.bad = true) :
    s.hazard r = .error (s.trapHere memUncorrectable 0 (memErrorValue l.bundle l.phys)) := by
  unfold State.owing at h
  simp [State.hazard, h, hb]

theorem State.hazard_stalled (h : s.owing r = none) (hm : s.issue.mode.ilk = true) (hf : ∃ e ∈ s.issue.pendFlight, e.reg = r) :
    s.hazard r = .error .stalled := by
  unfold State.owing at h
  have hp : (s.issue.pendFlight.any fun e => decide (e.reg = r)) = true := by simpa using hf
  simp [State.hazard, h, hm, hp]

/-- No result that is owed stands in the way, so the register as it stands decides. -/
theorem State.hazard_standing (h : s.owing r = none) (hf : s.issue.mode.ilk = false ∨ ∀ e ∈ s.issue.pendFlight, e.reg ≠ r) :
    s.hazard r = if s.cx.flaws.contains r then .error s.sramTrap else .ok () := by
  unfold State.owing at h
  have hp : (s.issue.mode.ilk && s.issue.pendFlight.any fun e => decide (e.reg = r)) = false := by
    rcases hf with hf | hf
    · simp [hf]
    · simpa using fun _ => hf
  simp [State.hazard, h, hp]

end

/-! ### A scalar source (R43, R47) -/

theorem State.readX_broadcast {s : State} {a : BitVec 6} (h : a.toNat = 63) : s.readX a = .ok s.issue.bcast := by
  simp [State.readX, h]

theorem State.readX_reserved {s : State} {a : BitVec 6} (h1 : 48 ≤ a.toNat) (h2 : a.toNat ≤ 62) :
    s.readX a = .error (s.trapHere 3 0 a.toNat) := by
  have h : a.toNat ≠ 63 := by omega
  simp [State.readX, h, h1]

/-- A name reads the physical register it rotates to, behind what stands in the way of that. -/
theorem State.readX_name {s : State} {a : BitVec 6} (h : a.toNat < 48) :
    s.readX a = (s.hazard (.x (physX s.issue.rrb a.toNat))).map fun _ => s.cx.getX (physX s.issue.rrb a.toNat) := by
  have h1 : a.toNat ≠ 63 := by omega
  have h2 : ¬ 48 ≤ a.toNat := by omega
  simp only [State.readX, h1, h2, if_false]
  cases s.hazard (.x (physX s.issue.rrb a.toNat)) <;> rfl

/-- Settles O12: a name reads behind the hazard of its register, case by case. -/
theorem scalarSourceReads : Obligations.ScalarSourceReads := by
  unfold Obligations.ScalarSourceReads
  intro s a r owed
  refine ⟨State.readX_broadcast, State.readX_reserved, fun h => ?_⟩
  rw [State.readX_name h]
  refine ⟨fun l hl hb => ?_, fun l hl hb => ?_, fun hl hm hf => ?_, fun hl hf => ?_⟩
  · rw [State.hazard_owed hl hb]
    rfl
  · rw [State.hazard_bad hl hb]
    rfl
  · rw [State.hazard_stalled hl hm hf]
    rfl
  · rw [State.hazard_standing hl hf]
    refine ⟨fun hn => ?_, fun hn => ?_⟩
    · have hc : s.cx.flaws.contains r = false := by simpa using hn
      have hx : s.cx.getX (physX s.issue.rrb a.toNat) = if a = 0 then 0 else s.cx.getX (physX s.issue.rrb a.toNat) := by
        split
        · subst a
          rfl
        · rfl
      rw [hc, ← hx]
      rfl
    · have hc : s.cx.flaws.contains r = true := by simpa using hn
      rw [hc]
      exact ⟨_, rfl⟩

end Sys2Proof.Machine
end

section
/-!
PROOFS. O37: WAITS, SIGS, SEMSET and WAITW (R92, R313, R315).
-/
namespace Sys2Proof.Machine

/-! ### Semaphores (R313, R315) -/

/-- A threshold is met when the count, taken modulo 2^16, has not fallen behind it. -/
theorem semHolds_true (y t : BitVec 16) : semHolds y t = true ↔ 0 ≤ (y - t).toInt := by
  have h := semHolds_false y t
  rw [← Bool.not_eq_false, h]
  omega

/-- A change of the issuing core is told by what it makes of the core as it stands. -/
theorem State.modCcs_congr {s : State} {f g : CoreState → CoreState} (h : f s.ccs = g s.ccs) : s.modCcs f = s.modCcs g := by
  unfold State.modCcs State.modCS State.modCore
  change s.setCore _ { s.core s.issue.core with cur := f s.ccs } = _
  rw [h]
  rfl

section
variable {s : State} {g : BitVec 4} (hg : s.readP g.toNat = .ok true) {y : BitVec 8} {a b : BitVec 6} {x v : X64} (hx : s.readX a = .ok x)
include hg hx

theorem execWaits_eq : exec (.waits g y a) s = finish s (if semHolds (s.ccs.sems.read 0 y.toNat) (x.setWidth 16)
    then .ok (s.modCx fun c => c.observe (s.semNews s.issue.core y.toNat)) else .error (.blocked .waits)) := by
  refine (slotOp_true hg).trans ?_
  rw [hx]
  rfl

theorem execSigs_eq : exec (.sigs g y a) s = .next (s.modCcs fun w =>
    { w with sems := w.sems.write 0 y.toNat (BitVec.ofNat 16 ((s.ccs.sems.read 0 y.toNat).toNat + x.toNat % 2 ^ 16)) }) := by
  refine (slotOp_true hg).trans ?_
  rw [hx]
  refine congrArg Host.Outcome.next (State.modCcs_congr ?_)
  rw [BitVec.ofNat_add, BitVec.ofNat_toNat, BitVec.setWidth_eq]
  rfl

theorem execSemset_eq : exec (.semset g y a) s = .next ((s.forgetSem s.issue.core y.toNat).modCcs fun w =>
    { w with sems := w.sems.write 0 y.toNat (x.setWidth 16) }) := by
  refine (slotOp_true hg).trans ?_
  rw [hx]
  rfl

/-! ### WAITW (R92) -/

variable (hv : s.readX b = .ok v)
include hv

/-- WAITW ends at once where its wait has ended, waits on where it is the wait in force, and else reads its word. -/
theorem execWaitw_eq : let va := x.toNat / 8 * 8
    exec (.waitw g a b) s = finish s (if s.cx.waitwEnded then .ok (s.modCx fun c => { c with waitwEnded := false })
      else if s.cx.wait = .waitw va v then .error (.blocked (.waitw va v))
      else (s.check va 8 0 false).bind fun ls =>
        if (s.soiled ls).isSome then .error (s.trapHere memUncorrectable 0 (memErrorValue s.issue.pc (s.physOf va)))
        else if leNat (s.bytesAt ls) = v.toNat then .error (.blocked (.waitw va v))
        else .ok ((s.touchAll s.issue.core va 8 ls false).observeWords s.issue.core s.issue.ctx ls)) := by
  refine (slotOp_true hg).trans ?_
  rw [hx, hv]
  rfl

theorem execWaitw_ended (he : s.cx.waitwEnded = true) :
    exec (.waitw g a b) s = .next (s.modCx fun c => { c with waitwEnded := false }) := by
  rw [execWaitw_eq hg hx hv, if_pos he]
  rfl

theorem execWaitw_waiting (he : s.cx.waitwEnded = false) (hw : s.cx.wait = .waitw (x.toNat / 8 * 8) v) :
    exec (.waitw g a b) s = .next (s.halt (.blocked (.waitw (x.toNat / 8 * 8) v))) := by
  rw [execWaitw_eq hg hx hv, if_neg (Bool.eq_false_iff.1 he), if_pos hw]
  rfl

/-- The first read. -/
theorem execWaitw_reads (he : s.cx.waitwEnded = false) (hw : s.cx.wait ≠ .waitw (x.toNat / 8 * 8) v) : let va := x.toNat / 8 * 8
    exec (.waitw g a b) s = finish s ((s.accessTrap 0 (s.locs s.issue.core va 8 false)).bind fun ls =>
        if (s.soiled ls).isSome then .error (s.trapHere memUncorrectable 0 (memErrorValue s.issue.pc (s.physOf va)))
        else if leNat (s.bytesAt ls) = v.toNat then .error (.blocked (.waitw va v))
        else .ok ((s.touchAll s.issue.core va 8 ls false).observeWords s.issue.core s.issue.ctx ls)) := by
  intro va
  rw [execWaitw_eq hg hx hv, if_neg (Bool.eq_false_iff.1 he), if_neg hw]
  rfl

end

/-- Settles O37: each instruction's body decides by its semaphore's count or by the word it reads. -/
theorem semaphoreWaits : Obligations.SemaphoreWaits := by
  unfold Obligations.SemaphoreWaits
  intro s g y a b x v hg hx hv count put va
  refine ⟨fun h => ?_, fun h => ?_, execSigs_eq hg hx, execSemset_eq hg hx, execWaitw_ended hg hx hv, execWaitw_waiting hg hx hv,
    fun he hw => ?_⟩
  · rw [execWaits_eq hg hx, if_pos ((semHolds_true _ _).2 h)]
    rfl
  · rw [execWaits_eq hg hx, (semHolds_false _ _).2 h]
    rfl
  · rw [execWaitw_reads hg hx hv he hw]
    refine ⟨fun ls hl hs => ⟨fun hb => ?_, fun hb => ?_⟩, fun ls hl hs => ?_, fun cause f hl => ?_⟩
    · rw [hl]
      simp [State.accessTrap, Except.bind, hs, hb, va]
    · rw [hl]
      obtain ⟨-, hmem, hissue, -⟩ := s.touchAll_noted s.issue.core va 8 ls false
      refine ⟨(s.touchAll s.issue.core va 8 ls false).observeWords s.issue.core s.issue.ctx ls, ?_, hmem, hissue⟩
      simp [State.accessTrap, Except.bind, hs, hb, va]
    · rw [hl]
      simp only [State.accessTrap, Except.bind, hs, if_true]
      rfl
    · rw [hl]
      simp only [State.accessTrap, Except.bind, State.xlateValue_eq]
      rfl

end Sys2Proof.Machine
end

section
/-!
PROOFS. O57: instructions that touch registers only, their frame (R38, R56, R60, R125, R142).
-/
namespace Sys2Proof.Machine

section
variable {s : State} (hk : s.issue.ctx < 4)
include hk

/-! ### Updates of ranked lists -/

theorem updateK_keeps (k : BitVec 3) (u : KUpdate) (lat : Nat) {regs : List Reg} (h : .k k.toNat ∈ regs) :
    Keeps s (s.updateK k u lat) regs := result_keeps s hk _ _ _ _ h

/-- The note of the last insertion is none of the registers. -/
theorem noteInsert_keeps (f : Ctx → Vector (Option Nat) 8) (regs : List Reg) :
    Keeps s (s.modCx fun c => { c with kinsAt := f c }) regs := by
  refine modCx_keeps s hk _ regs ?_ (Nat.le_refl _)
  unfold State.onlyRegs
  rw [cx_modCx s hk]
  exact ⟨rfl, fun e h => .inl h, fun e h _ => h, fun l h => .inl ⟨l, h, rfl, fun d hd => hd⟩,
    fun l h => ⟨l, h, rfl, fun d hd _ => hd⟩⟩

/-- An insertion touches its list and P7. -/
theorem insertK_keeps (k : BitVec 3) (cs : List KEntry) : Keeps s (s.insertK k cs) (.k k.toNat :: destP s.issue.rrb 7) := by
  unfold State.insertK
  have hu := updateK_keeps hk k (.insert s.exposed cs) 8 (List.mem_cons_self (a := Reg.k k.toNat) (l := destP s.issue.rrb 7))
  have hp := writeP_keeps (s.updateK k (.insert s.exposed cs) 8) hk 7 false 8 (.k k.toNat :: destP s.issue.rrb 7)
    fun r h => List.mem_cons_of_mem _ h
  have hup := hu.trans hp
  exact hup.trans (noteInsert_keeps (by rw [hup.issue]; exact hk) _ _)

end

/-! ### Bodies that read and then write (R9, R38) -/

/-- Whatever state a body answers, of the registers listed alone results may have become pending. -/
def State.bodyKeeps (s : State) (regs : List Reg) (b : Except Halt State) : Prop := ∀ t, b = .ok t → Keeps s t regs

section
variable {s t : State} {regs : List Reg}

theorem State.bodyKeeps.ok (h : Keeps s t regs) : s.bodyKeeps regs (.ok t) := by
  intro u hu
  cases hu
  exact h

theorem State.bodyKeeps.error (e : Halt) : s.bodyKeeps regs (.error e) := fun _ h => nomatch h

/-- A read comes before the rest of the body. -/
theorem State.bodyKeeps.read {α : Type} {x : Except Halt α} {f : α → Except Halt State} (h : ∀ a, s.bodyKeeps regs (f a)) :
    s.bodyKeeps regs (x >>= f) := by
  intro t ht
  obtain ⟨a, -, ha⟩ := bind_inv ht
  exact h a t ha

/-- A slot changes what its body changes, under a true guard, a false one, or none. -/
theorem State.bodyKeeps.slot {g : BitVec 4} {b : Except Halt State} (hb : s.bodyKeeps regs b) (h : slotOp g s b = .next t)
    (hv : t.issue.verdict = none) : Keeps s t regs := slot_keeps h hv hb

theorem State.bodyKeeps.finish {b : Except Halt State} (hb : s.bodyKeeps regs b) (h : Machine.finish s b = .next t)
    (hv : t.issue.verdict = none) : Keeps s t regs := by
  cases b with
  | ok u =>
    cases h
    exact hb _ rfl
  | error e =>
    cases h
    simp at hv

end

/-! ### The instructions (R49, R52, R90, R391) -/

section
variable {s t : State} {g : BitVec 4} (hk : s.issue.ctx < 4)
include hk

theorem State.bodyKeeps.writeX (d : BitVec 6) (v : X64) (lat : Nat) : s.bodyKeeps (destX s.issue.rrb d) (.ok (s.writeX d v lat)) :=
  .ok (writeX_keeps s hk d v lat _ fun _ h => h)

theorem State.bodyKeeps.writeP (n : Nat) (b : Bool) (lat : Nat) : s.bodyKeeps (destP s.issue.rrb n) (.ok (s.writeP n b lat)) :=
  .ok (writeP_keeps s hk n b lat _ fun _ h => h)

theorem State.bodyKeeps.writeV (d : BitVec 5) (m : BitVec 64) (v : VReg) (lat : Nat) :
    s.bodyKeeps (destV s.issue.rrb d) (.ok (s.writeV d m v lat)) := .ok (writeV_keeps s hk d m v lat _ fun _ h => h)

theorem State.bodyKeeps.writeM (d : BitVec 3) (v : BitVec 64) (lat : Nat) : s.bodyKeeps (destM d) (.ok (s.writeM d v lat)) :=
  .ok (writeM_keeps s hk d v lat _ fun _ h => h)

theorem State.bodyKeeps.updateK (k : BitVec 3) (u : KUpdate) (lat : Nat) : s.bodyKeeps [.k k.toNat] (.ok (s.updateK k u lat)) :=
  .ok (updateK_keeps hk k u lat (List.mem_singleton_self _))

/-- KOUT writes two registers. -/
theorem State.bodyKeeps.writeVV (d : BitVec 5) (v w : VReg) (lat : Nat) : s.bodyKeeps (destV s.issue.rrb d ++ destV s.issue.rrb (d + 1))
    (.ok ((s.writeV d (BitVec.allOnes 64) v lat).writeV (d + 1) (BitVec.allOnes 64) w lat)) :=
  .ok ((writeV_keeps s hk d _ v lat _ fun _ h => List.mem_append_left _ h).trans
    (writeV_keeps (s.writeV d _ v lat) hk (d + 1) _ w lat _ fun _ h => List.mem_append_right _ h))

variable (hv : t.issue.verdict = none)
include hv

/-- CRD of a threshold waits for it as for a register (R147). -/
theorem crd_keeps {c : BitVec 8} {d : BitVec 6} (h : exec (.crd g c d) s = .next t) : Keeps s t (destX s.issue.rrb d) := by
  refine State.bodyKeeps.slot ?_ h hv
  have hw := fun v => State.bodyKeeps.writeX hk d v 1
  split
  · exact .error _
  split
  · exact .error _
  split
  · split
    · exact .error _
    · exact hw _
  · exact hw _

/-- KMRG of a list with itself changes nothing (R146). -/
theorem kmrg_keeps {k a : BitVec 3} (h : exec (.kmrg g k a) s = .next t) : Keeps s t [.k k.toNat] := by
  refine State.bodyKeeps.slot (.read fun old => .read fun src => ?_) h hv
  split
  · exact .error _
  split
  · exact .ok (.refl _ _)
  · exact .updateK hk _ _ _

theorem vcvt_keeps {d a : BitVec 5} {f u : BitVec 3} {r : BitVec 2} {m : BitVec 3} (h : exec (.vcvt g d a f u r m) s = .next t) :
    Keeps s t (destV s.issue.rrb d) := by
  simp only [exec, execVcvt] at h
  exact vector1_keeps hk h hv

theorem vun8_keeps {d a : BitVec 5} {e : BitVec 1} {w p : BitVec 2} {m : BitVec 3} (h : exec (.vun8 g d a e w p m) s = .next t) :
    Keeps s t (destV s.issue.rrb d) := by
  simp only [exec, execVun8] at h
  exact vector1_keeps hk h hv

/-- A register-only instruction touches its destinations. -/
theorem destRegs_keeps {i : Instr} {regs : List Reg} (hi : i.destRegs s.issue.rrb = some regs) (h : exec i s = .next t) :
    Keeps s t regs := by
  cases i <;> cases hi
  case add | sub | and | or | xor | shl | shr | sra | mul | mulh | div | rem | min | max | shadd | fadd | fsub | fmul | fmin
    | fmax => exact scalar2_keeps hk h hv
  case clz | ctz | popc | brev | sext | addi | andi | ori | xori | shli | shri | srai | fcvt => exact scalar1_keeps hk h hv
  case cmp | fcmp => exact pred2_keeps hk h hv
  case cmpeqi | cmplti => exact pred1_keeps hk h hv
  case vabs | vneg | vsqrt | vrec | vrsq | vexp2 | vlog2 | vmov => exact vector1_keeps hk h hv
  case vadd | vsub | vmul | vmin | vmax | vand | vor | vxor | vshl | vshr | vsra | vdiv | vrem => exact vector2_keeps hk h hv
  case sel => exact State.bodyKeeps.finish (.read fun _ => .read fun _ => .read fun _ => .writeX hk _ _ _) h hv
  case crd => exact crd_keeps hk hv h
  case kmrg => exact kmrg_keeps hk hv h
  case vcvt => exact vcvt_keeps hk hv h
  case vun8 => exact vun8_keeps hk hv h
  case nop | vnop | wnop | enop => exact State.bodyKeeps.slot (.ok (.refl _ _)) h hv
  case movi => exact State.bodyKeeps.slot (.writeX hk _ _ _) h hv
  case pmovx | vext | mpop | mtox | klen => exact State.bodyKeeps.slot (.read fun _ => .writeX hk _ _ _) h hv
  case vred => exact State.bodyKeeps.slot (.read fun _ => .read fun _ => .writeX hk _ _ _) h hv
  case plog => exact State.bodyKeeps.slot (.read fun _ => .read fun _ => .writeP hk _ _ _) h hv
  case xmovp => exact State.bodyKeeps.slot (.read fun _ => .ok (xmovp_keeps _ _ s hk)) h hv
  case viota | vins => exact State.bodyKeeps.slot (.read fun _ => .writeV hk _ _ _ _) h hv
  case vbcast | vscan | vpart | vdec4 => exact State.bodyKeeps.slot (.read fun _ => .read fun _ => .writeV hk _ _ _ _) h hv
  case vsel | vperm | vcv8 | venc4 => exact State.bodyKeeps.slot (.read fun _ => .read fun _ => .read fun _ => .writeV hk _ _ _ _) h hv
  case vfma => exact State.bodyKeeps.slot (.read fun _ => .read fun _ => .read fun _ => .read fun _ => .writeV hk _ _ _ _) h hv
  case mfromx => exact State.bodyKeeps.slot (.read fun _ => .writeM hk _ _ _) h hv
  case vcmp | mlog => exact State.bodyKeeps.slot (.read fun _ => .read fun _ => .writeM hk _ _ _) h hv
  case kinit | kclr => exact State.bodyKeeps.slot (.read fun _ => .updateK hk _ _ _) h hv
  case kins | kinsi => exact State.bodyKeeps.slot (.read fun _ => .read fun _ => .read fun _ => .read fun _ => .ok (insertK_keeps hk _ _)) h hv
  case kout => exact State.bodyKeeps.slot (.read fun _ => .writeVV hk _ _ _ _) h hv
  case kth => exact State.bodyKeeps.slot (.read fun _ => .ok (result_keeps s hk _ _ _ _ (List.mem_singleton_self _))) h hv

end

end Sys2Proof.Machine
end

section
/-!
PROOFS. O57: what the landings of a bundle leave (R59, R64, R65, R360).
-/
namespace Sys2Proof.Machine

/-! ### What one landing writes (R60, R125, R142, R360) -/

theorem Ctx.setX_eq (c : Ctx) (n : Nat) (v : X64) : c.setX n v = { c with x := if n = 0 then c.x else c.x.setIfInBounds n v } := by
  unfold Ctx.setX
  split <;> rfl

theorem Ctx.setP_eq (c : Ctx) (n : Nat) (b : Bool) : c.setP n b = { c with
    p := if n = 0 then c.p else (if b then c.p ||| BitVec.twoPow 16 n else c.p &&& ~~~(BitVec.twoPow 16 n)) } := by
  unfold Ctx.setP
  split <;> rfl

theorem Ctx.setM_eq (c : Ctx) (n : Nat) (v : BitVec 64) : c.setM n v = { c with m := if n = 0 then c.m else c.m.setIfInBounds n v } := by
  unfold Ctx.setM
  split <;> rfl

/-- A value that replaces a whole register. -/
def RegVal.whole : RegVal → Bool
  | .v mask _ => decide (mask = BitVec.allOnes 64)
  | _ => true

theorem Ctx.mended_filter (c : Ctx) (r : Reg) (v : RegVal) :
    c.mended r v = { c with flaws := c.flaws.filter fun f => !(v.whole && decide (f = r)) } := by
  cases v <;> rfl

/-- A landing ends the error of a register it replaces, and no other. -/
theorem Ctx.mem_flaws_land (c : Ctx) (r f : Reg) (v : RegVal) :
    f ∈ (c.land r v).flaws ↔ f ∈ c.flaws ∧ (v.whole = true → r ≠ f) := by
  have hl : (c.land r v).flaws = (c.mended r v).flaws := by
    unfold Ctx.land
    dsimp only
    split <;> simp only [Ctx.setX_eq, Ctx.setP_eq, Ctx.setM_eq, Ctx.setK]
  rw [hl, Ctx.mended_filter, List.mem_filter, ne_comm]
  cases v.whole <;> simp

section
variable (c : Ctx) {r : Reg} (v : RegVal) {n : Nat}

theorem Ctx.getX_land (h : r ≠ .x n) : (c.land r v).getX n = c.getX n := by
  cases r with
  | x m =>
    cases v with
    | x w =>
      have hm : m ≠ n := fun e => h (congrArg _ e)
      simp only [Ctx.land, Ctx.setX_eq, Ctx.getX, Ctx.mended_filter]
      split
      · rfl
      split
      · rfl
      · rw [Vector.getElem?_setIfInBounds_ne hm]
    | _ => rfl
  | _ => cases v <;> simp only [Ctx.land, Ctx.setP_eq, Ctx.setM_eq] <;> rfl

theorem Ctx.getP_land (hn : n < 16) (h : r ≠ .p n) : (c.land r v).getP n = c.getP n := by
  cases r with
  | p m =>
    cases v with
    | p b =>
      have hm : m ≠ n := fun e => h (congrArg _ e)
      simp only [Ctx.land, Ctx.setP_eq, Ctx.getP, Ctx.mended_filter]
      congr 1
      split
      · rfl
      cases b <;> simp [hn, Ne.symm hm]
    | _ => rfl
  | _ => cases v <;> simp only [Ctx.land, Ctx.setX_eq, Ctx.setM_eq] <;> rfl

theorem Ctx.getV_land (h : r ≠ .v n) : (c.land r v).getV n = c.getV n := by
  cases r with
  | v m =>
    cases v with
    | v mask l =>
      have hm : m ≠ n := fun e => h (congrArg _ e)
      simp only [Ctx.land, Ctx.getV, Ctx.mended_filter]
      rw [Vector.getElem?_setIfInBounds_ne hm]
    | _ => rfl
  | _ => cases v <;> simp only [Ctx.land, Ctx.setX_eq, Ctx.setP_eq, Ctx.setM_eq] <;> rfl

theorem Ctx.getM_land (h : r ≠ .m n) : (c.land r v).getM n = c.getM n := by
  cases r with
  | m k =>
    cases v with
    | m w =>
      have hk : k ≠ n := fun e => h (congrArg _ e)
      simp only [Ctx.land, Ctx.setM_eq, Ctx.getM, Ctx.mended_filter]
      split
      · rfl
      split
      · rfl
      · rw [Vector.getElem?_setIfInBounds_ne hk]
    | _ => rfl
  | _ => cases v <;> simp only [Ctx.land, Ctx.setX_eq, Ctx.setP_eq] <;> rfl

theorem Ctx.getK_land (h : r ≠ .k n) : (c.land r v).getK n = c.getK n := by
  cases r with
  | k m =>
    cases v with
    | k u =>
      have hm : m ≠ n := fun e => h (congrArg _ e)
      simp only [Ctx.land, Ctx.setK, Ctx.getK, Ctx.mended_filter]
      rw [Vector.getElem?_setIfInBounds_ne hm]
    | _ => rfl
  | _ => cases v <;> simp only [Ctx.land, Ctx.setX_eq, Ctx.setP_eq, Ctx.setM_eq] <;> rfl

theorem Ctx.kth_land (h : r ≠ .kth n) : (c.land r v).kth[n]? = c.kth[n]? := by
  cases r with
  | kth m =>
    cases v with
    | kth w =>
      have hm : m ≠ n := fun e => h (congrArg _ e)
      simp only [Ctx.land, Ctx.mended_filter]
      rw [Vector.getElem?_setIfInBounds_ne hm]
    | _ => rfl
  | _ => cases v <;> simp only [Ctx.land, Ctx.setX_eq, Ctx.setP_eq, Ctx.setM_eq] <;> rfl

end

/-! ### A list of landings (R65, R145) -/

/-- The registers and the record of one context in the place of another's. -/
def Ctx.inside (c base : Ctx) : Ctx :=
  { base with x := c.x, p := c.p, v := c.v, m := c.m, k := c.k, kth := c.kth, flight := c.flight, flaws := c.flaws }

/-- A landing reads and writes registers alone. -/
theorem Ctx.land_inside (c base : Ctx) (r : Reg) (v : RegVal) : (c.inside base).land r v = (c.land r v).inside base := by
  unfold Ctx.land
  dsimp only
  split
  case h_1 | h_2 | h_4 =>
    simp only [Ctx.setX_eq, Ctx.setP_eq, Ctx.setM_eq]
    rfl
  case h_3 | h_5 | h_6 | h_7 => rfl

/-- Values land in their registers one after another. -/
def Ctx.landPairs (c : Ctx) (l : List (Reg × RegVal)) : Ctx := l.foldl (fun c w => c.land w.1 w.2) c

theorem Ctx.landPairs_inside (l : List (Reg × RegVal)) : ∀ c base : Ctx, (c.inside base).landPairs l = (c.landPairs l).inside base := by
  induction l with
  | nil => exact fun _ _ => rfl
  | cons w l ih =>
    intro c base
    unfold Ctx.landPairs
    rw [List.foldl_cons, Ctx.land_inside]
    exact ih _ _

/-- What no landing of the list writes reads as before. -/
theorem Ctx.landPairs_keeps {α : Type} (read : Ctx → α) {r : Reg} (hland : ∀ c q v, q ≠ r → read (c.land q v) = read c)
    (l : List (Reg × RegVal)) : ∀ c : Ctx, (∀ w ∈ l, w.1 ≠ r) → read (c.landPairs l) = read c := by
  induction l with
  | nil => exact fun _ _ => rfl
  | cons w l ih =>
    intro c h
    exact (ih _ fun u hu => h u (List.mem_cons_of_mem _ hu)).trans (hland c _ _ (h w List.mem_cons_self))

theorem Ctx.mem_flaws_landPairs (f : Reg) (l : List (Reg × RegVal)) : ∀ c : Ctx,
    f ∈ (c.landPairs l).flaws ↔ f ∈ c.flaws ∧ ∀ w ∈ l, w.2.whole = true → w.1 ≠ f := by
  induction l with
  | nil => exact fun c => ⟨fun h => ⟨h, fun _ hw => nomatch hw⟩, fun h => h.1⟩
  | cons w l ih =>
    intro c
    refine (ih _).trans ?_
    rw [Ctx.mem_flaws_land, List.forall_mem_cons, and_assoc]

/-- What an entry lands as: its own value, or as a companion in P7 the predicate that its insertion gives. -/
def FlightEntry.landsAs (e : FlightEntry) (w : Reg × RegVal) : Prop :=
  w.1 = e.reg ∧ (w.2 = e.val ∨ e.reg = .p 7 ∧ ∃ b, w.2 = .p b)

/-- The first entry lands its own value, an insertion with a companion behind it the companion's too. -/
theorem Ctx.landList_cons (c : Ctx) (e : FlightEntry) (r : List FlightEntry) :
    (∀ base, (c.inside base).landList (e :: r) = ((c.inside base).land e.reg e.val).landList r)
    ∨ ∃ f r' b, r = f :: r' ∧ f.reg = .p 7
      ∧ ∀ base, (c.inside base).landList (e :: r) = (((c.inside base).land e.reg e.val).land f.reg (.p b)).landList r' := by
  obtain ⟨reg, val, left, cycles, seq⟩ := e
  cases reg with
  | k n =>
    cases val with
    | k u =>
      cases u with
      | insert ex cs =>
        cases r with
        | nil => exact .inl fun base => rfl
        | cons f r' =>
          by_cases hf : f.reg = .p 7 ∧ f.seq = seq + 1
          · exact .inr ⟨f, r', (c.getK n).entered ((KUpdate.insert ex cs).apply (c.getK n)), rfl, hf.1, fun base => if_pos hf⟩
          · exact .inl fun base => if_neg hf
      | _ => exact .inl fun base => rfl
    | _ => exact .inl fun base => rfl
  | _ => exact .inl fun base => rfl

/-- Each entry of the list lands one value, whatever stands beside the registers. -/
theorem Ctx.landList_pairs (n : Nat) : ∀ (l : List FlightEntry) (c : Ctx), l.length ≤ n →
    ∃ ws, List.Forall₂ FlightEntry.landsAs l ws ∧ ∀ base, (c.inside base).landList l = (c.inside base).landPairs ws := by
  induction n with
  | zero =>
    intro l c hl
    obtain rfl : l = [] := List.eq_nil_of_length_eq_zero (Nat.le_zero.mp hl)
    exact ⟨[], .nil, fun base => rfl⟩
  | succ n ih =>
    intro l c hl
    match l with
    | [] => exact ⟨[], .nil, fun base => rfl⟩
    | e :: r =>
      have hr : r.length ≤ n := Nat.le_of_succ_le_succ hl
      obtain h | ⟨f, r', b, rfl, hf, h⟩ := Ctx.landList_cons c e r
      · obtain ⟨ws, hw, hb⟩ := ih r (c.land e.reg e.val) hr
        refine ⟨(e.reg, e.val) :: ws, .cons ⟨rfl, .inl rfl⟩ hw, fun base => ?_⟩
        rw [h, Ctx.land_inside, hb, ← Ctx.land_inside]
        rfl
      · obtain ⟨ws, hw, hb⟩ := ih r' ((c.land e.reg e.val).land f.reg (.p b)) (Nat.le_of_succ_le hr)
        refine ⟨(e.reg, e.val) :: (f.reg, .p b) :: ws, .cons ⟨rfl, .inl rfl⟩ (.cons ⟨rfl, .inr ⟨hf, b, rfl⟩⟩ hw),
          fun base => ?_⟩
        rw [h, Ctx.land_inside, Ctx.land_inside, hb, ← Ctx.land_inside, ← Ctx.land_inside]
        rfl

/-- Where related members meet two conditions alike, so do the lists. -/
theorem forall_mem_iff_of_forall₂ {α β : Type} {R : α → β → Prop} {P : α → Prop} {Q : β → Prop} {l : List α} {m : List β}
    (h : List.Forall₂ R l m) (hpq : ∀ a ∈ l, ∀ b, R a b → (P a ↔ Q b)) : (∀ a ∈ l, P a) ↔ ∀ b ∈ m, Q b := by
  induction h with
  | nil => simp
  | cons hab _ ih =>
    rw [List.forall_mem_cons, List.forall_mem_cons, hpq _ List.mem_cons_self _ hab,
      ih fun a ha => hpq a (List.mem_cons_of_mem _ ha)]

/-! ### What a bundle that counts lands (R64) -/

/-- The record with its exposed entries a step further. -/
def Ctx.stepped (c : Ctx) : List FlightEntry := c.flight.map fun e => if e.cycles then e else { e with left := e.left - 1 }

/-- The entries that run out in the bundle. -/
def Ctx.runOut (c : Ctx) : List FlightEntry := c.stepped.filter fun e => !e.cycles && e.left == 0

theorem Ctx.mem_runOut {c : Ctx} {f : FlightEntry} :
    f ∈ c.runOut ↔ ∃ e ∈ c.flight, e.cycles = false ∧ e.left ≤ 1 ∧ f = { e with left := 0 } := by
  unfold Ctx.runOut Ctx.stepped
  rw [List.mem_filter, List.mem_map]
  constructor
  · rintro ⟨⟨e, he, rfl⟩, hd⟩
    cases hc : e.cycles with
    | true => simp [hc] at hd
    | false =>
      simp only [hc, Bool.false_eq_true, if_false, Bool.not_false, Bool.true_and, beq_iff_eq] at hd ⊢
      exact ⟨e, he, hc, by omega, by rw [hd, hc]⟩
  · rintro ⟨e, he, hc, hl, rfl⟩
    refine ⟨⟨e, he, ?_⟩, by simp [hc]⟩
    rw [hc, show e.left - 1 = 0 by omega]
    rfl

/-- The record that is left. -/
def Ctx.inFlight (c : Ctx) : List FlightEntry := c.stepped.filter fun e => e.cycles || e.left != 0

/-- Beside the landings of the entries that run out, the bundle changes the record alone. -/
theorem Ctx.stepBundles_pairs (c : Ctx) : ∃ ws, List.Forall₂ FlightEntry.landsAs c.runOut ws
    ∧ ∀ base, (c.inside base).stepBundles = ({ c with flight := c.inFlight }.inside base).landPairs ws :=
  Ctx.landList_pairs _ c.runOut { c with flight := c.inFlight } (Nat.le_refl _)

/-- The registers and the record after a bundle are told by those before it. -/
theorem Ctx.stepBundles_inside (c base : Ctx) : (c.inside base).stepBundles = c.stepBundles.inside base := by
  obtain ⟨ws, -, hb⟩ := c.stepBundles_pairs
  have hc : c.stepBundles = { c with flight := c.inFlight }.landPairs ws := hb c
  rw [hb base, hc, Ctx.landPairs_inside]

/-- A register with no entry is told by no landing: `read` reads it and nothing of the record. -/
theorem Ctx.stepBundles_keeps {α : Type} (read : Ctx → α) {r : Reg} (hland : ∀ c q v, q ≠ r → read (c.land q v) = read c)
    (hflight : ∀ c fl, read { c with flight := fl } = read c) {c : Ctx} (h : ∀ e ∈ c.flight, e.reg ≠ r) :
    read c.stepBundles = read c := by
  obtain ⟨ws, hw, hb⟩ := c.stepBundles_pairs
  have hr : ∀ w ∈ ws, w.1 ≠ r := by
    rw [← forall_mem_iff_of_forall₂ (P := fun e => e.reg ≠ r) hw fun e _ w hew => by rw [hew.1]]
    intro f hf
    obtain ⟨e, he, -, -, rfl⟩ := Ctx.mem_runOut.1 hf
    exact h e he
  have hc : c.stepBundles = { c with flight := c.inFlight }.landPairs ws := hb c
  rw [hc, Ctx.landPairs_keeps read hland ws _ hr, hflight]

/-- An entry that runs out in the bundle and replaces a whole register ends its error (R360). -/
theorem Ctx.mem_flaws_stepBundles {c : Ctx} (hp : ∀ e ∈ c.flight, e.reg = .p 7 → ∃ b, e.val = .p b) (r : Reg) :
    r ∈ c.stepBundles.flaws ↔ r ∈ c.flaws
      ∧ ∀ e ∈ c.flight, e.cycles = false ∧ e.left ≤ 1 ∧ e.val.whole = true → e.reg ≠ r := by
  obtain ⟨ws, hw, hb⟩ := c.stepBundles_pairs
  have hc : c.stepBundles = { c with flight := c.inFlight }.landPairs ws := hb c
  rw [hc, Ctx.mem_flaws_landPairs]
  refine and_congr_right fun _ => ?_
  rw [← forall_mem_iff_of_forall₂ (P := fun e => e.val.whole = true → e.reg ≠ r) hw]
  · constructor
    · rintro h e he ⟨hc, hl, hv⟩
      exact h { e with left := 0 } (Ctx.mem_runOut.2 ⟨e, he, hc, hl, rfl⟩) hv
    · intro h f hf hv
      obtain ⟨e, he, hc, hl, rfl⟩ := Ctx.mem_runOut.1 hf
      exact h e he ⟨hc, hl, hv⟩
  · rintro f hf w ⟨hreg, hval⟩
    rw [hreg]
    rcases hval with hval | ⟨h7, b, hval⟩
    · rw [hval]
    · -- a companion in P7 lands a predicate, and so would the entry itself
      obtain ⟨e, he, -, -, rfl⟩ := Ctx.mem_runOut.1 hf
      obtain ⟨b', hb'⟩ := hp e he h7
      rw [hval, show ({ e with left := 0 } : FlightEntry).val = .p b' from hb']
      rfl

/-- A bundle that counts lands entries of its context's record alone. -/
theorem Ctx.stepBundles_lands (c : Ctx) : let d := c.stepBundles
    d = { c with x := d.x, p := d.p, v := d.v, m := d.m, k := d.k, kth := d.kth, flight := d.flight, flaws := d.flaws }
      ∧ (∀ n, (∀ e ∈ c.flight, e.reg ≠ .x n) → d.getX n = c.getX n)
      ∧ (∀ n < 16, (∀ e ∈ c.flight, e.reg ≠ .p n) → d.getP n = c.getP n)
      ∧ (∀ n, (∀ e ∈ c.flight, e.reg ≠ .v n) → d.getV n = c.getV n)
      ∧ (∀ n, (∀ e ∈ c.flight, e.reg ≠ .m n) → d.getM n = c.getM n)
      ∧ (∀ n, (∀ e ∈ c.flight, e.reg ≠ .k n) → d.getK n = c.getK n)
      ∧ ∀ n : Nat, (∀ e ∈ c.flight, e.reg ≠ .kth n) → d.kth[n]? = c.kth[n]? :=
  ⟨c.stepBundles_inside c,
    fun n => Ctx.stepBundles_keeps (fun c => c.getX n) (fun c _ v h => c.getX_land v h) fun _ _ => rfl,
    fun n hn => Ctx.stepBundles_keeps (fun c => c.getP n) (fun c _ v h => c.getP_land v hn h) fun _ _ => rfl,
    fun n => Ctx.stepBundles_keeps (fun c => c.getV n) (fun c _ v h => c.getV_land v h) fun _ _ => rfl,
    fun n => Ctx.stepBundles_keeps (fun c => c.getM n) (fun c _ v h => c.getM_land v h) fun _ _ => rfl,
    fun n => Ctx.stepBundles_keeps (fun c => c.getK n) (fun c _ v h => c.getK_land v h) fun _ _ => rfl,
    fun n => Ctx.stepBundles_keeps (fun c => c.kth[n]?) (fun c _ v h => c.kth_land v h) fun _ _ => rfl⟩

end Sys2Proof.Machine
end

section
/-!
PROOFS. O57: a change of ILK (R69), and the statement itself.
-/
namespace Sys2Proof.Machine

/-! ### A MODE after its bundle (R69, R89) -/

/-- The other landings of the record, like a bundle's, are told by the registers and the record. -/
theorem Ctx.landBundles_inside (c base : Ctx) : (c.inside base).landBundles = c.landBundles.inside base := by
  obtain ⟨ws, -, hb⟩ := Ctx.landList_pairs _ (byLanding (c.flight.filter fun e => !e.cycles))
    { c with flight := c.flight.filter fun e => e.cycles } (Nat.le_refl _)
  have hc : c.landBundles = { c with flight := c.flight.filter fun e => e.cycles }.landPairs ws := hb c
  have hi : (c.inside base).landBundles = (Ctx.inside { c with flight := c.flight.filter fun e => e.cycles } base).landPairs ws := hb base
  rw [hi, hc, Ctx.landPairs_inside]

theorem Ctx.landBundles_flight (c : Ctx) : c.landBundles.flight = c.flight.filter fun e => e.cycles := by
  obtain ⟨x, p, w, m, k, h, f, hl⟩ := c.landBundles_frame
  rw [hl]

/-- Outside loops the place after the bundle is all that is told of it. -/
theorem Ctx.advance_place {c : Ctx} (h : c.loops = []) (i : Issue) : ∃ rep pc, c.advance i = { c with rep := rep, pc := pc } := by
  unfold Ctx.advance
  split
  · exact ⟨_, _, rfl⟩
  split
  · exact ⟨_, _, rfl⟩
  · refine ⟨0, i.npc, ?_⟩
    have hc : c.closeLoops c.loops i.npc = (c, i.npc) := by
      obtain ⟨⟩ := c
      cases h
      rfl
    rw [hc]

/-- The context that its bundle's count, its MODE and its new place make. -/
def Ctx.afterMode (c x : Ctx) (b : Bundle) (l : List SlotView) (bc : X64) (ilk : Bool) (vrm : BitVec 2) (rep pc : Nat) : Ctx :=
  { (c.counted x b l bc).setMode ilk vrm with rep := rep, pc := pc }

section
variable (c x : Ctx) (b : Bundle) (l : List SlotView) (bc : X64) (ilk : Bool) (vrm : BitVec 2) (rep pc : Nat)

theorem Ctx.afterMode_mode : (c.afterMode x b l bc ilk vrm rep pc).mode = ⟨ilk, vrm, c.mode.priv⟩ := rfl

/-- None of the three touches the registers or the record. -/
theorem Ctx.inside_afterMode : c.inside (c.afterMode x b l bc ilk vrm rep pc) = c.afterMode x b l bc ilk vrm rep pc := rfl

end

/-- The entries that land behind a bundle are told by the registers and the record. -/
theorem Ctx.landed_inside (c base : Ctx) (ilk : Bool) : (c.inside base).landed ilk
    = (if base.mode.ilk && !ilk then c.stepBundles.landBundles else c.stepBundles).inside base := by
  have hm : (c.stepBundles.inside base).mode.ilk = base.mode.ilk := rfl
  unfold Ctx.landed
  dsimp only
  rw [Ctx.stepBundles_inside, hm]
  split
  · exact Ctx.landBundles_inside _ _
  · rfl

/-- The context after a MODE that follows its bundle: the registers and the record are those that the bundle's landings leave,
and behind a MODE that sets ILK those of every entry counted in bundles. -/
theorem State.commit_mode {t : State} {x : Ctx} {b : Bundle} {l : List SlotView} {bc : X64} {ilk : Bool} {vrm : BitVec 2}
    (ha : t.issue.after = [.mode ilk vrm]) (hk : t.issue.ctx < 4) (hl : (t.ctx t.issue.core t.issue.ctx).loops = []) :
    ∃ d : Ctx, d.mode = ⟨ilk, vrm, (t.ctx t.issue.core t.issue.ctx).mode.priv⟩ ∧ (t.commit x b l bc).ctx t.issue.core t.issue.ctx
      = (if ilk && !x.mode.ilk then (t.ctx t.issue.core t.issue.ctx).stepBundles.landBundles
        else (t.ctx t.issue.core t.issue.ctx).stepBundles).inside d := by
  have hc : t.commit x b l bc = (((t.signalled x b).modCtx t.issue.core t.issue.ctx fun c =>
      c.counted x b l bc).modCtx t.issue.core t.issue.ctx fun c =>
      c.setMode ilk vrm).modCtx t.issue.core t.issue.ctx fun c => (c.advance t.issue).landed x.mode.ilk := by
    unfold State.commit
    simp only [ha, List.foldl_cons, List.foldl_nil]
    rfl
  rw [hc, State.modCtx_modCtx _ _ hk, State.modCtx_modCtx _ _ hk, State.ctx_modCtx _ _ hk, (t.signalled_frame x b).1]
  generalize t.ctx t.issue.core t.issue.ctx = c at hl ⊢
  obtain ⟨rep, pc, hp⟩ := Ctx.advance_place (c := (c.counted x b l bc).setMode ilk vrm) hl t.issue
  refine ⟨c.afterMode x b l bc ilk vrm rep pc, Ctx.afterMode_mode .., ?_⟩
  rw [hp]
  change (c.afterMode x b l bc ilk vrm rep pc).landed x.mode.ilk = _
  rw [← Ctx.inside_afterMode, Ctx.landed_inside, Ctx.inside_afterMode, Ctx.afterMode_mode]

/-- A bundle keeps an entry counted in cycles in the record, whatever it counts. -/
theorem Ctx.stepBundles_cycles (c : Ctx) : (c.stepBundles.flight.any fun e => e.cycles) = c.flight.any fun e => e.cycles := by
  have hf : c.stepBundles.flight = c.inFlight := by
    unfold Ctx.stepBundles
    obtain ⟨x, p, w, m, k, h, f, hl⟩ := Ctx.landList_frame _ c.runOut { c with flight := c.inFlight } (Nat.le_refl _)
    exact congrArg Ctx.flight hl
  have hs : ∀ e : FlightEntry, (if e.cycles then e else { e with left := e.left - 1 }).cycles = e.cycles := by
    intro e
    split <;> rfl
  rw [hf]
  unfold Ctx.inFlight Ctx.stepped
  rw [List.any_filter, List.any_map]
  congr 1
  funext e
  simp only [Function.comp_apply, hs]
  cases e.cycles <;> simp

/-! ### A context that holds its core (R69) -/

/-- The attempt of a context that stalls for a change of ILK issues nothing and changes nothing. -/
theorem State.tryIssue_holds {w : State} {core k : Nat} (h : (w.ctx core k).modeStalls = true) : w.tryIssue core k = .notReady
    ∨ w.tryIssue core k = .stalled w ∨ (∃ v r, w.tryIssue core k = .blocked v r) ∨ ∃ v, w.tryIssue core k = .trapped v := by
  have hb : ∀ x e, w.trapBundle core k x e = .stalled w ∨ (∃ v r, w.trapBundle core k x e = .blocked v r)
      ∨ ∃ v, w.trapBundle core k x e = .trapped v := by
    intro x e
    cases e with
    | trap => exact .inr (.inr ⟨_, rfl⟩)
    | blocked r => exact .inr (.inl ⟨_, _, rfl⟩)
    | stalled => exact .inl rfl
  cases hm : (w.ctx core k).mayFetch w.cycle.toNat with
  | false => exact .inl (by simp [State.tryIssue, hm])
  | true =>
    right
    cases hf : (w.cs core).fetch (w.ctx core k) with
    | error e =>
      rw [State.tryIssue_fetch_error hm hf]
      exact hb _ _
    | ok b =>
      cases hc : b.check (w.ctx core k).mode.priv (w.feature core) with
      | some e =>
        rw [State.tryIssue_check hm hf hc]
        exact hb _ _
      | none => exact .inl (State.tryIssue_modeStalls hm hf hc h)

/-- Unless its attempt traps, a context that holds its core stalls. -/
theorem State.act_holds {w : State} {core k : Nat} (hw : (w.ctx core k).holdsCore = true) (ht : ∀ v, w.tryIssue core k ≠ .trapped v) :
    w.act core k = w.modCS core fun v => v.stall k := by
  have hs : (w.ctx core k).modeStalls = true := by
    simp only [Ctx.holdsCore, Bool.and_eq_true] at hw
    exact hw.1.1.1.1
  unfold State.act
  rcases State.tryIssue_holds hs with h | h | ⟨v, r, h⟩ | ⟨v, h⟩
  · simp only [h, hw, if_true]
  · simp only [h]
  · simp only [h, hw, if_true]
  · exact absurd h (ht v)

/-- The first context that holds the core is chosen. -/
theorem State.chosen_of_holds {u : State} {core k : Nat} (hk : k < 4) (hj : ∀ j < k, (u.ctx core j).holdsCore = false)
    (hh : (u.ctx core k).holdsCore = true) (ready : List Nat) : u.chosen core ready = some k := by
  have hf : [0, 1, 2, 3].find? (fun j => (u.ctx core j).holdsCore) = some k := by
    have h4 : k = 0 ∨ k = 1 ∨ k = 2 ∨ k = 3 := by omega
    rcases h4 with rfl | rfl | rfl | rfl <;> simp [hh, hj]
  unfold State.chosen
  rw [hf]

/-- The turn of a core that a context holds. -/
theorem State.issueTurn_holds {s u : State} {core k : Nat} {ready : List Nat} (hstall : (s.cs core).stallTo = 0)
    (hsv : s.surveyed core = (u, ready)) (hc : u.chosen core ready = some k)
    (hw : ((u.waitTurn core (List.range k)).ctx core k).holdsCore = true)
    (ht : ∀ v, (u.waitTurn core (List.range k)).tryIssue core k ≠ .trapped v) :
    s.issueTurn core = ((u.waitTurn core (List.range k)).modCS core fun v => v.stall k).waitTurn core (countFrom (k + 1) (3 - k)) := by
  have he : s.entryStalls core = false := by simp [State.entryStalls, hstall]
  unfold State.issueTurn
  rw [hsv]
  dsimp only
  rw [he, hc]
  simp only [State.act_holds hw ht, Bool.false_eq_true, if_false]

/-! ### The statement -/

/-- Settles O57: the frame of the instructions by their destinations, and the landings, the MODE and the core that is held by
the lemmas above. -/
theorem registerFrame : Obligations.RegisterFrame := by
  unfold Obligations.RegisterFrame
  refine ⟨fun i s t regs hi hk h hv => ?frame, fun c => ?lands, fun t x b l bc ilk vrm => ?mode,
    fun s u core k r ready ha hp ht hstall hsv hk hj => ?held⟩
  case frame =>
    obtain ⟨hrest, hcores, hcore, hothers, hregs, -⟩ := destRegs_keeps hk hv hi h
    exact ⟨hrest, hcores, hcore, hothers, hregs⟩
  case lands =>
    obtain ⟨hd, hx, hp, hv, hm, hk, hkth⟩ := c.stepBundles_lands
    refine ⟨hd, hx, hp, hv, hm, hk, hkth, fun h7 => ?_⟩
    intro ends r
    rw [Ctx.mem_flaws_stepBundles h7]
    refine and_congr_right fun _ => forall₂_congr fun e _ => imp_congr_left ?_
    refine and_congr_right fun _ => and_congr_right fun _ => ?_
    cases e.val <;> simp [RegVal.whole]
  case mode =>
    intro i c y ha hk hl z same
    obtain ⟨d, hm, hd⟩ := State.commit_mode (x := x) (b := b) (l := l) (bc := bc) ha hk hl
    have hy : y = (if ilk && !x.mode.ilk then z.landBundles else z).inside d := hd
    have hmode : y.mode = ⟨ilk, vrm, c.mode.priv⟩ := by rw [hy]; exact hm
    have hsame : ∀ w : Ctx, y = w.inside d → same w := by
      intro w hw
      dsimp only [same]
      rw [hw]
      exact ⟨rfl, rfl, rfl, rfl, rfl, rfl, rfl⟩
    refine ⟨hmode, fun h => ?stays, fun h1 h2 => ?sets, ?stalls⟩
    case stays =>
      have hc : (ilk && !x.mode.ilk) = false := by rcases h with h | h <;> simp [h]
      rw [hc] at hy
      exact hsame z hy
    case sets =>
      have hc : (ilk && !x.mode.ilk) = true := by simp [h1, h2]
      rw [hc] at hy
      refine ⟨hsame _ hy, ?_⟩
      rw [hy]
      exact z.landBundles_flight
    case stalls =>
      have hi : y.mode.ilk = ilk := congrArg Mode.ilk hmode
      unfold Ctx.modeStalls
      rw [hi]
      cases ilk with
      | true => simp
      | false =>
        have hf : y.flight = z.flight := by rw [hy]; rfl
        rw [hf, c.stepBundles_cycles]
        simp
  case held =>
    intro waits w hh hw hn
    have ew : w = u.waitTurn core (List.range k) := rfl
    rw [ew] at hw hn
    have hc := State.chosen_of_holds hk hj hh ready
    rw [step_issueTurn ha hp ht, State.issueTurn_holds (s := { s with todo := r }) hstall hsv hc hw hn]
    rfl

end Sys2Proof.Machine
end

section
/-!
PROOFS. O16, O17, O21: scalar arithmetic on two registers (R71 to R73, R78 to R81).
-/
namespace Sys2Proof.Machine

/-! ### The shapes of the scalar slots under a true guard (R38) -/

section
variable {s : State} {g : BitVec 4} (hg : s.readP g.toNat = .ok true)
include hg

theorem slotOp_ok (t : State) : slotOp g s (.ok t) = .next t := by
  rw [slotOp_true hg]
  rfl

theorem slotOp_halt (h : Halt) : slotOp g s (.error h) = .next (s.halt h) := by
  rw [slotOp_true hg]
  rfl

variable {a b : BitVec 6} {x y : X64} (hx : s.readX a = .ok x)
include hx

theorem scalar1_eq (d : BitVec 6) (lat : Nat) (f : X64 → X64) : scalar1 g d a lat f s = .next (s.writeX d (f x) lat) := by
  unfold scalar1
  rw [hx]
  exact slotOp_ok hg _

theorem pred1_eq (p : BitVec 6) (lat : Nat) (f : X64 → Bool) : pred1 g p a lat f s = .next (s.writeP p.toNat (f x) lat) := by
  unfold pred1
  rw [hx]
  exact slotOp_ok hg _

variable (hy : s.readX b = .ok y)
include hy

theorem scalar2_eq (d : BitVec 6) (lat : Nat) (f : X64 → X64 → X64) :
    scalar2 g d a b lat f s = .next (s.writeX d (f x y) lat) := by
  unfold scalar2
  rw [hx, hy]
  exact slotOp_ok hg _

theorem pred2_eq (p : BitVec 6) (lat : Nat) (f : X64 → X64 → Bool) :
    pred2 g p a b lat f s = .next (s.writeP p.toNat (f x y) lat) := by
  unfold pred2
  rw [hx, hy]
  exact slotOp_ok hg _

end

/-! ### Order, products and quotients (R71 to R73) -/

theorem ite_below_signed {w : Nat} {α : Type} (x y : BitVec w) (p q : α) :
    (if below false x y then p else q) = if x.toInt < y.toInt then p else q := by simp [below]

theorem ite_below_unsigned {w : Nat} {α : Type} (x y : BitVec w) (p q : α) :
    (if below true x y then p else q) = if x.toNat < y.toNat then p else q := by simp [below]

/-- Settles O16: the shape of two registers with each instruction's function. -/
theorem scalarIntegerResults : Obligations.ScalarIntegerResults := by
  unfold Obligations.ScalarIntegerResults
  intro s g d a b x y k hg hx hy
  have two := scalar2_eq hg hx hy d 1
  refine ⟨two _, two _, two _, two _, two _, two _, two _, two _, ?_, ?_, ?_, ?_, two _⟩
  · rw [← ite_below_signed]
    exact two _
  · rw [← ite_below_unsigned]
    exact two _
  · rw [← ite_below_signed]
    exact two _
  · rw [← ite_below_unsigned]
    exact two _

/-- A divisor of 0 gives all ones and the dividend (R73). -/
theorem divide_zero {w : Nat} (u : Bool) (x : BitVec w) : divide u x 0 = BitVec.allOnes w ∧ remainder u x 0 = x := by
  simp [divide, remainder]

theorem divide_unsigned {w : Nat} (x : BitVec w) {y : BitVec w} (hy : y ≠ 0) :
    divide true x y = x / y ∧ remainder true x y = x % y := by
  simp only [divide, remainder, hy, if_false, if_true]
  exact ⟨BitVec.eq_of_toNat_eq (by simp [Nat.mod_eq_of_lt (Nat.lt_of_le_of_lt (Nat.div_le_self _ _) x.isLt)]),
    BitVec.eq_of_toNat_eq (by simp [Nat.mod_eq_of_lt (Nat.lt_of_le_of_lt (Nat.mod_le _ _) x.isLt)])⟩

theorem divide_signed {w : Nat} (x : BitVec w) {y : BitVec w} (hy : y ≠ 0) : divide false x y = x.sdiv y := by
  simp only [divide, hy, if_false, Bool.false_eq_true]
  exact BitVec.eq_of_toInt_eq (by rw [BitVec.toInt_ofInt, BitVec.toInt_sdiv])

/-- The remainder is what the quotient's multiple leaves of the dividend (R73). -/
theorem remainder_eq_sub {w : Nat} (u : Bool) (x : BitVec w) {y : BitVec w} (hy : y ≠ 0) :
    remainder u x y = x - divide u x y * y := by
  cases u with
  | false =>
    simp only [divide, remainder, hy, if_false, Bool.false_eq_true, Int.tmod_def]
    rw [Int.sub_eq_add_neg, BitVec.ofInt_add, BitVec.ofInt_neg, BitVec.ofInt_mul, BitVec.ofInt_toInt, BitVec.ofInt_toInt,
      BitVec.mul_comm, BitVec.sub_eq_add_neg]
  | true =>
    obtain ⟨hq, hr⟩ := divide_unsigned x hy
    rw [hq, hr, eq_sub_iff_add_eq]
    refine BitVec.eq_of_toNat_eq ?_
    rw [BitVec.toNat_add, BitVec.toNat_mul, BitVec.toNat_umod, BitVec.toNat_udiv, Nat.add_mod_mod, Nat.mod_add_div',
      Nat.mod_eq_of_lt x.isLt]

section
variable {s : State} {g : BitVec 4} (hg : s.readP g.toNat = .ok true) {a b : BitVec 6} {x y : X64} (hx : s.readX a = .ok x)
  (hy : s.readX b = .ok y) (d : BitVec 6)
include hg hx hy

theorem execDiv_eq (u : BitVec 1) : exec (.div g d a b u) s = .next (s.writeX d (divide (u == 1) x y) 20) :=
  scalar2_eq hg hx hy d 20 _

theorem execRem_eq (u : BitVec 1) : exec (.rem g d a b u) s = .next (s.writeX d (remainder (u == 1) x y) 20) :=
  scalar2_eq hg hx hy d 20 _

theorem execMulh_eq (u : BitVec 3) : exec (.mulh g d a b u) s = .next (s.writeX d (mulHigh u x y) 3) :=
  scalar2_eq hg hx hy d 3 _

end

/-- Settles O17: the product by its definition, the quotient by the division of words, the remainder by the quotient. -/
theorem multiplyAndDivideResults : Obligations.MultiplyAndDivideResults := by
  unfold Obligations.MultiplyAndDivideResults
  intro s g d a b x y hg hx hy div rem
  have hdiv : ∀ u q, divide (u == 1) x y = q → div u q := fun u q h => by rw [← h]; exact execDiv_eq hg hx hy d u
  have hrem : ∀ u r, remainder (u == 1) x y = r → rem u r := fun u r h => by rw [← h]; exact execRem_eq hg hx hy d u
  refine ⟨?mul, ?signed, ?unsigned, ?mixed, fun h u => ?zero, fun h1 h2 => ?corner, fun h0 hc => ?quotient, fun h0 => ?uquotient⟩
  case mul =>
    rw [BitVec.ofNat_mul, BitVec.ofNat_toNat, BitVec.ofNat_toNat, BitVec.setWidth_eq, BitVec.setWidth_eq]
    exact scalar2_eq hg hx hy d 3 _
  case signed => exact execMulh_eq hg hx hy d 0
  case unsigned => exact execMulh_eq hg hx hy d 1
  case mixed => exact execMulh_eq hg hx hy d 2
  case zero =>
    subst h
    obtain ⟨hq, hr⟩ := divide_zero (u == 1) x
    exact ⟨hdiv u _ hq, hrem u _ hr⟩
  case corner =>
    obtain rfl : x = BitVec.intMin 64 := BitVec.eq_of_toInt_eq (by rw [h1]; decide)
    obtain rfl : y = -1 := BitVec.eq_of_toInt_eq (by rw [h2]; decide)
    exact ⟨hdiv 0 _ (by decide), hrem 0 _ (by decide)⟩
  case quotient =>
    refine ⟨divide false x y, ?_, hdiv 0 _ rfl, hrem 0 _ (remainder_eq_sub false x h0)⟩
    rw [divide_signed x h0]
    refine BitVec.toInt_sdiv_of_ne_or_ne x y ?_
    by_contra h
    obtain ⟨rfl, rfl⟩ : x = BitVec.intMin 64 ∧ y = -1#64 := by simpa only [not_or, ne_eq, not_not] using h
    exact hc (by decide)
  case uquotient =>
    refine ⟨divide true x y, ?_, hdiv 1 _ rfl, hrem 1 _ (remainder_eq_sub true x h0)⟩
    rw [(divide_unsigned x h0).1, BitVec.toNat_udiv]

/-- Settles O21: the shapes of the scalar slots with the operations on f32 codes. -/
theorem scalarFloatResults : Obligations.ScalarFloatResults := by
  unfold Obligations.ScalarFloatResults
  intro s g d p a b r c k x y hg hx hy m n e
  have two := scalar2_eq hg hx hy d 3
  exact ⟨two _, two _, two _, two _, two _, pred2_eq hg hx hy p 3 _, scalar1_eq hg hx d 3 _⟩

end Sys2Proof.Machine
end

section
/-!
PROOFS. O18, O19, O20: scalar operations on one register or an immediate, and predicates (R71, R74 to R77).
-/
namespace Sys2Proof.Machine

/-! ### Counts and the reversal of bits (R71) -/

/-- The first number below a bound of which a test holds. -/
theorem find?_range_getD {p : Nat → Bool} {n k : Nat} (hk : k < n) (hp : p k = true) (hj : ∀ j < k, p j = false) :
    ((List.range n).find? p).getD n = k := by
  have h : (List.range n).find? p = some k := by
    rw [List.find?_range_eq_some]
    exact ⟨hp, List.mem_range.2 hk, fun j h => by rw [hj j h]; rfl⟩
  rw [h]
  rfl

theorem leadingZeros_eq {x : X64} {n : Nat} (hn : n < 64) (h1 : x.getLsbD n = true) (h0 : ∀ m, n < m → x.getLsbD m = false) :
    leadingZeros x = 63 - n := by
  refine find?_range_getD (by omega) ?_ fun j hj => h0 _ (by omega)
  rw [show 63 - (63 - n) = n by omega]
  exact h1

theorem trailingZeros_eq {x : X64} {n : Nat} (hn : n < 64) (h1 : x.getLsbD n = true) (h0 : ∀ m, m < n → x.getLsbD m = false) :
    trailingZeros x = n := find?_range_getD hn h1 h0

/-- The number whose bits below a place a test gives. -/
def bitSum (f : Nat → Bool) (n : Nat) : Nat := (List.range n).foldl (fun v i => v + (f i).toNat * 2 ^ i) 0

theorem bitSum_succ (f : Nat → Bool) (n : Nat) : bitSum f (n + 1) = bitSum f n + (f n).toNat * 2 ^ n := by
  simp [bitSum, List.range_succ]

theorem bitSum_lt (f : Nat → Bool) (n : Nat) : bitSum f n < 2 ^ n := by
  induction n with
  | zero => exact Nat.one_pos
  | succ n ih =>
    rw [bitSum_succ, Nat.pow_succ]
    cases f n <;> simp <;> omega

theorem testBit_bitSum (f : Nat → Bool) (n i : Nat) : (bitSum f n).testBit i = (decide (i < n) && f i) := by
  induction n with
  | zero => simp [bitSum]
  | succ n ih =>
    rw [bitSum_succ, Nat.add_comm, Nat.mul_comm, Nat.testBit_two_pow_mul_add _ (bitSum_lt f n), ih]
    split
    · simp [show i < n + 1 by omega, *]
    · rw [Nat.testBit_bool_toNat]
      by_cases h : i = n
      · subst h
        simp
      · simp [show i - n ≠ 0 by omega, show ¬ i < n + 1 by omega]

theorem bitReverse_getLsbD (x : X64) {n : Nat} (hn : n < 64) : (bitReverse x).getLsbD n = x.getLsbD (63 - n) := by
  change (BitVec.ofNat 64 (bitSum (fun i => x.getLsbD (63 - i)) 64)).getLsbD n = _
  rw [BitVec.getLsbD_ofNat, testBit_bitSum]
  simp [hn]

/-- A running count is the number of members that a test holds of. -/
theorem foldl_toNat_eq_length (f : Nat → Bool) (l : List Nat) : ∀ n,
    l.foldl (fun n i => n + (f i).toNat) n = n + (l.filter f).length := by
  induction l with
  | nil => exact fun _ => rfl
  | cons a r ih =>
    intro n
    rw [List.foldl_cons, ih, List.filter_cons]
    cases f a
    · simp
    · simp only [Bool.toNat_true, if_true, List.length_cons]
      omega

/-- Settles O18: the shape of one register with each instruction's function, and the bits of what the functions give. -/
theorem scalarUnaryAndImmediateResults : Obligations.ScalarUnaryAndImmediateResults := by
  unfold Obligations.ScalarUnaryAndImmediateResults
  intro s g d a x i j hg hx
  have one := scalar1_eq hg hx d 1
  refine ⟨fun n hn => bitReverse_getLsbD x hn, ?_, fun n => leadingZeros_eq, fun n => trailingZeros_eq, ?_, one _, one _, one _,
    one _, one _, one _, one _, one _, one _, one _, one _, one _, one _, one _, slotOp_ok hg _⟩
  · rintro rfl
    exact ⟨by decide, by decide⟩
  · exact (foldl_toNat_eq_length _ _ 0).trans (Nat.zero_add _)

/-! ### Predicates (R74 to R77) -/

/-- PMOVX gathers the predicates it reads from the lowest up (R76). -/
theorem readPs_eq {s : State} {f : Nat → Bool} (l : List Nat) (h : ∀ n ∈ l, s.readP n = .ok (f n)) :
    s.readPs l = .ok (l.foldr (fun n v => (f n).toNat + 2 * v) 0) := by
  induction l with
  | nil => rfl
  | cons a r ih =>
    rw [State.readPs, h a List.mem_cons_self, ih fun n hn => h n (List.mem_cons_of_mem _ hn)]
    rfl

/-- The number that Horner's rule gathers from bits has those bits. -/
theorem testBit_horner (f : Nat → Bool) : ∀ (n a i : Nat),
    ((List.range' a n).foldr (fun k v => (f k).toNat + 2 * v) 0).testBit i = (decide (i < n) && f (a + i)) := by
  intro n
  induction n with
  | zero => simp
  | succ n ih =>
    intro a i
    rw [List.range'_succ, List.foldr_cons]
    cases i with
    | zero => cases f a <;> simp [Nat.testBit_zero]
    | succ i =>
      rw [Nat.testBit_succ]
      have h : ∀ (b : Bool) (v : Nat), (b.toNat + 2 * v) / 2 = v := fun b v => by
        have := b.toNat_lt
        omega
      rw [h, ih]
      simp [Nat.add_assoc, Nat.add_comm 1 i]

theorem cmplti_eq (x : X64) (i : BitVec 9) : decide (x.toInt < (sext64 i).toInt) = decide (x.toInt < i.toInt) := by
  rw [sext64, BitVec.toInt_signExtend_of_le (by omega)]

/-- Settles O19: the comparisons by their conditions, XMOVP and PMOVX bit by bit. -/
theorem predicateResults : Obligations.PredicateResults := by
  unfold Obligations.PredicateResults
  intro s g d p a b i x y hx hy
  refine ⟨fun hg => ?_, fun f hg hf => ?_⟩
  · have two := pred2_eq hg hx hy p 1
    have one := pred1_eq hg hx p 1
    refine ⟨two _, two _, two _, two _, two _, two _, one _, ?_, ?_⟩
    · rw [← cmplti_eq]
      exact one _
    · refine (slotOp_true hg).trans ?_
      rw [hx]
      rfl
  · have hr := readPs_eq (List.range 16) fun n hn => hf n (List.mem_range.1 hn)
    refine ⟨BitVec.ofNat 64 ((List.range 16).foldr (fun n v => (f n).toNat + 2 * v) 0), fun n => ?_, ?_⟩
    · rw [BitVec.getLsbD_ofNat, List.range_eq_range', testBit_horner, Nat.zero_add]
      by_cases hn : n < 16 <;> simp [hn, show n < 16 → n < 64 by omega]
    · refine (slotOp_true hg).trans ?_
      rw [hr]
      rfl

/-- PLOG writes the bit that its two sources choose of the table (R75). -/
theorem execPlog_eq {s : State} {g q e f : BitVec 4} {u v : Bool} (hg : s.readP g.toNat = .ok true) (hu : s.readP e.toNat = .ok u)
    (hv : s.readP f.toNat = .ok v) (t : BitVec 4) :
    exec (.plog g q e f t) s = .next (s.writeP q.toNat (t.getLsbD (2 * u.toNat + v.toNat)) 1) := by
  refine (slotOp_true hg).trans ?_
  rw [hu, hv]
  rfl

theorem execSel_eq {s : State} {g : BitVec 4} {a b : BitVec 6} {x y : X64} {w : Bool} (hx : s.readX a = .ok x) (hy : s.readX b = .ok y)
    (hw : s.readP g.toNat = .ok w) (d : BitVec 6) : exec (.sel g d a b) s = .next (s.writeX d (if w then x else y) 1) := by
  simp only [exec, execSel, hx, hy, hw]
  rfl

/-- Predicate 0 is read as true (R56). -/
theorem State.readP_zero_true {s : State} {w : Bool} (h : s.readP 0 = .ok w) : w = true := by
  simp only [State.readP, physP_zero] at h
  cases hz : s.hazard (.p 0) with
  | error e => simp [hz] at h
  | ok u =>
    simp only [hz, Ctx.getP_zero, Except.ok.injEq] at h
    exact h.symm

/-- Settles O20: SEL by its guard's value, PLOG by the bit of its table, which the two sources choose. -/
theorem selectAndTruthTable : Obligations.SelectAndTruthTable := by
  unfold Obligations.SelectAndTruthTable
  intro s g q e f t d a b x y u v w hx hy hw hu hv
  have hsel := execSel_eq hx hy hw d
  refine ⟨hsel, fun h0 => ?_, fun ht => ?_, fun ht => ?_⟩
  · subst h0
    rw [hsel, State.readP_zero_true hw]
    rfl
  · subst ht
    exact execPlog_eq hw hu hv t
  · subst ht
    intro plog
    have table : ∀ t r, t.getLsbD (2 * u.toNat + v.toNat) = r → plog t r := fun t r h => by rw [← h]; exact execPlog_eq hw hu hv t
    refine ⟨table _ _ ?_, table _ _ ?_, table _ _ ?_, table _ _ ?_, table _ _ ?_, table _ _ ?_, table _ _ ?_⟩ <;>
      (cases u <;> cases v <;> rfl)

end Sys2Proof.Machine
end

section
/-!
PROOFS. O9, O13, O14, O15: reset values, hard-wired and rotating registers, and the latency of exposed results (R56, R58, R59, R61,
R62, R64, R65, R68, R122, R382).
-/
namespace Sys2Proof.Machine

/-! ### The state after module reset (R58, R382) -/

theorem getElem?_replicate_getD {α : Type} (n k : Nat) (a : α) : (Vector.replicate n a)[k]?.getD a = a := by
  rw [Vector.getElem?_replicate]
  split <;> rfl

theorem State.reset_ctx (core k : Nat) : State.reset.ctx core k = Ctx.reset := getElem?_replicate_getD 4 k Ctx.reset

theorem Ctx.reset_getX (n : Nat) : Ctx.reset.getX n = 0 := by
  unfold Ctx.getX
  split
  · rfl
  · exact getElem?_replicate_getD 48 n 0

theorem Ctx.reset_getP (n : Nat) : Ctx.reset.getP n = decide (n = 0) := by
  cases n <;> simp [Ctx.getP, Ctx.reset, BitVec.getLsbD_one]

/-- Settles O9: every context is one after reset, whose registers read as listed. -/
theorem resetState : Obligations.ResetState := by
  unfold Obligations.ResetState
  refine ⟨rfl, rfl, rfl, rfl, fun core k => ?_⟩
  rw [State.reset_ctx]
  exact ⟨rfl, rfl, rfl, rfl, rfl, rfl, rfl, rfl, rfl, rfl, rfl, rfl, Ctx.reset_getX, Ctx.reset_getP, rfl, fun _ => rfl, rfl⟩

/-! ### Hard-wired and rotating registers (R56, R59, R122) -/

/-- Settles O13: each by the definition of its access. -/
theorem hardwiredRegisters : Obligations.HardwiredRegisters := by
  unfold Obligations.HardwiredRegisters
  exact fun s c x b m lat => ⟨c.getX_zero, c.getP_zero, c.getM_zero, s.writeX_zero x lat, s.writeP_zero b lat, s.writeM_zero m lat,
    rfl, rfl, rfl⟩

section
variable (r : Rrb) {n : Nat}

theorem physX_below (h : n < 32) : physX r n = n := if_pos h
theorem physV_below (h : n < 16) : physV r n = n := if_pos h
theorem physP_below (h : n < 8) : physP r n = n := if_pos h
theorem physX_above (h : 32 ≤ n) : physX r n = 32 + (n - 32 + r.xb.toNat) % 16 := if_neg (Nat.not_lt.2 h)
theorem physV_above (h : 16 ≤ n) : physV r n = 16 + (n - 16 + r.vb.toNat) % 16 := if_neg (Nat.not_lt.2 h)
theorem physP_above (h : 8 ≤ n) : physP r n = 8 + (n - 8 + r.pb.toNat) % 8 := if_neg (Nat.not_lt.2 h)

/-- One rotation lowers each base by one modulo its size. -/
theorem Rrb.rotate_toNat : r.rotate.xb.toNat = (r.xb.toNat + 15) % 16 ∧ r.rotate.vb.toNat = (r.vb.toNat + 15) % 16
    ∧ r.rotate.pb.toNat = (r.pb.toNat + 7) % 8 := by
  refine ⟨?_, ?_, ?_⟩ <;> (simp only [Rrb.rotate]; bv_omega)

end

/-- Settles O14: the lowered base and the raised name have the same sum modulo the size of the range. -/
theorem rotationShiftsNames : Obligations.RotationShiftsNames := by
  unfold Obligations.RotationShiftsNames
  intro r n
  obtain ⟨hx, hv, hp⟩ := r.rotate_toNat
  refine ⟨fun h1 h2 => ?_, ?_, fun h1 h2 => ?_, ?_, fun h1 h2 => ?_, ?_, physX_below r, physV_below r, physP_below r⟩
  · rw [physX_above _ h1, physX_above _ (Nat.le_succ_of_le h1), hx]
    omega
  · rw [physX_above _ (by decide), physX_above _ (by decide), hx]
    omega
  · rw [physV_above _ h1, physV_above _ (Nat.le_succ_of_le h1), hv]
    omega
  · rw [physV_above _ (by decide), physV_above _ (by decide), hv]
    omega
  · rw [physP_above _ h1, physP_above _ (Nat.le_succ_of_le h1), hp]
    omega
  · rw [physP_above _ (by decide), physP_above _ (by decide), hp]
    omega

/-! ### The latency of an exposed result (R64, R65, R68) -/

/-- A context that owes one result counted in bundles. -/
def Ctx.owes (c : Ctx) (r : Reg) (v : RegVal) (seq left : Nat) : Ctx := { c with flight := [⟨r, v, left, false, seq⟩] }

theorem Ctx.landList_singleton (c : Ctx) (e : FlightEntry) : c.landList [e] = c.land e.reg e.val := by
  obtain h | ⟨f, r', b, h, -⟩ := c.landList_cons e []
  · exact h c
  · cases h

section
variable (c : Ctx) (r : Reg) (v : RegVal) (q : Nat)

/-- A bundle that is not the last of the latency changes only what is left. -/
theorem Ctx.stepBundles_owes (left : Nat) : (c.owes r v q (left + 2)).stepBundles = c.owes r v q (left + 1) := by
  simp [Ctx.stepBundles, Ctx.owes, Ctx.landList]

/-- The last bundle of the latency lands the result. -/
theorem Ctx.stepBundles_lands_owed : (c.owes r v q 1).stepBundles = ({ c with flight := [] } : Ctx).land r v := by
  simp [Ctx.stepBundles, Ctx.owes, Ctx.landList_singleton]

/-- Short of the latency the result is still owed. -/
theorem Ctx.foldl_stepBundles_owes {lat k : Nat} (h : k < lat) :
    (List.range k).foldl (fun c _ => Ctx.stepBundles c) (c.owes r v q lat) = c.owes r v q (lat - k) := by
  induction k with
  | zero => rfl
  | succ k ih =>
    rw [List.range_succ, List.foldl_concat, ih (by omega), show lat - k = lat - (k + 1) - 1 + 2 by omega, Ctx.stepBundles_owes,
      show lat - (k + 1) - 1 + 1 = lat - (k + 1) by omega]

theorem Ctx.foldl_stepBundles_lands {lat : Nat} (h : 0 < lat) :
    (List.range lat).foldl (fun c _ => Ctx.stepBundles c) (c.owes r v q lat) = ({ c with flight := [] } : Ctx).land r v := by
  obtain ⟨k, rfl⟩ : ∃ k, lat = k + 1 := ⟨lat - 1, by omega⟩
  rw [List.range_succ, List.foldl_concat, Ctx.foldl_stepBundles_owes c r v q (Nat.lt_succ_self k),
    show k + 1 - k = 1 by omega, Ctx.stepBundles_lands_owed]

end

theorem Ctx.getX_setX (c : Ctx) {n : Nat} (h0 : n ≠ 0) (hn : n < 48) (v : X64) : (c.setX n v).getX n = v := by
  simp [Ctx.setX, Ctx.getX, h0, hn]

/-- Settles O15: the result is owed until the bundle that lands it. -/
theorem resultLandsAfterLatency : Obligations.ResultLandsAfterLatency := by
  unfold Obligations.ResultLandsAfterLatency
  intro c n lat k v hf h0 hn hl after
  let d := c.enter false (.x n) (.x v) lat
  have ha : ∀ j, after j = (List.range j).foldl (fun c _ => Ctx.stepBundles c) (d.owes (.x n) (.x v) c.seq lat) := by
    intro j
    have hd : d = d.owes (.x n) (.x v) c.seq lat := by simp [d, Ctx.enter, Ctx.owes, hf]
    rw [← hd]
  refine ⟨fun hk => ?_, ?_, ?_⟩
  · rw [ha, Ctx.foldl_stepBundles_owes d _ _ _ hk]
    rfl
  · rw [ha, Ctx.foldl_stepBundles_lands d _ _ _ hl]
    exact Ctx.getX_setX _ (by omega) hn v
  · rw [ha, Ctx.foldl_stepBundles_lands d _ _ _ hl]
    simp only [Ctx.land, Ctx.setX_eq, Ctx.mended_filter]

end Sys2Proof.Machine
end

section
/-!
PROOFS. O22, O23, O24, O26: transfers, hardware loops and the traps of control instructions (R82 to R88, R93, R94, R342, R343,
R347, R349, R350, R357).
-/
namespace Sys2Proof.Machine

/-! ### Transfers (R82, R83, R88) -/

section
variable {s : State} {g : BitVec 4} (hg : s.readP g.toNat = .ok true)
include hg

theorem execBr_eq (o : BitVec 21) : let t := wordTarget (BitVec.ofNat 64 s.issue.pc) o.toInt
    exec (.br g o) s = .next ((s.modCx fun c => c.popLoops t).transfer t) := slotOp_ok hg _

theorem execCall_eq (o : BitVec 21) : exec (.call g o) s = .next ((s.modCx fun c =>
    { c with link := BitVec.ofNat 64 s.issue.next }).transfer (wordTarget (BitVec.ofNat 64 s.issue.pc) o.toInt)) := slotOp_ok hg _

theorem execRet_eq : exec (.ret g) s = .next (s.transfer s.cx.link.toNat) := slotOp_ok hg _

variable {a : BitVec 6} {x : X64} (hx : s.readX a = .ok x)
include hx

theorem execJr_eq (i : BitVec 9) : exec (.jr g a i) s
    = .next ((s.modCx fun c => c.popLoops (wordTarget x i.toInt)).transfer (wordTarget x i.toInt)) := by
  refine (slotOp_true hg).trans ?_
  rw [hx]
  rfl

theorem execJalr_eq (d : BitVec 6) (i : BitVec 9) : exec (.jalr g d a i) s
    = .next ((s.writeX d (BitVec.ofNat 64 s.issue.next) 1).transfer (wordTarget x i.toInt)) := by
  refine (slotOp_true hg).trans ?_
  rw [hx]
  rfl

end

/-- Settles O22: each transfer by its equation under a true guard. -/
theorem transferTargets : Obligations.TransferTargets := by
  unfold Obligations.TransferTargets
  intro s g d a o i x hg hx rel ind go pop
  exact ⟨execBr_eq hg o, execCall_eq hg o, execJr_eq hg hx i, execJalr_eq hg hx d i, execRet_eq hg⟩

/-! ### Hardware loops (R84 to R87) -/

/-- Settles O23: both instructions enter a loop, with the trips and the EC that each names. -/
theorem loopEntry : Obligations.LoopEntry := by
  unfold Obligations.LoopEntry
  intro s g c e r m n x hg hx stop push outcome
  have henter : ∀ k ec, finish s (s.enterLoop k stop ec (r == 1)) = outcome k ec := by
    intro k ec
    dsimp only [outcome, push]
    unfold State.enterLoop
    simp only [beq_iff_eq]
    split
    · rfl
    split
    · rfl
    · rfl
  refine ⟨?_, ?_⟩
  · rw [← henter]
    refine (slotOp_true hg).trans ?_
    rw [hx]
    rfl
  · rw [← henter]
    exact slotOp_true hg

/-- A physical register reads back what it was set to. -/
theorem Ctx.getP_setP (c : Ctx) {n : Nat} (h0 : n ≠ 0) (hn : n < 16) (b : Bool) : (c.setP n b).getP n = b := by
  rw [Ctx.setP_eq]
  cases b <;> simp [Ctx.getP, h0, hn]

theorem Ctx.rotated_p8 (c : Ctx) (b : Bool) : (c.rotated b).rrb = c.rrb.rotate ∧ (c.rotated b).getP (physP c.rrb.rotate 8) = b := by
  have h8 := physP_above c.rrb.rotate (Nat.le_refl 8)
  refine ⟨?_, Ctx.getP_setP _ (by omega) (by omega) b⟩
  unfold Ctx.rotated
  rw [Ctx.setP_eq]

/-- Settles O24: the branches of the close, one by one. -/
theorem loopClose : Obligations.LoopClose := by
  unfold Obligations.LoopClose
  intro c l r pc
  refine ⟨rfl, fun h => if_pos h, fun h hlc => ?_, fun h hlc hr he => ?_, fun h hlc hr => ?_, c.rotated_p8⟩
  · rw [Ctx.closeLoops, if_neg (not_not.2 h), if_pos hlc]
  · rw [Ctx.closeLoops, if_neg (not_not.2 h), if_neg (not_not.2 hlc), if_pos ⟨hr, he⟩]
  · have hn : ¬ (l.rot = true ∧ 1 < l.ec.toNat) := by
      rcases hr with hr | hr
      · simp [hr]
      · exact fun h => Nat.not_lt.2 hr h.2
    rw [Ctx.closeLoops, if_neg (not_not.2 h), if_neg (not_not.2 hlc), if_neg hn]

/-! ### Traps and waits of control instructions -/

/-- Settles O26: each instruction's check fails. -/
theorem controlTraps : Obligations.ControlTraps := by
  unfold Obligations.ControlTraps
  intro s g i y z a x hg hx trap
  have fails : ∀ (c : Prop) [Decidable c] (t : State) (h : Halt), ¬ c →
      slotOp g s (if c then .ok t else .error h) = .next (s.halt h) := fun c _ t h hc => by rw [if_neg hc, slotOp_halt hg]
  refine ⟨slotOp_halt hg _, fun h => ?_, fun h => fails _ _ _ ?_, fun h => ?_, fun h => fails _ _ _ ?_, fun h => ⟨fails _ _ _ ?_, ?_⟩,
    fun h => fails _ _ _ ?_⟩
  · refine fails _ _ _ ?_
    simp [h]
  · unfold Ctx.handles
    split
    · rename_i hh
      simpa using h _ _ hh
    · simp
  · refine (congrArg (slotOp g s) (if_pos h)).trans (slotOp_halt hg _)
  · simp [h]
  · simp [h]
  · refine (slotOp_true hg).trans ?_
    rw [hx]
    exact congrArg (finish s) (if_pos (by simp [h]))
  · simpa using h

end Sys2Proof.Machine
end

section
/-!
PROOFS. O35: CRD and CWR (R62, R90, R147).
-/
namespace Sys2Proof.Machine

/-! ### The map of control registers (R62) -/

/-- The numbers that user mode reads with no threshold to wait for. -/
def userCrns : List (BitVec 8) := [0x00, 0x01, 0x02, 0x03, 0x08, 0x09, 0x0A, 0x0B, 0x0C, 0x0D, 0x10, 0x11, 0x20, 0x21, 0x28, 0x29, 0x2A,
  0x2B, 0x2C, 0x30, 0x31, 0x32, 0x33, 0x34, 0x38, 0x40, 0x41, 0x42]

/-- The numbers of privileged mode. -/
def privCrns : List (BitVec 8) := [0x80, 0x81, 0x82, 0x83]

theorem userCrns_range : ∀ n ∈ userCrns, n.toNat < 0x80 ∧ ¬ (0x18 ≤ n.toNat ∧ n.toNat ≤ 0x1F) := by decide

theorem privCrns_range : ∀ n ∈ privCrns, 0x80 ≤ n.toNat ∧ ¬ (0x18 ≤ n.toNat ∧ n.toNat ≤ 0x1F) := by decide

section
variable (s : State) (core k : Nat)

/-- A threshold as CRD reads it. -/
theorem State.crnRead_kth {n : Nat} (h1 : 0x18 ≤ n) (h2 : n ≤ 0x1F) :
    s.crnRead core k n = some ((((s.ctx core k).kth[n - 0x18]?).getD 0).setWidth 64) := by
  interval_cases n <;> rfl

/-- No other number is listed. -/
theorem State.crnRead_unlisted {n : BitVec 8} (hu : n ∉ userCrns) (hp : n ∉ privCrns) (hk : ¬ (0x18 ≤ n.toNat ∧ n.toNat ≤ 0x1F)) :
    s.crnRead core k n.toNat = none := by
  have listed : ∀ m, n.toNat = m → ¬ (BitVec.ofNat 8 m ∈ userCrns ∨ BitVec.ofNat 8 m ∈ privCrns ∨ 0x18 ≤ m ∧ m ≤ 0x1F) := by
    rintro m rfl
    rw [BitVec.ofNat_toNat, BitVec.setWidth_eq]
    tauto
  unfold State.crnRead
  split
  case h_41 => rfl
  all_goals
    refine absurd ?_ (listed _ ‹_›)
    decide

end

/-! ### The instructions (R90) -/

section
variable {s : State} {g : BitVec 4} (hg : s.readP g.toNat = .ok true) {n : BitVec 8} {v : X64}
include hg

/-- A number that is not listed. -/
theorem execCrd_unlisted (h : s.crnRead s.icore s.ictx n.toNat = none) (d : BitVec 6) :
    exec (.crd g n d) s = .next (s.halt (s.trapHere illegalOp 0 0)) := by
  refine (slotOp_true hg).trans ?_
  rw [h]
  rfl

/-- A privileged register in user mode. -/
theorem execCrd_privileged (h : s.crnRead s.icore s.ictx n.toNat = some v) (hn : 0x80 ≤ n.toNat) (hm : s.issue.mode.priv = false)
    (d : BitVec 6) : exec (.crd g n d) s = .next (s.halt (s.trapHere 4 0 0x0F)) := by
  refine (slotOp_true hg).trans ?_
  simp [h, hn, hm]

/-- A register that the mode may read, once what may be pending from KTH has landed. -/
theorem execCrd_listed (h : s.crnRead s.icore s.ictx n.toNat = some v) (hm : n.toNat < 0x80 ∨ s.issue.mode.priv = true)
    (hk : 0x18 ≤ n.toNat ∧ n.toNat ≤ 0x1F → s.hazard (.kth (n.toNat - 0x18)) = .ok ()) (d : BitVec 6) :
    exec (.crd g n d) s = .next (s.writeX d v 1) := by
  have hp : ¬ (0x80 ≤ n.toNat ∧ (!s.issue.mode.priv) = true) := by
    rcases hm with hm | hm
    · omega
    · simp [hm]
  refine (slotOp_true hg).trans ?_
  rw [h]
  dsimp only
  rw [if_neg hp]
  split
  · rw [hk ‹_›]
    rfl
  · rfl

variable {a : BitVec 6} {x : X64} (hx : s.readX a = .ok x)
include hx

theorem execCwr_unlisted (h : s.crnRead s.icore s.ictx n.toNat = none) :
    exec (.cwr g n a) s = .next (s.halt (s.trapHere illegalOp 0 0)) := by
  refine (slotOp_true hg).trans ?_
  rw [hx, h]
  rfl

theorem execCwr_privileged (h : s.crnRead s.icore s.ictx n.toNat = some v) (hn : 0x80 ≤ n.toNat) (hm : s.issue.mode.priv = false) :
    exec (.cwr g n a) s = .next (s.halt (s.trapHere 4 0 0x10)) := by
  refine (slotOp_true hg).trans ?_
  simp [hx, h, hn, hm, bind, Except.bind]

theorem execCwr_listed (h : s.crnRead s.icore s.ictx n.toNat = some v) (hm : n.toNat < 0x80 ∨ s.issue.mode.priv = true) :
    exec (.cwr g n a) s = .next (s.afterwards (.cwr n.toNat x)) := by
  have hp : ¬ (0x80 ≤ n.toNat ∧ (!s.issue.mode.priv) = true) := by
    rcases hm with hm | hm
    · omega
    · simp [hm]
  refine (slotOp_true hg).trans ?_
  rw [hx, h]
  exact congrArg (finish s) (if_neg hp)

end

/-- Settles O35: the map lists each number with its value, and a number outside it is not listed. -/
theorem controlRegisterAccess : Obligations.ControlRegisterAccess := by
  unfold Obligations.ControlRegisterAccess
  intro s g d a x hg hx c v user priv note trap
  have hread : ∀ e ∈ user, s.crnRead s.icore s.ictx e.1.toNat = some e.2 := by
    have hlc : (match c.loops with | l :: _ => l.lc.setWidth 64 | [] => 0) = ((c.loops.head?.map LoopLevel.lc).getD 0).setWidth 64 := by
      cases c.loops <;> rfl
    have hec : (match c.loops with | l :: _ => l.ec.setWidth 64 | [] => 0) = ((c.loops.head?.map LoopLevel.ec).getD 0).setWidth 64 := by
      cases c.loops <;> rfl
    refine (List.map_inj_left (l := user) (f := fun e => s.crnRead s.icore s.ictx e.1.toNat) (g := fun e => some e.2)).1 ?_
    dsimp only [user]
    rw [← hlc, ← hec]
    rfl
  have hpriv : ∀ e ∈ priv, s.crnRead s.icore s.ictx e.1.toNat = some e.2 :=
    (List.map_inj_left (l := priv) (f := fun e => s.crnRead s.icore s.ictx e.1.toNat) (g := fun e => some e.2)).1 rfl
  have hun : ∀ e ∈ user, e.1 ∈ userCrns := fun e he => List.mem_map_of_mem (f := Prod.fst) he
  have hpn : ∀ e ∈ priv, e.1 ∈ privCrns := fun e he => List.mem_map_of_mem (f := Prod.fst) he
  refine ⟨fun e he => ?user, fun n h1 h2 hk => ?kth, fun e he => ?priv, fun n hu hp hk => ?unlisted⟩
  case user =>
    obtain ⟨h1, h2⟩ := userCrns_range _ (hun e he)
    exact ⟨execCrd_listed hg (hread e he) (.inl h1) (fun h => absurd h h2) d, execCwr_listed hg hx (hread e he) (.inl h1)⟩
  case kth =>
    have hr := s.crnRead_kth s.icore s.ictx h1 h2
    exact ⟨execCrd_listed hg hr (.inl (by omega)) (fun _ => hk) d, execCwr_listed hg hx hr (.inl (by omega))⟩
  case priv =>
    obtain ⟨h1, h2⟩ := privCrns_range _ (hpn e he)
    exact ⟨fun hm => ⟨execCrd_listed hg (hpriv e he) (.inr hm) (fun h => absurd h h2) d, execCwr_listed hg hx (hpriv e he) (.inr hm)⟩,
      fun hm => ⟨execCrd_privileged hg (hpriv e he) h1 hm d, execCwr_privileged hg hx (hpriv e he) h1 hm⟩⟩
  case unlisted =>
    have hr := s.crnRead_unlisted s.icore s.ictx hu hp hk
    exact ⟨execCrd_unlisted hg hr d, execCwr_unlisted hg hx hr⟩

end Sys2Proof.Machine
end

section
/-!
PROOFS. O38: ISUM, BANKSW, TKNEXT and PSTOP (R96, R97, R99, R100, R198, R266, R274).
-/
namespace Sys2Proof.Machine

/-! ### Changes of a core and of a context -/

/-- A change of a core is told by what it makes of the core as it stands. -/
theorem State.modCS_congr {s : State} {core : Nat} {f g : CoreState → CoreState} (h : f (s.cs core) = g (s.cs core)) :
    s.modCS core f = s.modCS core g := by
  unfold State.modCS State.modCore
  change s.setCore _ { s.core core with cur := f (s.cs core) } = _
  rw [h]
  rfl

/-- Two changes of the issuing context are one, whatever its number. -/
theorem State.modCx_modCx (s : State) (f g : Ctx → Ctx) : (s.modCx f).modCx g = s.modCx fun c => g (f c) := by
  by_cases hk : s.issue.ctx < 4
  · exact State.modCtx_modCtx s _ hk f g
  · -- a number that no context has changes nothing
    have hn : ∀ (v : CoreState) (c : Ctx), v.setCtx s.issue.ctx c = v := fun v c => by
      unfold CoreState.setCtx
      rw [Vector.setIfInBounds_eq_of_size_le (Nat.le_of_not_lt hk)]
    simp only [State.modCx, State.modCtx, State.modCS_issue, State.modCS_modCS, hn]

/-! ### Sums of banks (R97, R99, R100) -/

/-- The name of the bank that ISUM's field chooses (R155). -/
theorem bankName_eq : ∀ k : BitVec 1, bankName (k == 1) = 0xFE + k.toNat := by decide

section
variable {s : State} {g : BitVec 4} (hg : s.readP g.toNat = .ok true) {a b : BitVec 6} {x y : X64} (hx : s.readX a = .ok x)
include hg hx

theorem execIsum_eq (d : BitVec 6) (k : BitVec 1) (hn : x.toNat ≤ 16384) (hf : s.ccs.codeFlawed (1 + k.toNat) x.toNat = false) :
    exec (.isum g d a k) s = .next (s.loadResult .isum (s.xDest d ((checksum (s.ccs.bank (k == 1)) x.toNat).setWidth 64))
      (s.cycle.toNat + sumCycles x.toNat) 0) := by
  refine (slotOp_true hg).trans ?_
  simp [hx, bind, Except.bind, Nat.not_lt.2 hn, hf]

theorem execIsum_bound (d : BitVec 6) (k : BitVec 1) (hn : 16384 < x.toNat) :
    exec (.isum g d a k) s = .next (s.halt (s.trapHere segBound 0 (0xFE + k.toNat))) := by
  rw [← bankName_eq]
  refine (slotOp_true hg).trans ?_
  simp [hx, bind, Except.bind, hn]

variable (hy : s.readX b = .ok y) (hb : s.cx.bank = none)
include hy hb

/-- With no sum of its own under way, BANKSW starts one. -/
theorem execBanksw_starts (hn : y.toNat ≤ 16384) (hf : s.ccs.codeFlawed (1 + (!s.ccs.active).toNat) y.toNat = false) :
    exec (.banksw g a b) s = .next (s.modIssue fun i => { i with
      start := some (.banksw ⟨s.issue.pc, s.issue.rep, checksum (s.ccs.bank (!s.ccs.active)) y.toNat, x.setWidth 32,
        s.cycle.toNat + sumCycles y.toNat⟩), verdict := some .stalled }) := by
  refine (slotOp_true hg).trans ?_
  simp [hx, hy, hb, bind, Except.bind, Nat.not_lt.2 hn, hf]

theorem execBanksw_bound (hn : 16384 < y.toNat) :
    exec (.banksw g a b) s = .next (s.halt (s.trapHere segBound 0 (bankName (!s.ccs.active)))) := by
  refine (slotOp_true hg).trans ?_
  simp [hx, hy, hb, bind, Except.bind, hn]

end

section
variable {s : State} {g : BitVec 4} (hg : s.readP g.toNat = .ok true) (a b : BitVec 6) {w : BankWait} (hb : s.cx.bank = some w)
  (hp : w.pc = s.issue.pc) (hr : w.rep = s.issue.rep)
include hg hb hp hr

/-- BANKSW waits for its sum, and then swaps the banks or traps. -/
theorem execBanksw_decides : exec (.banksw g a b) s = finish s (if s.cycle.toNat < w.due then .error (.blocked .banksw)
      else if w.sum = w.expect then
        .ok ((s.modCx fun c => { c with bank := none, stale := c.stale.filter fun w => !w.seen }).modCcs
          fun v => { v with active := !v.active })
      else .error (s.trapHere 0x0E 0 w.sum.toNat)) := by
  refine (slotOp_true hg).trans ?_
  have hw : s.cx.bank.filter (fun w => w.pc == s.issue.pc && w.rep == s.issue.rep) = some w := by simp [hb, Option.filter, hp, hr]
  have hm : (s.refetch.modCx fun c => { c with bank := none })
      = s.modCx fun c => { c with bank := none, stale := c.stale.filter fun w => !w.seen } := s.modCx_modCx _ _
  rw [hw]
  dsimp only
  rw [hm]

end

/-! ### Chunks of a part (R266) -/

/-- A word added without wrap. -/
theorem toInt_add_ofNat (x : X64) {n : Nat} (h : x.toInt + n < 2 ^ 63) : (x + BitVec.ofNat 64 n).toInt = x.toInt + n := by
  have := x.le_toInt
  rw [BitVec.toInt_add, BitVec.toInt_ofNat', Int.add_bmod_bmod, Int.bmod_eq_of_le]
  all_goals omega

/-- The chunk ends after a grain, or with the part. -/
theorem chunk_eq {lo hi : X64} (grain : Nat) (h : lo.toInt < hi.toInt) :
    ∃ e : X64, e.toInt = min (lo.toInt + grain) hi.toInt ∧ chunk lo hi grain = (lo, e, e) := by
  have := hi.toInt_lt
  refine ⟨if lo.toInt + grain < hi.toInt then lo + BitVec.ofNat 64 grain else hi, ?_, by simp [chunk, Int.not_le.2 h]⟩
  split
  · rw [toInt_add_ofNat _ (by omega)]
    omega
  · omega

/-- TKNEXT claims a chunk of the part, or writes 0 twice without one. -/
theorem execTknext_eq {s : State} {g : BitVec 4} (hg : s.readP g.toNat = .ok true) (d : BitVec 6) {lo e cursor : X64}
    (h : (if s.cx.task.isSome then chunk s.cx.tklo s.cx.tkhi s.cx.tkgrain.toNat else (0, 0, s.cx.tklo)) = (lo, e, cursor)) :
    exec (.tknext g d) s = .next ((s.modCx fun c => { c with tklo := cursor }).loadResult .tknext
      (s.xDest d lo ++ s.xDest (d + 1) e) 0 0) := by
  refine (slotOp_true hg).trans ?_
  dsimp only
  rw [h]
  rfl

/-! ### PSTOP (R274) -/

theorem CoreState.gangParked_iff (v : CoreState) : v.gangParked = true ↔ v.gang.isSome = true ∧ ∀ k < 3, (v.ctx k).parked = true := by
  simp [CoreState.gangParked, List.all_eq_true]

section
variable {s : State} {g : BitVec 4} (hg : s.readP g.toNat = .ok true) {a : BitVec 6} {x : X64} (hx : s.readX a = .ok x)
  (hp : s.issue.mode.priv = true)
include hg hx hp

theorem execPstop_range (h : 64 ≤ x.toNat) : exec (.pstop g a) s = .next (s.halt (s.trapHere illegalOp 0 0)) := by
  refine (slotOp_true hg).trans ?_
  simp [hx, bind, Except.bind, hp, h]

variable {core : Nat} (hc : core = 64 * (s.issue.core / 64) + x.toNat) (h : x.toNat < 64)
include hc h

theorem execPstop_none (hq : (s.cs core).gang = none) : exec (.pstop g a) s = .next s := by
  subst hc
  change (s.cs (64 * dieOf s.icore + x.toNat)).gang = none at hq
  refine (slotOp_true hg).trans ?_
  simp [hx, bind, Except.bind, hp, Nat.not_le.2 h, hq]

/-- At a core with a gang, PSTOP goes on once the three members are parked, and starts a drain or waits for it before. -/
theorem execPstop_gang {q : Gang} (hq : (s.cs core).gang = some q) : exec (.pstop g a) s = finish s
    (if (s.cs core).gangParked then .ok (s.modCS core CoreState.endDrain)
      else if q.stopping then .error (.blocked .pstop)
      else .ok (s.modIssue fun i => { i with start := some (.pstop core), verdict := some (.blocked .pstop) })) := by
  subst hc
  change (s.cs (64 * dieOf s.icore + x.toNat)).gang = some q at hq
  refine (slotOp_true hg).trans ?_
  simp only [hx, bind, Except.bind, hp, Bool.not_true, Bool.false_eq_true, if_false, Nat.not_le.2 h, hq]
  rfl

end

section
variable {v : CoreState} {q : Gang} (hq : v.gang = some q)
include hq

theorem CoreState.endDrain_idle (hs : q.stopping = false) : v.endDrain = v := by simp [CoreState.endDrain, hq, hs]

theorem CoreState.endDrain_over (hs : q.stopping = true) (hn : 3 ≤ q.stopped.length) : v.endDrain = { v with
    gang := some { q with stopping := false }, pipes := v.pipes.map fun p => { p with elems := p.elems.filter Option.isSome } } := by
  simp [CoreState.endDrain, hq, hs, hn]

end

/-- Settles O38: each instruction by the equation of its case. -/
theorem bankSumsAndParts : Obligations.BankSumsAndParts := by
  unfold Obligations.BankSumsAndParts
  intro s g d a b k x y hg hx hy now trap owe bank idle core
  refine ⟨execIsum_eq hg hx d k, execIsum_bound hg hx d k, fun hb hn hf => execBanksw_starts hg hx hy hb hn hf,
    fun hb hn => execBanksw_bound hg hx hy hb hn, fun w hb hp hr => ?banksw, ?tknext, execPstop_range hg hx, fun hp h => ?pstop⟩
  case banksw =>
    have he := execBanksw_decides hg a b hb hp hr
    refine ⟨fun hd => ?_, fun hd hs => ?_, fun hd hs => ?_⟩
    · rw [he, if_pos hd]
      rfl
    · rw [he, if_neg (Nat.not_lt.2 hd), if_neg hs]
      rfl
    · rw [he, if_neg (Nat.not_lt.2 hd), if_pos hs]
      rfl
  case tknext =>
    intro c next
    refine ⟨fun ht => ?_, fun ht hl => execTknext_eq hg d ?_, fun ht hl => ?_⟩
    · exact execTknext_eq hg d (if_neg (by simp [show s.cx.task = none from ht]))
    · rw [if_pos ht, chunk, if_pos hl]
    · obtain ⟨e, he, hc⟩ := chunk_eq c.tkgrain.toNat hl
      exact ⟨e, he, execTknext_eq hg d (by rw [if_pos ht]; exact hc)⟩
  case pstop =>
    have gang := fun q (hq : (s.cs core).gang = some q) => execPstop_gang hg hx hp (core := core) rfl h hq
    refine ⟨execPstop_none hg hx hp (core := core) rfl h, fun q hq hs hk => ?_, fun q hq hs hk => ?_, CoreState.gangParked_iff _,
      fun q hq hs hk => ?_, fun q hq hs hn hk => ?_⟩
    · rw [gang q hq, hk, hs]
      rfl
    · rw [gang q hq, hk]
      exact congrArg Host.Outcome.next (State.modCS_congr (CoreState.endDrain_idle hq hs))
    · rw [gang q hq, hk, hs]
      rfl
    · rw [gang q hq, hk]
      exact congrArg Host.Outcome.next (State.modCS_congr (CoreState.endDrain_over hq hs hn))

end Sys2Proof.Machine
end

section
/-!
PROOFS. O34: arrivals at a barrier, and what its release leaves (R94, R95, R151, R321, R353).
-/
namespace Sys2Proof.Machine

/-! ### Arrivals (R94, R151) -/

section
variable {s : State} {g : BitVec 4} (hg : s.readP g.toNat = .ok true) (y : BitVec 3) (i : BitVec 6)
include hg

theorem execBar_arrives (h : s.cx.participant = true) : exec (.bar g y i) s
    = .next (s.arriveBar s.issue.core s.issue.ctx ⟨s.barKeyHere y.toNat i.toNat, none⟩) := by
  refine (slotOp_true hg).trans ?_
  rw [h]
  rfl

variable (o : BitVec 3) {v : BitVec 5} {x : VReg} (hx : s.readV v = .ok x)
include hx

theorem execBarx_outside (h : s.cx.participant = false) : exec (.barx g y i o v) s = .next (s.halt (s.trapHere illegalOp 18 0)) := by
  refine (slotOp_true hg).trans ?_
  rw [hx, h]
  rfl

/-- A participant arrives where the generation has no other operation. -/
theorem execBarx_inside (h : s.cx.participant = true) : let key := s.barKeyHere y.toNat i.toNat
    exec (.barx g y i o v) s = finish s (if (s.barrier key).op.getD o.toNat ≠ o.toNat then .error (s.trapHere illegalOp 5 0)
      else .ok (s.arriveBar s.issue.core s.issue.ctx ⟨key, some (o.toNat, physV s.issue.rrb v.toNat, (List.range 16).map x.lane)⟩)) := by
  refine (slotOp_true hg).trans ?_
  rw [hx, h]
  rfl

end

/-- The barrier of a key has it. -/
theorem State.barrier_key (s : State) (key : BarKey) : (s.barrier key).key = key := by
  unfold State.barrier
  cases h : s.barriers.find? fun b => decide (b.key = key) with
  | none => rfl
  | some b =>
    have hb := List.find?_some h
    exact of_decide_eq_true hb

theorem State.barrier_putBarrier (s : State) (b : Barrier) : (s.putBarrier b).barrier b.key = b := by
  unfold State.barrier State.putBarrier
  have hn : (s.barriers.filter fun c => decide (c.key ≠ b.key)).find? (fun c => decide (c.key = b.key)) = none := by
    rw [List.find?_eq_none]
    intro c hc
    simpa using (List.mem_filter.1 hc).2
  rw [List.find?_append, hn]
  simp

/-- An arrival stands in the context, which waits, and in the barrier. -/
theorem State.arriveBar_arrivals (s : State) (c : Nat) {k : Nat} (hk : k < 4) (a : Arrival) :
    ((s.arriveBar c k a).ctx c k).arrivals = (s.ctx c k).arrivals ++ [a]
      ∧ ((s.arriveBar c k a).barrier a.key).arrivals = (s.barrier a.key).arrivals ++ [(4 * c + k, a.barx.map (·.2.2))] := by
  refine ⟨congrArg Ctx.arrivals (State.ctx_modCtx _ c hk _), ?_⟩
  have hp := s.barrier_putBarrier { s.barrier a.key with
    arrivals := (s.barrier a.key).arrivals ++ [(4 * c + k, a.barx.map (·.2.2))]
    op := (s.barrier a.key).op.orElse fun _ => a.barx.map (·.1) }
  rw [s.barrier_key] at hp
  exact congrArg Barrier.arrivals hp

/-! ### A full barrier (R94, R321) -/

theorem State.barrierMet_iff (s : State) (b : Barrier) : s.barrierMet b = true ↔ (b.arrivals ≠ [] ∨ b.landings ≠ [])
    ∧ (∀ e ∈ s.partCtxs b.key, e.2.participant = true → e.2.run ≠ .halted → ∃ a ∈ b.arrivals, a.1 = e.1)
    ∧ ∀ l ∈ s.expectedLandings b.key, l ∈ b.landings := by
  unfold State.barrierMet
  rw [Bool.and_eq_true, Bool.and_eq_true, and_assoc, List.all_eq_true, List.all_eq_true]
  refine and_congr ?_ (and_congr (forall₂_congr fun e _ => ?_) (forall₂_congr fun l _ => ?_))
  · simp
  · rw [Bool.or_eq_true, Bool.or_eq_true, Bool.not_eq_true', decide_eq_true_iff, List.any_eq_true]
    simp only [beq_iff_eq]
    cases e.2.participant <;> simp [or_iff_not_imp_left]
  · simp

theorem State.releaseAll_none {s : State} (h : ∀ e ∈ s.barriers, s.barrierMet e = false) (n : Nat) : s.releaseAll n = s := by
  cases n with
  | zero => rfl
  | succ n =>
    have hn : s.barriers.find? (fun b => s.barrierMet b) = none := by
      rw [List.find?_eq_none]
      exact fun e he => by simp [h e he]
    simp [State.releaseAll, hn]

theorem State.releaseAll_some {s : State} {b : Barrier} (h : s.barriers.find? (fun e => s.barrierMet e) = some b) (n : Nat) :
    s.releaseAll (n + 1) = (s.release b).releaseAll n := by simp [State.releaseAll, h]

/-! ### What a release does to the waiters -/

/-- A waiter of the barrier sees the release, and observes what it announces. -/
def Ctx.seesRelease (c : Ctx) (b : Barrier) (ready : Nat) (news : List (Nat × Nat)) (runs : Bool) : Ctx :=
  (c.released b ready runs).observe news

/-- The same of one of the contexts of a partition on a core. -/
def CoreState.releasesOne (v : CoreState) (b : Barrier) (ready : Nat) (news : List (Nat × Nat)) (runs : Bool) (k : Nat) : CoreState :=
  v.setCtx k ((v.ctx k).seesRelease b ready news runs)

/-- One arrival's context is released. -/
def State.releasesOne (t : State) (b : Barrier) (ready : Nat) (news : List (Nat × Nat)) (a : Nat × Option (List Word)) : State :=
  t.modPart (a.1 / 4) b.key.part fun v =>
    v.releasesOne b ready news (decide ((t.cs (a.1 / 4)).part = some b.key.part)) (a.1 % 4)

/-- The waiters of a list are released in turn. -/
def State.releases (s : State) (b : Barrier) (ready : Nat) (news : List (Nat × Nat)) (l : List (Nat × Option (List Word))) : State :=
  l.foldl (fun t a => t.releasesOne b ready news a) s

/-- The contexts of a partition on a core after the release of a list of waiters. -/
def CoreState.releases (v : CoreState) (b : Barrier) (ready : Nat) (news : List (Nat × Nat)) (runs : Bool) (core : Nat)
    (l : List (Nat × Option (List Word))) : CoreState :=
  l.foldl (fun v a => if a.1 / 4 = core then v.releasesOne b ready news runs (a.1 % 4) else v) v

section
variable (b : Barrier) (ready : Nat) (news : List (Nat × Nat))

theorem CoreState.releasesOne_part (v : CoreState) (runs : Bool) (k : Nat) : (v.releasesOne b ready news runs k).part = v.part := rfl

/-- Of the waiters that are released, those of one context count for it. -/
theorem CoreState.releases_ctx (runs : Bool) (core : Nat) {k : Nat} (hk : k < 4) (l : List (Nat × Option (List Word))) :
    ∀ v : CoreState, (v.releases b ready news runs core l).ctx k
      = (l.filter fun a => a.1 == 4 * core + k).foldl (fun x _ => x.seesRelease b ready news runs) (v.ctx k) := by
  induction l with
  | nil => exact fun _ => rfl
  | cons a r ih =>
    intro v
    have hr := ih (if a.1 / 4 = core then v.releasesOne b ready news runs (a.1 % 4) else v)
    refine hr.trans ?_
    by_cases ha : a.1 = 4 * core + k
    · have h1 : a.1 / 4 = core := by omega
      have h2 : a.1 % 4 = k := by omega
      rw [List.filter_cons_of_pos (by simpa using ha), List.foldl_cons, if_pos h1, h2, CoreState.releasesOne,
        CoreState.ctx_setCtx _ hk]
    · rw [List.filter_cons_of_neg (by simpa using ha)]
      congr 1
      split
      · exact CoreState.ctx_setCtx_other _ (by omega) _
      · rfl

variable (t : State) (a : Nat × Option (List Word)) (d : Nat)

/-- A release leaves the partitions where they are. -/
theorem State.releasesOne_part : ((t.releasesOne b ready news a).cs d).part = (t.cs d).part := by
  by_cases hd : d = a.1 / 4
  · subst hd
    exact (t.modPart_sameParts _ b.key.part fun v => v.releasesOne_part b ready news _ _).1
  · unfold State.cs State.releasesOne State.modPart State.modCore
    rw [State.core_setCore_other _ _ hd]

theorem State.releasesOne_partState {v : CoreState} (h : t.partState d b.key.part = some v) :
    (t.releasesOne b ready news a).partState d b.key.part = some (if a.1 / 4 = d then
      v.releasesOne b ready news (decide ((t.cs d).part = some b.key.part)) (a.1 % 4) else v) := by
  split
  next hd =>
    subst hd
    exact State.partState_modPart h ((v.releasesOne_part b ready news _ _).trans (State.partState_part h))
  next hd =>
    rw [← h]
    unfold State.partState State.releasesOne State.modPart State.modCore
    rw [State.core_setCore_other _ _ (Ne.symm hd)]

/-- A core on which another partition runs keeps its running contexts. -/
theorem State.releasesOne_cs (h : (t.cs d).part ≠ some b.key.part) : (t.releasesOne b ready news a).cs d = t.cs d := by
  unfold State.cs State.releasesOne State.modPart State.modCore
  by_cases hd : d = a.1 / 4
  · subst hd
    rw [State.core_setCore]
    exact (congrArg Core.cur (if_neg h)).trans rfl
  · rw [State.core_setCore_other _ _ hd]

variable (l : List (Nat × Option (List Word)))

theorem State.releases_part : ∀ t : State, ((t.releases b ready news l).cs d).part = (t.cs d).part := by
  induction l with
  | nil => exact fun _ => rfl
  | cons a r ih => exact fun t => (ih _).trans (t.releasesOne_part b ready news a d)

theorem State.releases_partState : ∀ (t : State) (v : CoreState), t.partState d b.key.part = some v →
    (t.releases b ready news l).partState d b.key.part
      = some (v.releases b ready news (decide ((t.cs d).part = some b.key.part)) d l) := by
  induction l with
  | nil => exact fun _ _ h => h
  | cons a r ih =>
    intro t v h
    have hr := ih _ _ (t.releasesOne_partState b ready news a d h)
    rw [t.releasesOne_part b ready news a d] at hr
    exact hr

theorem State.releases_cs : ∀ t : State, (t.cs d).part ≠ some b.key.part → (t.releases b ready news l).cs d = t.cs d := by
  induction l with
  | nil => exact fun _ _ => rfl
  | cons a r ih =>
    intro t h
    exact (ih _ (by rw [t.releasesOne_part b ready news a d]; exact h)).trans (t.releasesOne_cs b ready news a d h)

theorem State.releases_frame : ∀ t : State, ∃ c, t.releases b ready news l = { t with cores := c } := by
  induction l with
  | nil => exact fun t => ⟨t.cores, rfl⟩
  | cons a r ih => exact fun t => (ih _).imp fun c h => h

end

/-! ### The release (R94, R321) -/

/-- The cycle of a barrier's figure (R95, R153). -/
def State.releaseReady (s : State) (b : Barrier) : Nat := s.cycle.toNat + releaseCycles b.op.isSome b.key.scope

/-- The waiters of a barrier are released. -/
def State.waitersReleased (s : State) (b : Barrier) : State :=
  s.releases b (s.releaseReady b) (s.barrierNews b.key) b.arrivals

theorem State.arriveLanding_foldl_frame (key : BarKey) (l : List (Nat × Nat)) : ∀ t : State,
    ∃ b, l.foldl (fun t l => t.arriveLanding key l.1 l.2) t = { t with barriers := b } := by
  induction l with
  | nil => exact fun t => ⟨t.barriers, rfl⟩
  | cons a r ih =>
    intro t
    obtain ⟨b, hb⟩ : ∃ b, t.arriveLanding key a.1 a.2 = { t with barriers := b } := by
      unfold State.arriveLanding
      dsimp only
      split <;> exact ⟨_, rfl⟩
    obtain ⟨c, hc⟩ := ih (t.arriveLanding key a.1 a.2)
    exact ⟨c, by rw [List.foldl_cons, hc, hb]⟩

section
variable (s : State) (b : Barrier)

theorem State.release_frame : ∃ n l, s.release b = { s.waitersReleased b with news := n, barriers := l } := by
  obtain ⟨l, hl⟩ := State.arriveLanding_foldl_frame b.key b.heldLandings
    { (s.waitersReleased b).nextNews b.key with barriers := (s.waitersReleased b).barriers.filter fun c => decide (c.key ≠ b.key) }
  exact ⟨_, l, hl⟩

theorem State.release_core (d : Nat) : (s.release b).core d = (s.waitersReleased b).core d := by
  obtain ⟨n, l, h⟩ := s.release_frame b
  rw [h]
  rfl

theorem State.release_mem : (s.release b).mem = s.mem := by
  obtain ⟨n, l, h⟩ := s.release_frame b
  obtain ⟨c, hc⟩ := State.releases_frame b (s.releaseReady b) (s.barrierNews b.key) b.arrivals s
  rw [h, State.waitersReleased, hc]

/-- With no landing arrival held for it, the next generation stands empty. -/
theorem State.release_barriers (h : b.heldLandings = []) :
    (s.release b).barriers = s.barriers.filter fun e => decide (e.key ≠ b.key) := by
  obtain ⟨c, hc⟩ := State.releases_frame b (s.releaseReady b) (s.barrierNews b.key) b.arrivals s
  unfold State.release
  rw [h]
  change (State.releases s b (s.releaseReady b) (s.barrierNews b.key) b.arrivals).barriers.filter _ = _
  rw [hc]

/-- The contexts of the barrier's partition on a core. -/
theorem State.release_partState {d : Nat} {v : CoreState} (h : s.partState d b.key.part = some v) :
    (s.release b).partState d b.key.part = some (v.releases b (s.releaseReady b) (s.barrierNews b.key)
      (decide ((s.cs d).part = some b.key.part)) d b.arrivals) := by
  rw [← State.releases_partState b _ _ d b.arrivals s v h]
  unfold State.partState
  rw [s.release_core b d]
  rfl

theorem State.partState_running {s : State} {d p : Nat} (h : (s.cs d).part = some p) : s.partState d p = some (s.cs d) := if_pos h

theorem State.release_cs {d : Nat} (h : (s.cs d).part = some b.key.part) :
    (s.release b).cs d = (s.cs d).releases b (s.releaseReady b) (s.barrierNews b.key) true d b.arrivals := by
  have hp : ((s.release b).cs d).part = some b.key.part := by
    rw [State.cs, s.release_core b d]
    exact (State.releases_part b _ _ d b.arrivals s).trans h
  have hs := s.release_partState b (State.partState_running h)
  rw [State.partState_running hp] at hs
  simpa [h] using hs

/-- The release of a running context. -/
theorem State.release_ctx {d j : Nat} (hj : j < 4) (h : (s.cs d).part = some b.key.part) : (s.release b).ctx d j
    = (b.arrivals.filter fun a => a.1 == 4 * d + j).foldl
      (fun x _ => x.seesRelease b (s.releaseReady b) (s.barrierNews b.key) true) (s.ctx d j) := by
  unfold State.ctx
  rw [s.release_cs b h, CoreState.releases_ctx b _ _ true d hj]

/-- A context that has not arrived keeps its values. -/
theorem State.release_ctx_other {d j : Nat} (h : ∀ a ∈ b.arrivals, a.1 ≠ 4 * d + j) (hj : j < 4) :
    (s.release b).ctx d j = s.ctx d j := by
  by_cases hp : (s.cs d).part = some b.key.part
  · have hn : (b.arrivals.filter fun a => a.1 == 4 * d + j) = [] := by
      rw [List.filter_eq_nil_iff]
      exact fun a ha => by simpa using h a ha
    rw [s.release_ctx b hj hp, hn]
    rfl
  · have hc : (s.release b).cs d = s.cs d := by
      rw [State.cs, s.release_core b d]
      exact State.releases_cs b _ _ d b.arrivals s hp
    rw [State.ctx, hc]
    rfl

end

end Sys2Proof.Machine
end

section
/-!
PROOFS. O34: what a waiter of a barrier takes with it, the reduction of BARX, and the statement itself (R95, R151 to R153, R353).
-/
namespace Sys2Proof.Machine

/-! ### What a waiter takes with it (R95, R151) -/

theorem lane_lanesOf (f : Nat → Word) {l : Nat} (h : l < 64) : (lanesOf f).lane l = f l := by
  simp [lanesOf, VReg.lane, Vector.toList, h]

/-- The lanes of BARX, reduced. -/
def Barrier.lanes (b : Barrier) : List Word := (List.range 16).map b.result

/-- The release of the only arrival that a context has made: nothing is left to wait for. -/
theorem Ctx.released_last {x : Ctx} {b : Barrier} {o : Option (Nat × Nat × List Word)} (h : x.arrivals = [⟨b.key, o⟩]) (ready : Nat)
    (runs : Bool) : let results := (o.map fun e => (e.2.1, b.lanes)).toList
    x.released b ready runs =
      let c := if runs then results.foldl Ctx.takeBarx x else { x with owedBarx := x.owedBarx ++ results }
      { c with arrivals := [], readyAt := Nat.max c.readyAt ready, wait := .none, waitCycles := 0 } := by
  unfold Ctx.released Barrier.lanes
  simp only [h]
  cases o <;> simp

section
variable {x : Ctx} {b : Barrier} {r : Nat} {p : Option (Nat × List Word)} (h : x.arrivals = [⟨b.key, p.map fun e => (r, e)⟩])
  (ready : Nat) (news : List (Nat × Nat))
include h

/-- Where its partition runs, the context may issue from the figure's cycle on. -/
theorem Ctx.seesRelease_running : ∃ v, x.seesRelease b ready news true = { x.observe news with
    arrivals := [], readyAt := Nat.max x.readyAt ready, wait := .none, waitCycles := 0, v := v }
      ∧ v = ((p.map fun e => (e.1, b.lanes)).toList.foldl Ctx.takeBarx x).v := by
  unfold Ctx.seesRelease
  rw [Ctx.released_last h]
  cases p <;> exact ⟨_, rfl, rfl⟩

/-- Where it does not run, the result is owed (R353). -/
theorem Ctx.seesRelease_owed : (x.seesRelease b ready news false).owedBarx = x.owedBarx ++ (p.map fun e => (e.1, b.lanes)).toList
    ∧ (x.seesRelease b ready news false).v = x.v ∧ (x.seesRelease b ready news false).arrivals = [] := by
  unfold Ctx.seesRelease
  rw [Ctx.released_last h]
  cases p <;> exact ⟨rfl, rfl, rfl⟩

end

/-- The result of BARX stands in lanes 0 to 15 of its register. -/
theorem Ctx.getV_takeBarx (x : Ctx) (b : Barrier) {n : Nat} (hn : n < 32) : (∀ m, m ≠ n → (x.takeBarx (n, b.lanes)).getV m = x.getV m)
    ∧ ∀ l < 64, ((x.takeBarx (n, b.lanes)).getV n).lane l = if l < 16 then b.result l else (x.getV n).lane l := by
  refine ⟨fun m hm => ?_, fun l hl => ?_⟩
  · unfold Ctx.getV Ctx.takeBarx
    rw [Vector.getElem?_setIfInBounds_ne (Ne.symm hm)]
  · have hv : (x.takeBarx (n, b.lanes)).getV n = lanesOf fun i => if i < 16 then b.lanes.getD i 0 else (x.getV n).lane i := by
      unfold Ctx.takeBarx
      rw [Ctx.getV, Vector.getElem?_setIfInBounds_self_of_lt hn]
      rfl
    rw [hv, lane_lanesOf _ hl]
    split
    · simp [Barrier.lanes, *]
    · rfl

/-! ### The order of the contributions (R152) -/

theorem insertLeaf_perm (e : Nat × List Word) (l : List (Nat × List Word)) : (insertLeaf e l).Perm (e :: l) := by
  induction l with
  | nil => exact .refl _
  | cons f r ih =>
    unfold insertLeaf
    split
    · exact .refl _
    · exact (ih.cons f).trans (.swap e f r)

theorem insertLeaf_sorted (e : Nat × List Word) (l : List (Nat × List Word)) (h : (l.map (·.1)).Pairwise (· ≤ ·)) :
    ((insertLeaf e l).map (·.1)).Pairwise (· ≤ ·) := by
  induction l with
  | nil => exact List.pairwise_singleton _ _
  | cons f r ih =>
    obtain ⟨hf, hr⟩ := List.pairwise_cons.1 h
    unfold insertLeaf
    split
    next he =>
      refine List.pairwise_cons.2 ⟨fun n hn => ?_, h⟩
      rcases List.mem_cons.1 hn with rfl | hn
      · exact Nat.le_of_lt he
      · exact Nat.le_trans (Nat.le_of_lt he) (hf n hn)
    next he =>
      refine List.pairwise_cons.2 ⟨fun n hn => ?_, ih hr⟩
      rcases List.mem_cons.1 (((insertLeaf_perm e r).map (·.1)).mem_iff.1 hn) with rfl | hn
      · exact Nat.not_lt.1 he
      · exact hf n hn

/-- Contributions put at their places one after another. -/
theorem foldl_insertLeaf (l : List (Nat × List Word)) : ∀ acc : List (Nat × List Word), (acc.map (·.1)).Pairwise (· ≤ ·) →
    ((l.foldl (fun acc e => insertLeaf e acc) acc).map (·.1)).Pairwise (· ≤ ·)
      ∧ (l.foldl (fun acc e => insertLeaf e acc) acc).Perm (l ++ acc) := by
  induction l with
  | nil => exact fun acc h => ⟨h, .refl _⟩
  | cons e r ih =>
    intro acc h
    obtain ⟨hs, hp⟩ := ih _ (insertLeaf_sorted e acc h)
    exact ⟨hs, hp.trans (((insertLeaf_perm e acc).append_left r).trans List.perm_middle)⟩

theorem Barrier.leaves_sorted (b : Barrier) : (b.leaves.map (·.1)).Pairwise (· ≤ ·)
    ∧ b.leaves.Perm (b.arrivals.filterMap fun a => a.2.map fun l => (a.1, l)) := by
  obtain ⟨hs, hp⟩ := foldl_insertLeaf (b.arrivals.filterMap fun a => a.2.map fun l => (a.1, l)) [] .nil
  rw [List.append_nil] at hp
  exact ⟨hs, hp⟩

/-! ### One combining step (R151) -/

theorem barxStep_max (a b : Word) : (barxStep 4 a b).toInt = max a.toInt b.toInt := by
  have h : barxStep 4 a b = if a.toInt < b.toInt then b else a := ite_below_signed a b b a
  rw [h]
  split <;> omega

theorem barxStep_min (a b : Word) : (barxStep 5 a b).toInt = min a.toInt b.toInt := by
  have h : barxStep 5 a b = if b.toInt < a.toInt then b else a := ite_below_signed b a b a
  rw [h]
  split <;> omega

/-- The floating minimum and maximum of a NaN are the canonical NaN. -/
theorem barxStep_float (a b : Word) :
    (f32.isNan a.toNat = true ∨ f32.isNan b.toNat = true → barxStep 2 a b = BitVec.ofNat 32 f32.nan ∧ barxStep 3 a b = BitVec.ofNat 32 f32.nan)
    ∧ (f32.isNan a.toNat = false → f32.isNan b.toNat = false → barxStep 2 a b = BitVec.ofNat 32 (f32.max false a.toNat b.toNat)
      ∧ barxStep 3 a b = BitVec.ofNat 32 (f32.min false a.toNat b.toNat)) := by
  unfold barxStep
  refine ⟨fun h => ?_, fun ha hb => ?_⟩
  · rw [← Bool.or_eq_true] at h
    simp only [h, if_true, and_self]
  · simp only [ha, hb, Bool.or_self, Bool.false_eq_true, if_false, and_self]

/-! ### The statement -/

/-- Settles O34: the instructions by their arrival, the release by what its waiters see, the reduction by its tree. -/
theorem barrierArrivals : Obligations.BarrierArrivals := by
  unfold Obligations.BarrierArrivals
  refine ⟨fun s g y o i v x hg hx => ?arrive, fun s b c k r w p => ⟨s.barrierMet_iff b, fun n => ⟨fun h => State.releaseAll_none h n,
    fun h => State.releaseAll_some h n⟩, fun hk hf hp => ?runs, fun v e hk hf hv hp ha => ?stands, s.release_mem b,
    s.release_barriers b, fun d j h hj => s.release_ctx_other b h hj⟩, Barrier.leaves_sorted,
    fun b i op w x y z v n ho => ?tree, fun a b => ⟨rfl, rfl, rfl, barxStep_max a b, barxStep_min a b, rfl, barxStep_float a b⟩, rfl, rfl⟩
  case arrive =>
    intro key
    refine ⟨fun hp => ⟨execBar_arrives hg y i hp, fun ho => ?_, fun ho => ?_⟩, execBarx_outside hg y i o hx,
      fun c k a hk => s.arriveBar_arrivals c hk a⟩
    · rw [execBarx_inside hg y i o hx hp]
      exact congrArg (finish s) (if_neg (not_not.2 ho))
    · rw [execBarx_inside hg y i o hx hp]
      exact congrArg (finish s) (if_pos ho)
  case runs =>
    intro x y ready ha
    have hy : y = x.seesRelease b (s.releaseReady b) (s.barrierNews b.key) true := by
      dsimp only [y]
      rw [s.release_ctx b hk hp, hf]
      rfl
    obtain ⟨v, hr, hv⟩ := Ctx.seesRelease_running ha (s.releaseReady b) (s.barrierNews b.key)
    rw [hr] at hy
    have hyv : y.v = v := by rw [hy]
    refine ⟨?_, fun hn => ?_, fun e he hn => ?_⟩
    · rw [hyv]
      exact hy
    · rw [hyv, hv, hn]
      rfl
    · have ht : y.v = (x.takeBarx (e.1, b.lanes)).v := by
        rw [hyv, hv, he]
        rfl
      have hg : ∀ n, y.getV n = (x.takeBarx (e.1, b.lanes)).getV n := fun n => by rw [Ctx.getV, ht, Ctx.getV]
      simp only [hg]
      exact x.getV_takeBarx b hn
  case stands =>
    obtain ⟨h1, h2, h3⟩ := Ctx.seesRelease_owed (x := v.ctx k) (p := some e) (r := r) ha (s.releaseReady b) (s.barrierNews b.key)
    have hu := s.release_partState b hv
    rw [decide_eq_false hp] at hu
    refine ⟨_, hu, ?_⟩
    rw [CoreState.releases_ctx b _ _ false c hk, hf]
    exact ⟨h1, h2, h3⟩
  case tree =>
    intro at' f
    refine ⟨fun h => ?_, fun h => ?_, fun h => ?_, fun h => ?_, fun h => ?_⟩ <;>
      (unfold Barrier.result; rw [h, ho]; rfl)

end Sys2Proof.Machine
end

section
/-!
PROOFS. O58: what a load leaves beside the results it owes (R164, R175, R191, R328).
-/
namespace Sys2Proof.Machine

/-! ### Reads -/

theorem Ctx.observe_nil (c : Ctx) : c.observe [] = c := by simp [Ctx.observe]

theorem Ctx.observe_observe (c : Ctx) (l m : List (Nat × Nat)) : (c.observe l).observe m = c.observe (l ++ m) := by
  simp [Ctx.observe, Function.comp_def, Bool.or_assoc]

/-- A read of the issuing context: beside notes of caches and translations, the segments that the bundle names and, where memory
holds an error, notices, only the completion events that it observes differ. -/
def State.reads (s t : State) : Prop :=
  (t.issue.core = s.issue.core ∧ t.issue.ctx = s.issue.ctx ∧ t.issue.rrb = s.issue.rrb)
    ∧ (t.mem = s.mem ∧ t.partitions = s.partitions ∧ t.barriers = s.barriers ∧ t.tasks = s.tasks ∧ t.piers = s.piers ∧ t.news = s.news)
    ∧ (t.flaws = s.flaws ∧ (s.flaws = [] → t.host = s.host))
    ∧ (∀ d, d ≠ s.issue.core → t.cs d = s.cs d)
    ∧ ∃ m l, t.ccs = { s.ccs.setCtx s.issue.ctx (s.cx.observe l) with mon := m }

theorem State.reads.refl (s : State) : s.reads s := by
  refine ⟨⟨rfl, rfl, rfl⟩, ⟨rfl, rfl, rfl, rfl, rfl, rfl⟩, ⟨rfl, fun _ => rfl⟩, fun _ _ => rfl, s.ccs.mon, [], ?_⟩
  rw [Ctx.observe_nil]
  exact congrArg (fun v : CoreState => { v with mon := s.ccs.mon }) (s.ccs.setCtx_ctx s.issue.ctx).symm

section
variable {s t u : State} (h : s.reads t)
include h

/-- The bundle names a segment. -/
theorem State.reads.useSeg (id : Nat) (g : Seg) : s.reads (t.useSeg id g) := h

/-- Notes of caches and translations. -/
theorem State.reads.noted (g : t.noted u s.issue.core) (hn : u.news = t.news) : s.reads u := by
  obtain ⟨⟨h1, h2, h3⟩, ⟨h4, h5, h6, h7, h8, h9⟩, ⟨h10, h11⟩, h12, m, l, h13⟩ := h
  obtain ⟨gf, gm, gi, gp, gb, gt, gpi, gh, -, gc, n, gn⟩ := g
  refine ⟨?_, ⟨gm.trans h4, gp.trans h5, gb.trans h6, gt.trans h7, gpi.trans h8, hn.trans h9⟩,
    ⟨gf.trans h10, fun hf => gh.trans (h11 hf)⟩, fun d hd => (gc d hd).trans (h12 d hd), n, l, ?_⟩
  · rw [gi]
    exact ⟨h1, h2, h3⟩
  · have ht : t.cs s.issue.core = { s.ccs.setCtx s.issue.ctx (s.cx.observe l) with mon := m } := by
      rw [← h13, State.ccs, h1]
    rw [State.ccs, gi, h1, gn, ht]

theorem State.reads.touchAll (core va n : Nat) (ls : List Nat) (w : Bool) (hc : core = s.issue.core) : s.reads (t.touchAll core va n ls w) :=
  h.noted (hc ▸ t.touchAll_noted core va n ls w) (t.touchAll_news core va n ls w)

/-- What the words announce is observed (R191). -/
theorem State.reads.observeWords (hk : s.issue.ctx < 4) (ls : List Nat) : s.reads (t.observeWords t.icore t.ictx ls) := by
  obtain ⟨⟨h1, h2, h3⟩, hrest, hflaws, h12, m, l, h13⟩ := h
  obtain ⟨ns, hns⟩ : ∃ ns, t.observeWords t.icore t.ictx ls = t.modCtx t.icore t.ictx fun c => c.observe ns := ⟨_, rfl⟩
  rw [hns]
  refine ⟨⟨h1, h2, h3⟩, hrest, hflaws, fun d hd => ?_, m, l ++ ns, ?_⟩
  · rw [← h12 d hd]
    exact State.cs_modCS_other _ _ (by rw [State.icore, h1]; exact hd)
  · have hx : t.ccs.ctx s.issue.ctx = s.cx.observe l := by
      rw [h13]
      exact CoreState.ctx_setCtx _ hk _
    refine (State.cs_modCS _ _ _).trans ?_
    change t.ccs.setCtx t.issue.ctx ((t.ccs.ctx t.issue.ctx).observe _) = _
    rw [h2, hx, Ctx.observe_observe, h13]
    exact congrArg (fun v : CoreState => { v with mon := m }) (CoreState.setCtx_setCtx s.ccs s.issue.ctx _ _)

/-- A report of an error in memory. -/
theorem State.reads.lineReport (hf : t.flaws ≠ []) (core loc : Nat) : s.reads (t.lineReport core loc) := by
  obtain ⟨hissue, hrest, ⟨h10, -⟩, h12, h13⟩ := h
  unfold State.lineReport
  have hn : s.flaws ≠ [] := by rw [← h10]; exact hf
  split
  · obtain ⟨w, hw⟩ := t.notice_frame 10 ((t.cs core).part.getD 0) core
      [(8, leBytes 1 0), (16, leBytes 8 (((pasOfLoc loc).headD 0) / 64 * 64))]
    rw [hw]
    exact ⟨hissue, hrest, ⟨h10, fun h => absurd h hn⟩, h12, h13⟩
  · exact ⟨hissue, hrest, ⟨h10, fun h => absurd h hn⟩, h12, h13⟩

end

/-! ### Reads that owe results (R67) -/

/-- A read that owes results of registers of a list. -/
def State.readsOwing (s t : State) (regs : List Reg) : Prop := ∃ u v n, s.reads u ∧ Keeps u v regs ∧ t = { v with nextId := n }

theorem State.reads.owing {s t : State} (h : s.reads t) (regs : List Reg) : s.readsOwing t regs := ⟨t, t, t.nextId, h, .refl t regs, rfl⟩

theorem State.reads.issuer {s t : State} (h : s.reads t) : t.issue.core = s.issue.core ∧ t.issue.ctx = s.issue.ctx ∧ t.issue.rrb = s.issue.rrb :=
  h.1

section
variable {s t : State} {regs : List Reg} (hk : s.issue.ctx < 4)
include hk

/-- A result enters as a load's. -/
theorem State.reads.loadEnters (h : s.reads t) (kind : LoadKind) {dests : List (Reg × RegVal)} (hd : ∀ d ∈ dests, d.1 ∈ regs)
    (due phys : Nat) (err : Bool) : s.readsOwing (t.loadEnters kind dests due phys err) regs := by
  unfold State.loadEnters
  split
  · exact h.owing regs
  · have ht : t.issue.ctx < 4 := by rw [h.issuer.2.1]; exact hk
    exact ⟨t, _, t.nextId + 1, h, enterLoad_keeps ht kind dests t.nextId due phys t.issue.pc err hd, rfl⟩

/-- A load of global memory. -/
theorem State.reads.globalLoad (h : s.reads t) {dests : List (Reg × RegVal)} (hd : ∀ d ∈ dests, d.1 ∈ regs) (phys : Nat)
    (vas ls : List Nat) : s.readsOwing (t.globalLoad dests phys vas ls) regs := by
  have ho := h.observeWords hk ls
  unfold State.globalLoad State.loadOf
  cases hs : t.soiled ls with
  | none => exact ho.loadEnters hk .memory hd 0 phys false
  | some l =>
    have hf : t.flaws ≠ [] := by
      intro hf
      have hp := List.find?_some hs
      simp [hf] at hp
    exact (ho.lineReport hf _ l).loadEnters hk .memory hd 0 _ true

/-- A fixed-latency result follows. -/
theorem State.readsOwing.writeX (h : s.readsOwing t regs) {d : BitVec 6} (hd : ∀ r ∈ destX s.issue.rrb d, r ∈ regs) (v : X64) (lat : Nat) :
    s.readsOwing (t.writeX d v lat) regs := by
  obtain ⟨u, w, n, hu, hw, rfl⟩ := h
  have hi := hw.issue
  obtain ⟨-, hx, hr⟩ := hu.issuer
  refine ⟨u, w.writeX d v lat, n, hu, hw.trans (writeX_keeps w (by rw [hi, hx]; exact hk) d v lat regs (by rw [hi, hr]; exact hd)), ?_⟩
  unfold State.writeX
  split <;> rfl

end

/-- The frame of such a read. -/
theorem State.readsOwing.frame {s t : State} {regs : List Reg} (hk : s.issue.ctx < 4) (h : s.readsOwing t regs) :
    t.mem = s.mem ∧ (∀ d, d ≠ s.issue.core → t.cs d = s.cs d) ∧ t.ccs = { s.ccs with ctxs := t.ccs.ctxs, mon := t.ccs.mon }
      ∧ t.partitions = s.partitions ∧ t.barriers = s.barriers ∧ t.tasks = s.tasks ∧ t.piers = s.piers
      ∧ (s.flaws = [] → t.host = s.host) ∧ t.news = s.news ∧ s.othersKept t ∧ s.onlyRead t regs := by
  obtain ⟨u, w, n, hu, hw, rfl⟩ := h
  obtain ⟨⟨h1, h2, -⟩, ⟨h4, h5, h6, h7, h8, h9⟩, ⟨-, h11⟩, h12, m, l, h13⟩ := hu
  have hi := hw.issue
  obtain ⟨hrest, hcores, hcore, hothers, hregs, -⟩ := hw
  have hux : u.cx = s.cx.observe l := by
    change u.ccs.ctx u.issue.ctx = _
    rw [h13, h2]
    exact CoreState.ctx_setCtx _ hk _
  have hr : w.mem = u.mem ∧ w.partitions = u.partitions ∧ w.barriers = u.barriers ∧ w.tasks = u.tasks ∧ w.piers = u.piers
      ∧ w.host = u.host ∧ w.news = u.news := by
    rw [← hrest]
    exact ⟨rfl, rfl, rfl, rfl, rfl, rfl, rfl⟩
  obtain ⟨r1, r2, r3, r4, r5, r6, r7⟩ := hr
  refine ⟨r1.trans h4, fun d hd => ?cores, ?core, r2.trans h5, r3.trans h6, r4.trans h7, r5.trans h8, fun hf => r6.trans (h11 hf),
    r7.trans h9, fun d j hdj => ?others, ?stale, ?regs⟩
  case cores =>
    rw [← h12 d hd]
    exact congrArg Core.cur (hcores d (by rw [h1]; exact hd))
  case core =>
    have hwc : w.ccs = { u.ccs with ctxs := w.ccs.ctxs } := by
      change (w.core w.issue.core).cur = _
      rw [hi, hcore]
    change w.ccs = { s.ccs with ctxs := w.ccs.ctxs, mon := w.ccs.mon }
    rw [hwc, h13]
    rfl
  case others =>
    refine (hothers d j (by rw [h1, h2]; exact hdj)).trans ?_
    by_cases hd : d = s.issue.core
    · subst hd
      have hc : u.cs s.issue.core = u.ccs := by rw [State.ccs, h1]
      rw [State.ctx, hc, h13]
      exact CoreState.ctx_setCtx_other _ (hdj.resolve_left fun h => h rfl) _
    · rw [State.ctx, h12 d hd]
      rfl
  case stale =>
    refine ⟨l, ?_⟩
    change w.cx.stale = _
    rw [hregs.1, hux]
    rfl
  case regs =>
    have hx : (s.modCx fun c => { c with stale := w.cx.stale }).cx = u.cx := by
      rw [cx_modCx s hk, hregs.1, hux]
      rfl
    unfold State.onlyRegs at hregs ⊢
    change _ = _ ∧ _
    rw [show ({ w with nextId := n } : State).cx = w.cx from rfl]
    rw [show (s.modCx fun c => { c with stale := w.cx.stale }).cx = u.cx from hx]
    exact hregs

end Sys2Proof.Machine
end

section
/-!
PROOFS. O58: the loads one by one (R99, R150, R170, R171, R174, R176 to R180).
-/
namespace Sys2Proof.Machine

/-! ### Bodies of loads -/

/-- What a body answers is a read that owes results of the registers. -/
def State.bodyReads (s : State) (regs : List Reg) (b : Except Halt State) : Prop := ∀ t, b = .ok t → s.readsOwing t regs

section
variable {s : State} {regs : List Reg}

theorem State.bodyReads.read {α : Type} {e : Except Halt α} {f : α → Except Halt State} (h : ∀ a, e = .ok a → s.bodyReads regs (f a)) :
    s.bodyReads regs (e >>= f) := fun t ht => by
  obtain ⟨a, ha, hf⟩ := bind_inv ht
  exact h a ha t hf

theorem State.bodyReads.ok {u : State} (h : s.readsOwing u regs) : s.bodyReads regs (.ok u) := by
  rintro _ ⟨⟩
  exact h

theorem State.bodyReads.error (e : Halt) : s.bodyReads regs (.error e) := fun _ h => by cases h

theorem State.bodyReads.slot {g : BitVec 4} {t : State} {b : Except Halt State} (hb : s.bodyReads regs b) (h : slotOp g s b = .next t)
    (hv : t.issue.verdict = none) : s.readsOwing t regs := by
  rcases slotOp_inv h hv with ⟨-, rfl⟩ | ⟨-, hb'⟩
  · exact (State.reads.refl t).owing regs
  · exact hb t hb'

theorem State.bodyReads.seg {g : BitVec 4} {t : State} {b : Except Halt State} (hb : s.bodyReads regs b) (h : segOp g s b = .next t)
    (hv : t.issue.verdict = none) : s.readsOwing t regs := by
  rcases segOp_inv h hv with ⟨-, rfl⟩ | ⟨-, hb'⟩
  · exact (State.reads.refl t).owing regs
  · exact hb t hb'

/-- A result of fixed latency follows a read. -/
theorem State.reads.keeps {t u : State} (h : s.reads t) (hk : Keeps t u regs) : s.readsOwing u regs := ⟨t, u, u.nextId, h, hk, rfl⟩

/-! ### Destinations -/

theorem State.xDest_within {d : BitVec 6} (hd : ∀ r ∈ destX s.issue.rrb d, r ∈ regs) (v : X64) : ∀ e ∈ s.xDest d v, e.1 ∈ regs := by
  intro e he
  unfold State.xDest at he
  split at he
  · cases he
  · next h0 =>
    obtain rfl := List.mem_singleton.mp he
    exact hd _ (by rw [destX, if_neg h0]; exact List.mem_singleton_self _)

theorem State.vDest_within (v : BitVec 5) (mask : BitVec 64) (l : VReg) : ∀ e ∈ s.vDest v mask l, e.1 ∈ destV s.issue.rrb v := by
  intro e he
  obtain rfl := List.mem_singleton.mp he
  exact List.mem_singleton_self _

/-- The registers of an access with an offset register that may be incremented. -/
theorem offset_within (p : Prop) [Decidable p] (l m : List Reg) :
    (∀ r ∈ l, r ∈ l ++ if p then m else []) ∧ (p → ∀ r ∈ m, r ∈ l ++ if p then m else []) :=
  ⟨fun _ => List.mem_append_left _, fun hp _ hr => List.mem_append_right _ (by rwa [if_pos hp])⟩

/-! ### Places in segments (R158) -/

theorem State.segPlace_reads {name off n : Nat} {b : Bool} {p : SegPlace × State} (h : s.segPlace name off n b = .ok p) : s.reads p.2 := by
  have hs := State.reads.refl s
  unfold State.segPlace at h
  split at h
  · cases h
  · next id g _ =>
    split at h
    · cases h
      exact hs.useSeg id g
    · split at h
      · cases h
        exact hs.useSeg id g
      · split at h <;> cases h
        exact hs.useSeg id g

theorem State.segLanes_reads {name : Nat} {k : BitVec 64} {off : Nat → Nat} {e : Nat × State} (h : s.segLanes name k off = .ok e) :
    s.reads e.2 := by
  have hs := State.reads.refl s
  unfold State.segLanes at h
  split at h
  · cases h
  · next id g _ =>
    split at h
    · split at h <;> cases h
      exact hs.useSeg id g
    · cases h
      exact hs.useSeg id g

/-- An image is read at a place of its segment (R150). -/
theorem State.kImage_reads {y : BitVec 8} {o : BitVec 6} {im : Option (List Byte) × State} (h : s.kImage y o = .ok im) : s.reads im.2 := by
  obtain ⟨x, -, h⟩ := bind_inv h
  obtain ⟨p, hp, h⟩ := bind_inv h
  split at h
  · obtain ⟨-, -, h⟩ := bind_inv h
    cases h
    exact State.segPlace_reads hp
  · cases h
    exact State.segPlace_reads hp

end

/-! ### The accesses -/

section
variable {s : State} {regs : List Reg} (hk : s.issue.ctx < 4)
include hk

/-- A value of a segment enters with its fixed latency. -/
theorem State.reads.writeX {t : State} (h : s.reads t) {d : BitVec 6} (hd : ∀ r ∈ destX s.issue.rrb d, r ∈ regs) (v : X64) (lat : Nat) :
    s.readsOwing (t.writeX d v lat) regs := (h.owing regs).writeX hk hd v lat

theorem State.reads.writeV {t : State} (h : s.reads t) {d : BitVec 5} (hd : ∀ r ∈ destV s.issue.rrb d, r ∈ regs) (mask : BitVec 64) (l : VReg)
    (lat : Nat) : s.readsOwing (t.writeV d mask l lat) regs := by
  obtain ⟨-, hx, hr⟩ := h.issuer
  exact h.keeps (writeV_keeps t (hx ▸ hk) d mask l lat regs (hr ▸ hd))

theorem State.reads.updateK {t : State} (h : s.reads t) {k : BitVec 3} (u : KUpdate) (lat : Nat) :
    s.readsOwing (t.updateK k u lat) [.k k.toNat] :=
  h.keeps (updateK_keeps (h.issuer.2.1 ▸ hk) k u lat (List.mem_singleton_self _))

theorem State.readsOwing.postInc {t : State} (h : s.readsOwing t regs) {o : BitVec 6} {n : BitVec 1}
    (ho : n = 1 → ∀ r ∈ destX s.issue.rrb o, r ∈ regs) (x : X64) (size : Nat) : s.readsOwing (t.postInc o x n size) regs := by
  unfold State.postInc
  split
  · next hn => exact h.writeX hk (ho hn) _ _
  · exact h

theorem State.readsOwing.postStep {t : State} (h : s.readsOwing t regs) {o : BitVec 6} {m : BitVec 2}
    (ho : m = 1 → ∀ r ∈ destX s.issue.rrb o, r ∈ regs) (x : X64) : s.readsOwing (t.postStep o x m) regs := by
  unfold State.postStep
  split
  · next hm => exact h.writeX hk (ho hm) _ _
  · exact h

/-- A load of global memory touches its lines and owes its destination. -/
theorem State.reads.touchedLoad {t : State} (h : s.reads t) {dests : List (Reg × RegVal)} (hd : ∀ e ∈ dests, e.1 ∈ regs) (va n phys : Nat)
    (vas ls : List Nat) : s.readsOwing ((t.touchAll s.icore va n ls false).globalLoad dests phys vas ls) regs :=
  (h.touchAll s.icore va n ls false rfl).globalLoad hk hd phys vas ls

/-- A gather touches the lines of its lanes in turn (R176). -/
theorem State.gather_reads (v : BitVec 5) (k : BitVec 64) (addr : Nat → Nat) : s.bodyReads (destV s.issue.rrb v) (s.gather v k addr) :=
  .read fun ls _ =>
    have ht : s.reads (ls.foldl (fun t p => t.touchAll s.icore (addr p.1) 4 p.2 false) s) :=
      List.foldlRecOn (motive := s.reads) ls _ (.refl s) fun _ h _ _ => h.touchAll _ _ _ _ _ rfl
    .ok (ht.globalLoad hk (State.vDest_within _ _ _) _ _ _)

end

/-! ### The instructions -/

section
variable {s t : State} {g : BitVec 4} (hk : s.issue.ctx < 4) (hv : t.issue.verdict = none)
include hk hv

theorem execLd_reads {d b : BitVec 6} {z : BitVec 3} {i : BitVec 6} (h : execLd g d b z i s = .next t) :
    s.readsOwing t (destX s.issue.rrb d) :=
  State.bodyReads.slot (.read fun _ _ => .read fun _ _ =>
    .ok ((State.reads.refl s).touchedLoad hk (State.xDest_within (fun _ h => h) _) _ _ _ _ _)) h hv

theorem execIsum_reads {d a : BitVec 6} {k : BitVec 1} (h : execIsum g d a k s = .next t) : s.readsOwing t (destX s.issue.rrb d) := by
  refine State.bodyReads.slot (.read fun x _ => ?_) h hv
  dsimp only
  split
  · exact .error _
  · split
    · exact .error _
    · exact .ok ((State.reads.refl s).loadEnters hk .isum (State.xDest_within (fun _ h => h) _) _ _ _)

theorem segLoad_reads {d o : BitVec 6} {y : BitVec 8} {n : BitVec 1} {size : Nat} (h : segLoad g d y o n size s = .next t) :
    s.readsOwing t (destX s.issue.rrb d ++ if n = 1 then destX s.issue.rrb o else []) := by
  obtain ⟨hd, ho⟩ := offset_within (n = 1) (destX s.issue.rrb d) (destX s.issue.rrb o)
  refine State.bodyReads.seg (.read fun x _ => .read fun p hp => ?_) h hv
  have hr := State.segPlace_reads hp
  obtain ⟨⟨id, off⟩ | va, u⟩ := p
  case here => exact .read fun _ _ => .ok ((hr.writeX hk hd _ _).postInc hk ho _ _)
  case there => exact .read fun _ _ => .ok ((hr.touchedLoad hk (State.xDest_within hd _) _ _ _ _ _).postInc hk ho _ _)

theorem execVlds_reads {v : BitVec 5} {o : BitVec 6} {y : BitVec 8} {m : BitVec 2} (h : execVlds g v y o m s = .next t) :
    s.readsOwing t (destV s.issue.rrb v ++ if m = 1 then destX s.issue.rrb o else []) := by
  obtain ⟨hd, ho⟩ := offset_within (m = 1) (destV s.issue.rrb v) (destX s.issue.rrb o)
  refine State.bodyReads.seg (.read fun x _ => .read fun p hp => ?_) h hv
  have hr := State.segPlace_reads hp
  obtain ⟨⟨id, off⟩ | va, u⟩ := p
  case here => exact .read fun _ _ => .ok ((hr.writeV hk hd _ _ _).postStep hk ho _)
  case there =>
    exact .read fun _ _ => .ok ((hr.touchedLoad hk (fun e he => hd _ (State.vDest_within _ _ _ e he)) _ _ _ _ _).postStep hk ho _)

theorem execVldg_reads {v : BitVec 5} {x : BitVec 6} {m : BitVec 3} (h : execVldg g v x m s = .next t) :
    s.readsOwing t (destV s.issue.rrb v) :=
  State.bodyReads.slot (.read fun _ _ => .read fun _ _ => State.gather_reads hk _ _ _) h hv

theorem execVgtg_reads {v i : BitVec 5} {x : BitVec 6} {m : BitVec 3} (h : execVgtg g v x i m s = .next t) :
    s.readsOwing t (destV s.issue.rrb v) :=
  State.bodyReads.slot (.read fun _ _ => .read fun _ _ => .read fun _ _ => State.gather_reads hk _ _ _) h hv

theorem execVgts_reads {v i : BitVec 5} {y : BitVec 8} {m : BitVec 3} (h : execVgts g v y i m s = .next t) :
    s.readsOwing t (destV s.issue.rrb v) :=
  State.bodyReads.seg (.read fun _ _ => .read fun _ _ => .read fun _ he => .read fun _ _ =>
    .ok ((State.segLanes_reads he).loadEnters hk .segment (State.vDest_within _ _ _) _ _ _)) h hv

theorem execKload_reads {k : BitVec 3} {y : BitVec 8} {o : BitVec 6} (h : execKload g k y o s = .next t) :
    s.readsOwing t [.k k.toNat] := by
  refine State.bodyReads.seg (.read fun _ _ => .read fun im hi => ?_) h hv
  have hr := State.kImage_reads hi
  obtain ⟨_ | bytes, u⟩ := im
  · exact .ok (hr.owing _)
  · dsimp only
    split
    · exact .error _
    · split
      · exact .error _
      · exact .ok (hr.updateK hk _ _)

theorem execKmrgs_reads {k : BitVec 3} {y : BitVec 8} {o : BitVec 6} (h : execKmrgs g k y o s = .next t) :
    s.readsOwing t [.k k.toNat] := by
  refine State.bodyReads.seg (.read fun _ _ => .read fun im hi => ?_) h hv
  have hr := State.kImage_reads hi
  obtain ⟨_ | bytes, u⟩ := im
  · exact .ok (hr.owing _)
  · dsimp only
    split
    · exact .error _
    · exact .ok (hr.updateK hk _ _)

end

/-- A prefetch owes nothing (R174). -/
theorem execPref_reads {s t : State} {g : BitVec 4} {a : BitVec 6} {i : BitVec 9} (hv : t.issue.verdict = none)
    (h : execPref g a i s = .next t) : s.readsOwing t [] := by
  have hs := State.reads.refl s
  refine State.bodyReads.slot (.read fun x _ => ?_) h hv
  split
  case h_1 l _ _ => exact .ok ((hs.noted (s.dieTouch_noted _ l false _) (s.dieTouch_news _ l false)).owing [])
  case h_2 => exact .ok (hs.owing [])

/-- Settles O58: every load is a read of the issuing context that owes results of its registers, and such a read has the frame
that is stated. -/
theorem loadFrame : Obligations.LoadFrame := by
  intro i s t regs hi hk h hv
  suffices hr : s.readsOwing t regs from hr.frame hk
  cases i <;> cases hi
  case ld => exact execLd_reads hk hv h
  case isum => exact execIsum_reads hk hv h
  case lds8 => exact segLoad_reads hk hv h
  case lds4 => exact segLoad_reads hk hv h
  case vlds => exact execVlds_reads hk hv h
  case vldg => exact execVldg_reads hk hv h
  case vgts => exact execVgts_reads hk hv h
  case vgtg => exact execVgtg_reads hk hv h
  case kload => exact execKload_reads hk hv h
  case kmrgs => exact execKmrgs_reads hk hv h
  case pref => exact execPref_reads hv h

end Sys2Proof.Machine
end

section
/-!
PROOFS. O33: a ranked list stays ranked under every update (R138 to R140, R142).
-/
namespace Sys2Proof

/-! ### Values that may enter (R139) -/

/-- The negative zero is no value that may enter. -/
theorem KType.enter_f32_toNat {v : Word} (h : KType.f32.enter false v = some v) : v.toNat ≠ 2 ^ 31 := by
  intro hz
  obtain rfl : v = BitVec.intMin 32 := BitVec.eq_of_toNat_eq hz
  exact absurd h (by decide)

/-- Of the values that may enter, two of one key are one. -/
theorem KType.eq_of_key {t : KType} {v w : Word} (hv : t.enter false v = some v) (hw : t.enter false w = some w)
    (h : t.key v = t.key w) : v = w := by
  cases t with
  | i32 => exact BitVec.eq_of_toInt_eq h
  | n32 => exact BitVec.eq_of_toNat_eq (Int.ofNat_inj.1 h)
  | f32 =>
    have hv := KType.enter_f32_toNat hv
    have hw := KType.enter_f32_toNat hw
    simp only [KType.key, BitVec.msb_eq_decide, decide_eq_true_eq] at h
    refine BitVec.eq_of_toNat_eq ?_
    split at h <;> split at h <;> omega

/-- A subnormal is flushed to a zero. -/
theorem f32_flush_cases (ex : Bool) (w : Nat) : f32.flush ex w = w ∨ f32.flush ex w = 0 ∨ f32.flush ex w = 2 ^ 31 := by
  unfold Fmt.flush Fmt.withSign
  split
  · split
    · exact .inr (.inr rfl)
    · exact .inr (.inl rfl)
  · exact .inl rfl

/-- What an f32 enters as: +0, or itself where it is neither NaN nor a zero of either sign. -/
theorem KType.enter_f32_cases {ex : Bool} {v w : Word} (h : KType.f32.enter ex v = some w) :
    w = 0 ∨ w = v ∧ Sys2Proof.f32.isNan v.toNat = false ∧ v.toNat ≠ 2 ^ 31 := by
  simp only [KType.enter] at h
  split at h
  · cases h
  next hn =>
    obtain rfl := Option.some.inj h
    rcases f32_flush_cases ex v.toNat with hf | hf | hf <;> rw [hf]
    · split
      next => exact .inl rfl
      next hz =>
        rw [BitVec.ofNat_toNat, BitVec.setWidth_eq]
        exact .inr ⟨rfl, by simpa using hn, hz⟩
    · exact .inl rfl
    · exact .inl rfl

/-- A value that has entered enters again as it is. -/
theorem KType.enter_of_entered {t : KType} {ex : Bool} {v w : Word} (h : t.enter ex v = some w) : t.enter false w = some w := by
  cases t with
  | i32 => rfl
  | n32 => rfl
  | f32 =>
    rcases KType.enter_f32_cases h with rfl | ⟨rfl, hn, hz⟩
    · decide
    · simp [KType.enter, hn, Fmt.flush, show w.toNat ≠ 2147483648 from hz]

/-! ### Rank order (R139) -/

/-- Of two distinct entries whose values may enter, one precedes the other. -/
theorem KList.precedes_of_not {k : KList} {a b : KEntry} (ha : k.type.enter false a.value = some a.value)
    (hb : k.type.enter false b.value = some b.value) (hne : b ≠ a) (h : ¬ k.precedes a b = true) : k.precedes b a = true := by
  unfold KList.precedes at h ⊢
  dsimp only at h ⊢
  by_cases hk : k.type.key a.value = k.type.key b.value
  · have hi : a.index.toNat ≠ b.index.toNat := by
      intro hi
      obtain ⟨av, ai⟩ := a
      obtain ⟨bv, bi⟩ := b
      exact hne (KEntry.mk.injEq .. ▸ ⟨(KType.eq_of_key ha hb hk).symm, (BitVec.eq_of_toNat_eq hi).symm⟩)
    rw [if_pos hk] at h
    rw [if_pos hk.symm]
    simp only [decide_eq_true_eq] at h ⊢
    omega
  · rw [if_neg hk] at h
    rw [if_neg (Ne.symm hk)]
    cases hs : k.smallest <;>
      simp only [hs, Bool.false_eq_true, if_false, if_true, decide_eq_true_eq] at h ⊢ <;> omega

/-- Entries in rank order whose values may enter. -/
def KList.sorted (k : KList) (l : List KEntry) : Prop :=
  l.IsChain (fun a b => k.precedes a b = true) ∧ ∀ e ∈ l, k.type.enter false e.value = some e.value

theorem KList.inOrder_iff (k : KList) (l : List KEntry) : k.inOrder l = true ↔ l.IsChain fun a b => k.precedes a b = true := by
  induction l with
  | nil => simp [KList.inOrder]
  | cons a r ih =>
    cases r with
    | nil => simp [KList.inOrder]
    | cons b r => rw [KList.inOrder, Bool.and_eq_true, ih, List.isChain_cons_cons]

theorem KList.ranked_iff (k : KList) : k.ranked = true ↔ k.entries.length ≤ k.cap ∧ k.sorted k.entries := by
  simp [KList.ranked, KList.sorted, KList.inOrder_iff, and_assoc]

/-! ### Entries at their places (R140) -/

theorem KList.mem_place {k : KList} {e x : KEntry} {l : List KEntry} (h : x ∈ k.place e l) : x = e ∨ x ∈ l := by
  induction l with
  | nil => exact .inl (List.mem_singleton.1 h)
  | cons y r ih =>
    rw [KList.place] at h
    split at h
    · exact .inr h
    split at h
    · exact List.mem_cons.1 h
    · rcases List.mem_cons.1 h with rfl | h
      · exact .inr List.mem_cons_self
      · exact (ih h).imp_right (List.mem_cons_of_mem _)

section
variable {k : KList} {e : KEntry} (he : k.type.enter false e.value = some e.value)
include he

/-- Behind one that precedes it, an entry finds a place that keeps the order. -/
theorem KList.place_chain (l : List KEntry) : ∀ x, k.sorted (x :: l) → k.precedes x e = true →
    (x :: k.place e l).IsChain fun a b => k.precedes a b = true := by
  induction l with
  | nil => exact fun x _ hx => .cons_cons hx (.singleton e)
  | cons y r ih =>
    intro x hs hx
    obtain ⟨hxy, hr⟩ := List.isChain_cons_cons.1 hs.1
    rw [KList.place]
    split
    · exact hs.1
    split
    next hey => exact .cons_cons hx (.cons_cons hey hr)
    next hne hey =>
      have hy := hs.2 y (List.mem_cons_of_mem _ List.mem_cons_self)
      exact .cons_cons hxy (ih y ⟨hr, fun z hz => hs.2 z (List.mem_cons_of_mem _ hz)⟩ (KList.precedes_of_not he hy hne hey))

theorem KList.sorted.place {l : List KEntry} (h : k.sorted l) : k.sorted (k.place e l) := by
  refine ⟨?_, fun z hz => (KList.mem_place hz).elim (fun hz => hz ▸ he) (h.2 z)⟩
  cases l with
  | nil => exact .singleton e
  | cons y r =>
    rw [KList.place]
    split
    · exact h.1
    split
    next hey => exact .cons_cons hey h.1
    next hne hey => exact KList.place_chain he r y h (KList.precedes_of_not he (h.2 y List.mem_cons_self) hne hey)

end

theorem KList.sorted.take {k : KList} {l : List KEntry} (h : k.sorted l) (n : Nat) : k.sorted (l.take n) :=
  ⟨h.1.take n, fun e he => h.2 e (List.mem_of_mem_take he)⟩

/-- The rule of entry gives a ranked list. -/
theorem KList.offer_ranked {k : KList} (h : k.sorted k.entries) (ex : Bool) (cs : List KEntry) : (k.offer ex cs).ranked = true := by
  refine (KList.ranked_iff _).2 ⟨List.length_take_le _ _, KList.sorted.take (k := k) ?_ k.cap⟩
  refine List.foldlRecOn (motive := k.sorted) _ _ h fun l hl e he => hl.place ?_
  obtain ⟨c, -, hc⟩ := List.mem_filterMap.1 he
  obtain ⟨v, hv, rfl⟩ := Option.map_eq_some_iff.1 hc
  exact KType.enter_of_entered hv

/-- The flag of dropped NaNs plays no part in the order. -/
theorem KList.ranked_nanDropped (k : KList) (b : Bool) : ({ k with nanDropped := b } : KList).ranked = true ↔ k.ranked = true := by
  rw [KList.ranked_iff, KList.ranked_iff]
  rfl

theorem KList.ranked_of_empty {k : KList} (h : k.entries = []) : k.ranked = true := by
  simp [KList.ranked, h, KList.inOrder]

/-- Settles O33: an update empties the list or offers it candidates. -/
theorem rankedListStaysRanked : Obligations.RankedListStaysRanked := by
  unfold Obligations.RankedListStaysRanked
  intro l u h
  obtain ⟨-, hs⟩ := l.ranked_iff.1 h
  cases u with
  | init c d t => exact KList.ranked_of_empty rfl
  | clear => exact KList.ranked_of_empty rfl
  | insert ex cs => exact KList.offer_ranked hs ex cs
  | merge ex cs nd => exact (KList.ranked_nanDropped _ _).2 (KList.offer_ranked hs ex cs)
  | load ex c d t cs nd =>
    exact (KList.ranked_nanDropped _ _).2 (KList.offer_ranked (k := ⟨c, d, t, false, []⟩) ⟨.nil, fun _ h => nomatch h⟩ ex cs)

end Sys2Proof
end

section
/-!
PROOFS. O28, O29, O30, O32: vector instructions of one register, lane moves, reductions, masks and ranked lists (R124 to R137,
R142 to R147).
-/
namespace Sys2Proof.Machine

/-! ### Slots that read operands and then write (R9, R38) -/

section
variable {s : State} {g : BitVec 4} {α β γ : Type} {p : Except Halt α} {q : Except Halt β} {r : Except Halt γ} {a : α} {b : β}
  {c : γ}

/-- An operand that is read gives the rest of the body its value. -/
theorem slotOp_read (hp : p = .ok a) (f : α → Except Halt State) : slotOp g s (p >>= f) = slotOp g s (f a) := by
  subst hp
  rfl

variable (hg : s.readP g.toNat = .ok true) (hp : p = .ok a)
include hg hp

theorem slotOp_read1 (t : α → State) : slotOp g s (p >>= fun x => .ok (t x)) = .next (t a) :=
  (slotOp_read hp _).trans (slotOp_ok hg _)

variable (hq : q = .ok b)
include hq

theorem slotOp_read2 (t : α → β → State) : slotOp g s (p >>= fun x => q >>= fun y => .ok (t x y)) = .next (t a b) :=
  (slotOp_read hp _).trans (slotOp_read1 hg hq _)

theorem slotOp_read3 (hr : r = .ok c) (t : α → β → γ → State) :
    slotOp g s (p >>= fun x => q >>= fun y => r >>= fun z => .ok (t x y z)) = .next (t a b c) :=
  (slotOp_read hp _).trans (slotOp_read2 hg hq hr _)

end

/-! ### Vector instructions of one register (R127 to R134) -/

theorem vector1_eq {s : State} {g : BitVec 4} {a : BitVec 5} {m : BitVec 3} {k : BitVec 64} {x : VReg} (hg : s.readP g.toNat = .ok true)
    (hm : s.readM m = .ok k) (ha : s.readV a = .ok x) (d : BitVec 5) (lat : Nat) (f : Word → Word) :
    vector1 g d a m lat f s = .next (s.writeV d k (lanesOf fun i => f (x.lane i)) lat) := slotOp_read2 hg hm ha _

/-- Settles O28: the shape of one register under a mask with each instruction's function, and the moves of lanes. -/
theorem vectorUnaryResults : Obligations.VectorUnaryResults := by
  unfold Obligations.VectorUnaryResults
  intro s g d a b m t c l k x y w hg hm ha hb hc e rm ex lanes one
  have map := vector1_eq hg hm ha d
  exact ⟨map _ _, map _ _, map 8 _, map 8 _, map 8 _, map 8 _, map 8 _, map 2 id, slotOp_read2 hg hm hc _, slotOp_read1 hg hm _,
    slotOp_read1 hg hc _, slotOp_read3 hg hm ha hb _, slotOp_read2 hg hm ha _, slotOp_read3 hg hm ha hb _, slotOp_read1 hg ha _,
    slotOp_read1 hg ha _⟩

/-! ### Lanes that land under a mask (R125) -/

theorem lane_mergeLanes (mask : BitVec 64) (l old : VReg) {i : Nat} (hi : i < 64) :
    (mergeLanes mask l old).lane i = if mask.getLsbD i then l.lane i else old.lane i := lane_lanesOf _ hi

theorem Ctx.getV_land_same (c : Ctx) {n : Nat} (hn : n < 32) (mask : BitVec 64) (l : VReg) :
    (c.land (.v n) (.v mask l)).getV n = mergeLanes mask l (c.getV n) := by
  simp only [Ctx.land, Ctx.mended_filter, Ctx.getV]
  rw [Vector.getElem?_setIfInBounds_self_of_lt hn]
  rfl

/-- Settles O29: the landing merges the lanes of its register and leaves the others. -/
theorem selectedLanesOnly : Obligations.SelectedLanesOnly := by
  unfold Obligations.SelectedLanesOnly
  intro c n i mask l hn hi
  refine ⟨?_, fun j hj => c.getV_land _ fun h => hj (Reg.v.inj h).symm⟩
  rw [c.getV_land_same hn, lane_mergeLanes _ _ _ hi]

/-! ### Reductions and masks (R130, R135 to R137) -/

/-- Bit by bit, a truth table gives the bit that its two sources choose. -/
theorem truthBits_getLsbD (f : BitVec 4) (k q : BitVec 64) {i : Nat} (hi : i < 64) :
    (truthBits f k q).getLsbD i = f.getLsbD (2 * (k.getLsbD i).toNat + (q.getLsbD i).toNat) := by
  have hsel : ∀ (c : Bool) (v : BitVec 64), (if c then v else 0).getLsbD i = (c && v.getLsbD i) := fun c v => by
    cases c <;> simp
  simp only [truthBits, BitVec.getLsbD_or, hsel, BitVec.getLsbD_and, BitVec.getLsbD_not, hi]
  cases k.getLsbD i <;> cases q.getLsbD i <;> simp

/-- Settles O30: each instruction's operands are read, and MLOG's table is told bit by bit. -/
theorem reductionAndMaskResults : Obligations.ReductionAndMaskResults := by
  unfold Obligations.ReductionAndMaskResults
  intro s g d c v a b o m n t u f k q x y w hg hm hn ha hb hc e step
  exact ⟨slotOp_read2 hg hm ha _, slotOp_read2 hg hm ha _, slotOp_read2 hg ha hb _, slotOp_read1 hg hm _, slotOp_read1 hg hc _,
    slotOp_read1 hg hm _, truthBits f k q, fun i hi => truthBits_getLsbD f k q hi, slotOp_read2 hg hm hn _⟩

/-! ### Ranked lists (R142 to R147) -/

section
variable {s : State} {g : BitVec 4} {k j : BitVec 3} {l q : KList} (hg : s.readP g.toNat = .ok true) (hl : s.readK k = .ok l)
  (hq : s.readK j = .ok q)
include hg hl hq

/-- KMRG of two lists: another type or direction traps, the list itself changes nothing (R146). -/
theorem execKmrg_eq : exec (.kmrg g k j) s = finish s
    (if q.type ≠ l.type ∨ q.smallest ≠ l.smallest then .error (s.trapHere illegalOp 3 0)
    else if j = k then .ok s else .ok (s.updateK k (.merge s.exposed q.entries q.nanDropped) 2)) :=
  (slotOp_read hl _).trans ((slotOp_read hq _).trans (slotOp_true hg))

end

/-- Settles O32: each instruction's operands are read; KMRG by its three cases. -/
theorem rankedListResults : Obligations.RankedListResults := by
  unfold Obligations.RankedListResults
  intro s g k j m c u t a b d x e sel v w z l q hg hk hi hm ha hb hx hl hq ex owed insert
  refine ⟨slotOp_read1 hg hk _, slotOp_read1 hg hk _, (slotOp_read hi _).trans (slotOp_read3 hg hm ha hb _),
    (slotOp_read hi _).trans (slotOp_read3 hg hm ha hx _), fun hj ht hs => ?differ, fun hj => ?same, fun h => ?mismatch,
    slotOp_read1 hg hl _, slotOp_read1 hg hl _, slotOp_read1 hg hl _⟩
  case differ =>
    rw [execKmrg_eq hg hl hq, if_neg (not_or.2 ⟨not_not.2 ht, not_not.2 hs⟩), if_neg hj]
    rfl
  case same =>
    subst hj
    obtain rfl : l = q := Except.ok.inj (hl.symm.trans hq)
    rw [execKmrg_eq hg hl hq, if_neg (by simp), if_pos rfl]
    rfl
  case mismatch =>
    rw [execKmrg_eq hg hl hq, if_pos h]
    rfl

end Sys2Proof.Machine
end

section
/-!
PROOFS. O42: slots that name segments under a true guard, and the effects that let them stand (R156, R159, R285).
-/
namespace Sys2Proof.Machine

/-! ### Slots that read operands and name segments -/

section
variable {s : State} {g : BitVec 4}

/-- An operand that is read gives the rest of the body its value. -/
theorem segOp_read {α : Type} {p : Except Halt α} {a : α} (hp : p = .ok a) (f : α → Except Halt State) :
    segOp g s (p >>= f) = segOp g s (f a) := by
  subst hp
  rfl

variable (hg : s.readP g.toNat = .ok true)
include hg

theorem segOp_halt (e : Halt) : segOp g s (.error e) = .next (s.halt e) := by
  rw [segOp_true hg]
  rfl

/-- An operand that cannot be read ends the slot. -/
theorem segOp_read_error {α : Type} {p : Except Halt α} {e : Halt} (hp : p = .error e) (f : α → Except Halt State) :
    segOp g s (p >>= f) = .next (s.halt e) := by
  subst hp
  exact segOp_halt hg e

end

/-! ### Effects that keep the sets of the issue (R285) -/

/-- The record of the issue, the sum of every set and SGQUOTA stand. -/
def State.keepsSets (s t : State) : Prop :=
  t.issue = s.issue ∧ (∀ l, t.ccs.setSum l = s.ccs.setSum l) ∧ t.ccs.quota = s.ccs.quota

theorem State.keepsSets.refl (s : State) : s.keepsSets s := ⟨rfl, fun _ => rfl, rfl⟩

theorem State.keepsSets.trans {s t u : State} (h : s.keepsSets t) (k : t.keepsSets u) : s.keepsSets u :=
  ⟨k.1.trans h.1, fun l => (k.2.1 l).trans (h.2.1 l), k.2.2.trans h.2.2⟩

/-- An effect that keeps the sets stands, where the segment named is resident and the set within SGQUOTA. -/
theorem segOp_ok {s t : State} {gd : BitVec 4} {id : Nat} {g : Seg} (hg : s.readP gd.toNat = .ok true)
    (ha : (s.useSeg id g).issue.absent = false) (hq : s.ccs.issueSum (s.useSeg id g).issue ≤ s.ccs.quota)
    (hk : (s.useSeg id g).keepsSets t) : segOp gd s (.ok t) = .next t := by
  obtain ⟨hi, hs, hquota⟩ := hk
  rw [segOp_true hg]
  refine settle_ok (by rw [hi]; exact ha) (.inr ?_)
  rw [hi, CoreState.issueSum, hs, hquota]
  exact hq

theorem State.segReady.segOp_ok {s t : State} {gd : BitVec 4} {name id : Nat} {g : Seg} (h : s.segReady name id g)
    (hg : s.readP gd.toNat = .ok true) (hk : (s.useSeg id g).keepsSets t) : segOp gd s (.ok t) = .next t := by
  obtain ⟨-, -, ha, hq, -⟩ := h
  exact Machine.segOp_ok hg ha hq hk

section
variable (s : State)

theorem State.modCx_keepsSets (f : Ctx → Ctx) : s.keepsSets (s.modCx f) :=
  ⟨rfl, CoreState.setSum_congr (s.ccs_modCx_segs f), s.ccs_modCx_quota f⟩

theorem State.writeV_keepsSets (d : BitVec 5) (mask : BitVec 64) (v : VReg) (lat : Nat) : s.keepsSets (s.writeV d mask v lat) :=
  s.modCx_keepsSets _

theorem State.updateK_keepsSets (k : BitVec 3) (u : KUpdate) (lat : Nat) : s.keepsSets (s.updateK k u lat) := s.modCx_keepsSets _

theorem State.writeX_keepsSets (d : BitVec 6) (v : X64) (lat : Nat) : s.keepsSets (s.writeX d v lat) := by
  unfold State.writeX
  split
  · exact .refl s
  · exact s.modCx_keepsSets _

theorem State.loadResult_keepsSets (kind : LoadKind) (dests : List (Reg × RegVal)) (due phys : Nat) :
    s.keepsSets (s.loadResult kind dests due phys) := by
  unfold State.loadResult State.loadEnters
  split
  · exact .refl s
  · exact s.modCx_keepsSets fun c => c.enterLoad kind dests s.nextId due phys s.issue.pc false

theorem State.postInc_keepsSets (o : BitVec 6) (x : X64) (n : BitVec 1) (size : Nat) : s.keepsSets (s.postInc o x n size) := by
  unfold State.postInc
  split
  · exact s.writeX_keepsSets _ _ _
  · exact .refl s

theorem State.postStep_keepsSets (o : BitVec 6) (x : X64) (m : BitVec 2) : s.keepsSets (s.postStep o x m) := by
  unfold State.postStep
  split
  · exact s.writeX_keepsSets _ _ _
  · exact .refl s

end

section
variable {s t : State}

/-- Counts of a core are no part of its sets. -/
theorem State.memStores.keepsSets {ls : List Nat} (h : s.memStores t ls) : s.keepsSets t := by
  obtain ⟨-, hi, hc⟩ := h
  obtain ⟨m, hm⟩ := hc s.issue.core
  have ht : t.ccs = { s.ccs with mon := m } := by rw [State.ccs, hi, hm, State.ccs]
  rw [State.keepsSets, ht]
  exact ⟨hi, fun l => CoreState.setSum_congr rfl l, rfl⟩

/-- What the words announce is observed by the context that issues. -/
theorem State.keepsSets.observeWords (h : s.keepsSets t) (ls : List Nat) : s.keepsSets (t.observeWords s.icore s.ictx ls) := by
  have hc : t.observeWords t.icore t.ictx ls = t.observeWords s.icore s.ictx ls := by rw [State.icore, State.ictx, h.1]; rfl
  rw [← hc]
  exact h.trans (t.modCx_keepsSets _)

/-- A segment store of the issuing core in a quiet state. -/
theorem State.keepsSets.sstore (h : s.keepsSets t) (hq : t.quiet) (id off : Nat) (bs : List Byte) :
    s.keepsSets (t.sstore s.icore id off bs) := by
  obtain ⟨l, hl⟩ := State.sstore_quiet hq t.issue.core id off bs
  have hc : s.icore = t.issue.core := congrArg Issue.core h.1.symm
  refine h.trans ?_
  rw [hc, hl]
  refine ⟨rfl, fun l => ?_, ?_⟩
  · unfold State.ccs
    rw [State.modCS_issue, State.modCS_issue, State.cs_modCS, State.cs_modCS]
    exact (CoreState.setSum_congr rfl l).trans (CoreState.setSum_segWrite _ id off bs l)
  · unfold State.ccs
    rw [State.modCS_issue, State.modCS_issue, State.cs_modCS, State.cs_modCS]
    exact CoreState.quota_segWrite _ id off bs

/-- Segment stores of the issuing core in a quiet state, one for each element of a list. -/
theorem State.sstore_foldl_keepsSets (hq : s.quiet) (id : Nat) (off : Nat → Nat) (bs : Nat → List Byte) (l : List Nat) :
    s.keepsSets (l.foldl (fun t n => t.sstore s.icore id (off n) (bs n)) s) :=
  (List.foldlRecOn (motive := fun t => t.quiet ∧ s.keepsSets t) l _ ⟨hq, .refl s⟩ fun _ h _ _ =>
    ⟨State.sstore_keeps_quiet h.1 _ _ _ _, h.2.sstore h.1 _ _ _⟩).2

end

/-! ### Accesses of global memory (R169, R175, R176) -/

theorem State.check_ok {s : State} {va n : Nat} {w : Bool} {ls : List Nat} (h : s.locs s.issue.core va n w = .ok ls) (lane : Nat) :
    s.check va n lane w = .ok ls := by
  unfold State.check State.icore
  rw [h]
  rfl

theorem State.check_error {s : State} {va n c f : Nat} {w : Bool} (h : s.locs s.issue.core va n w = .error (c, f)) (lane : Nat) :
    s.check va n lane w = .error (s.trapHere c 0 (s.pageValue s.issue.core s.issue.pc c f lane)) := by
  rw [← State.xlateValue_eq]
  unfold State.check State.icore
  rw [h]
  rfl

theorem State.checkVector_ok {s : State} {va : Nat} {w : Bool} {ls : List Nat} (h : s.locs s.issue.core va 256 w = .ok ls) :
    s.checkVector va w = .ok ls := by
  unfold State.checkVector State.icore
  rw [h]

theorem State.checkVector_error {s : State} {va c f : Nat} {w : Bool} (h : s.locs s.issue.core va 256 w = .error (c, f)) :
    s.checkVector va w = .error (s.trapHere c 0 (s.pageValue s.issue.core s.issue.pc c f ((f - va) / 4))) := by
  rw [← State.xlateValue_eq]
  unfold State.checkVector State.icore
  rw [h]
  rfl

/-- After notes of caches a load of sound words owes its destinations their values. -/
theorem State.noted.globalLoad {s t : State} {core : Nat} (h : s.noted t core) {ls : List Nat} (hs : s.soiled ls = none)
    (dests : List (Reg × RegVal)) (phys : Nat) (vas : List Nat) : t.globalLoad dests phys vas ls
    = (t.observeWords s.icore s.ictx ls).loadResult .memory dests 0 phys := by
  obtain ⟨hf, -, hi, -⟩ := h
  have ht : t.soiled ls = none := by
    unfold State.soiled
    rw [hf]
    exact hs
  rw [State.globalLoad_sound ht, State.icore, State.ictx, hi]
  rfl

/-- A load of global memory beyond the stack's end, and what follows it. -/
theorem State.segReady.globalLoad {s : State} {gd : BitVec 4} {name id : Nat} {g : Seg} (h : s.segReady name id g)
    (hg : s.readP gd.toNat = .ok true) {ls : List Nat} (hs : s.soiled ls = none) (va n : Nat) (dests : List (Reg × RegVal)) (phys : Nat)
    (vas : List Nat) {post : State → State} (hp : ∀ t : State, t.keepsSets (post t)) :
    segOp gd s (.ok (post (((s.useSeg id g).touchAll s.icore va n ls false).globalLoad dests phys vas ls)))
      = .next (post ((((s.useSeg id g).touchAll s.icore va n ls false).observeWords s.icore s.ictx ls).loadResult
        .memory dests 0 phys)) := by
  have ht := (s.useSeg id g).touchAll_noted s.icore va n ls false
  have ho := (ht.memStores []).keepsSets.observeWords ls
  rw [ht.globalLoad (s := s.useSeg id g) hs]
  exact h.segOp_ok hg ((ho.trans (State.loadResult_keepsSets _ _ _ _ _)).trans (hp _))

end Sys2Proof.Machine
end

section
/-!
PROOFS. O42: segment loads and stores, scalar and vector (R157, R158, R171, R176, R177, R179).
-/
namespace Sys2Proof.Machine

/-! ### Incremented forms (R171, R177) -/

theorem State.postInc_eq (s : State) (o : BitVec 6) (x : X64) (n : BitVec 1) (size : Nat) :
    s.postInc o x n size = if n == 1 then s.writeX o (x + BitVec.ofNat 64 size) 1 else s := by
  simp only [State.postInc, beq_iff_eq]

theorem State.postStep_eq (s : State) (o : BitVec 6) (x : X64) (m : BitVec 2) :
    s.postStep o x m = if m == 1 then s.writeX o (x + BitVec.ofNat 64 256) 1 else s := by
  simp only [State.postStep, beq_iff_eq]
  rfl

/-! ### Lanes of a gather or a scatter (R176, R179) -/

/-- Checks of a list that all pass, pass. -/
theorem forM_ok {α : Type} {f : α → Except Halt PUnit} (l : List α) (h : ∀ a ∈ l, f a = .ok ⟨⟩) : l.forM f = .ok ⟨⟩ := by
  induction l with
  | nil => rfl
  | cons a r ih =>
    exact (congrArg (· >>= fun _ => r.forM f) (h a List.mem_cons_self)).trans (ih fun b hb => h b (List.mem_cons_of_mem _ hb))

section
variable {s : State} {gd : BitVec 4} {y : BitVec 8} {id : Nat} {g : Seg} (hg : s.readP gd.toNat = .ok true)
  (hr : s.segReady y.toNat id g)

include hr in
/-- The lowest lane that lies out of bounds is told. -/
theorem segLanes_beyond {k : BitVec 64} {off : Nat → Nat} {l : Nat}
    (hl : (selected k).find? (fun l => decide (256 * g.len < off l + 4)) = some l) :
    s.segLanes y.toNat k off = .error (s.trapHere segBound 0 (y.toNat + 2 ^ 8 * l)) := by
  have hl' : (selected k).find? (fun l => decide (g.bytes < off l + 4)) = some l := hl
  unfold State.segLanes
  rw [hr.found]
  dsimp only
  rw [hl']
  exact if_neg (not_not.2 hr.resident)

include hg hr

section
variable {v j : BitVec 5} {k : BitVec 3} {idx q : VReg} {sel : BitVec 64} (hj : s.readV j = .ok idx) (hk : s.readM k = .ok sel)
include hj hk

theorem execVgts_eq (hin : ∀ l ∈ selected sel, s.laneOffset idx l + 4 ≤ 256 * g.len) :
    exec (.vgts gd v y j k) s = .next ((s.useSeg id g).loadResult .segment (s.vDest v sel (lanesOf fun l =>
      BitVec.ofNat 32 (leNat (s.ccs.segRead id (s.laneOffset idx l) 4)))) 0 0) :=
  (segOp_read hk _).trans <| (segOp_read hj _).trans <| (segOp_read (segLanes_within hr hin) _).trans <|
    (segOp_read (forM_ok _ fun _ _ => hr.soundSeg _ _) _).trans <| hr.segOp_ok hg (State.loadResult_keepsSets _ _ _ _ _)

theorem execVgts_beyond {l : Nat} (hl : (selected sel).find? (fun l => decide (256 * g.len < s.laneOffset idx l + 4)) = some l) :
    exec (.vgts gd v y j k) s = .next (s.halt (s.trapHere segBound 0 (y.toNat + 2 ^ 8 * l))) :=
  (segOp_read hk _).trans <| (segOp_read hj _).trans <| segOp_read_error hg (segLanes_beyond hr hl) _

variable (hv : s.readV v = .ok q)
include hv

theorem execVscs_eq (h : s.quiet) (hin : ∀ l ∈ selected sel, s.laneOffset idx l + 4 ≤ 256 * g.len) :
    exec (.vscs gd v y j k) s = .next ((selected sel).foldl (fun t l => t.sstore s.icore id (s.laneOffset idx l)
      (leBytes 4 (q.lane l).toNat)) (s.useSeg id g)) :=
  (segOp_read hk _).trans <| (segOp_read hj _).trans <| (segOp_read hv _).trans <| (segOp_read (segLanes_within hr hin) _).trans <|
    hr.segOp_ok hg (State.sstore_foldl_keepsSets (s := s.useSeg id g) h id _ _ _)

theorem execVscs_beyond {l : Nat} (hl : (selected sel).find? (fun l => decide (256 * g.len < s.laneOffset idx l + 4)) = some l) :
    exec (.vscs gd v y j k) s = .next (s.halt (s.trapHere segBound 0 (y.toNat + 2 ^ 8 * l))) :=
  (segOp_read hk _).trans <| (segOp_read hj _).trans <| (segOp_read hv _).trans <| segOp_read_error hg (segLanes_beyond hr hl) _

end

/-! ### Scalar accesses (R158, R171) -/

section
variable {o r : BitVec 6} {n : BitVec 1} {size : Nat} {x w : X64} (hx : s.readX o = .ok x)
include hx

theorem segLoad_here (hin : x.toNat + size ≤ 256 * g.len) : segLoad gd r y o n size s
    = .next (((s.useSeg id g).writeX r (BitVec.ofNat 64 (leNat (s.ccs.segRead id x.toNat size))) 4).postInc o x n size) :=
  (segOp_read hx _).trans <| (segOp_read (hr.here true hin) _).trans <| (segOp_read (hr.soundSeg _ _) _).trans <|
    hr.segOp_ok hg ((State.writeX_keepsSets _ _ _ _).trans (State.postInc_keepsSets _ _ _ _ _))

theorem segLoad_beyond (hb : 256 * g.len < x.toNat + size) (ho : g.role ≠ .stack ∨ x.toNat < 256 * g.len) :
    segLoad gd r y o n size s
      = .next (s.halt (s.trapHere segBound 0 (y.toNat + 2 ^ 8 * boundLane (256 * g.len) x.toNat size))) :=
  (segOp_read hx _).trans <| segOp_read_error hg (hr.beyond true hb (.inr ho)) _

theorem segLoad_there {va : Nat} {ls : List Nat} (hsize : 0 < size) (ho : s.overflowsTo g x.toNat va)
    (hl : s.locs s.issue.core va size false = .ok ls) (hs : s.soiled ls = none) : segLoad gd r y o n size s
      = .next (((((s.useSeg id g).touchAll s.icore va size ls false).observeWords s.icore s.ictx ls).loadResult .memory
        (s.xDest r (BitVec.ofNat 64 (leNat (s.bytesAt ls)))) 0 (s.physOf va)).postInc o x n size) :=
  (segOp_read hx _).trans <| (segOp_read (hr.overflow hsize ho) _).trans <| (segOp_read (State.check_ok hl 0) _).trans <|
    hr.globalLoad hg hs va size _ _ _ fun t => t.postInc_keepsSets o x n size

variable (hw : s.readX r = .ok w)
include hw

theorem segStore_here (h : s.quiet) (hin : x.toNat + size ≤ 256 * g.len) : segStore gd r y o n size s
    = .next (((s.useSeg id g).sstore s.icore id x.toNat (leBytes size w.toNat)).postInc o x n size) :=
  (segOp_read hw _).trans <| (segOp_read hx _).trans <| (segOp_read (hr.here true hin) _).trans <|
    hr.segOp_ok hg (((State.keepsSets.refl (s.useSeg id g)).sstore h id _ _).trans (State.postInc_keepsSets _ _ _ _ _))

theorem segStore_beyond (hb : 256 * g.len < x.toNat + size) (ho : g.role ≠ .stack ∨ x.toNat < 256 * g.len) :
    segStore gd r y o n size s
      = .next (s.halt (s.trapHere segBound 0 (y.toNat + 2 ^ 8 * boundLane (256 * g.len) x.toNat size))) :=
  (segOp_read hw _).trans <| (segOp_read hx _).trans <| segOp_read_error hg (hr.beyond true hb (.inr ho)) _

theorem segStore_there {va : Nat} {ls : List Nat} (h : s.quiet) (hsize : 0 < size) (ho : s.overflowsTo g x.toNat va)
    (hl : s.locs s.issue.core va size true = .ok ls) : segStore gd r y o n size s
      = .next (((s.useSeg id g).storeAt va size ls (leBytes size w.toNat)).postInc o x n size) :=
  (segOp_read hw _).trans <| (segOp_read hx _).trans <| (segOp_read (hr.overflow hsize ho) _).trans <|
    (segOp_read (State.check_ok hl 0) _).trans <|
      hr.segOp_ok hg ((State.storeAt_memStores (s := s.useSeg id g) h va size ls _).keepsSets.trans (State.postInc_keepsSets _ _ _ _ _))

end

/-! ### Vector accesses (R158, R177) -/

section
variable {v : BitVec 5} {o : BitVec 6} {m : BitVec 2} {x : X64} {q : VReg} (hx : s.readX o = .ok x)
include hx

theorem execVlds_here (hin : s.stepped x + 256 ≤ 256 * g.len) : exec (.vlds gd v y o m) s
    = .next (((s.useSeg id g).writeV v (BitVec.allOnes 64) (vregOfBytes (s.ccs.segRead id (s.stepped x) 256)) 6).postStep o x m) :=
  (segOp_read hx _).trans <| (segOp_read (hr.here true hin) _).trans <| (segOp_read (hr.soundSeg _ _) _).trans <|
    hr.segOp_ok hg ((State.writeV_keepsSets _ _ _ _ _).trans (State.postStep_keepsSets _ _ _ _))

theorem execVlds_beyond (hb : 256 * g.len < s.stepped x + 256) (ho : g.role ≠ .stack ∨ s.stepped x < 256 * g.len) :
    exec (.vlds gd v y o m) s
      = .next (s.halt (s.trapHere segBound 0 (y.toNat + 2 ^ 8 * boundLane (256 * g.len) (s.stepped x) 256))) :=
  (segOp_read hx _).trans <| segOp_read_error hg (hr.beyond true hb (.inr ho)) _

section
variable {va : Nat} (ho : s.overflowsTo g (s.stepped x) va)
include ho

theorem execVlds_there {ls : List Nat} (hl : s.locs s.issue.core va 256 false = .ok ls) (hs : s.soiled ls = none) :
    exec (.vlds gd v y o m) s
      = .next (((((s.useSeg id g).touchAll s.icore va 256 ls false).observeWords s.icore s.ictx ls).loadResult .memory
        (s.vDest v (BitVec.allOnes 64) (vregOfBytes (s.bytesAt ls))) 0 (s.physOf va)).postStep o x m) :=
  (segOp_read hx _).trans <| (segOp_read (hr.overflow (by decide) ho) _).trans <|
    (segOp_read (State.checkVector_ok hl) _).trans <| hr.globalLoad hg hs va 256 _ _ _ fun t => t.postStep_keepsSets o x m

theorem execVlds_fails {c f : Nat} (hl : s.locs s.issue.core va 256 false = .error (c, f)) : exec (.vlds gd v y o m) s
    = .next (s.halt (s.trapHere c 0 (s.pageValue s.issue.core s.issue.pc c f ((f - va) / 4)))) :=
  (segOp_read hx _).trans <| (segOp_read (hr.overflow (by decide) ho) _).trans <|
    segOp_read_error hg (State.checkVector_error hl) _

end

variable (hq : s.readV v = .ok q)
include hq

theorem execVsts_here (h : s.quiet) (hin : s.stepped x + 256 ≤ 256 * g.len) : exec (.vsts gd v y o m) s
    = .next (((s.useSeg id g).sstore s.icore id (s.stepped x) (vregBytes q)).postStep o x m) :=
  (segOp_read hq _).trans <| (segOp_read hx _).trans <| (segOp_read (hr.here true hin) _).trans <|
    hr.segOp_ok hg (((State.keepsSets.refl (s.useSeg id g)).sstore h id _ _).trans (State.postStep_keepsSets _ _ _ _))

theorem execVsts_beyond (hb : 256 * g.len < s.stepped x + 256) (ho : g.role ≠ .stack ∨ s.stepped x < 256 * g.len) :
    exec (.vsts gd v y o m) s
      = .next (s.halt (s.trapHere segBound 0 (y.toNat + 2 ^ 8 * boundLane (256 * g.len) (s.stepped x) 256))) :=
  (segOp_read hq _).trans <| (segOp_read hx _).trans <| segOp_read_error hg (hr.beyond true hb (.inr ho)) _

variable {va : Nat} (ho : s.overflowsTo g (s.stepped x) va)
include ho

theorem execVsts_there {ls : List Nat} (h : s.quiet) (hl : s.locs s.issue.core va 256 true = .ok ls) : exec (.vsts gd v y o m) s
    = .next (((s.useSeg id g).storeAt va 256 ls (vregBytes q)).postStep o x m) :=
  (segOp_read hq _).trans <| (segOp_read hx _).trans <| (segOp_read (hr.overflow (by decide) ho) _).trans <|
    (segOp_read (State.checkVector_ok hl) _).trans <|
      hr.segOp_ok hg ((State.storeAt_memStores (s := s.useSeg id g) h va 256 ls _).keepsSets.trans (State.postStep_keepsSets _ _ _ _))

theorem execVsts_fails {c f : Nat} (hl : s.locs s.issue.core va 256 true = .error (c, f)) : exec (.vsts gd v y o m) s
    = .next (s.halt (s.trapHere c 0 (s.pageValue s.issue.core s.issue.pc c f ((f - va) / 4)))) :=
  (segOp_read hq _).trans <| (segOp_read hx _).trans <| (segOp_read (hr.overflow (by decide) ho) _).trans <|
    segOp_read_error hg (State.checkVector_error hl) _

end

end

/-! ### The statement -/

/-- Settles O42: each access by its equation in the segment, past its end, and on the overflow path of the stack. -/
theorem segmentAccessResults : Obligations.SegmentAccessResults := by
  unfold Obligations.SegmentAccessResults
  intro s gd r o y n v j m k x w q idx sel id g hg hx hw hq hj hk hr hs hm u core len read inc bound off voff lane lanes loads stores fails
  have hinc : ∀ (t : State) size, t.postInc o x n size = inc t (n == 1) size := fun t size => t.postInc_eq o x n size
  have hstep : ∀ t : State, t.postStep o x m = inc t (m == 1) 256 := fun t => t.postStep_eq o x m
  have load : ∀ size, off + size ≤ len → segLoad gd r y o n size s
      = .next (inc (u.writeX r (BitVec.ofNat 64 (leNat (read off size))) 4) (n == 1) size) := fun size h => by
    rw [← hinc]
    exact segLoad_here hg hr hx h
  have store : s.quiet → ∀ size, off + size ≤ len → segStore gd r y o n size s
      = .next (inc (u.sstore core id off (leBytes size w.toNat)) (n == 1) size) := fun hquiet size h => by
    rw [← hinc]
    exact segStore_here hg hr hx hw hquiet h
  have loadOver : ∀ va, s.overflowsTo g off va → ∀ i size, 0 < size → exec i s = segLoad gd r y o n size s →
      loads i (n == 1) va size fun ls => s.xDest r (BitVec.ofNat 64 (leNat (s.bytesAt ls))) :=
    fun va ho i size hsize hi ls hl hs => by
      rw [← hinc, hi]
      exact segLoad_there hg hr hx hsize ho hl hs
  have storeOver : ∀ va, s.overflowsTo g off va → ∀ i size, 0 < size → exec i s = segStore gd r y o n size s →
      stores i (n == 1) va size (leBytes size w.toNat) := fun va ho i size hsize hi hquiet ls hl => by
    rw [← hinc, hi]
    exact segStore_there hg hr hx hw hquiet hsize ho hl
  refine ⟨load 8, load 4, fun h => ?vlds, fun hquiet => ⟨store hquiet 8, store hquiet 4, fun h => ?vsts,
    execVscs_eq hg hr hj hk hq hquiet⟩, execVgts_eq hg hr hj hk,
    fun l hl => ⟨execVgts_beyond hg hr hj hk hl, execVscs_beyond hg hr hj hk hq hl⟩,
    fun hb ho => ⟨segLoad_beyond hg hr hx hb ho, segStore_beyond hg hr hx hw hb ho⟩,
    fun hb ho => ⟨segLoad_beyond hg hr hx hb ho, segStore_beyond hg hr hx hw hb ho⟩,
    fun hb ho => ⟨execVlds_beyond hg hr hx hb ho, execVsts_beyond hg hr hx hq hb ho⟩,
    fun va => ⟨fun ho => ⟨loadOver va ho _ 8 (by decide) rfl, loadOver va ho _ 4 (by decide) rfl,
      storeOver va ho _ 8 (by decide) rfl, storeOver va ho _ 4 (by decide) rfl⟩,
      fun ho => ⟨fun ls hl hs => ?vldsOver, fun hquiet ls hl => ?vstsOver, fun c f => execVlds_fails hg hr hx ho,
        fun c f => execVsts_fails hg hr hx hq ho⟩⟩⟩
  case vlds =>
    rw [← hstep]
    exact execVlds_here hg hr hx h
  case vsts =>
    rw [← hstep]
    exact execVsts_here hg hr hx hq hquiet h
  case vldsOver =>
    rw [← hstep]
    exact execVlds_there hg hr hx ho hl hs
  case vstsOver =>
    rw [← hstep]
    exact execVsts_there hg hr hx hq ho hquiet hl

end Sys2Proof.Machine
end

section
/-!
PROOFS. O43: global vector loads and stores, lane by lane (R176, R178, R180).
-/
namespace Sys2Proof.Machine

/-! ### The selected lanes (R125, R176) -/

theorem mem_selected {k : BitVec 64} {i : Nat} : i ∈ selected k ↔ k.getLsbD i = true := by
  simp only [selected, List.mem_filter, List.mem_range, and_iff_right_iff_imp]
  exact BitVec.lt_of_getLsbD

theorem selected_sorted (k : BitVec 64) : (selected k).Pairwise (· < ·) := List.pairwise_lt_range.filter _

/-- A number is found among pairs of numbers where it is one of them. -/
theorem find?_map_pair {β : Type} (h : Nat → β) (i : Nat) (l : List Nat) :
    (l.map fun n => (n, h n)).find? (fun p => p.1 == i) = if i ∈ l then some (i, h i) else none := by
  induction l with
  | nil => rfl
  | cons a r ih =>
    rw [List.map_cons]
    by_cases ha : a = i
    · subst ha
      rw [List.find?_cons_of_pos (by simp), if_pos List.mem_cons_self]
    · rw [List.find?_cons_of_neg (by simpa using ha), ih]
      simp only [List.mem_cons, Ne.symm ha, false_or]

/-! ### Checks of lanes -/

/-- Of lanes in ascending order, the lowest that does not translate is told (R176, R343). -/
theorem State.checkLanes_error {s : State} {addr : Nat → Nat} {w : Bool} {f : Nat → List Nat} {l cause va : Nat}
    (he : s.locs s.issue.core (addr l) 4 w = .error (cause, va)) (ls : List Nat) : ls.Pairwise (· < ·) → l ∈ ls →
    (∀ n ∈ ls, n < l → s.locs s.issue.core (addr n) 4 w = .ok (f n)) →
    s.checkLanes addr w ls = .error (s.trapHere cause 0 (s.pageValue s.issue.core s.issue.pc cause va l)) := by
  induction ls with
  | nil => exact fun _ h => nomatch h
  | cons a r ih =>
    intro hs hl hok
    obtain ⟨ha, hr⟩ := List.pairwise_cons.1 hs
    rw [State.checkLanes]
    rcases List.mem_cons.1 hl with rfl | hl
    · rw [State.check_error he]
      rfl
    · rw [State.check_ok (hok a List.mem_cons_self (ha l hl)), ih hr hl fun n hn => hok n (List.mem_cons_of_mem _ hn)]
      rfl

/-! ### Gathers and scatters -/

section
variable {s : State} {k : BitVec 64} {addr : Nat → Nat} {f : Nat → List Nat}

/-- The lanes of a gather: the words of those selected. -/
theorem State.gathered_lanes (s : State) (k : BitVec 64) (f : Nat → List Nat) (i : Nat) :
    BitVec.ofNat 32 ((((((selected k).map fun n => (n, f n)).map fun p => (p.1, leNat (s.bytesAt p.2))).find?
      fun p => p.1 == i).map (·.2)).getD 0) = if k.getLsbD i then BitVec.ofNat 32 (leNat (s.bytesAt (f i))) else 0 := by
  have hf := find?_map_pair (fun n => leNat (s.bytesAt (f n))) i (selected k)
  rw [List.map_map, Function.comp_def, hf]
  by_cases h : k.getLsbD i = true
  · rw [if_pos (mem_selected.2 h), if_pos h]
    rfl
  · rw [if_neg (fun hi => h (mem_selected.1 hi)), if_neg h]
    rfl

theorem State.gather_ok (v : BitVec 5) (h : ∀ l ∈ selected k, s.locs s.issue.core (addr l) 4 false = .ok (f l))
    (hs : ∀ l ∈ selected k, s.soiled (f l) = none) : ∃ ph, s.gather v k addr
    = .ok ((((selected k).foldl (fun t l => t.touchAll s.icore (addr l) 4 (f l) false) s).observeWords s.icore s.ictx
      ((selected k).flatMap f)).loadResult .memory
        (s.vDest v k (lanesOf fun l => if k.getLsbD l then BitVec.ofNat 32 (leNat (s.bytesAt (f l))) else 0)) 0 ph) := by
  have hn : s.noted ((selected k).foldl (fun t l => t.touchAll s.icore (addr l) 4 (f l) false) s) s.icore :=
    List.foldlRecOn (motive := fun t => s.noted t s.icore) _ _ (.refl s _) fun _ ht _ _ => ht.trans (State.touchAll_noted _ _ _ _ _ _)
  have hsoil : s.soiled ((selected k).flatMap f) = none := by
    simp only [State.soiled, List.find?_eq_none, List.mem_flatMap] at hs ⊢
    rintro x ⟨l, hl, hx⟩
    exact hs l hl x hx
  unfold State.gather
  rw [State.checkLanes_ok s addr false f _ h]
  simp only [bind, Except.bind, s.gathered_lanes k f, List.foldl_map, List.flatMap_map]
  rw [hn.globalLoad hsoil]
  exact ⟨_, rfl⟩

theorem State.scatter_ok (q : VReg) (h : ∀ l ∈ selected k, s.locs s.issue.core (addr l) 4 true = .ok (f l)) :
    s.scatter q k addr
      = .ok ((selected k).foldl (fun t l => t.storeAt (addr l) 4 (f l) (leBytes 4 (q.lane l).toNat)) s) := by
  unfold State.scatter
  rw [State.checkLanes_ok s addr true f _ h]
  simp only [bind, Except.bind, List.foldl_map]

variable {l cause va : Nat} (hl : l ∈ selected k)
include hl

theorem State.gather_error (v : BitVec 5) (h : ∀ n ∈ selected k, n < l → s.locs s.issue.core (addr n) 4 false = .ok (f n))
    (he : s.locs s.issue.core (addr l) 4 false = .error (cause, va)) :
    s.gather v k addr = .error (s.trapHere cause 0 (s.pageValue s.issue.core s.issue.pc cause va l)) := by
  unfold State.gather
  rw [State.checkLanes_error he _ (selected_sorted k) hl h]
  rfl

theorem State.scatter_error (q : VReg) (h : ∀ n ∈ selected k, n < l → s.locs s.issue.core (addr n) 4 true = .ok (f n))
    (he : s.locs s.issue.core (addr l) 4 true = .error (cause, va)) :
    s.scatter q k addr = .error (s.trapHere cause 0 (s.pageValue s.issue.core s.issue.pc cause va l)) := by
  unfold State.scatter
  rw [State.checkLanes_error he _ (selected_sorted k) hl h]
  rfl

end

/-! ### The instructions (R178, R180) -/

section
variable {s : State} {gd : BitVec 4} {v j : BitVec 5} {x : BitVec 6} {m : BitVec 3} {a : X64} {q idx : VReg} {k : BitVec 64}
  (hg : s.readP gd.toNat = .ok true) (hx : s.readX x = .ok a) (hm : s.readM m = .ok k)
include hg hx hm

theorem execVldg_eq : exec (.vldg gd v x m) s = finish s (s.gather v k (laneAddress a)) :=
  (slotOp_read hm _).trans <| (slotOp_read hx _).trans <| slotOp_true hg

theorem execVgtg_eq (hj : s.readV j = .ok idx) : exec (.vgtg gd v x j m) s = finish s (s.gather v k (indexAddress a idx)) :=
  (slotOp_read hm _).trans <| (slotOp_read hx _).trans <| (slotOp_read hj _).trans <| slotOp_true hg

theorem execVstg_eq (hv : s.readV v = .ok q) : exec (.vstg gd v x m) s = finish s (s.scatter q k (laneAddress a)) :=
  (slotOp_read hm _).trans <| (slotOp_read hx _).trans <| (slotOp_read hv _).trans <| slotOp_true hg

theorem execVscg_eq (hv : s.readV v = .ok q) (hj : s.readV j = .ok idx) :
    exec (.vscg gd v x j m) s = finish s (s.scatter q k (indexAddress a idx)) :=
  (slotOp_read hm _).trans <| (slotOp_read hx _).trans <| (slotOp_read hj _).trans <| (slotOp_read hv _).trans <| slotOp_true hg

end

/-- Settles O43: the two loads are gathers, the two stores scatters, at the addresses of their lanes. -/
theorem gatherAndScatterResults : Obligations.GatherAndScatterResults := by
  unfold Obligations.GatherAndScatterResults
  intro s gd v j x m a q idx k f hg hx hv hj hm core lanes straight indexed gathers scatters traps
  have loads : ∀ i addr, exec i s = finish s (s.gather v k addr) →
      (∀ l ∈ lanes, s.locs core (addr l) 4 false = .ok (f l)) → gathers i addr := fun i addr hi h hs => by
    obtain ⟨ph, hp⟩ := State.gather_ok v h hs
    exact ⟨ph, hi.trans (congrArg (finish s) hp)⟩
  have stores : ∀ i addr, exec i s = finish s (s.scatter q k addr) →
      (∀ l ∈ lanes, s.locs core (addr l) 4 true = .ok (f l)) → scatters i addr := fun i addr hi h =>
    hi.trans (congrArg (finish s) (State.scatter_ok q h))
  have loadTraps : ∀ i addr, exec i s = finish s (s.gather v k addr) → traps i addr false := fun i addr hi l cause va hl h he =>
    hi.trans (congrArg (finish s) (State.gather_error hl v h he))
  have storeTraps : ∀ i addr, exec i s = finish s (s.scatter q k addr) → traps i addr true := fun i addr hi l cause va hl h he =>
    hi.trans (congrArg (finish s) (State.scatter_error hl q h he))
  have hvldg := execVldg_eq (v := v) hg hx hm
  have hvgtg := execVgtg_eq (v := v) hg hx hm hj
  have hvstg := execVstg_eq hg hx hm hv
  have hvscg := execVscg_eq hg hx hm hv hj
  exact ⟨loads _ _ hvldg, loads _ _ hvgtg, stores _ _ hvstg, stores _ _ hvscg, loadTraps _ _ hvldg, loadTraps _ _ hvgtg,
    storeTraps _ _ hvstg, storeTraps _ _ hvscg⟩

end Sys2Proof.Machine
end

section
/-!
PROOFS. O44: images of ranked lists (R148 to R150, R360).
-/
namespace Sys2Proof

/-- A header whose numbers KLOAD does not take (R150). -/
def KHeader.unloadable (h : KHeader) : Prop := h.cap = 0 ∨ 64 < h.cap ∨ 64 < h.len ∨ 1 < h.dir

/-- A header whose entries KMRGS does not offer to a list (R150). -/
def KHeader.unlike (h : KHeader) (l : KList) : Prop := h.dir ≠ l.smallest.toNat ∨ h.type ≠ l.type.code ∨ 64 < h.len

end Sys2Proof

namespace Sys2Proof.Machine

/-! ### Reading an image -/

/-- A list that is read stands in the way of nothing. -/
theorem State.hazard_of_readK {s : State} {k : BitVec 3} {l : KList} (h : s.readK k = .ok l) : s.hazard (.k k.toNat) = .ok () := by
  unfold State.readK at h
  cases hz : s.hazard (.k k.toNat) with
  | error e => simp [hz] at h
  | ok u => rfl

/-- A place within the segment of a name. -/
theorem State.segPlace_here {s : State} {name id off n : Nat} {g : Seg} (hf : s.findSeg name .access = .ok (id, g))
    (hin : off + n ≤ 256 * g.len) (b : Bool) : s.segPlace name off n b = .ok (.here id off, s.useSeg id g) := by
  unfold State.segPlace
  rw [hf]
  exact if_pos hin

/-- An image past the end of its segment. -/
theorem State.segReady.image_beyond {s : State} {name id off : Nat} {g : Seg} (hr : s.segReady name id g)
    (hb : 256 * g.len < off + 520) : s.segPlace name off 520 false = .error (s.trapHere segBound 0 name) := by
  simpa [boundLane_of_ne] using hr.beyond false hb (.inl rfl)

/-- A read of a resident segment that meets an error. -/
theorem State.soundSeg_flawed {s : State} {id off n : Nat} {g : Seg} (hs : s.ccs.seg id = some g) (hres : g.state = .resident)
    (hf : s.ccs.flawedAt id off n = true) : s.soundSeg id off n = .error s.sramTrap := by
  simp [State.soundSeg, hf, hs, hres]

section
variable {s : State} {y : BitVec 8} {o : BitVec 6} {x : X64} {id : Nat} {g : Seg} (hx : s.readX o = .ok x)
include hx

theorem State.segReady.kImage (hr : s.segReady y.toNat id g) (hin : s.stepped x + 520 ≤ 256 * g.len) :
    s.kImage y o = .ok (some (s.ccs.segRead id (s.stepped x) 520), s.useSeg id g) := by
  have hplace := hr.here false hin
  have hsound := hr.soundSeg (s.stepped x) 520
  obtain ⟨-, -, ha, -, -⟩ := hr
  unfold State.kImage
  rw [hx]
  simp only [bind, Except.bind, hplace, hsound, ha, Bool.false_eq_true, if_false]

theorem State.segReady.kImage_beyond (hr : s.segReady y.toNat id g) (hb : 256 * g.len < s.stepped x + 520) :
    s.kImage y o = .error (s.trapHere segBound 0 y.toNat) := by
  unfold State.kImage
  rw [hx]
  simp only [bind, Except.bind, hr.image_beyond hb]

theorem State.kImage_flawed (hfind : s.findSeg y.toNat .access = .ok (id, g)) (hs : s.ccs.seg id = some g)
    (hres : g.state = .resident) (hin : s.stepped x + 520 ≤ 256 * g.len) (hf : s.ccs.flawedAt id (s.stepped x) 520 = true) :
    s.kImage y o = .error s.sramTrap := by
  unfold State.kImage
  rw [hx]
  simp only [bind, Except.bind, State.segPlace_here hfind hin, State.soundSeg_flawed hs hres hf]

end

/-! ### KSAVE, KLOAD and KMRGS (R149, R150) -/

section
variable {s : State} {gd : BitVec 4} {k : BitVec 3} {y : BitVec 8} {o : BitVec 6} {l : KList} {x : X64} {id : Nat} {g : Seg}
  (hg : s.readP gd.toNat = .ok true) (hk : s.readK k = .ok l)
include hg hk

/-- An image that cannot be read ends either load. -/
theorem execK_image_error {e : Halt} (he : s.kImage y o = .error e) :
    exec (.kload gd k y o) s = .next (s.halt e) ∧ exec (.kmrgs gd k y o) s = .next (s.halt e) :=
  ⟨(segOp_read (State.hazard_of_readK hk) _).trans (segOp_read_error hg he _), (segOp_read hk _).trans (segOp_read_error hg he _)⟩

variable (hx : s.readX o = .ok x) (hr : s.segReady y.toNat id g)
include hx hr

theorem execKsave_eq (h : s.quiet) (hin : s.stepped x + 520 ≤ 256 * g.len) : exec (.ksave gd k y o) s
    = .next ((s.useSeg id g).sstore s.icore id (s.stepped x) l.image) :=
  (segOp_read hk _).trans <| (segOp_read hx _).trans <| (segOp_read (hr.here false hin) _).trans <|
    hr.segOp_ok hg ((State.keepsSets.refl (s.useSeg id g)).sstore h id _ _)

theorem execKsave_beyond (hb : 256 * g.len < s.stepped x + 520) :
    exec (.ksave gd k y o) s = .next (s.halt (s.trapHere segBound 0 y.toNat)) :=
  (segOp_read hk _).trans <| (segOp_read hx _).trans <| segOp_read_error hg (hr.image_beyond hb) _

variable (hin : s.stepped x + 520 ≤ 256 * g.len) {h : KHeader} (hh : h = KHeader.ofBytes (s.ccs.segRead id (s.stepped x) 520))
include hin hh

theorem execKload_eq {t : KType} (ht : KType.ofCode h.type = some t) (hok : ¬ h.unloadable) : exec (.kload gd k y o) s
    = .next ((s.useSeg id g).updateK k (.load s.exposed h.cap (h.dir == 1) t
      (imageEntries (s.ccs.segRead id (s.stepped x) 520) h.len) h.nanDropped) 6) := by
  subst hh
  refine (segOp_read (State.hazard_of_readK hk) _).trans <| (segOp_read (hr.kImage hx hin) _).trans ?_
  dsimp only
  rw [ht]
  exact (congrArg (segOp gd s) (if_neg hok)).trans (hr.segOp_ok hg (State.updateK_keepsSets _ _ _ _))

theorem execKload_bad (hbad : KType.ofCode h.type = none ∨ h.unloadable) :
    exec (.kload gd k y o) s = .next (s.halt (s.trapHere illegalOp 4 0)) := by
  subst hh
  refine (segOp_read (State.hazard_of_readK hk) _).trans <| (segOp_read (hr.kImage hx hin) _).trans ?_
  dsimp only
  split
  · exact segOp_halt hg _
  next t ht =>
    have hu := hbad.resolve_left fun h => by simp [h] at ht
    exact (congrArg (segOp gd s) (if_pos hu)).trans (segOp_halt hg _)

theorem execKmrgs_eq (hok : ¬ h.unlike l) : exec (.kmrgs gd k y o) s = .next ((s.useSeg id g).updateK k (.merge s.exposed
    (imageEntries (s.ccs.segRead id (s.stepped x) 520) h.len) h.nanDropped) 6) := by
  subst hh
  exact (segOp_read hk _).trans <| (segOp_read (hr.kImage hx hin) _).trans <|
    (congrArg (segOp gd s) (if_neg hok)).trans (hr.segOp_ok hg (State.updateK_keepsSets _ _ _ _))

theorem execKmrgs_bad (hbad : h.unlike l) : exec (.kmrgs gd k y o) s = .next (s.halt (s.trapHere illegalOp 4 0)) := by
  subst hh
  exact (segOp_read hk _).trans <| (segOp_read (hr.kImage hx hin) _).trans <|
    (congrArg (segOp gd s) (if_pos hbad)).trans (segOp_halt hg _)

end

end Sys2Proof.Machine
end

section
/-!
PROOFS. O44: PGET and PPUT (R181, R271, R272, R274), and the statement itself.
-/
namespace Sys2Proof.Machine

/-! ### Effects on a core that keep the sets (R285) -/

theorem State.modCcs_keepsSets (s : State) (f : CoreState → CoreState) (hs : ∀ l, (f s.ccs).setSum l = s.ccs.setSum l)
    (hq : (f s.ccs).quota = s.ccs.quota) : s.keepsSets (s.modCcs f) := by
  have hc : (s.modCcs f).ccs = f s.ccs := State.cs_modCS _ _ _
  exact ⟨rfl, fun l => by rw [hc, hs], by rw [hc, hq]⟩

theorem CoreState.pipeTake_rest (v : CoreState) (n : Nat) (p : Pipe) (rest : List (Option VReg)) :
    (v.pipeTake n p rest).segs = v.segs ∧ (v.pipeTake n p rest).quota = v.quota := by
  unfold CoreState.pipeTake
  dsimp only
  split <;> exact ⟨rfl, rfl⟩

/-- A core after PPUT: the pipe's segment is dirty, the element stands last, and the loader's put is noted (R181, R274). -/
def CoreState.pipePut (v : CoreState) (n id : Nat) (e : Pipe) (q : VReg) (ctx : Nat) : CoreState :=
  { v.modSeg id fun g => { g with dirty := true } with
    pipes := (v.modSeg id fun g => { g with dirty := true }).pipes.setIfInBounds n
      { e with elems := e.elems ++ [some q], writer := some ctx }
    gang := (v.modSeg id fun g => { g with dirty := true }).gang.map fun q => { q with put := q.put || (q.stopping && ctx == 0) } }

section
variable {v : CoreState} {id : Nat} {g : Seg} (hs : v.seg id = some g) (n : Nat) (e : Pipe) (q : VReg) (ctx : Nat)
include hs

theorem CoreState.pipePut_keepsSets : (∀ l, (v.pipePut n id e q ctx).setSum l = v.setSum l)
    ∧ (v.pipePut n id e q ctx).quota = v.quota := by
  have hm : v.modSeg id (fun g => { g with dirty := true }) = { v with segs := v.segs.put id { g with dirty := true } } := by
    unfold CoreState.modSeg
    rw [show v.segs.get id = some g from hs]
  unfold CoreState.pipePut
  rw [hm]
  exact ⟨fun l => (CoreState.setSum_congr rfl l).trans (CoreState.setSum_put v id g { g with dirty := true } hs rfl rfl l), rfl⟩

end

/-! ### The pipe of a number (R272) -/

section
variable {s : State} {p : BitVec 3} {e : Pipe} (hp : s.ccs.pipes[p.toNat]? = some e)
include hp

theorem State.pipeHere_unbound (he : e.seg = none) :
    s.pipeHere p = .error (s.trapHere segUndefined 0 ((Config.openValue 0).toNat % 256)) := by
  simp [State.pipeHere, hp, he]

theorem State.pipeHere_bound {id : Nat} {g : Seg} (he : e.seg = some id) (hs : s.ccs.seg id = some g) :
    s.pipeHere p = .ok (e, s.useSeg id g) := by
  simp [State.pipeHere, hp, he, hs]

end

/-! ### The instructions -/

section
variable {s : State} {gd : BitVec 4} {p : BitVec 3} {v : BitVec 5} {e : Pipe} {id : Nat} {g : Seg} {q : VReg}
  (hg : s.readP gd.toNat = .ok true) (hp : s.pipeHere p = .ok (e, s.useSeg id g))
include hg hp

theorem execPget_blocked (h : e.elems = [] ∨ ∃ r, e.elems = none :: r) :
    exec (.pget gd v p) s = .next (s.halt (.blocked (.pipeGet p.toNat))) := by
  refine (segOp_read hp _).trans ?_
  rcases h with h | ⟨r, h⟩
  all_goals
    dsimp only
    rw [h]
    exact segOp_halt hg _

theorem execPput_blocked (hq : s.readV v = .ok q) (h : e.cap ≤ e.count) :
    exec (.pput gd v p) s = .next (s.halt (.blocked (.pipePut p.toNat))) := by
  refine (segOp_read hq _).trans <| (segOp_read hp _).trans ?_
  exact (congrArg (segOp gd s) (if_pos h)).trans (segOp_halt hg _)

variable (ha : (s.useSeg id g).issue.absent = false) (hsum : s.ccs.issueSum (s.useSeg id g).issue ≤ s.ccs.quota)
include ha hsum

theorem execPget_eq {w : VReg} {r : List (Option VReg)} (h : e.elems = some w :: r) : exec (.pget gd v p) s
    = .next (((s.useSeg id g).modCcs fun c => c.pipeTake p.toNat e r).loadResult .segment (s.vDest v (BitVec.allOnes 64) w) 0 0) := by
  obtain ⟨hs, hquota⟩ := CoreState.pipeTake_rest (s.useSeg id g).ccs p.toNat e r
  refine (segOp_read hp _).trans ?_
  dsimp only
  rw [h]
  exact segOp_ok hg ha hsum ((State.modCcs_keepsSets _ _ (CoreState.setSum_congr hs) hquota).trans (State.loadResult_keepsSets _ _ _ _ _))

theorem execPput_eq (he : e.seg = some id) (hs : s.ccs.seg id = some g) (hq : s.readV v = .ok q) (h : e.count < e.cap) :
    exec (.pput gd v p) s = .next ((s.useSeg id g).modCcs fun c => c.pipePut p.toNat id e q s.ictx) := by
  obtain ⟨hsets, hquota⟩ := CoreState.pipePut_keepsSets (v := (s.useSeg id g).ccs) hs p.toNat e q s.ictx
  have ht := segOp_ok hg ha hsum (State.modCcs_keepsSets (s.useSeg id g) (fun c => c.pipePut p.toNat id e q s.ictx) hsets hquota)
  refine (segOp_read hq _).trans <| (segOp_read hp _).trans ?_
  refine (congrArg (segOp gd s) (if_neg (Nat.not_le.2 h))).trans ?_
  obtain ⟨⟩ := e
  cases he
  exact ht

end

/-- Settles O44: the images by the header that is read, the pipes by what stands in them. -/
theorem imagesAndPipes : Obligations.ImagesAndPipes := by
  unfold Obligations.ImagesAndPipes
  intro s gd k p y o v l x q hg hk hx hv core off ends
  refine ⟨fun id g hr hs hin => ?images, fun id g hn hallow hs hres hin hf => ?flawed, fun id g hr hb => ?beyond,
    fun e id g hp he hs ha hq => ?pipes, fun e hp he => ?unbound⟩
  case images =>
    intro u bytes h bad
    refine ⟨fun hquiet => execKsave_eq hg hk hx hr hquiet hin, fun t ht h1 h2 h3 h4 => execKload_eq hg hk hx hr hin (h := h) rfl ht ?_,
      execKload_bad hg hk hx hr hin rfl, fun h1 h2 h3 => execKmrgs_eq hg hk hx hr hin (h := h) rfl ?_, execKmrgs_bad hg hk hx hr hin rfl⟩
    · rintro (hz | hz | hz | hz) <;> omega
    · rintro (hz | hz | hz)
      · exact hz h1
      · exact hz h2
      · exact absurd hz (Nat.not_lt.2 h3)
  case flawed =>
    have hfind : s.findSeg y.toNat .access = .ok (id, g) := by simp [State.findSeg, hn, hallow]
    exact ⟨_, (execK_image_error hg hk (State.kImage_flawed hx hfind hs hres hin hf)).1⟩
  case beyond =>
    obtain ⟨hload, hmerge⟩ := execK_image_error hg hk (hr.kImage_beyond hx hb)
    exact ⟨execKsave_beyond hg hk hx hr hb, hload, hmerge⟩
  case pipes =>
    intro u
    have hh := State.pipeHere_bound hp he hs
    refine ⟨fun w r h => execPget_eq hg hh ha hq h, execPget_blocked hg hh,
      fun h => ⟨_, execPput_eq hg hh ha hq he hs hv h, ?_, rfl, rfl⟩,
      execPput_blocked hg hh hv⟩
    have hc : ((s.useSeg id g).modCcs fun c => c.pipePut p.toNat id e q s.ictx).ccs = s.ccs.pipePut p.toNat id e q s.ictx :=
      State.cs_modCS _ _ _
    rw [hc]
    exact Vector.getElem?_setIfInBounds_self_of_lt p.isLt
  case unbound =>
    have hu := State.pipeHere_unbound hp he
    exact ⟨_, segOp_read_error hg hu _, (segOp_read hv _).trans (segOp_read_error hg hu _)⟩

end Sys2Proof.Machine
end

section
/-!
PROOFS. O45: the commands of the matrix unit at issue (R209, R214 to R221).
-/
namespace Sys2Proof.Machine

/-- An instruction issues a command to the matrix queue, which its context counts in flight. -/
def State.matrixEnters (s : State) (i : Instr) (op : MOp) : Prop :=
  ∃ tag u, exec i s = .next u ∧ u.ccs.mq = s.ccs.mq ++ [⟨tag, s.cycle.toNat, op⟩]
    ∧ tag.id = s.nextId ∧ tag.ctx = s.issue.ctx ∧ tag.signal = s.issue.signal
    ∧ u.cx.inflight = s.cx.inflight ++ [s.nextId] ∧ u.mem = s.mem

/-! ### The checks at issue -/

section
variable {s : State} {name id extent : Nat} {g : Seg}

theorem State.mRoom_ok (h : s.ccs.mq.length < 16) : s.mRoom = .ok () := if_neg (Nat.not_le.2 h)

theorem State.mRoom_full (h : 16 ≤ s.ccs.mq.length) : s.mRoom = .error (.blocked .queueFull) := if_pos h

theorem State.mSeg_within (hf : s.findSeg name .engine = .ok (id, g)) (hb : extent ≤ 256 * g.len) : s.mSeg name extent = .ok id := by
  unfold State.mSeg
  rw [hf]
  exact if_neg (Nat.not_lt.2 hb)

theorem State.mSeg_beyond (hf : s.findSeg name .engine = .ok (id, g)) (hb : 256 * g.len < extent) :
    s.mSeg name extent = .error (s.trapHere segBound 0 name) := by
  unfold State.mSeg
  rw [hf]
  exact if_pos hb

theorem streamOk_iff {k c : Nat} : streamOk k c = true
    ↔ 1 ≤ k ∧ k ≤ 256 ∧ bitsOf c 7 0 + k ≤ 256 ∧ bitsOf c 15 12 = 0 ∧ bitsOf c 63 23 = 0 := by
  simp [streamOk, and_assoc]

end

/-! ### The entry in the queue -/

theorem State.mEnter_ccs (s : State) (op : MOp) : ∃ tk, (s.mEnter op).ccs
    = { (s.ccs.setCtx s.issue.ctx { s.cx with inflight := s.cx.inflight ++ [s.nextId] }) with
        tickets := tk
        mq := s.ccs.mq ++ [⟨s.command.2, s.cycle.toNat, op⟩] } := by
  obtain ⟨tk, h⟩ := s.command_ccs
  exact ⟨tk, (State.cs_modCS _ _ _).trans
    (congrArg (fun v : CoreState => { v with mq := v.mq ++ [(⟨s.command.2, s.cycle.toNat, op⟩ : MCmd)] }) h)⟩

section
variable {s : State} {gd : BitVec 4} (hg : s.readP gd.toNat = .ok true) (hk : s.issue.ctx < 4)
include hg hk

/-- A command behind the segments it names, which are resident and within SGQUOTA, stands in the queue. -/
theorem segOp_mEnter {i : Instr} {op : MOp} (f : Issue → Issue)
    (hf : (f s.issue).core = s.issue.core ∧ (f s.issue).ctx = s.issue.ctx ∧ (f s.issue).signal = s.issue.signal)
    (ha : (f s.issue).absent = false) (hq : s.ccs.issueSum (f s.issue) ≤ s.ccs.quota)
    (hi : exec i s = segOp gd s (.ok ((s.modIssue f).mEnter op))) : s.matrixEnters i op := by
  obtain ⟨hcore, hctx, hsignal⟩ := hf
  have hccs : (s.modIssue f).ccs = s.ccs := congrArg s.cs hcore
  have hcx : (s.modIssue f).cx = s.cx := by
    change (s.modIssue f).ccs.ctx (f s.issue).ctx = _
    rw [hccs, hctx]
    rfl
  obtain ⟨tk, hu⟩ := (s.modIssue f).mEnter_ccs op
  have hctx' : ((s.modIssue f).mEnter op).issue.ctx = s.issue.ctx := by
    obtain ⟨b, hb⟩ := (s.modIssue f).command_issue
    exact (congrArg Issue.ctx hb).trans hctx
  refine ⟨(s.modIssue f).command.2, (s.modIssue f).mEnter op, ?_, ?_, rfl, hctx, hsignal, ?_, ?_⟩
  · rw [hi, segOp_true hg]
    exact State.command_settles (fun t v => { v with mq := v.mq ++ [⟨t, s.cycle.toNat, op⟩] }) ha (by rw [hccs]; exact hq)
      fun _ _ _ => ⟨rfl, rfl⟩
  · rw [hu]
    exact congrArg (fun v : CoreState => v.mq ++ _) hccs
  · change (((s.modIssue f).mEnter op).ccs.ctx ((s.modIssue f).mEnter op).issue.ctx).inflight = _
    rw [hctx', hu, hcx]
    change ((((s.modIssue f).ccs.setCtx (f s.issue).ctx _).ctx s.issue.ctx)).inflight = _
    rw [hctx, CoreState.ctx_setCtx _ hk]
    rfl
  · exact (State.command_mem _ :)

/-- The last check of a command on a segment is that of its bound (R221). -/
theorem segOp_mSeg {i : Instr} {name extent id : Nat} {g : Seg} {op : Nat → MOp} (hf : s.findSeg name .engine = .ok (id, g))
    (ha : s.issue.absent = false) (hq : s.ccs.issueSum (s.useSegLater id).issue ≤ s.ccs.quota)
    (hi : exec i s = segOp gd s (s.mSeg name extent >>= fun id => .ok ((s.useSegLater id).mEnter (op id)))) :
    (extent ≤ 256 * g.len → s.matrixEnters i (op id))
    ∧ (256 * g.len < extent → exec i s = .next (s.halt (.trap 7 0 s.issue.slot.number name))) := by
  refine ⟨fun hb => ?_, fun hb => ?_⟩
  · exact segOp_mEnter hg hk (fun i => { i with cmdSet := addTo i.cmdSet id }) ⟨rfl, rfl, rfl⟩ ha hq
      (hi.trans (segOp_read (State.mSeg_within hf hb) _))
  · exact hi.trans (segOp_read_error hg (State.mSeg_beyond hf hb) _)

end

/-! ### The instructions -/

section
variable {s : State} {gd : BitVec 4} {o : BitVec 6} {x n st ctl : X64} (hroom : s.ccs.mq.length < 16) (hx : s.readX o = .ok x)
include hroom hx

theorem execMwld_eq (y : BitVec 8) (p : BitVec 1) (f : BitVec 3) : exec (.mwld gd y o p f) s
    = segOp gd s (s.mSeg y.toNat (s.stepped x + (MFmt.ofCode f).imageBytes) >>= fun id =>
      .ok ((s.useSegLater id).mEnter (.mwld p.toNat (MFmt.ofCode f) id (s.stepped x) s.ccs.ct.toList))) :=
  (segOp_read (State.mRoom_ok hroom) _).trans (segOp_read hx _)

variable (hn : s.readX (o + 1) = .ok n) (hst : s.readX (o + 2) = .ok st)
include hn hst

/-- MOUT with accepted rows. -/
theorem execMout_eq (y : BitVec 8) (t : BitVec 2) (c : BitVec 3) (rm : BitVec 2)
    (hok : 1 ≤ bitsOf n.toNat 16 8 ∧ bitsOf n.toNat 7 0 + bitsOf n.toNat 16 8 ≤ 256 ∧ bitsOf n.toNat 63 17 = 0) :
    exec (.mout gd y o t c rm) s = segOp gd s
      (s.mSeg y.toNat (s.stepped x + (bitsOf n.toNat 16 8 - 1) * st.toNat + 128 * drainWidth c.toNat) >>= fun id =>
        .ok ((s.useSegLater id).mEnter (.mout t.toNat id (s.stepped x) (bitsOf n.toNat 7 0) (bitsOf n.toNat 16 8) st.toNat c.toNat
          (rmOf rm)))) := by
  refine (segOp_read (State.mRoom_ok hroom) _).trans ((segOp_read hx _).trans ((segOp_read hn _).trans ((segOp_read hst _).trans ?_)))
  exact congrArg (segOp gd s) (if_neg (by omega))

/-- MOUT with rows that are refused (R219). -/
theorem execMout_traps (hg : s.readP gd.toNat = .ok true) (y : BitVec 8) (t : BitVec 2) (c : BitVec 3) (rm : BitVec 2)
    (hbad : ¬ (1 ≤ bitsOf n.toNat 16 8 ∧ bitsOf n.toNat 7 0 + bitsOf n.toNat 16 8 ≤ 256 ∧ bitsOf n.toNat 63 17 = 0)) :
    exec (.mout gd y o t c rm) s = .next (s.halt (.trap 2 1 s.issue.slot.number 0)) := by
  refine (segOp_read (State.mRoom_ok hroom) _).trans ((segOp_read hx _).trans ((segOp_read hn _).trans ((segOp_read hst _).trans ?_)))
  exact (congrArg (segOp gd s) (if_pos (by omega))).trans (segOp_halt hg _)

variable (hc : s.readX (o + 3) = .ok ctl)
include hc

/-- MSTR up to its check of the operands. -/
theorem execMstr_eq (y : BitVec 8) (t : BitVec 2) (a p : BitVec 1) (f : BitVec 3) : exec (.mstr gd y o t a p f) s = segOp gd s
    (if !streamOk n.toNat ctl.toNat || bitsOf ctl.toNat 22 16 != 0 then .error (s.trapHere illegalOp operandDetail 0)
    else s.mSeg y.toNat (s.stepped x + (n.toNat - 1) * st.toNat + (MFmt.ofCode f).rowBytes (s.ccs.latestFmt p.toNat).depth) >>= fun id =>
      .ok ((s.useSegLater id).mEnter (.mstr t.toNat p.toNat (a == 1) (MFmt.ofCode f) id (s.stepped x) n.toNat st.toNat
        (bitsOf ctl.toNat 7 0) (bitsOf ctl.toNat 11 8) s.ccs.ct.toList))) :=
  (segOp_read (State.mRoom_ok hroom) _).trans ((segOp_read hx _).trans ((segOp_read hn _).trans ((segOp_read hst _).trans
    (segOp_read hc _))))

/-- MRANK up to its check of the operands. -/
theorem execMrank_eq (y : BitVec 8) (t : BitVec 2) (f : BitVec 3) : exec (.mrank gd y o t f) s = segOp gd s
    (if !streamOk n.toNat ctl.toNat then .error (s.trapHere illegalOp operandDetail 0)
    else s.mSeg y.toNat (s.stepped x + (n.toNat - 1) * st.toNat + (MFmt.ofCode f).rowBytes (bitsOf ctl.toNat 22 16 + 1)) >>= fun id =>
      .ok ((s.useSegLater id).mEnter (.mrank t.toNat (MFmt.ofCode f) id (s.stepped x) n.toNat st.toNat (bitsOf ctl.toNat 7 0)
        (bitsOf ctl.toNat 11 8) (bitsOf ctl.toNat 22 16 + 1)))) :=
  (segOp_read (State.mRoom_ok hroom) _).trans ((segOp_read hx _).trans ((segOp_read hn _).trans ((segOp_read hst _).trans
    (segOp_read hc _))))

end

/-- The full queue blocks. -/
theorem segOp_mRoom_full {s : State} {gd : BitVec 4} (hg : s.readP gd.toNat = .ok true) (h : 16 ≤ s.ccs.mq.length)
    (f : Unit → Except Halt State) : segOp gd s (s.mRoom >>= f) = .next (s.halt (.blocked .queueFull)) :=
  segOp_read_error hg (State.mRoom_full h) f

theorem State.ccs_modCcs (s : State) (f : CoreState → CoreState) : (s.modCcs f).ccs = f s.ccs := State.cs_modCS _ _ _

/-- A command without a ticket that completes at issue leaves the matrix unit and memory. -/
theorem State.completeNow_matrix (s : State) : (s.completeNow false).ccs.latchWrites = s.ccs.latchWrites
    ∧ (s.completeNow false).mem = s.mem ∧ (s.completeNow false).ccs.mq = s.ccs.mq := by
  unfold State.completeNow
  dsimp only
  split
  · exact ⟨rfl, rfl, rfl⟩
  · exact ⟨by rw [State.ccs_modCcs]; rfl, rfl, by rw [State.ccs_modCcs]; rfl⟩

/-- MSCL's write waits for its cycle in the latches (R216; log 40). -/
theorem execMscl_latches {s : State} {gd : BitVec 4} {o : BitVec 6} {x : X64} (hg : s.readP gd.toNat = .ok true) (hx : s.readX o = .ok x)
    (h : BitVec 1) : ∃ u, exec (.mscl gd o h) s = .next u
      ∧ u.ccs.latchWrites = s.ccs.latchWrites ++ [(s.cycle.toNat, 8 * h.toNat, x)] ∧ u.mem = s.mem ∧ u.ccs.mq = s.ccs.mq := by
  obtain ⟨h1, h2, h3⟩ := State.completeNow_matrix
    (s.modCcs fun w => { w with latchWrites := w.latchWrites ++ [(s.cycle.toNat, 8 * h.toNat, x)] })
  rw [State.ccs_modCcs] at h1 h3
  exact ⟨_, slotOp_read1 hg hx _, h1, h2, h3⟩

/-- Settles O45: reads of the operands, then the check of the operands, then that of the bound, then the entry. -/
theorem matrixCommandResults : Obligations.MatrixCommandResults := by
  unfold Obligations.MatrixCommandResults
  intro s gd y o t h a p f c rm x hg hx hk now off fmt ct full enters traps reaches
  have isfull : ∀ hq : 16 ≤ s.ccs.mq.length, ∀ f, segOp gd s (s.mRoom >>= f) = .next (s.halt (.blocked .queueFull)) := segOp_mRoom_full hg
  refine ⟨fun hq => isfull hq _, fun hq => isfull hq _, fun hq => isfull hq _, fun hq => isfull hq _, fun hq => isfull hq _,
    execMscl_latches hg hx h, fun hroom => ⟨fun ha hq => ?zero, fun id g ⟨hf, ha, hq⟩ => ?load, ?_⟩⟩
  case zero => exact segOp_mEnter hg hk id ⟨rfl, rfl, rfl⟩ ha hq (segOp_read (State.mRoom_ok hroom) _)
  case load => exact segOp_mSeg hg hk hf ha hq (execMwld_eq hroom hx y p f)
  intro n st ctl hn hst k stride cw row0 delay e good row first rows goodOut last
  refine ⟨fun id g ⟨hf, ha, hq⟩ hok => ?out, fun hbad => ?outBad, fun hc => ⟨fun id g ⟨hf, ha, hq⟩ hok => ?stream, fun hbad => ?mstrBad,
    fun hbad => ?mrankBad⟩⟩
  case out => exact segOp_mSeg hg hk hf ha hq (execMout_eq hroom hx hn hst y t c rm hok)
  case outBad => exact execMout_traps hroom hx hn hst hg y t c rm hbad
  case stream =>
    have hs : streamOk k cw = true := streamOk_iff.2 hok
    have mstr := fun he : e = 0 => segOp_mSeg hg hk hf ha hq
      ((execMstr_eq hroom hx hn hst hc y t a p f).trans (congrArg (segOp gd s) (if_neg (by simp [hs, he, cw, k, e]))))
    have mrank := segOp_mSeg hg hk hf ha hq
      ((execMrank_eq hroom hx hn hst hc y t f).trans (congrArg (segOp gd s) (if_neg (by simp [hs, cw, k]))))
    exact ⟨fun he => (mstr he).1, fun he => (mstr he).2, mrank.1, mrank.2⟩
  case mstrBad =>
    have hs : (!streamOk k cw || bitsOf cw 22 16 != 0) = true := by
      rw [Bool.or_eq_true, Bool.not_eq_true', bne_iff_ne, ← Bool.not_eq_true, streamOk_iff]
      exact Decidable.not_and_iff_or_not.1 hbad
    exact (execMstr_eq hroom hx hn hst hc y t a p f).trans ((congrArg (segOp gd s) (if_pos hs)).trans (segOp_halt hg _))
  case mrankBad =>
    have hs : (!streamOk k cw) = true := by
      rw [Bool.not_eq_true', ← Bool.not_eq_true, streamOk_iff]
      exact hbad
    exact (execMrank_eq hroom hx hn hst hc y t f).trans ((congrArg (segOp gd s) (if_pos hs)).trans (segOp_halt hg _))

end Sys2Proof.Machine
end

section
/-!
PROOFS. O11: what leaves memory as it stands.
-/
namespace Sys2Proof.Machine

/-- Steps that leave memory leave it in turn. -/
@[simp] theorem State.foldl_mem {β : Type} (f : State → β → State) (l : List β) (s : State) (hf : ∀ t b, (f t b).mem = t.mem) :
    (l.foldl f s).mem = s.mem := by
  induction l generalizing s with
  | nil => rfl
  | cons b r ih => exact (ih _).trans (hf _ _)

section
variable (s : State)

@[simp] theorem State.modPart_mem (core part : Nat) (f : CoreState → CoreState) : (s.modPart core part f).mem = s.mem := rfl

@[simp] theorem State.arriveLanding_mem (key : BarKey) (id core : Nat) : (s.arriveLanding key id core).mem = s.mem := by
  unfold State.arriveLanding
  dsimp only
  (repeat' split) <;> rfl

@[simp] theorem State.releaseAll_mem (n : Nat) : (State.releaseAll n s).mem = s.mem := by
  induction n generalizing s with
  | zero => rfl
  | succ n ih =>
    unfold State.releaseAll
    split
    · rfl
    · exact (ih _).trans (s.release_mem _)

@[simp] theorem State.signal_mem (core part sem inc : Nat) : (s.signal core part sem inc).1.mem = s.mem := by
  unfold State.signal
  dsimp only
  (repeat' split) <;> rfl

@[simp] theorem State.announce_mem (place : NewsAt) (packets : List (Nat × Nat)) :
    (s.announce place packets).mem = s.mem := rfl

@[simp] theorem State.siteTouch_mem (loc : Nat) (write : Bool) : (s.siteTouch loc write).mem = s.mem := by
  unfold State.siteTouch
  dsimp only
  (repeat' split) <;> rfl

@[simp] theorem State.siteLines_mem (ls : List Nat) (write : Bool) : (s.siteLines ls write).mem = s.mem := by
  simp [State.siteLines]

@[simp] theorem State.lineReport_mem (core loc : Nat) : (s.lineReport core loc).mem = s.mem := by
  unfold State.lineReport
  split <;> simp

@[simp] theorem State.post_mem (quad part : Nat) (bits : BitVec 512) : (s.post quad part bits).mem = s.mem := rfl

@[simp] theorem State.postOrWait_mem (quad part : Nat) (bits : BitVec 512) : (s.postOrWait quad part bits).mem = s.mem := by
  unfold State.postOrWait
  dsimp only
  (repeat' split) <;> rfl

@[simp] theorem State.actionNotice_mem (part core : Nat) (landing : Bool) (cause id tkid addr : Nat) :
    (s.actionNotice part core landing cause id tkid addr).mem = s.mem := by
  simp [State.actionNotice]

@[simp] theorem State.setCounter_mem (id core : Nat) (l : Landing) : (s.setCounter id core l).mem = s.mem := by
  unfold State.setCounter
  split <;> rfl

@[simp] theorem State.setCounterOf_mem (id core part : Nat) (l : Landing) : (s.setCounterOf id core part l).mem = s.mem := by
  unfold State.setCounterOf
  split <;> simp

@[simp] theorem State.landingFailed_mem (id : Nat) (l : Landing) (cause addr : Nat) (afail : Bool) :
    (s.landingFailed id l cause addr afail).mem = s.mem := by
  unfold State.landingFailed
  split <;> simp

@[simp] theorem State.putSeg_mem (core seg off : Nat) (bs : List Byte) (skip : Option Nat) :
    (s.putSeg core seg off bs skip).mem = s.mem :=
  rfl

@[simp] theorem State.landingNoRoom_mem (id core : Nat) :
    (s.landingNoRoom id core).mem = s.mem := by simp [State.landingNoRoom]

@[simp] theorem State.landingSegWrite_mem (id core seg : Nat) (off : Int) (v : X64) :
    (s.landingSegWrite id core seg off v).mem = s.mem := by
  unfold State.landingSegWrite
  (repeat' split) <;> simp

@[simp] theorem State.announceWords_mem (ls : List Nat) (packets : List (Nat × Nat)) :
    (s.announceWords ls packets).mem = s.mem := by
  unfold State.announceWords
  exact State.foldl_mem _ _ _ fun _ _ => rfl

@[simp] theorem State.spoil_mem (core die : Option Nat) (line : Nat) : (s.spoil core die line).mem = s.mem := rfl

@[simp] theorem State.spoilAll_mem (ls : List Nat) : (s.spoilAll ls).mem = s.mem :=
  (s.spoilAll_noted ls 0).2.1

@[simp] theorem State.transfer_mem (target : Nat) : (s.transfer target).mem = s.mem := rfl

@[simp] theorem State.afterwards_mem (a : After) : (s.afterwards a).mem = s.mem := rfl

@[simp] theorem State.refetch_mem : s.refetch.mem = s.mem := rfl

@[simp] theorem State.loadEnters_mem (kind : LoadKind) (dests : List (Reg × RegVal)) (due phys : Nat) (err : Bool) :
    (s.loadEnters kind dests due phys err).mem = s.mem := by
  unfold State.loadEnters
  split <;> rfl

@[simp] theorem State.loadResult_mem (kind : LoadKind) (dests : List (Reg × RegVal)) (due phys : Nat) :
    (s.loadResult kind dests due phys).mem = s.mem := by
  simp [State.loadResult]

@[simp] theorem State.arriveBar_mem (core k : Nat) (a : Arrival) : (s.arriveBar core k a).mem = s.mem := rfl

@[simp] theorem State.forgetSem_mem (core n : Nat) : (s.forgetSem core n).mem = s.mem := rfl

@[simp] theorem State.observeWords_mem (core k : Nat) (ls : List Nat) : (s.observeWords core k ls).mem = s.mem := rfl

@[simp] theorem State.dieTouch_mem (die loc : Nat) (write : Bool) : (s.dieTouch die loc write).mem = s.mem := by
  unfold State.dieTouch
  dsimp only
  (repeat' split) <;> simp

@[simp] theorem State.fillTlb_mem (core : Nat) (e : TlbEntry) : (s.fillTlb core e).mem = s.mem := rfl

@[simp] theorem State.fillLine_mem (core : Nat) (e : L1Line) : (s.fillLine core e).mem = s.mem := rfl

@[simp] theorem State.missLine_mem (core va loc : Nat) (write : Bool) : (s.missLine core va loc write).mem = s.mem := by
  unfold State.missLine
  dsimp only
  (repeat' split) <;> simp

@[simp] theorem State.touchLine_mem (core va loc : Nat) (write : Bool) : (s.touchLine core va loc write).mem = s.mem := by
  unfold State.touchLine
  (repeat' split) <;> simp

@[simp] theorem State.touch_mem (core : Nat) (lines : List (Nat × Nat)) (write : Bool) :
    (s.touch core lines write).mem = s.mem := by
  simp [State.touch]

@[simp] theorem State.touchAll_mem (core va n : Nat) (ls : List Nat) (write : Bool) :
    (s.touchAll core va n ls write).mem = s.mem := by
  unfold State.touchAll
  split <;> simp

@[simp] theorem State.loadOf_mem (bad : Option Nat) (dests : List (Reg × RegVal)) (phys : Nat) (vas ls : List Nat) :
    (s.loadOf bad dests phys vas ls).mem = s.mem := by
  unfold State.loadOf
  split <;> simp

@[simp] theorem State.globalLoad_mem (dests : List (Reg × RegVal)) (phys : Nat) (vas ls : List Nat) :
    (s.globalLoad dests phys vas ls).mem = s.mem := by
  simp [State.globalLoad]

@[simp] theorem State.useSeg_mem (id : Nat) (g : Seg) : (s.useSeg id g).mem = s.mem := rfl

@[simp] theorem State.postInc_mem (o : BitVec 6) (x : X64) (n : BitVec 1) (size : Nat) :
    (s.postInc o x n size).mem = s.mem := by
  unfold State.postInc
  split <;> simp

@[simp] theorem State.updateK_mem (n : BitVec 3) (u : KUpdate) (lat : Nat) : (s.updateK n u lat).mem = s.mem := rfl

@[simp] theorem State.insertK_mem (k : BitVec 3) (cs : List KEntry) : (s.insertK k cs).mem = s.mem := rfl

@[simp] theorem State.postStep_mem (o : BitVec 6) (x : X64) (m : BitVec 2) : (s.postStep o x m).mem = s.mem := by
  unfold State.postStep
  split <;> simp

@[simp] theorem State.mEnter_mem (op : MOp) : (s.mEnter op).mem = s.mem := by simp [State.mEnter]

@[simp] theorem State.useSegLater_mem (id : Nat) : (s.useSegLater id).mem = s.mem := rfl

@[simp] theorem State.completeNow_mem (ticket : Bool) : (s.completeNow ticket).mem = s.mem := by
  unfold State.completeNow
  (repeat' split) <;> rfl

@[simp] theorem State.useSegOpt_mem (id : Option Nat) : (s.useSegOpt id).mem = s.mem := by
  unfold State.useSegOpt
  split <;> rfl

@[simp] theorem State.outEnter_mem (op : PierOp) (piers : List Nat) : (s.outEnter op piers).mem = s.mem := by
  simp [State.outEnter]

@[simp] theorem State.smEnter_mem (op : SmOp) (before : List Nat) :
    (s.smEnter op before).mem = s.mem := by simp [State.smEnter]

@[simp] theorem State.arm_mem (id : Nat) (l : Landing) : (s.arm id l).mem = s.mem := by simp [State.arm]

@[simp] theorem State.modPierHere_mem (f : Pier → Pier) : (s.modPierHere f).mem = s.mem := rfl

@[simp] theorem State.beginDrain_mem (core : Nat) : (s.beginDrain core).mem = s.mem := rfl

@[simp] theorem State.overrun_mem (core k : Nat) : (s.overrun core k).mem = s.mem := by simp [State.overrun]

@[simp] theorem State.withdraw_mem (core k : Nat) (a : Arrival) : (s.withdraw core k a).mem = s.mem := by
  unfold State.withdraw
  dsimp only
  (repeat' split) <;> rfl

@[simp] theorem State.complete_mem (core part : Nat) (tag : CmdTag) : (s.complete core part tag).mem = s.mem := by
  unfold State.complete
  split <;> simp

@[simp] theorem State.beginPacket_mem (core : Nat) (p : FPacket) : (s.beginPacket core p).mem = s.mem := rfl

@[simp] theorem State.ringReport_mem (core r : Nat) : (s.ringReport core r).mem = s.mem := by
  unfold State.ringReport
  (repeat' split) <;> simp

@[simp] theorem State.engineTouch_mem (core : Nat) (write : Bool) (last : Option Nat) (ls : List Nat) :
    (s.engineTouch core write last ls).mem = s.mem := by
  induction ls generalizing s last with
  | nil => rfl
  | cons l r ih =>
    unfold State.engineTouch
    rw [ih]
    split <;> split <;> simp

@[simp] theorem State.setFerry_mem (core : Nat) (r : Option FRun) : (s.setFerry core r).mem = s.mem := rfl

@[simp] theorem State.holdPins_mem (ts : List (Nat × Nat)) (on parks : Bool) : (s.holdPins ts on parks).mem = s.mem := by
  unfold State.holdPins
  exact State.foldl_mem _ _ _ fun _ _ => rfl

@[simp] theorem State.dropFar_mem (r : FRun) (f : Ticket → Bool) : (s.dropFar r f).mem = s.mem := by
  unfold State.dropFar
  exact State.foldl_mem _ _ _ fun _ _ => rfl

@[simp] theorem State.ferryEnd_mem (core : Nat) (r : FRun) (status cause : Nat) :
    (s.ferryEnd core r status cause).mem = s.mem := by
  simp [State.ferryEnd]

@[simp] theorem State.ferryPost_mem (part : Nat) (d : FDone) (told : List (Nat × Nat)) :
    (s.ferryPost part d told).1.mem = s.mem := by
  unfold State.ferryPost
  dsimp only
  (repeat' split) <;> simp

@[simp] theorem State.announceEnd_mem (core part : Nat) (p : FPacket) (ls : List Nat) (told : List (Nat × Nat)) :
    (s.announceEnd core part p ls told).mem = s.mem := by
  unfold State.announceEnd
  dsimp only
  (repeat' split) <;> simp

@[simp] theorem State.deliver_mem (c : PierCmd) (l : List Nat) : (s.deliver c l).1.mem = s.mem := by
  induction l generalizing s with
  | nil => rfl
  | cons u r ih =>
    unfold State.deliver
    split
    · rfl
    · exact ih _

@[simp] theorem State.smFault_mem (core cause addr phys : Nat) (m : SmMove) :
    (s.smFault core cause addr phys m).mem = s.mem := by
  simp [State.smFault]

@[simp] theorem State.smDone_mem (core : Nat) (r : SmReq) : (s.smDone core r).mem = s.mem := by simp [State.smDone]

@[simp] theorem State.startPart_mem (core k task bits : Nat) (lo hi : X64) (entry : Nat) :
    (s.startPart core k task bits lo hi entry).mem = s.mem :=
  rfl

@[simp] theorem State.takeRecord_mem (quad idx : Nat) (r : QueueRec) : (s.takeRecord quad idx r).1.mem = s.mem := rfl

@[simp] theorem State.startGang_mem (core idx : Nat) (r : QueueRec) : (s.startGang core idx r).mem = s.mem := rfl

@[simp] theorem State.split_mem (core k : Nat) (vic : Nat × Nat) : (s.split core k vic).mem = s.mem := by
  unfold State.split
  dsimp only
  (repeat' split) <;> rfl

@[simp] theorem State.putLaunchWord_mem (core : Nat) (word : X64) : (s.putLaunchWord core word).mem = s.mem := rfl

@[simp] theorem State.acceptFeatures_mem (v : BitVec 128) : (s.acceptFeatures v).mem = s.mem := by
  unfold State.acceptFeatures
  split <;> rfl

@[simp] theorem State.ringDoorbell_mem (v : Nat) : (s.ringDoorbell v).mem = s.mem := by
  unfold State.ringDoorbell
  split <;> rfl

@[simp] theorem State.releaseNotices_mem : s.releaseNotices.mem = s.mem := by simp [State.releaseNotices]

@[simp] theorem State.ackNotices_mem (nrd : BitVec 16) : (s.ackNotices nrd).mem = s.mem := by simp [State.ackNotices]

@[simp] theorem State.sendPending_mem : s.sendPending.mem = s.mem :=
  State.foldl_mem _ _ _ fun t b => by dsimp only; split <;> rfl

@[simp] theorem State.winStoreIn_mem (lo hi off : Nat) (bs : List Byte) : (s.winStoreIn lo hi off bs).mem = s.mem := rfl

@[simp] theorem State.sendReply_mem (status detail : Nat) : (s.sendReply status detail).mem = s.mem := rfl

@[simp] theorem State.answer_mem (status : Nat) (detail : Option Nat) : (s.answer status detail).mem = s.mem := rfl

@[simp] theorem State.addCore_mem (r : PartRequest) (i c : Nat) : (s.addCore r i c).mem = s.mem := rfl

@[simp] theorem State.shootdown_mem (asid base len : Nat) : (s.shootdown asid base len).mem = s.mem := rfl

@[simp] theorem State.disarmAll_mem (l : List Nat) : (s.disarmAll l).mem = s.mem :=
  State.foldl_mem _ _ _ fun t b => by dsimp only; split <;> simp

@[simp] theorem State.setFrozen_mem (part core k : Nat) (f : Bool) : (s.setFrozen part core k f).mem = s.mem := rfl

@[simp] theorem State.freezeScope_mem (key : BarKey) (f : Bool) : (s.freezeScope key f).mem = s.mem :=
  State.foldl_mem _ _ _ fun _ _ => rfl

@[simp] theorem State.landAllRows_mem (core n : Nat) : (State.landAllRows core n s).mem = s.mem := by
  induction n generalizing s with
  | zero => rfl
  | succ n ih =>
    unfold State.landAllRows
    split
    · rfl
    · rw [ih]
      split <;> simp

@[simp] theorem State.stopCore_mem (core : Nat) : (s.stopCore core).mem = s.mem := by
  unfold State.stopCore
  dsimp only
  (repeat' split) <;> simp

@[simp] theorem State.shadowReport_mem (core : Nat) : (s.shadowReport core).mem = s.mem := by
  unfold State.shadowReport
  (repeat' split) <;> simp

@[simp] theorem State.endPartition_mem (part : Nat) : (s.endPartition part).mem = s.mem := by
  unfold State.endPartition
  split <;> rfl

@[simp] theorem State.hostReply_mem (r : HostReply) : (s.hostReply r).mem = s.mem := rfl

@[simp] theorem State.windowNotice_mem (a part cause va : Nat) : (s.windowNotice a part cause va).mem = s.mem := by
  simp [State.windowNotice]

@[simp] theorem State.hostFail_mem (a : WindowFail) : (s.hostFail a).mem = s.mem := by
  unfold State.hostFail
  split <;> simp

@[simp] theorem State.hostRead_mem (l : List (Nat × Nat)) (acc : List Byte) : (s.hostRead l acc).mem = s.mem := by
  induction l generalizing s acc with
  | nil => rfl
  | cons e r ih =>
    unfold State.hostRead
    (repeat' split) <;> simp [ih]

@[simp] theorem State.endParts_mem (f : Nat → Partition → Bool) : (s.endParts f).mem = s.mem := by simp [State.endParts]

@[simp] theorem State.linkReset_mem : s.linkReset.mem = s.mem := by simp [State.linkReset]

@[simp] theorem State.mgmtReply_mem (b : List Byte) : (s.mgmtReply b).mem = s.mem := rfl

@[simp] theorem State.thermalNotice_mem (die what : Nat) : (s.thermalNotice die what).mem = s.mem := by
  simp [State.thermalNotice]

@[simp] theorem State.logError_mem (code detail : Nat) : (s.logError code detail).mem = s.mem := rfl

@[simp] theorem State.linkNotice_mem (what part n : Nat) :
    (s.linkNotice what part n).mem = s.mem := by simp [State.linkNotice]

@[simp] theorem State.coreCrnWrite_mem (core crn : Nat) (x : X64) : (s.coreCrnWrite core crn x).mem = s.mem := by
  unfold State.coreCrnWrite
  split <;> rfl

@[simp] theorem State.unparkBundle_mem (core k : Nat) : (s.unparkBundle core k).mem = s.mem := by
  unfold State.unparkBundle
  split <;> rfl

@[simp] theorem State.beginIssue_mem (core k : Nat) (b : Bundle) : (s.beginIssue core k b).mem = s.mem := rfl

@[simp] theorem State.syncObserves_mem (core k : Nat) (b : Bundle) : (s.syncObserves core k b).mem = s.mem := by
  unfold State.syncObserves
  (repeat' split) <;> rfl

@[simp] theorem State.slotBegins_mem (x : Ctx) (bcast : X64) (v : SlotView) : (s.slotBegins x bcast v).mem = s.mem := rfl

@[simp] theorem State.parkBundle_mem (core k : Nat) (i : Issue) : (s.parkBundle core k i).mem = s.mem := rfl

@[simp] theorem State.applyWrite_mem (core k : Nat) (a : After) : (State.applyWrite core k s a).mem = s.mem := by
  cases a with
  | cwr crn v => exact s.crnWrite_mem core k crn v
  | _ => rfl

@[simp] theorem State.returnFrom_mem (core k : Nat) : (s.returnFrom core k).mem = s.mem := by
  unfold State.returnFrom
  dsimp only
  (repeat' split) <;> rfl

@[simp] theorem State.skipNulls_mem (core k n : Nat) : (State.skipNulls core k n s).mem = s.mem := by
  induction n generalizing s with
  | zero => rfl
  | succ n ih =>
    unfold State.skipNulls
    dsimp only
    (repeat' split) <;> simp [ih]

@[simp] theorem State.rearrive_mem (core k : Nat) : (s.rearrive core k).mem = s.mem := by
  unfold State.rearrive
  dsimp only
  split
  · rfl
  · split
    · rfl
    · split
      · exact State.foldl_mem _ _ _ fun _ _ => rfl
      · simp

theorem State.fRead_mem {core : Nat} {d : FDesc} {h : Nat × Nat} {ps : List Int} {r : State × List Byte}
    (e : s.fRead core d h ps = .ok r) : r.1.mem = s.mem := by
  unfold State.fRead at e
  dsimp only at e
  repeat' split at e
  all_goals cases e
  all_goals simp

@[simp] theorem State.dirtyReport_mem (core cause addr : Nat) : (s.dirtyReport core cause addr).mem = s.mem := by
  unfold State.dirtyReport
  (repeat' split) <;> simp

@[simp] theorem State.ferryAbandon_mem (core : Nat) (r : FRun) (cause addr : Nat) (far : Bool) :
    (s.ferryAbandon core r cause addr far).mem = s.mem := by
  unfold State.ferryAbandon
  split <;> simp

@[simp] theorem State.ferryFetch_mem (core : Nat) (r : FRun) : (s.ferryFetch core r).mem = s.mem := by
  unfold State.ferryFetch
  dsimp only
  split
  · simp
  · next h => simpa using s.fRead_mem h

theorem State.granuleData_mem {core : Nat} {r : FRun} {ws : List (Int × Nat)} {a : State × List Byte}
    (e : s.granuleData core r ws = .ok a) : a.1.mem = s.mem := by
  unfold State.granuleData at e
  dsimp only at e
  split at e
  · cases e
    rfl
  · split at e
    · cases e
    · next ht =>
      cases e
      exact (s.fRead_mem ht :)
  · exact s.fRead_mem e

@[simp] theorem State.noteStale_mem (core id : Nat) (h : Nat × Nat) (places : List Nat) :
    (s.noteStale core id h places).mem = s.mem := by
  unfold State.noteStale
  dsimp only
  (repeat' split) <;> rfl

@[simp] theorem State.matrixError_mem (core : Nat) (p : MatrixPart) : (s.matrixError core p).mem = s.mem := by
  unfold State.matrixError
  dsimp only
  (repeat' split) <;> simp

@[simp] theorem State.noteFinished_mem (part : Nat) : (s.noteFinished part).mem = s.mem := by
  unfold State.noteFinished
  dsimp only
  (repeat' split) <;> simp

@[simp] theorem State.struck_mem (a : Strike) : (s.struck a).mem = s.mem := by
  unfold State.struck
  split <;> rfl

@[simp] theorem State.strikeAll_mem : s.strikeAll.mem = s.mem := by simp [State.strikeAll]

@[simp] theorem State.tickTurn_mem : s.tickTurn.mem = s.mem := by
  unfold State.tickTurn
  exact (State.strikeAll_mem _).trans (State.foldl_mem _ _ _ fun _ _ => rfl)

end

end Sys2Proof.Machine
end

section
/-!
PROOFS. O11: writes of memory, by stores, engines, the host and the supervisor (R166, R184).
-/
namespace Sys2Proof.Machine

/-! ### Writes (R184) -/

/-- Steps that keep the form keep it in turn. -/
theorem State.foldl_wf {β : Type} (f : State → β → State) (l : List β) {s : State} (h : s.mem.wf)
    (hf : ∀ t b, t.mem.wf → (f t b).mem.wf) : (l.foldl f s).mem.wf := by
  induction l generalizing s with
  | nil => exact h
  | cons b r ih => exact ih (hf s b h)

/-- The same of steps that may fail. -/
theorem State.foldl_bind_wf {β : Type} (f : State → β → Option State) (l : List β) (o : Option State)
    (ho : ∀ t, o = some t → t.mem.wf) (hf : ∀ t u b, t.mem.wf → f t b = some u → u.mem.wf) {u : State}
    (hu : l.foldl (fun o b => o.bind fun t => f t b) o = some u) :
    u.mem.wf := by
  induction l generalizing o with
  | nil => exact ho u hu
  | cons b r ih =>
    refine ih _ (fun t ht => ?_) hu
    obtain ⟨v, hv, ht⟩ := Option.bind_eq_some_iff.1 ht
    exact hf v t b (ho v hv) ht

/-- A post leaves memory, whether it is made or fails. -/
theorem State.postAt_mem {s t : State} {part core va : Nat} {packets : List (Nat × Nat)} (e : s.postAt part core va packets = .ok t) :
    t.mem = s.mem := by
  unfold State.postAt at e
  dsimp only at e
  repeat' split at e
  all_goals cases e
  simp only [State.announce_mem, State.postOrWait_mem, State.siteLines_mem]

theorem State.postAt_error_mem {s t : State} {part core va : Nat} {packets : List (Nat × Nat)} {cause addr : Nat}
    (e : s.postAt part core va packets = .error (cause, addr, t)) : t.mem = s.mem := by
  unfold State.postAt at e
  dsimp only at e
  repeat' split at e
  all_goals cases e
  all_goals simp

section
variable {s : State} (h : s.mem.wf)
include h

@[simp] theorem State.writeLocs_wf (ls : List Nat) (bs : List Byte) : (s.writeLocs ls bs).mem.wf := s.writeLocs_inv ls bs h

@[simp] theorem State.putGlobal_wf (ls : List Nat) (bs : List Byte) (skip : Option Nat) : (s.putGlobal ls bs skip).mem.wf :=
  State.writeLocs_wf h ls bs

theorem State.fireOnce_wf (id : Nat) (l : Landing) : (s.fireOnce id l).mem.wf := by
  unfold State.fireOnce
  dsimp only
  split
  · simp [h]
  · split
    · next hp => rwa [State.postAt_mem hp]
    · next hp =>
      simp [State.postAt_error_mem hp, h]
  · split <;> simp [h]
  · split
    · split <;> simp [h]
    · split <;> simp [h]

theorem State.doAction_wf (a : Action) : (s.doAction a).mem.wf := by
  unfold State.doAction
  split
  · simp [h]
  · exact h
  · split
    · exact h
    · refine State.fireOnce_wf ?_ _ _
      exact h
  · simp [h]

@[simp] theorem State.runActions_wf (n : Nat) : (s.runActions n).mem.wf := by
  induction n generalizing s with
  | zero => exact h
  | succ n ih =>
    unfold State.runActions
    split
    · exact h
    · refine ih (State.doAction_wf ?_ _)
      exact h

@[simp] theorem State.settle_wf : s.settle.mem.wf := by simp [State.settle, h]

@[simp] theorem State.gstore_wf (ls : List Nat) (bs : List Byte) : (s.gstore ls bs).mem.wf := by simp [State.gstore, h]

@[simp] theorem State.sstore_wf (core seg off : Nat) (bs : List Byte) : (s.sstore core seg off bs).mem.wf := by
  simp [State.sstore, h]

@[simp] theorem State.storeAt_wf (va n : Nat) (ls : List Nat) (bs : List Byte) : (s.storeAt va n ls bs).mem.wf := by
  unfold State.storeAt
  split
  · simp [h]
  · exact State.foldl_wf _ _ (by simpa using h) fun _ _ ht => State.gstore_wf ht _ _

@[simp] theorem State.countNamed_wf (id core part bytes : Nat) : (s.countNamed id core part bytes).1.mem.wf := by
  unfold State.countNamed
  dsimp only
  split
  · exact h
  · split
    · simp [h]
    · refine State.runActions_wf ?_ _
      simpa using h

/-! ### Engines -/

@[simp] theorem State.pierEnd_wf (u cause : Nat) : (s.pierEnd u cause).mem.wf := by
  unfold State.pierEnd
  split <;> simp [h]

@[simp] theorem State.ferryCount_wf (core part : Nat) (d : FDone) (told : List (Nat × Nat)) :
    (s.ferryCount core part d told).1.mem.wf := by
  unfold State.ferryCount
  dsimp only
  split
  · split
    · exact h
    · split <;> simp [h]
  · exact h

@[simp] theorem State.putRecord_wf (core : Nat) (p : FPacket) (ls : List Nat) (r : List Byte) : (s.putRecord core p ls r).mem.wf := by
  unfold State.putRecord
  split
  · exact h
  · split <;> simp [h]

@[simp] theorem State.ferryPublish_wf (core : Nat) (r : FRun) (w : Nat) : (s.ferryPublish core r w).mem.wf := by
  unfold State.ferryPublish
  dsimp only
  (repeat' split) <;> simp [h]

@[simp] theorem State.ferryEnqueue_wf (core : Nat) (r : FRun) : (s.ferryEnqueue core r).mem.wf := by
  unfold State.ferryEnqueue
  dsimp only
  split
  · simp [h]
  · next hr =>
    have hm := s.fRead_mem hr
    (repeat' split) <;> simp_all

theorem State.fWrite_wf {core : Nat} {d : FDesc} {at_ : Nat × Nat} {ps : List Int} {bs : List Byte} {t : State}
    (ht : s.fWrite core d at_ ps bs = .ok t) : t.mem.wf := by
  unfold State.fWrite at ht
  split at ht
  · cases ht
    exact h
  · split at ht
    · cases ht
    · cases ht
      simp [h]

@[simp] theorem State.ferryMove_wf (core : Nat) (r : FRun) : (s.ferryMove core r).mem.wf := by
  unfold State.ferryMove
  dsimp only
  split
  · simp [h]
  · next hr =>
    have hm := s.granuleData_mem hr
    split
    · split <;> simp_all
    · next hw =>
      have hu := State.fWrite_wf (by split <;> simp_all) hw
      split <;> simp [hu]

end

section
variable {s : State}

/-- A segment that a packet names on another core is reached by a ticket alone (R229). -/
theorem State.reachFar_mem {part : Nat} {d : FDesc} {path : SegPath} {other : Option (Nat × Nat)} {t : State} {e : Nat × Nat}
    (ht : s.reachFar part d path other = some (.ok (t, e))) : t.mem = s.mem := by
  unfold State.reachFar at ht
  repeat' split at ht
  all_goals cases ht
  all_goals rfl

theorem State.reachOne_mem {part : Nat} {d : FDesc} {path : SegPath} {far other e : Option (Nat × Nat)} {t : State}
    (ht : s.reachOne part d path far other = some (.ok (t, e))) : t.mem = s.mem := by
  unfold State.reachOne at ht
  split at ht
  · cases ht
    rfl
  · split at ht
    · split at ht
      · cases ht
        rfl
      · cases ht
    · split at ht
      · cases ht
      · cases ht
      · next hr =>
        cases ht
        exact State.reachFar_mem hr

/-- The state with which a packet goes on or parks has a memory. -/
def FGate.keeps (m : Memory) : FGate → Prop
  | .go t _ | .park t _ => t.mem = m
  | .fail _ => True

theorem State.ferryGate_keeps (core : Nat) (r : FRun) : (s.ferryGate core r).keeps s.mem := by
  have park : ∀ (t : State) (q : FRun), t.mem = s.mem → (t.ferryPark core q).keeps s.mem := fun t q ht => by
    simpa [State.ferryPark, FGate.keeps] using ht
  unfold State.ferryGate
  dsimp only
  split
  · exact park s r rfl
  · trivial
  · next h1 =>
    split
    · exact park _ _ (State.reachOne_mem h1)
    · trivial
    · next h2 =>
      have hm := (State.reachOne_mem h2).trans (State.reachOne_mem h1)
      split
      · simpa [FGate.keeps] using hm
      · exact park _ _ hm

theorem State.ferryStep_wf (h : s.mem.wf) (core : Nat) (r : FRun) : (s.ferryStep core r).mem.wf := by
  have hg := s.ferryGate_keeps core r
  unfold State.ferryStep
  split
  · simp [h]
  · next t q hp =>
    rw [hp] at hg
    change t.mem = s.mem at hg
    simpa [hg] using h
  · next t q hp =>
    rw [hp] at hg
    change t.mem = s.mem at hg
    rw [← hg] at h
    dsimp only
    split
    · exact State.ferryEnqueue_wf h _ _
    · split
      · simpa using h
      · split
        · exact State.ferryMove_wf h _ _
        · exact h

theorem State.ferryCycle_wf (h : s.mem.wf) (core : Nat) : (s.ferryCycle core).mem.wf := by
  unfold State.ferryCycle
  split
  · split
    · simp [h]
    · split
      · split <;> simp [h]
      · split
        · exact State.ferryStep_wf h _ _
        · simp [h]
  · exact h

end

section
variable {s : State} (h : s.mem.wf)
include h

/-! ### Monitor areas, tasks and the host (R263, R268, R327, R376) -/

@[simp] theorem State.areaStore_wf (part va : Nat) (v : X64) : (s.areaStore part va v).mem.wf := by
  unfold State.areaStore
  split <;> simp [h]

@[simp] theorem State.writeRecord_wf (part va : Nat) (seq : X64) (fields : List X64) : (s.writeRecord part va seq fields).mem.wf :=
  State.areaStore_wf (State.foldl_wf _ _ (State.areaStore_wf h _ _ _) fun _ _ ht => State.areaStore_wf ht _ _ _) _ _ _

@[simp] theorem State.publish_wf (part : Nat) : (s.publish part).mem.wf := by
  unfold State.publish
  split
  · exact h
  · split
    · exact h
    · refine State.foldl_wf _ _ ?_ fun _ _ ht => State.writeRecord_wf ht _ _ _ _
      exact h

theorem State.taskAction_wf (core : Nat) (t : Task) : (s.taskAction core t).mem.wf := by
  unfold State.taskAction
  dsimp only
  split
  · split <;> simp [h]
  · split
    · next hp => rwa [State.postAt_mem hp]
    · next hp => simp [State.postAt_error_mem hp, h]
  · split <;> simp [h]
  · exact h

theorem State.endTask_wf (core id : Nat) (fires : Bool) : (s.endTask core id fires).mem.wf := by
  unfold State.endTask
  split
  · exact h
  · dsimp only
    split
    · refine State.taskAction_wf ?_ _ _
      exact h
    · exact h

theorem State.endMember_wf (core k : Nat) (q : Gang) (fires : Bool) : (s.endMember core k q fires).mem.wf := by
  unfold State.endMember
  dsimp only
  split
  · refine State.endTask_wf ?_ _ _ _
    exact h
  · exact h

theorem State.endPart_wf (core k : Nat) (fires : Bool) : (s.endPart core k fires).mem.wf := by
  unfold State.endPart
  dsimp only
  split
  · exact h
  · split
    · refine State.endMember_wf ?_ _ _ _ _
      exact h
    · split
      · exact h
      · split
        · exact h
        · split
          · refine State.endTask_wf ?_ _ _ _
            exact h
          · exact h

@[simp] theorem State.retire_wf (core k : Nat) (run : Run) : (s.retire core k run).mem.wf :=
  State.endPart_wf (s := (s.modCS _ _).modCtx _ _ _) h _ _ _

theorem State.applyEnd_wf (core k : Nat) (a : After) : (State.applyEnd core k s a).mem.wf := by
  cases a <;> simp [State.applyEnd, h]

@[simp] theorem State.hostStore_wf (off : Nat) (ls : List Nat) (bs : List Byte) : (s.hostStore off ls bs).mem.wf := by
  unfold State.hostStore
  dsimp only
  split
  · simp [h]
  · exact State.foldl_wf _ _ (by simpa using h) fun _ _ ht => State.gstore_wf ht _ _

theorem State.hostWrite_wf (l : List (Nat × Nat)) (bs : List Byte) : (s.hostWrite l bs).mem.wf := by
  induction l generalizing s bs with
  | nil => exact h
  | cons e r ih =>
    unfold State.hostWrite
    split
    · exact ih h _
    · simp [h]
    · exact ih (State.hostStore_wf h _ _ _) _

@[simp] theorem State.hostAtomic_wf (off n : Nat) (f : Nat → Option Nat) : (s.hostAtomic off n f).mem.wf := by
  unfold State.hostAtomic
  split
  · simp [h]
  · split
    · simp [h]
    · split
      · simp [h]
      · split
        · simp [h]
        · dsimp only
          split <;> simp [h]

/-! ### Launches (R280, R371) -/

theorem State.pushOut_wf {core part id : Nat} {t : State} (ht : s.pushOut core part id = some t) : t.mem.wf := by
  unfold State.pushOut at ht
  split at ht
  · cases ht
    exact h
  · dsimp only at ht
    split at ht
    · cases ht
      exact h
    · split at ht
      · cases ht
      · cases ht
        simp [h]

theorem State.roomFor_wf (core part need n : Nat) (kept : List Nat) : (State.roomFor core part need n kept s).mem.wf := by
  induction n generalizing s kept with
  | zero => exact h
  | succ n ih =>
    unfold State.roomFor
    split
    · exact h
    · split
      · exact h
      · split
        · exact h
        · split
          · next ht => exact ih (State.pushOut_wf h ht) _
          · exact ih h _

theorem State.acceptLaunch_wf (core part bits : Nat) : (s.acceptLaunch core part bits).mem.wf := by
  unfold State.acceptLaunch
  split
  · exact h
  · exact State.roomFor_wf (s := s.modPart _ _ _) h _ _ _ _ _

@[simp] theorem State.commitLaunch_wf (core : Nat) (word : X64) : (s.commitLaunch core word).mem.wf := by
  unfold State.commitLaunch
  dsimp only
  split
  · simp [h]
  · refine State.acceptLaunch_wf ?_ _ _ _
    exact h

/-! ### Images (R335, R377) -/

@[simp] theorem State.writePhys_wf (pa v : Nat) : (s.writePhys pa v).mem.wf := by simp [State.writePhys, h]

omit h in
theorem State.takePage_mem {place : Nat} {r : State × Nat} (hr : s.takePage place = some r) : r.1.mem = s.mem := by
  obtain ⟨i, -, rfl⟩ := Option.map_eq_some_iff.1 hr
  rfl

theorem State.tableAt_wf {entry : Nat} {r : State × Nat} (hr : s.tableAt entry = some r) : r.1.mem.wf := by
  unfold State.tableAt at hr
  dsimp only at hr
  split at hr
  · cases hr
    exact h
  · obtain ⟨p, hp, rfl⟩ := Option.map_eq_some_iff.1 hr
    rw [← State.takePage_mem hp] at h
    exact State.writePhys_wf (State.foldl_wf _ _ h fun _ _ ht => State.writePhys_wf ht _ _) _ _

theorem State.mapPage_wf {root va place : Nat} {t : State} (ht : s.mapPage root va place = some t) : t.mem.wf := by
  obtain ⟨t2, h2, ht⟩ := Option.bind_eq_some_iff.1 ht
  obtain ⟨t3, h3, ht⟩ := Option.bind_eq_some_iff.1 ht
  obtain ⟨r, hr, ht⟩ := Option.bind_eq_some_iff.1 ht
  cases ht
  have h3 := State.tableAt_wf (State.tableAt_wf h h2) h3
  rw [← State.takePage_mem hr] at h3
  exact State.writePhys_wf h3 _ _

theorem State.mapRegion_wf {root : Nat} {e : ImageSection} {t : State} (ht : s.mapRegion root e = some t) : t.mem.wf := by
  refine State.foldl_bind_wf _ _ (some s) (fun t e => by cases e; exact h) (fun t u va ht hu => ?_) ht
  split at hu
  · exact State.mapPage_wf ht hu
  · cases hu
    exact ht

theorem State.supervisorWrite_wf {part va : Nat} {bs : List Byte} {t : State} (ht : s.supervisorWrite part va bs = some t) :
    t.mem.wf := by
  unfold State.supervisorWrite at ht
  split at ht
  · cases ht
    simp [h]
  · cases ht

theorem State.driverWrite_wf {part va : Nat} {bs : List Byte} {t : State} (ht : s.driverWrite part va bs = some t) : t.mem.wf := by
  refine State.foldl_bind_wf _ _ (some s) (fun t e => by cases e; exact h) (fun t u i ht hu => ?_) ht
  split at hu
  · cases hu
    simp [ht]
  · cases hu

theorem State.loadPattern_wf {part va len base blen : Nat} {t : State} (ht : s.loadPattern part va len base blen = some t) :
    t.mem.wf := by
  unfold State.loadPattern at ht
  split at ht
  · dsimp only at ht
    split at ht
    · cases ht
    · split at ht
      · cases ht
      · next hu =>
        cases ht
        refine State.foldl_wf _ _ ?_ fun _ _ ht => ht
        refine State.foldl_bind_wf _ _ _ (fun t e => ?_) (fun t u i ht hu => State.driverWrite_wf ht hu) hu
        refine State.foldl_bind_wf _ _ _ (fun t e => ?_) (fun t u i ht hu => State.supervisorWrite_wf ht hu) e
        refine State.foldl_bind_wf _ _ (some s) (fun t e => ?_) (fun t u i ht hu => State.mapRegion_wf ht hu) e
        cases e
        exact h
  · cases ht

/-! ### Swaps (R352 to R354) -/

theorem State.shadowPush_wf {core : Nat} {e : Nat × Seg} {t : State} (ht : s.shadowPush core e = some t) : t.mem.wf := by
  unfold State.shadowPush at ht
  dsimp only at ht
  split at ht
  · cases ht
    exact h
  · split at ht
    · cases ht
    · cases ht
      simp [h]

theorem State.saveCore_wf {core : Nat} {t : State} (ht : s.saveCore core = some t) : t.mem.wf :=
  State.foldl_bind_wf _ _ (some (s.stopCore core)) (fun t e => by cases e; simpa using h)
    (fun t u i ht hu => State.shadowPush_wf ht hu) ht

theorem State.settleStore_wf {core : Nat} {t : State} (ht : s.settleStore core = some t) : t.mem.wf := by
  obtain ⟨u, hu, rfl⟩ := Option.map_eq_some_iff.1 ht
  have hm : u.mem.wf := State.foldl_bind_wf _ _ (some (s.modCS core _)) (fun t e => by cases e; exact h)
    (fun t u i ht hu => State.shadowPush_wf ht hu) hu
  exact hm

theorem State.deliverHeld_wf (core : Nat) : (s.deliverHeld core).mem.wf := by
  unfold State.deliverHeld
  dsimp only
  refine State.foldl_wf _ _ ?_ fun t a ht => ?_
  · exact h
  · split
    · split
      · exact ht
      · exact State.runActions_wf (State.doAction_wf ht _) _
    · exact State.runActions_wf (State.doAction_wf ht _) _

theorem State.exchange_wf {core : Nat} {t : State} (ht : s.exchange core = some t) : t.mem.wf := by
  obtain ⟨u, hu, ht⟩ := Option.bind_eq_some_iff.1 ht
  have hm : u.mem.wf := by
    obtain ⟨v, hv, rfl⟩ := Option.map_eq_some_iff.1 hu
    have hv : v.mem.wf := by
      split at hv
      · exact State.saveCore_wf h hv
      · cases hv
        exact h
    simpa using hv
  split at ht
  · obtain ⟨v, hv, rfl⟩ := Option.map_eq_some_iff.1 ht
    exact State.deliverHeld_wf (State.settleStore_wf hm hv) core
  · cases ht
    exact hm

end

end Sys2Proof.Machine
end

section
/-!
PROOFS. O11: what instructions and events answer (R166, R184).
-/
namespace Sys2Proof.Machine

/-! ### What an instruction may answer -/

/-- Every next state of an outcome has its memory in the canonical form. -/
def Formed (o : Host.Outcome State Fault Refusal) : Prop := ∀ t, o = .next t → t.mem.wf

@[simp] theorem formed_next {t : State} : Formed (.next t) ↔ t.mem.wf :=
  ⟨fun h => h t rfl, fun h _ e => by cases e; exact h⟩

/-- Every state that an effect answers has its memory in the canonical form. -/
def FormedBody {ε : Type} (b : Except ε State) : Prop := ∀ t, b = .ok t → t.mem.wf

section
variable {ε : Type}

@[simp] theorem formedBody_ok {t : State} : FormedBody (.ok t : Except ε State) ↔ t.mem.wf :=
  ⟨fun h => h t rfl, fun h _ e => by cases e; exact h⟩

@[simp] theorem formedBody_error (e : ε) : FormedBody (.error e) := fun _ h => by cases h

/-- What is read before an effect has no part in it. -/
theorem FormedBody.read {α : Type} {e : Except ε α} {f : α → Except ε State} (h : ∀ a, e = .ok a → FormedBody (f a)) :
    FormedBody (e >>= f) := by
  cases e with
  | error x => exact formedBody_error x
  | ok a => exact h a rfl

end

/-- The state that a request to the mailbox leaves has its memory in the canonical form. -/
def Answer.formed : Answer → Prop
  | .done t | .failed t | .wait t => t.mem.wf
  | .refused => True

@[simp] theorem Answer.formed_done {t : State} : (Answer.done t).formed ↔ t.mem.wf := .rfl

@[simp] theorem Answer.formed_wait {t : State} : (Answer.wait t).formed ↔ t.mem.wf := .rfl

@[simp] theorem Answer.formed_refused : Answer.refused.formed := trivial

theorem Answer.of_formed {o : Option State} (h : ∀ t, o = some t → t.mem.wf) : (Answer.of o).formed := by
  cases o with
  | none => trivial
  | some t => exact h t rfl

theorem Answer.of_map_formed {α : Type} {f : α → State} (o : Option α) (h : ∀ a, (f a).mem.wf) :
    (Answer.of (o.map f)).formed := by
  cases o with
  | none => trivial
  | some a => exact h a

section
variable {s : State} (h : s.mem.wf)
include h

theorem finish_formed {b : Except Halt State} (hb : FormedBody b) : Formed (finish s b) := by
  cases b with
  | error e => simp [h]
  | ok t => simpa using hb

theorem slotOp_formed {g : BitVec 4} {b : Except Halt State} (hb : FormedBody b) : Formed (slotOp g s b) := by
  refine finish_formed h ?_
  split
  · exact formedBody_error _
  · exact formedBody_ok.2 h
  · exact hb

theorem settleOp_formed {b : Except Halt State} (hb : FormedBody b) : Formed (Machine.settle s b) := by
  cases b with
  | error e => simp [Machine.settle, h]
  | ok t =>
    unfold Machine.settle
    dsimp only
    split
    · simp [h]
    · split
      · simp [h]
      · simpa using hb

theorem segOp_formed {g : BitVec 4} {b : Except Halt State} (hb : FormedBody b) : Formed (segOp g s b) := by
  refine settleOp_formed h ?_
  split
  · exact formedBody_error _
  · exact formedBody_ok.2 h
  · exact hb

theorem mailbox_formed {op len : Nat} {sel : Bool} {bad : Option Nat} {act : State → Answer} (ha : (act s).formed) :
    Formed (mailbox s op sel len bad act) := by
  unfold mailbox
  split
  · simp [h]
  · split
    · simp [h]
    · split
      · simp [h]
      · cases hc : act s <;> rw [hc] at ha <;> simp_all [Answer.formed]

theorem pierOp_formed {f : Pier → PierRun → Except Nat State} (hf : ∀ p r, FormedBody (f p r)) : Formed (pierOp s f) := by
  unfold pierOp
  dsimp only
  split
  · simp [h]
  · split
    · next ht => simpa using hf _ _ _ ht
    · simp [h]

theorem resultArrives_formed (c : BitVec 9) (k : BitVec 2) (id : Nat) (kind : LoadKind) : Formed (resultArrives c k id kind s) := by
  simpa [resultArrives] using h

theorem smHead_formed (c : BitVec 9) (f : SmReq → CoreState → Option (CoreState → CoreState)) : Formed (smHead c s f) := by
  unfold smHead
  dsimp only
  split
  · simp [h]
  · split <;> simp [h]

end

section
variable {s : State} (h : s.mem.wf)
include h

/-! ### Shared effects -/

theorem State.reads.wf {t : State} (r : s.reads t) : t.mem.wf := by
  obtain ⟨-, ⟨hm, -⟩, -⟩ := r
  rwa [hm]

theorem State.atomic_formed (va n : Nat) (d : BitVec 6) (f : Nat → Option Nat) : FormedBody (s.atomic va n d f) := by
  unfold State.atomic
  split
  · exact formedBody_error _
  · refine .read fun ls _ => ?_
    dsimp only
    split <;> simp [h]

theorem State.scatter_formed (r : VReg) (k : BitVec 64) (addr : Nat → Nat) : FormedBody (s.scatter r k addr) :=
  .read fun _ _ => formedBody_ok.2 (State.foldl_wf _ _ h fun _ _ ht => State.storeAt_wf ht _ _ _ _)

theorem State.enterLoop_formed (n stop : Nat) (ec : BitVec 4) (rot : Bool) : FormedBody (s.enterLoop n stop ec rot) := by
  unfold State.enterLoop
  split
  · simpa using h
  · split
    · exact formedBody_error _
    · dsimp only
      split <;> simp [h]

theorem segLoad_formed (g : BitVec 4) (d : BitVec 6) (y : BitVec 8) (o : BitVec 6) (n : BitVec 1) (size : Nat) :
    Formed (segLoad g d y o n size s) := by
  refine segOp_formed h (.read fun x _ => .read fun p hp => ?_)
  have hm := State.reads.wf h (State.segPlace_reads hp)
  split
  · refine .read fun _ _ => ?_
    simp [hm]
  · refine .read fun ls _ => ?_
    simp [hm]

theorem segStore_formed (g : BitVec 4) (r : BitVec 6) (y : BitVec 8) (o : BitVec 6) (n : BitVec 1) (size : Nat) :
    Formed (segStore g r y o n size s) := by
  refine segOp_formed h (.read fun v _ => .read fun x _ => .read fun p hp => ?_)
  have hm := State.reads.wf h (State.segPlace_reads hp)
  split
  · simp [hm]
  · refine .read fun ls _ => ?_
    simp [hm]

omit h in
theorem State.pipeHere_mem {p : BitVec 3} {e : Pipe × State} (he : s.pipeHere p = .ok e) : e.2.mem = s.mem := by
  unfold State.pipeHere at he
  dsimp only at he
  split at he
  · cases he
  · split at he <;> cases he
    rfl

theorem State.absentPlace_wf {name off n : Nat} {t : State} (ht : s.absentPlace name off n = some t) : t.mem.wf := by
  unfold State.absentPlace at ht
  split at ht
  · next hp =>
    split at ht
    · cases ht
      exact State.reads.wf h (State.segPlace_reads hp)
    · cases ht
  · cases ht

/-! ### Instructions of a core -/

theorem sel_formed (g : BitVec 4) (d a b : BitVec 6) : Formed (execSel g d a b s) :=
  finish_formed h (.read fun p _ => .read fun x _ => .read fun y _ => by simp [h])

theorem crd_formed (g : BitVec 4) (c : BitVec 8) (d : BitVec 6) : Formed (execCrd g c d s) := by
  refine slotOp_formed h ?_
  split
  · exact formedBody_error _
  · split
    · exact formedBody_error _
    · split
      · split
        · exact formedBody_error _
        · simp [h]
      · simp [h]

theorem cwr_formed (g : BitVec 4) (c : BitVec 8) (a : BitVec 6) : Formed (execCwr g c a s) := by
  refine slotOp_formed h (.read fun x _ => ?_)
  split
  · exact formedBody_error _
  · split <;> simp [h]

theorem isum_formed (g : BitVec 4) (d a : BitVec 6) (k : BitVec 1) : Formed (execIsum g d a k s) := by
  refine slotOp_formed h (.read fun x _ => ?_)
  dsimp only
  split
  · exact formedBody_error _
  · split <;> simp [h]

theorem banksw_formed (g : BitVec 4) (a b : BitVec 6) : Formed (execBanksw g a b s) := by
  refine slotOp_formed h ?_
  split
  · split
    · exact formedBody_error _
    · split <;> simp [h]
  · refine .read fun x _ => .read fun n _ => ?_
    dsimp only
    split
    · exact formedBody_error _
    · split
      · exact formedBody_error _
      · simpa using h

theorem waitw_formed (g : BitVec 4) (a b : BitVec 6) : Formed (execWaitw g a b s) := by
  refine slotOp_formed h (.read fun x _ => .read fun v _ => ?_)
  dsimp only
  split
  · simpa using h
  · split
    · exact formedBody_error _
    · refine .read fun ls _ => ?_
      split
      · exact formedBody_error _
      · split <;> simp [h]

theorem pstop_formed (g : BitVec 4) (a : BitVec 6) : Formed (execPstop g a s) := by
  refine slotOp_formed h (.read fun x _ => ?_)
  dsimp only
  (repeat' split) <;> simp [h]

theorem kmrg_formed (g : BitVec 4) (k a : BitVec 3) : Formed (execKmrg g k a s) := by
  refine slotOp_formed h (.read fun x _ => .read fun y _ => ?_)
  split
  · exact formedBody_error _
  · split <;> simp [h]

theorem barx_formed (g : BitVec 4) (y : BitVec 3) (i : BitVec 6) (o : BitVec 3) (v : BitVec 5) : Formed (execBarx g y i o v s) := by
  refine slotOp_formed h (.read fun x _ => ?_)
  split
  · exact formedBody_error _
  · dsimp only
    split <;> simp [h]

theorem vlds_formed (g : BitVec 4) (v : BitVec 5) (y : BitVec 8) (o : BitVec 6) (m : BitVec 2) : Formed (execVlds g v y o m s) := by
  refine segOp_formed h (.read fun x _ => .read fun p hp => ?_)
  have hm := State.reads.wf h (State.segPlace_reads hp)
  split
  · refine .read fun _ _ => ?_
    simp [hm]
  · refine .read fun ls _ => ?_
    simp [hm]

theorem vsts_formed (g : BitVec 4) (v : BitVec 5) (y : BitVec 8) (o : BitVec 6) (m : BitVec 2) : Formed (execVsts g v y o m s) := by
  refine segOp_formed h (.read fun r _ => .read fun x _ => .read fun p hp => ?_)
  have hm := State.reads.wf h (State.segPlace_reads hp)
  split
  · simp [hm]
  · refine .read fun ls _ => ?_
    simp [hm]

theorem vgts_formed (g : BitVec 4) (v : BitVec 5) (y : BitVec 8) (i : BitVec 5) (m : BitVec 3) : Formed (execVgts g v y i m s) := by
  refine segOp_formed h (.read fun k _ => .read fun idx _ => .read fun e he => .read fun _ _ => ?_)
  simp [State.reads.wf h (State.segLanes_reads he)]

theorem vscs_formed (g : BitVec 4) (v : BitVec 5) (y : BitVec 8) (i : BitVec 5) (m : BitVec 3) : Formed (execVscs g v y i m s) := by
  refine segOp_formed h (.read fun k _ => .read fun idx _ => .read fun r _ => .read fun e he => formedBody_ok.2 ?_)
  exact State.foldl_wf _ _ (State.reads.wf h (State.segLanes_reads he)) fun _ _ ht => State.sstore_wf ht _ _ _ _

theorem ksave_formed (g : BitVec 4) (k : BitVec 3) (y : BitVec 8) (o : BitVec 6) : Formed (execKsave g k y o s) := by
  refine segOp_formed h (.read fun l _ => .read fun x _ => .read fun p hp => ?_)
  have hm := State.reads.wf h (State.segPlace_reads hp)
  split <;> simp [hm]

theorem kload_formed (g : BitVec 4) (k : BitVec 3) (y : BitVec 8) (o : BitVec 6) : Formed (execKload g k y o s) := by
  refine segOp_formed h (.read fun _ _ => .read fun im hi => ?_)
  have hm := State.reads.wf h (State.kImage_reads hi)
  dsimp only
  (repeat' split) <;> simp [hm]

theorem kmrgs_formed (g : BitVec 4) (k : BitVec 3) (y : BitVec 8) (o : BitVec 6) : Formed (execKmrgs g k y o s) := by
  refine segOp_formed h (.read fun _ _ => .read fun im hi => ?_)
  have hm := State.reads.wf h (State.kImage_reads hi)
  dsimp only
  (repeat' split) <;> simp [hm]

theorem pget_formed (g : BitVec 4) (v : BitVec 5) (p : BitVec 3) : Formed (execPget g v p s) := by
  refine segOp_formed h (.read fun e he => ?_)
  split <;> simp [State.pipeHere_mem he, h]

theorem pput_formed (g : BitVec 4) (v : BitVec 5) (p : BitVec 3) : Formed (execPput g v p s) := by
  refine segOp_formed h (.read fun r _ => .read fun e he => ?_)
  split <;> simp [State.pipeHere_mem he, h]

/-! ### Commands -/

theorem mstr_formed (g : BitVec 4) (y : BitVec 8) (o : BitVec 6) (t : BitVec 2) (a p : BitVec 1) (f : BitVec 3) :
    Formed (execMstr g y o t a p f s) := by
  refine segOp_formed h (.read fun _ _ => .read fun _ _ => .read fun _ _ => .read fun _ _ => .read fun _ _ => ?_)
  dsimp only
  split
  · exact formedBody_error _
  · refine .read fun _ _ => ?_
    simp [h]

theorem mrank_formed (g : BitVec 4) (y : BitVec 8) (o : BitVec 6) (t : BitVec 2) (f : BitVec 3) : Formed (execMrank g y o t f s) := by
  refine segOp_formed h (.read fun _ _ => .read fun _ _ => .read fun _ _ => .read fun _ _ => .read fun _ _ => ?_)
  dsimp only
  split
  · exact formedBody_error _
  · refine .read fun _ _ => ?_
    simp [h]

theorem mout_formed (g : BitVec 4) (y : BitVec 8) (o : BitVec 6) (t : BitVec 2) (c : BitVec 3) (r : BitVec 2) :
    Formed (execMout g y o t c r s) := by
  refine segOp_formed h (.read fun _ _ => .read fun _ _ => .read fun _ _ => .read fun _ _ => ?_)
  dsimp only
  split
  · exact formedBody_error _
  · refine .read fun _ _ => ?_
    simp [h]

theorem fcmd_formed (g : BitVec 4) (y : BitVec 8) (o : BitVec 6) : Formed (execFcmd g y o s) := by
  refine segOp_formed h ?_
  split
  · exact formedBody_error _
  · refine .read fun _ _ => .read fun _ _ => ?_
    split
    · simp [h]
    · split
      · exact formedBody_error _
      · refine .read fun _ _ => ?_
        dsimp only
        (repeat' split) <;> simp [h]

theorem pload_formed (g : BitVec 4) (y : BitVec 8) (o : BitVec 6) : Formed (execPload g y o s) := by
  refine segOp_formed h (.read fun r _ => ?_)
  dsimp only
  split
  · simp [h]
  · split
    · exact formedBody_error _
    · split
      · exact formedBody_error _
      · split
        · exact formedBody_error _
        · refine .read fun _ _ => ?_
          simp [h]

theorem sgpush_formed (g : BitVec 4) (y : BitVec 8) : Formed (execSgpush g y s) := by
  refine segOp_formed h (.read fun _ _ => .read fun e _ => .read fun _ _ => ?_)
  split <;> simp [h]

theorem tkpost_formed (g : BitVec 4) (y : BitVec 8) (o : BitVec 6) : Formed (execTkpost g y o s) := by
  refine segOp_formed h (.read fun x _ => .read fun p hp => ?_)
  have hm := State.reads.wf h (State.segPlace_reads hp)
  split
  · simpa using hm
  · split
    · simpa using hm
    · refine .read fun _ _ => ?_
      dsimp only
      (repeat' split) <;> simp [hm]

theorem ldarm_formed (g : BitVec 4) (y : BitVec 8) (o : BitVec 6) : Formed (execLdarm g y o s) := by
  refine segOp_formed h (.read fun xy _ => ?_)
  split
  · next ht => simpa using State.absentPlace_wf h ht
  · refine .read fun id _ => ?_
    dsimp only
    split
    · exact formedBody_error _
    · refine .read fun p hp => ?_
      have hm := State.reads.wf h (State.segPlace_reads hp)
      split
      · simpa using hm
      · refine .read fun _ _ => ?_
        split
        · exact formedBody_error _
        · split
          · refine .read fun rid _ => ?_
            split <;> simp [hm]
          · split
            · simpa using hm
            · refine .read fun pages _ => ?_
              split <;> simp [hm]

/-! ### Piers (R253 to R258) -/

theorem State.ploop_formed (r : PierRun) (count len : Nat) : FormedBody (s.ploop r count len) := by
  unfold State.ploop
  split
  · exact formedBody_error _
  · split <;> simp [h]

omit h in
theorem State.pierBytes_mem {r : PierRun} {q : X64} {n : Nat} {b : State × List Byte} (hb : s.pierBytes r q n = .ok b) :
    b.1.mem = s.mem := by
  unfold State.pierBytes at hb
  split at hb
  · cases hb
  · split at hb <;> cases hb
    simp

omit h in
theorem State.pierRows_mem {r : PierRun} {a i n : Nat} {p : Pier} {q : State × Pier} (hq : State.pierRows r a i n s p = .ok q) :
    q.1.mem = s.mem := by
  induction n generalizing s i p with
  | zero =>
    cases hq
    rfl
  | succ n ih =>
    unfold State.pierRows at hq
    split at hq
    · cases hq
    · next hb => exact (ih hq).trans (State.pierBytes_mem hb)

theorem State.pierStore_formed (p : Pier) (r : PierRun) (a : Nat) (bs : List Byte) : FormedBody (s.pierStore p r a bs) := by
  unfold State.pierStore
  split
  · exact formedBody_error _
  · split <;> simp [h]

theorem pldx_formed (a : BitVec 3) : Formed (execPldx a s) :=
  pierOp_formed h fun p r => .read fun b hb => by simp [State.pierBytes_mem hb, h]

theorem prow_formed (i : BitVec 4) (a : BitVec 3) : Formed (execProw i a s) :=
  pierOp_formed h fun p r => .read fun q hq => by simp [State.pierRows_mem hq, h]

theorem prown_formed (i : BitVec 4) (n : BitVec 5) (a : BitVec 3) : Formed (execPrown i n a s) := by
  refine pierOp_formed h fun p r => ?_
  split
  · exact formedBody_error _
  · exact .read fun q hq => by simp [State.pierRows_mem hq, h]

theorem psto_formed (i : BitVec 4) (n : BitVec 5) (a : BitVec 3) : Formed (execPsto i n a s) := by
  refine pierOp_formed h fun p r => ?_
  split
  · exact formedBody_error _
  · exact State.pierStore_formed h _ _ _ _

theorem pstob_formed (i : BitVec 4) (n : BitVec 5) (a : BitVec 3) : Formed (execPstob i n a s) := by
  refine pierOp_formed h fun p r => ?_
  split
  · exact formedBody_error _
  · exact State.pierStore_formed h _ _ _ _

theorem pwait_formed : Formed (execPwait s) := by
  refine pierOp_formed h fun p r => ?_
  split <;> simp [h]

theorem pmov_formed (k : BitVec 2) (x y : BitVec 4) : Formed (execPmov k x y s) := by
  refine pierOp_formed h fun p r => ?_
  (repeat' split) <;> simp [h]

/-! ### Events of engines -/

theorem ferryResume_formed (c : BitVec 9) : Formed (execFerryResume c s) := by
  unfold execFerryResume
  dsimp only
  split
  · next r _ =>
    have hg := s.ferryGate_keeps c.toNat r
    split
    · simp [h]
    · split
      all_goals next hc => rw [hc] at hg; simp_all [FGate.keeps]
  · simp [h]

theorem ringPacketTake_formed (c : BitVec 9) (ring : BitVec 2) : Formed (execRingPacketTake c ring s) := by
  unfold execRingPacketTake
  extract_lets core r id
  split
  · simp [h]
  · split
    · simp [h]
    · split
      · simp [h]
      · extract_lets rec_ slot read src s1 s2 bits run bad
        have h2 : s2.mem.wf := by simp [s2, s1, src, read, h]
        have hb : ∀ a b c, Formed (bad a b c) := fun a b c => by simp [bad, h2]
        split
        · exact hb _ _ _
        · split
          · exact hb _ _ _
          · split
            · exact hb _ _ _
            · extract_lets set t s3 p
              split
              · exact hb _ _ _
              · have h3 : s3.mem.wf := by
                  unfold s3
                  split <;> simp [h2]
                split <;> simp [h3]

theorem ferryPacketComplete_formed (c : BitVec 9) (id : Nat) : Formed (execFerryPacketComplete c id s) := by
  unfold execFerryPacketComplete
  dsimp only
  split
  · simp [h]
  · split
    · simp [h]
    · split <;> simp [h]
    · refine formed_next.2 ?_
      rw [State.announceEnd_mem, State.complete_mem]
      refine State.foldl_wf _ _ ?_ fun _ _ ht => ht
      split <;> simp [h]

theorem State.doActions_wf (l : List Action) : (l.foldl (fun t a => (t.doAction a).runActions actionFuel) s).mem.wf :=
  State.foldl_wf _ _ h fun _ _ ht => State.runActions_wf (State.doAction_wf ht _) _

theorem landingWriteDeferred_formed (c : BitVec 9) : Formed (execLandingWriteDeferred c s) := by
  unfold execLandingWriteDeferred
  dsimp only
  split
  · split
    · simp [h]
    · exact formed_next.2 (State.doActions_wf (by simp [h]) _)
  · split
    · simp [h]
    · split <;> simp [h]

/-! ### The host and the management controller -/

theorem State.swapCores_formed (part : Nat) (cores : List Nat) (out : Bool) : (s.swapCores part cores out).formed := by
  have hf : ∀ f : CoreState → CoreState, (cores.foldl (fun t c => t.modCS c f) s).mem.wf := fun f =>
    State.foldl_wf _ _ h fun _ _ ht => ht
  unfold State.swapCores
  extract_lets fits
  split
  · trivial
  · split
    · exact hf _
    · split
      · next ht =>
        exact State.foldl_bind_wf State.exchange _ (some s) (fun t e => by cases e; exact h)
          (fun t u c ht hu => State.exchange_wf ht hu) ht
      · exact hf _

theorem State.stage_formed (kind : Nat) : (s.stage kind).formed := by
  unfold State.stage
  split
  · trivial
  · split
    · trivial
    · exact h

theorem State.createPart_wf {r : PartRequest} {t : State} (ht : s.createPart r = some t) : t.mem.wf := by
  unfold State.createPart at ht
  split at ht
  · cases ht
  · cases ht
    exact State.foldl_wf _ _ h fun _ _ ht => by simpa using ht

theorem State.bindRing_wf {part core slot header : Nat} {t : State} (ht : s.bindRing part core slot header = some t) : t.mem.wf := by
  unfold State.bindRing at ht
  dsimp only at ht
  split at ht
  · split at ht <;> cases ht
    exact h
  · cases ht

theorem State.unbindRing_wf {part core slot header : Nat} {t : State} (ht : s.unbindRing part core slot header = some t) :
    t.mem.wf := by
  unfold State.unbindRing at ht
  (repeat' split at ht) <;> cases ht
  all_goals exact h

theorem shootdown_formed : Formed (execShootdown s) := by
  refine mailbox_formed h ?_
  dsimp only
  (repeat' split) <;> simp [h]

theorem assignLandingCounters_formed : Formed (execAssignLandingCounters s) := by
  refine mailbox_formed h ?_
  split
  · exact Answer.formed_refused
  · generalize assignAll _ _ _ = o
    exact Answer.of_map_formed o fun _ => h

theorem assignPiers_formed : Formed (execAssignPiers s) := by
  refine mailbox_formed h ?_
  split
  · exact Answer.formed_refused
  · generalize assignAll _ _ _ = o
    exact Answer.of_map_formed o fun _ => h

/-- The same of an answer that rests on a list read from the payload. -/
theorem mailbox_list_formed {act : List Nat → State → Answer} (ha : ∀ l, (act l s).formed) (f : State → List Nat) (op len : Nat)
    (sel : Bool) (bad : Option Nat) : Formed (mailbox s op sel len bad fun s => act (f s) s) := mailbox_formed h (ha _)

theorem releaseLandingCounters_formed : Formed (execReleaseLandingCounters s) :=
  mailbox_list_formed h (act := fun l s =>
      .of ((releaseAll s.landingOwner (s.payBits 7 0) l).map fun t => State.disarmAll { s with landingOwner := t } l))
    (fun l => Answer.of_map_formed _ fun _ => by simpa using h) (fun s => bitmapBits (s.pay 8 2048) 16384) _ _ _ _

theorem releasePiers_formed : Formed (execReleasePiers s) := by
  refine mailbox_formed h ?_
  generalize releaseAll _ _ _ = o
  exact Answer.of_map_formed o fun _ => h

theorem bindAperture_formed : Formed (execBindAperture s) := by
  refine mailbox_formed h ?_
  split
  · exact Answer.formed_refused
  · exact h

theorem unbindAperture_formed : Formed (execUnbindAperture s) := by
  refine mailbox_formed h ?_
  exact h

theorem publishMonitors_formed : Formed (execPublishMonitors s) := by
  refine mailbox_formed h ?_
  dsimp only
  split
  · exact Answer.formed_refused
  · refine Answer.formed_done.2 (State.publish_wf ?_ _)
    exact h

theorem State.freezeRequest_formed (f : Bool) : (s.freezeRequest f).formed := by
  unfold State.freezeRequest
  dsimp only
  (repeat' split) <;> simp [h]

theorem endPartition_formed (p : BitVec 8) : Formed (execEndPartition p s) := by
  unfold execEndPartition
  split
  · refine mailbox_formed h ?_
    split <;> simp [h]
  · simp [h]

theorem configurePod_formed : Formed (execConfigurePod s) := by
  unfold execConfigurePod
  refine mailbox_formed h ?_
  exact Memory.wf_foldl (fun m c => Memory.write m _ c.2) (fun _ _ hm => Memory.wf_write _ _ hm) s.mem Memory.wf_nil

omit h in
theorem moduleReset_formed : Formed (execModuleReset s) := formed_next.2 Memory.wf_nil

theorem stoppedContextWrite_formed (c : BitVec 9) (k : BitVec 2) (r : StopReg) (v : BitVec 64) :
    Formed (execStoppedContextWrite c k r v s) := by
  unfold execStoppedContextWrite
  dsimp only
  split
  · exact formed_next.2 h
  · cases r <;> simp [State.crnWrite, h]

omit h in
/-- A choice of the entries of a rising table rises. -/
theorem Tab.sorted_filter {α : Type} {t : Tab α} (p : Nat × α → Bool) (ht : t.sorted = true) :
    Tab.sorted (t.filter p) = true := by
  induction t with
  | nil => rfl
  | cons e r ih =>
    obtain ⟨k, v⟩ := e
    obtain ⟨ha, hr⟩ := Tab.sorted_cons.1 ht
    rw [List.filter_cons]
    split
    · exact Tab.sorted_cons.2 ⟨fun e he => ha e (List.mem_filter.1 he).1, ih hr⟩
    · exact ih hr

omit h in
theorem Memory.wf_filter {m : Memory} (p : Nat × Byte → Bool) (hm : m.wf) : Memory.wf (m.filter p) := by
  obtain ⟨hs, h0⟩ := Tab.wf_iff.1 hm
  exact Tab.wf_iff.2 ⟨Tab.sorted_filter p hs, fun e he => h0 e (List.mem_filter.1 he).1⟩

omit h in
theorem Memory.wf_moveBytes {m : Memory} (old new size : Nat) (hm : m.wf) : Memory.wf (moveBytes m old new size) := by
  refine Memory.wf_foldl _ (fun t c ht => ?_) _ (Memory.wf_filter _ hm)
  split
  · exact Memory.wf_write _ _ ht
  · exact ht

theorem State.migrate_wf (entry new : Nat) : (s.migrate entry new).mem.wf := Memory.wf_writeAll _ _ (Memory.wf_moveBytes _ _ _ h)

theorem pageMigrationEnd_formed : Formed (execPageMigrationEnd s) := by
  unfold execPageMigrationEnd
  split
  · exact formed_next.2 h
  · exact formed_next.2 (State.migrate_wf h _ _)

end

end Sys2Proof.Machine
end

section
/-!
PROOFS. O11: every instruction, turn and step (R28, R184).
-/
namespace Sys2Proof.Machine

/-! ### Every instruction and event -/

/-- What an instruction or an event answers has its memory in the canonical form. The slots that only read and write registers come
last. -/
theorem exec_formed {s : State} (h : s.mem.wf) (i : Instr) : Formed (exec i s) := by
  cases i
  -- slots of a core
  case sel => exact sel_formed h _ _ _ _
  case loop => exact slotOp_formed h (.read fun _ _ => State.enterLoop_formed h _ _ _ _)
  case loopi => exact slotOp_formed h (State.enterLoop_formed h _ _ _ _)
  case crd => exact crd_formed h _ _ _
  case cwr => exact cwr_formed h _ _ _
  case isum => exact isum_formed h _ _ _ _
  case banksw => exact banksw_formed h _ _ _
  case waitw => exact waitw_formed h _ _ _
  case pstop => exact pstop_formed h _ _
  case kmrg => exact kmrg_formed h _ _ _
  case barx => exact barx_formed h _ _ _ _ _
  case eret | nprb | bar | efence | waits | tkdone | tret | pref =>
    refine slotOp_formed h ?_
    repeat refine .read fun _ _ => ?_
    split <;> simp [h]
  -- accesses of segments and of global memory
  case lds8 | lds4 => exact segLoad_formed h _ _ _ _ _ _
  case sts8 | sts4 => exact segStore_formed h _ _ _ _ _ _
  case amo | amo4 => exact slotOp_formed h (.read fun _ _ => .read fun _ _ => State.atomic_formed h _ _ _ _)
  case cas | cas4 => exact slotOp_formed h (.read fun _ _ => .read fun _ _ => .read fun _ _ => State.atomic_formed h _ _ _ _)
  case vlds => exact vlds_formed h _ _ _ _ _
  case vsts => exact vsts_formed h _ _ _ _ _
  case vgts => exact vgts_formed h _ _ _ _ _
  case vscs => exact vscs_formed h _ _ _ _ _
  case vstg => exact slotOp_formed h (.read fun _ _ => .read fun _ _ => .read fun _ _ => State.scatter_formed h _ _ _)
  case vscg =>
    exact slotOp_formed h (.read fun _ _ => .read fun _ _ => .read fun _ _ => .read fun _ _ => State.scatter_formed h _ _ _)
  case ksave => exact ksave_formed h _ _ _ _
  case kload => exact kload_formed h _ _ _ _
  case kmrgs => exact kmrgs_formed h _ _ _ _
  case pget => exact pget_formed h _ _ _
  case pput => exact pput_formed h _ _ _
  -- commands
  case mstr => exact mstr_formed h _ _ _ _ _ _ _
  case mrank => exact mrank_formed h _ _ _ _ _
  case mout => exact mout_formed h _ _ _ _ _ _
  case fcmd => exact fcmd_formed h _ _ _
  case pload => exact pload_formed h _ _ _
  case sgpush => exact sgpush_formed h _ _
  case tkpost => exact tkpost_formed h _ _ _
  case ldarm => exact ldarm_formed h _ _ _
  case mwld | mzero | sgdrop | sgunpin | sgpull =>
    refine segOp_formed h ?_
    repeat refine .read fun _ _ => ?_
    simp [h]
  case pcmd | sgdef | sgpin | sgsplit =>
    refine segOp_formed h ?_
    repeat refine .read fun _ _ => ?_
    dsimp only
    (repeat' split) <;> simp [h]
  -- piers
  case ploopImm | ploopReg =>
    unfold exec
    exact pierOp_formed h fun _ r => State.ploop_formed h r _ _
  case pldx => exact pldx_formed h _
  case prow => exact prow_formed h _ _
  case prown => exact prown_formed h _ _ _
  case psto => exact psto_formed h _ _ _
  case pstob => exact pstob_formed h _ _ _
  case pwait => exact pwait_formed h
  case pmov => exact pmov_formed h _ _ _
  case pnop | pend | parg | padd | psetk | pzer | pcvt | psig =>
    unfold exec
    refine pierOp_formed h fun _ _ => ?_
    (repeat' split) <;> simp [h]
  -- events of engines
  case ringPacketTake => exact ringPacketTake_formed h _ _
  case ferryResume => exact ferryResume_formed h _
  case ferryPacketComplete => exact ferryPacketComplete_formed h _ _
  case landingWriteDeferred => exact landingWriteDeferred_formed h _
  case isumResult | tknextResult | sgstatResult | ldreadResult => exact resultArrives_formed h _ _ _ _
  case sgdropComplete | sgpinComplete | sgpushComplete | sgpullComplete =>
    unfold exec
    exact smHead_formed h _ _
  -- requests
  case createPartition =>
    unfold exec
    exact mailbox_formed h (Answer.of_formed fun _ ht => State.createPart_wf h ht)
  case loadPatternImage =>
    unfold exec
    exact mailbox_formed h (Answer.of_formed fun _ ht => State.loadPattern_wf h ht)
  case bindRing =>
    unfold exec
    exact mailbox_formed h (Answer.of_formed fun _ ht => State.bindRing_wf h ht)
  case unbindRing =>
    unfold exec
    exact mailbox_formed h (Answer.of_formed fun _ ht => State.unbindRing_wf h ht)
  case freeze | unfreeze =>
    unfold exec
    exact mailbox_formed h (State.freezeRequest_formed h _)
  case swapOut | swapIn =>
    unfold exec
    exact mailbox_formed h (State.swapCores_formed h _ _ _)
  case stageSupervisorFirmware | stageManagementFirmware | stageConfigRecord =>
    unfold exec
    exact mailbox_formed h (State.stage_formed h _)
  case bindAperture => exact bindAperture_formed h
  case unbindAperture => exact unbindAperture_formed h
  case shootdown => exact shootdown_formed h
  case assignLandingCounters => exact assignLandingCounters_formed h
  case releaseLandingCounters => exact releaseLandingCounters_formed h
  case assignPiers => exact assignPiers_formed h
  case releasePiers => exact releasePiers_formed h
  case publishMonitors => exact publishMonitors_formed h
  case endPartition => exact endPartition_formed h _
  case configurePod => exact configurePod_formed h
  -- the host and the management controller
  case hostWindowWrite => exact formed_next.2 (State.hostWrite_wf h _ _)
  case moduleReset => exact moduleReset_formed
  case pageMigrationEnd => exact pageMigrationEnd_formed h
  case stoppedContextWrite => exact stoppedContextWrite_formed h _ _ _ _
  -- events that always change what they change
  case fixedLatencyLanding | globalLoadArrival | taskPromotion | monitorPublish | ticketService | overflowRefill |
    featAcceptWrite | noticeAck | hostWindowRead | atomicFetchadd | atomicSwap | hotReset | functionLevelReset |
    mgmtDieReset | mctpControl | pldmSensorRead | getVersion | getCapabilities | negotiateAlgorithms | getDigests |
    getCertificate | challenge | getMeasurements | errorLogRead | errorLogClear | overtempPowerOff | flitRetry |
    portFailure | packageUnreachable | memorySideCacheFlush =>
    exact formed_next.2 (by simp [h])
  -- events with a condition: of contexts, of the matrix unit, of the other engines, of tasks, of the host
  case waitwReread | supervisorResume | resumePrivileged | preemptContext | bankswDecision | issueRunLimit | watchdog |
    longWaitEvent | nprOverrun =>
    simp only [exec, execWaitwReread, execSupervisorResume, execResumePrivileged, execPreemptContext, execBankswDecision,
      execIssueRunLimit, execWatchdog, execLongWaitEvent, execNprOverrun]
    (repeat' split) <;> simp [h]
  case matrixCmdStart | matrixCmdResume | mwldComplete | mstrComplete | moutComplete | mzeroComplete =>
    simp only [exec, execMatrixCmdStart, execMatrixCmdResume, execMwldComplete, execMstrComplete, execMoutComplete, execMzeroComplete]
    (repeat' split) <;> simp [h]
  case ferryPacketStart | ferryReplay | pierOutboxDeliver | pierCmdStart | pierLoadApply | pierCmdComplete | recallEnd | pushOutEnd |
    sgsplitComplete | compactionMoveEnd =>
    simp only [exec, execFerryPacketStart, execFerryReplay, execPierOutboxDeliver, execPierCmdStart, execPierLoadApply,
      execPierCmdComplete, execRecallEnd, execPushOutEnd, execSgsplitComplete, execCompactionMoveEnd]
    (repeat' split) <;> simp [h]
  case deferredPost | taskReceipt | pipeEnlarge | tkpostComplete | gangStart | ldarmArmed | launchCommit =>
    simp only [exec, execDeferredPost, execTaskReceipt, execPipeEnlarge, execTkpostComplete, execGangStart, execLdarmArmed,
      execLaunchCommit]
    (repeat' split) <;> simp [h]
  case controlWindowWrite | completionWriteRetry | mailboxReply | atomicCas | pldmFirmwareUpdate | setPowerLimit | clockStretchBegin |
    clockStretchEnd | pageMigration | resizableBarWrite =>
    simp only [exec, execControlWindowWrite, execCompletionWriteRetry, execMailboxReply, execAtomicCas, execPldmFirmwareUpdate,
      execSetPowerLimit, execClockStretchBegin, execClockStretchEnd, execPageMigration, execResizableBarWrite]
    (repeat' split) <;> simp [h]
  -- slots that read and write registers, and no-operations
  case add | sub | and | or | xor | shl | shr | sra | mul | mulh | div | rem | min | max | clz | ctz | popc | brev |
    sext | shadd | addi | andi | ori | xori | shli | shri | srai | movi | cmp | cmpeqi | cmplti | plog | pmovx |
    xmovp | fadd | fsub | fmul | fmin | fmax | fcmp | fcvt | nop | br | call | jr | jalr | ret | mode | yield | halt |
    bkpt | trap | sysc | ifence | npre | sigs | semset | tkwait | tknext | ld | st | ctw | vnop | vadd | vsub | vmul |
    vfma | vmin | vmax | vabs | vneg | vand | vor | vxor | vshl | vshr | vsra | vdiv | vrem | vsqrt | vrec | vrsq |
    vexp2 | vlog2 | vcmp | vsel | vmov | vbcast | viota | vext | vins | vred | vscan | vperm | vpart | vcvt | vcv8 |
    vun8 | vdec4 | venc4 | mlog | mpop | mfromx | mtox | kinit | kins | kinsi | kout | klen | kth | kclr | wnop |
    vldg | vgtg | enop | mscl | sgstat | ldread | lddis =>
    refine slotOp_formed h ?_
    repeat refine .read fun _ _ => ?_
    simp [h]

/-! ### Events and turns -/

/-- What comes of an attempt to issue has its memory in the canonical form. -/
def Tried.formed : Tried → Prop
  | .notReady => True
  | .blocked t _ | .issued t | .stalled t | .trapped t => t.mem.wf

section
variable {s : State} (h : s.mem.wf)
include h

theorem State.exec_wf {i : Instr} {t : State} (ht : exec i s = .next t) : t.mem.wf := exec_formed h i t ht

theorem State.after_wf {o : Host.Outcome State Fault Refusal} (ho : Formed o) : (s.after o).mem.wf := by
  unfold State.after
  split
  · exact State.settle_wf (formed_next.1 ho)
  · exact h

theorem State.fire_wf (i : Instr) : (s.fire i).mem.wf := State.after_wf h (exec_formed h i)

theorem State.fireAll_wf (l : List Instr) : (s.fireAll l).mem.wf := State.foldl_wf _ _ h fun _ i ht => State.fire_wf ht i

/-! ### A bundle -/

theorem State.runSlot_wf (x : Ctx) (bcast : X64) (v : SlotView) : (s.runSlot x bcast v).1.mem.wf := by
  unfold State.runSlot
  split
  · exact h
  · dsimp only
    split
    · next ht =>
      split
      · exact State.exec_wf (by simpa using h) ht
      · simpa using h
    · simpa using h

theorem State.runSlots_wf (x : Ctx) (bcast : X64) (l : List SlotView) (hs : List (Halt × Bool)) :
    (State.runSlots x bcast l s hs).1.mem.wf := by
  induction l generalizing s hs with
  | nil => exact h
  | cons v r ih => exact ih (State.runSlot_wf h x bcast v) _

theorem State.broadcastWaits_mem (x : Ctx) (l : List SlotView) : (s.broadcastWaits x l).1.mem.wf := by
  suffices hl : ∀ a : State × List (Halt × Bool), a.1.mem.wf → (l.foldl (fun a v =>
      let t := a.1.runSlot x 0 v
      (a.1.modIssue fun i => { (i.names t.1.issue) with defined := i.defined }, a.2 ++ t.2.toList.filter fun h => h.1.holds)) a).1.mem.wf
    from hl _ h
  induction l with
  | nil => exact fun a ha => ha
  | cons v r ih => exact fun a ha => ih _ ha

theorem State.commit_wf (x : Ctx) (b : Bundle) (l : List SlotView) (bcast : X64) : (s.commit x b l bcast).mem.wf := by
  unfold State.commit
  dsimp only
  refine State.foldl_wf _ _ ?_ fun t a ht => State.applyEnd_wf ht _ _ a
  rw [State.modCtx_mem, State.foldl_mem _ _ _ fun t a => State.applyWrite_mem _ _ _ _]
  rw [State.modCtx_mem, State.modCore_mem]
  split <;> simp [h]

theorem State.trapBundle_formed (core k : Nat) (x : Ctx) (e : Halt) : (s.trapBundle core k x e).formed := by
  unfold State.trapBundle
  split <;> simp [Tried.formed, h]

theorem State.decideIssue_formed {t : State} (ht : t.mem.wf) (core k : Nat) (x : Ctx) (b : Bundle) (l : List SlotView) (bcast : X64)
    (hs : List (Halt × Bool)) : (s.decideIssue t core k x b l bcast hs).formed := by
  have trap : ∀ e, (s.trapBundle core k x e).formed := State.trapBundle_formed h core k x
  have overran : (Tried.trapped (s.overrun core k)).formed := by simpa [Tried.formed] using h
  have issued : (Tried.issued (t.commit x b l bcast)).formed := State.commit_wf ht x b l bcast
  unfold State.decideIssue
  dsimp only
  split
  · simpa [Tried.formed] using h
  · split
    · split
      · split
        · exact overran
        · exact trap _
      · simpa [Tried.formed] using h
    · split
      · exact h
      · split
        · simpa [Tried.formed] using h
        · simpa [Tried.formed] using h
        · split
          · exact overran
          · split
            · exact trap _
            · split
              · exact trap _
              · exact issued

theorem State.tryIssue_formed (core k : Nat) : (s.tryIssue core k).formed := by
  have trap : ∀ x e, (s.trapBundle core k x e).formed := State.trapBundle_formed h core k
  unfold State.tryIssue
  dsimp only
  split
  · trivial
  · split
    · exact trap _ _
    · split
      · exact trap _ _
      · split
        · exact h
        · split
          · simpa [Tried.formed] using h
          · split
            · exact State.decideIssue_formed h (State.runSlots_wf (by simpa using h) _ _ _ _) _ _ _ _ _ _ _
            · exact State.decideIssue_formed h (State.runSlots_wf (State.broadcastWaits_mem (by simpa using h) _ _) _ _ _ _) _ _ _ _ _ _ _

/-! ### The issuing context (R29) -/

theorem State.survey_wf (core : Nat) (l ready : List Nat) : (State.survey core l (s, ready)).1.mem.wf := by
  induction l generalizing s ready with
  | nil => exact h
  | cons k r ih =>
    unfold State.survey
    split
    · exact ih h _
    · have ht := State.tryIssue_formed h core k
      split
      · exact ih h _
      · next hc =>
        rw [hc] at ht
        exact ih (by exact ht) _
      · exact ih (by simpa using h) _

theorem State.surveyed_wf (core : Nat) : (s.surveyed core).1.mem.wf := by
  unfold State.surveyed
  dsimp only
  rw [State.modCS_mem]
  refine State.survey_wf (State.foldl_wf _ _ ?_ fun t k ht => ?_) _ _ _
  · exact h
  · simpa using ht

theorem State.reread_wf (core k : Nat) : (s.reread core k).mem.wf := by
  unfold State.reread
  split
  · next ht => exact State.exec_wf h ht
  · exact h

theorem State.waitTurn_wf (core : Nat) (l : List Nat) : (s.waitTurn core l).mem.wf :=
  State.foldl_wf _ _ h fun _ k ht => State.reread_wf (by simpa using ht) core k

theorem State.act_wf (core k : Nat) : (s.act core k).mem.wf := by
  have ht := State.tryIssue_formed h core k
  unfold State.act
  dsimp only
  split
  · next hc => rw [hc] at ht; exact ht
  · next hc => rw [hc] at ht; exact ht
  · next hc => rw [hc] at ht; exact ht
  · split <;> simp [h]

theorem State.issueTurn_wf (core : Nat) : (s.issueTurn core).mem.wf := by
  have hr := State.surveyed_wf h core
  unfold State.issueTurn
  dsimp only
  split
  · rw [State.modCS_mem]
    exact State.waitTurn_wf hr core _
  · split
    · exact State.waitTurn_wf (State.act_wf (State.waitTurn_wf hr core _) core _) core _
    · rw [State.modCS_mem]
      exact State.waitTurn_wf hr core _

/-! ### The turns of a cycle -/

theorem State.pierTurn_wf (u : Nat) : (s.pierTurn u).mem.wf := by
  unfold State.pierTurn
  dsimp only
  split
  · exact h
  · split
    · exact State.pierEnd_wf (by exact h) _ _
    · split
      · exact State.pierEnd_wf (by exact h) _ _
      · exact State.fire_wf (by exact h) _

theorem State.landDueRows_wf (core : Nat) : (s.landDueRows core).mem.wf := State.fire_wf (by simpa using h) _

theorem State.matrixTurn_wf (core : Nat) : (s.matrixTurn core).mem.wf := by
  refine State.landDueRows_wf (State.landDueRows_wf (State.fire_wf ?_ _) core) core
  rw [State.modCS_mem]
  refine State.foldl_wf _ _ (State.fireAll_wf ?_ _) fun t p ht => by simpa using ht
  rw [State.modCS_mem]
  exact State.fireAll_wf (by simpa using h) _

theorem State.ferryTurn_wf (core : Nat) : (s.ferryTurn core).mem.wf :=
  State.fireAll_wf (State.settle_wf (State.ferryCycle_wf (State.fireAll_wf h _) core)) _

theorem State.coreTurn_wf (core : Nat) : (s.coreTurn core).mem.wf := by
  unfold State.coreTurn
  dsimp only
  rw [State.modCS_mem]
  refine State.fireAll_wf (State.fireAll_wf (State.fire_wf (State.fireAll_wf (State.fireAll_wf (State.fire_wf ?_ _) _) _) _) _) _
  exact State.ferryTurn_wf (State.matrixTurn_wf h core) core

theorem State.quadTurn_wf (q : Nat) : (s.quadTurn q).mem.wf := State.fireAll_wf (State.fireAll_wf h _) _

theorem State.requestTurn_wf : s.requestTurn.mem.wf := by
  unfold State.requestTurn
  split
  · exact h
  · split
    · exact State.after_wf h (endPartition_formed h _)
    · exact State.fireAll_wf h _

/-- The piers' events (R252 to R258). -/
theorem State.pierEvents_wf (l : List Nat) : (l.foldl (fun t u =>
    t.fireAll [.pierCmdComplete (BitVec.ofNat 10 u), .pierLoadApply (BitVec.ofNat 10 u), .pierCmdStart (BitVec.ofNat 10 u)]) s).mem.wf :=
  State.foldl_wf _ _ h fun _ _ ht => State.fireAll_wf ht _

theorem State.enginesTurn_wf : s.enginesTurn.mem.wf := by
  have hcores : (s.liveCores.foldl State.coreTurn s).mem.wf := State.foldl_wf _ _ h fun _ c ht => State.coreTurn_wf ht c
  have hpiers := State.pierEvents_wf hcores ((s.liveCores.foldl State.coreTurn s).piers.map (·.1))
  unfold State.enginesTurn
  extract_lets s1 s2 s3 s5 s6 s7 s8
  have h3 : s3.mem.wf := State.foldl_wf _ _ hpiers fun _ q ht => State.quadTurn_wf ht q
  have h5 : s5.mem.wf := State.fire_wf (State.requestTurn_wf h3) _
  have h6 : s6.mem.wf := by
    unfold s6
    split
    · exact State.fireAll_wf h5 _
    · exact h5
  exact State.foldl_wf _ _ (State.fireAll_wf (State.fire_wf h6 _) _) fun t p ht => by simpa using ht

theorem State.tickTurn_wf : s.tickTurn.mem.wf := by simpa using h

theorem State.turn_wf (t : Turn) : (s.turn t).mem.wf := by
  cases t with
  | arrivals => exact State.settle_wf (State.fireAll_wf h _)
  | issue core => exact State.settle_wf (State.issueTurn_wf h core)
  | pier u => exact State.pierTurn_wf h u
  | engines => exact State.settle_wf (State.enginesTurn_wf h)
  | tick => exact State.tickTurn_wf h

theorem State.nextTurn_wf : s.nextTurn.mem.wf := by
  unfold State.nextTurn
  split
  · exact State.turn_wf (by exact h) _
  · exact State.turn_wf (by exact h) _

theorem outside_formed (i : Instr) : Formed (outside i s) := by
  unfold outside
  split
  · simpa using h
  · split
    · refine formed_next.2 ?_
      exact State.fire_wf (by simpa using h) _
    · split
      · next ht => exact formed_next.2 (State.settle_wf (State.exec_wf h ht))
      · next o hn => exact fun t ht => absurd ht (hn t)

theorem step_formed : Formed (step s) := by
  unfold step
  split
  · exact outside_formed (by exact h) _
  · split
    · exact formed_next.2 (State.nextTurn_wf h)
    · exact fun t ht => by cases ht

end

/-- Settles O11, by what each instruction, event and turn answers from a memory in canonical form. -/
theorem stepKeepsMemoryForm : Obligations.StepKeepsMemoryForm := fun _ t h ht => step_formed h t ht

end Sys2Proof.Machine
end

section
/-!
PROOFS. O56: notices in the ring, side-band management, the clock, the link, caches and page moves (R164, R168, R358, R374 to R385).
-/
namespace Sys2Proof

/-! ### Runs of bytes -/

/-- A run of bytes in two parts. -/
theorem readBytes_add (rd : Nat → Byte) (a m n : Nat) : readBytes rd a (m + n) = readBytes rd a m ++ readBytes rd (a + m) n := by
  induction m generalizing a with
  | zero => simp [readBytes, countFrom]
  | succ m ih =>
    rw [show m + 1 + n = m + n + 1 from by omega]
    exact congrArg (rd a :: ·) ((ih (a + 1)).trans (by rw [show a + 1 + m = a + (m + 1) from by omega]; rfl))

/-- A run of bytes of two readers that agree on it. -/
theorem readBytes_congr {f g : Nat → Byte} {n : Nat} : ∀ {a : Nat}, (∀ k, a ≤ k → k < a + n → f k = g k) →
    readBytes f a n = readBytes g a n := by
  induction n with
  | zero => intros; rfl
  | succ n ih =>
    intro a h
    exact congrArg₂ List.cons (h a (Nat.le_refl a) (by omega)) (ih fun k hl hk => h k (by omega) (by omega))

/-- Bytes beside those written read as before. -/
theorem readBytes_writeBytes_outside (t : Tab Byte) {a b n : Nat} {bs : List Byte} (h : b + n ≤ a ∨ a + bs.length ≤ b) :
    readBytes (fun k => (t.writeBytes a bs).read 0 k) b n = readBytes (fun k => t.read 0 k) b n := by
  induction n generalizing b with
  | zero => rfl
  | succ n ih =>
    exact congrArg₂ List.cons (Machine.Tab.read_writeBytes_outside t (by omega)) (ih (by omega))

theorem readBytes_leBytes (t : Tab Byte) (a n v : Nat) :
    readBytes (fun k => (t.writeBytes a (leBytes n v)).read 0 k) a n = leBytes n v := by
  have h := readBytes_writeBytes (leBytes n v) t a
  rwa [leBytes_length] at h

/-- An empty table reads as zeros. -/
theorem readBytes_empty (a n : Nat) : readBytes (fun k => Tab.read ([] : Tab Byte) 0 k) a n = leBytes n 0 := by
  induction n generalizing a with
  | zero => rfl
  | succ n ih => exact congrArg (0 :: ·) (ih (a + 1))

end Sys2Proof

namespace Sys2Proof.Machine

/-! ### The bytes of the notices (R375) -/

/-- Kind, partition and core take the first 8 bytes of a notice. -/
theorem noticeBytes_length (kind part core : Nat) (body : List (Nat × List Byte)) : (noticeBytes kind part core body).length = 64 := by
  simp [noticeBytes, readBytes, countFrom]

/-- A link event names its partition and a byte of its own (R375). -/
theorem noticeBytes_link (what part n : Nat) : noticeBytes 8 part 0 [(8, leBytes 1 what), (9, leBytes 1 n)]
    = leBytes 2 8 ++ leBytes 2 part ++ leBytes 4 0 ++ leBytes 1 what ++ leBytes 1 n ++ leBytes 54 0 := by
  unfold noticeBytes
  dsimp only [List.foldl]
  rw [readBytes_add _ 8 1 55, readBytes_add _ 9 1 54, readBytes_writeBytes_outside _ (b := 8) (by simp), readBytes_leBytes,
    readBytes_leBytes, readBytes_writeBytes_outside _ (b := 10) (by simp), readBytes_writeBytes_outside _ (b := 10) (by simp),
    readBytes_empty]
  simp only [List.append_assoc]

/-- A thermal event names its core, what happened, TEMP and POWER (R375). -/
theorem noticeBytes_thermal (what core temp power : Nat) :
    noticeBytes 9 0 core [(8, leBytes 1 what), (16, leBytes 4 temp), (20, leBytes 4 power)]
    = leBytes 2 9 ++ leBytes 2 0 ++ leBytes 4 core ++ (leBytes 1 what ++ leBytes 7 0) ++ leBytes 4 temp ++ leBytes 4 power
      ++ leBytes 40 0 := by
  unfold noticeBytes
  dsimp only [List.foldl]
  rw [readBytes_add _ 8 1 55, readBytes_add _ 9 7 48, readBytes_add _ 16 4 44, readBytes_add _ 20 4 40, readBytes_leBytes]
  rw [readBytes_writeBytes_outside _ (b := 8) (by simp), readBytes_writeBytes_outside _ (b := 8) (by simp), readBytes_leBytes,
    readBytes_writeBytes_outside _ (b := 9) (by simp), readBytes_writeBytes_outside _ (b := 9) (by simp),
    readBytes_writeBytes_outside _ (b := 9) (by simp), readBytes_writeBytes_outside _ (b := 16) (by simp), readBytes_leBytes,
    readBytes_writeBytes_outside _ (b := 24) (by simp), readBytes_writeBytes_outside _ (b := 24) (by simp),
    readBytes_writeBytes_outside _ (b := 24) (by simp), readBytes_empty, readBytes_empty]
  simp only [List.append_assoc]

/-! ### Notices told one after another (R374) -/

/-- The ring's slot of a notice by its number. -/
def noticeSlot (n : Nat) : Nat := 0x3000 + 64 * (n % 64)

/-- What a notice leaves of the host's side. -/
def HostSide.post (h : HostSide) (b : List Byte) : HostSide :=
  if (h.nwr - h.nrd).toNat = 64 then { h with heldNotices := h.heldNotices ++ [b] }
  else HostSide.raise { h with window := h.window.writeBytes (noticeSlot h.nwr.toNat) b, nwr := h.nwr + 1 } 1

theorem State.postBytes_eq (s : State) (b : List Byte) : s.postBytes b = { s with host := s.host.post b } := by
  unfold State.postBytes HostSide.post
  dsimp only
  split <;> rfl

/-- Vector 1 is pending or sent, as the table masks it or not (R368). -/
def HostSide.noticeRaised (h : HostSide) : Prop :=
  if (h.window.read 0 0x401C).getLsbD 0 then h.pending.getLsbD 1 = true else 1 ∈ h.msix

/-- Notices told one after another: each in the ring's next slot while it has room, then held; the rest of the window stands, and
vector 1 is raised. -/
structure HostSide.Told (h t : HostSide) (news : List (List Byte)) : Prop where
  slots : ∀ k b, news[k]? = some b → (h.nwr - h.nrd).toNat + k < 64 →
    readBytes (fun a => t.window.read 0 a) (noticeSlot (h.nwr.toNat + k)) 64 = b
  window : ∀ a, (∀ k < news.length, (h.nwr - h.nrd).toNat + k < 64 →
    a < noticeSlot (h.nwr.toNat + k) ∨ noticeSlot (h.nwr.toNat + k) + 64 ≤ a) → t.window.read 0 a = h.window.read 0 a
  nwr : t.nwr = h.nwr + BitVec.ofNat 16 (min news.length (64 - (h.nwr - h.nrd).toNat))
  held : t.heldNotices = h.heldNotices ++ news.drop (64 - (h.nwr - h.nrd).toNat)
  stays : h.noticeRaised → t.noticeRaised
  raised : (h.nwr - h.nrd).toNat < 64 → news ≠ [] → t.noticeRaised

theorem HostSide.told_nil (h : HostSide) : h.Told h [] where
  slots := fun _ _ hk => by simp at hk
  window := fun _ _ => rfl
  nwr := by simp
  held := by simp
  stays := id
  raised := fun _ hn => absurd rfl hn

theorem HostSide.raise_noticeRaised (h : HostSide) : (h.raise 1).noticeRaised := by
  have hv := h.raise_vector (n := 1) (by decide)
  unfold HostSide.noticeRaised
  split
  · next hm => rw [if_pos hm] at hv; exact hv.1
  · next hm => rw [if_neg hm] at hv; rw [hv]; simp

/-- Another vector raised leaves vector 1. -/
theorem HostSide.noticeRaised_raise {h : HostSide} (hr : h.noticeRaised) (n : Nat) : (h.raise n).noticeRaised := by
  unfold HostSide.noticeRaised at hr ⊢
  rw [HostSide.raise_window]
  unfold HostSide.raise
  split <;> split <;> simp_all

/-- A notice with room goes to the next slot, and vector 1 is raised. -/
theorem HostSide.post_room {h : HostSide} (hroom : (h.nwr - h.nrd).toNat < 64) (b : List Byte) :
    (∃ p m, h.post b = { h with
      window := h.window.writeBytes (noticeSlot h.nwr.toNat) b, nwr := h.nwr + 1, pending := p, msix := m })
    ∧ (h.post b).noticeRaised := by
  have he : h.post b = HostSide.raise { h with window := h.window.writeBytes (noticeSlot h.nwr.toNat) b, nwr := h.nwr + 1 } 1 :=
    if_neg (by omega)
  rw [he]
  exact ⟨HostSide.raise_frame _ 1, HostSide.raise_noticeRaised _⟩

/-- Slots follow one another through the turn of NWR. -/
theorem noticeSlot_next (n : BitVec 16) (k : Nat) : noticeSlot ((n + 1).toNat + k) = noticeSlot (n.toNat + (k + 1)) := by
  have h1 : (n + 1).toNat = (n.toNat + 1) % 2 ^ 16 := BitVec.toNat_add n 1
  unfold noticeSlot
  omega

/-- Fewer than 64 slots apart lie beside one another. -/
theorem noticeSlot_apart {n k : Nat} (h0 : 0 < k) (hk : k < 64) :
    noticeSlot n + 64 ≤ noticeSlot (n + k) ∨ noticeSlot (n + k) + 64 ≤ noticeSlot n := by
  unfold noticeSlot
  omega

/-- A notice with room, told before others. -/
theorem HostSide.Told.post_room {h t : HostSide} {b : List Byte} {news : List (List Byte)} (hb : b.length = 64)
    (hroom : (h.nwr - h.nrd).toNat < 64) (ht : (h.post b).Told t news) : h.Told t (b :: news) := by
  obtain ⟨⟨p, m, he⟩, hraised⟩ := HostSide.post_room hroom b
  rw [he] at ht hraised
  obtain ⟨hslots, hwindow, hnwr, hheld, hstays, -⟩ := ht
  have hused : (h.nwr + 1 - h.nrd).toNat = (h.nwr - h.nrd).toNat + 1 := by bv_omega
  simp only [hused, noticeSlot_next] at hslots hwindow hnwr hheld
  refine ⟨fun k e hk hl => ?slots, fun a ha => ?window, ?nwr, ?held, fun _ => hstays hraised, fun _ _ => hstays hraised⟩
  case slots =>
    cases k with
    | zero =>
      cases hk
      have hread : ∀ a, noticeSlot h.nwr.toNat ≤ a → a < noticeSlot h.nwr.toNat + 64 →
          t.window.read 0 a = (h.window.writeBytes (noticeSlot h.nwr.toNat) b).read 0 a := fun a hlo hhi =>
        hwindow a fun k hk hl => by
          have := noticeSlot_apart (n := h.nwr.toNat) (k := k + 1) (Nat.succ_pos k) (by omega)
          omega
      refine (readBytes_congr hread).trans ?_
      rw [← hb]
      exact readBytes_writeBytes _ _ _
    | succ k => exact hslots k e hk (by omega)
  case window =>
    rw [hwindow a fun k hk hl => ha (k + 1) (Nat.succ_lt_succ hk) (by omega)]
    have h0 : a < noticeSlot h.nwr.toNat ∨ noticeSlot h.nwr.toNat + 64 ≤ a := ha 0 (Nat.succ_pos _) hroom
    exact Tab.read_writeBytes_outside _ (by rw [hb]; omega)
  case nwr =>
    rw [hnwr, List.length_cons, show min (news.length + 1) (64 - (h.nwr - h.nrd).toNat)
      = 1 + min news.length (64 - ((h.nwr - h.nrd).toNat + 1)) from by omega, BitVec.ofNat_add]
    exact BitVec.add_assoc _ _ _
  case held =>
    rw [hheld, show 64 - (h.nwr - h.nrd).toNat = 64 - ((h.nwr - h.nrd).toNat + 1) + 1 from by omega, List.drop_succ_cons]

/-- A notice told before others. -/
theorem HostSide.Told.post {h t : HostSide} {b : List Byte} {news : List (List Byte)} (hb : b.length = 64)
    (hu : (h.nwr - h.nrd).toNat ≤ 64) (ht : (h.post b).Told t news) : h.Told t (b :: news) := by
  by_cases hfull : (h.nwr - h.nrd).toNat = 64
  · have he : h.post b = { h with heldNotices := h.heldNotices ++ [b] } := if_pos hfull
    rw [he] at ht
    obtain ⟨-, hwindow, hnwr, hheld, hstays, -⟩ := ht
    dsimp only at hwindow hnwr hheld
    refine ⟨fun k _ _ hk => by omega, fun a _ => hwindow a fun k _ hk => by omega, ?_, ?_, hstays, fun hl => by omega⟩
    · rw [hnwr, hfull]
      simp
    · rw [hheld, hfull]
      simp
  · exact ht.post_room hb (by omega)

theorem HostSide.post_used {h : HostSide} (hu : (h.nwr - h.nrd).toNat ≤ 64) (b : List Byte) :
    ((h.post b).nwr - (h.post b).nrd).toNat ≤ 64 := by
  by_cases hfull : (h.nwr - h.nrd).toNat = 64
  · rw [show h.post b = { h with heldNotices := h.heldNotices ++ [b] } from if_pos hfull]
    exact hu
  · obtain ⟨⟨p, m, he⟩, -⟩ := HostSide.post_room (h := h) (by omega) b
    rw [he]
    bv_omega

/-- The apertures have no part in it. -/
theorem HostSide.Told.of_apertures {h t : HostSide} {a : Tab (Nat × Nat)} {news : List (List Byte)}
    (ht : HostSide.Told { h with apertures := a } t news) : h.Told t news := by
  obtain ⟨h1, h2, h3, h4, h5, h6⟩ := ht
  exact ⟨h1, h2, h3, h4, h5, h6⟩

/-- The same with nothing said of the rest of the window. -/
def HostSide.tells (h t : HostSide) (news : List (List Byte)) : Prop := (h.nwr - h.nrd).toNat ≤ 64 →
  (∀ k b, news[k]? = some b → (h.nwr - h.nrd).toNat + k < 64 →
    readBytes (fun a => t.window.read 0 a) (0x3000 + 64 * ((h.nwr.toNat + k) % 64)) 64 = b)
  ∧ t.nwr = h.nwr + BitVec.ofNat 16 (min news.length (64 - (h.nwr - h.nrd).toNat))
  ∧ t.heldNotices = h.heldNotices ++ news.drop (64 - (h.nwr - h.nrd).toNat)
  ∧ ((h.nwr - h.nrd).toNat < 64 → if (t.window.read 0 0x401C).getLsbD 0 then t.pending.getLsbD 1 = true else 1 ∈ t.msix)

theorem HostSide.Told.tells {h t : HostSide} {news : List (List Byte)} (hn : news ≠ [])
    (ht : (h.nwr - h.nrd).toNat ≤ 64 → h.Told t news) :
    h.tells t news := fun hu => ⟨(ht hu).slots, (ht hu).nwr, (ht hu).held, fun hl => (ht hu).raised hl hn⟩

theorem State.notice_host (s : State) (kind part core : Nat) (body : List (Nat × List Byte)) :
    (s.notice kind part core body).host = s.host.post (noticeBytes kind part core body) :=
  congrArg State.host (s.postBytes_eq _)

/-- One notice. -/
theorem State.notice_tells (s : State) (kind part core : Nat) (body : List (Nat × List Byte)) :
    s.host.tells (s.notice kind part core body).host [noticeBytes kind part core body] := by
  refine HostSide.Told.tells (List.cons_ne_nil _ _) fun hu => ?_
  rw [State.notice_host]
  exact (HostSide.told_nil _).post (noticeBytes_length _ _ _ _) hu

theorem State.endPartition_host (s : State) (p : Nat) : ∃ a, (s.endPartition p).host = { s.host with apertures := a } := by
  unfold State.endPartition
  split
  · exact ⟨_, rfl⟩
  · exact ⟨_, rfl⟩

theorem State.endParts_host (s : State) (f : Nat → Partition → Bool) : ∃ a, (s.endParts f).host = { s.host with apertures := a } := by
  unfold State.endParts
  generalize s.partitions.filter _ = l
  induction l generalizing s with
  | nil => exact ⟨_, rfl⟩
  | cons e r ih =>
    obtain ⟨a, ha⟩ := ih (s.endPartition e.1)
    obtain ⟨b, hb⟩ := s.endPartition_host e.1
    exact ⟨a, ha.trans (by rw [hb])⟩

/-! ### The link (R378, R379) -/

/-- Partitions end one after another, each told of by a notice. -/
theorem State.lost_told (n : Nat) (l : List (Nat × Partition)) : ∀ s : State, (s.host.nwr - s.host.nrd).toNat ≤ 64 →
    s.host.Told (l.foldl (fun t p => (t.endPartition p.1).linkNotice 2 p.1 n) s).host
      (l.map fun p => noticeBytes 8 p.1 0 [(8, leBytes 1 2), (9, leBytes 1 n)]) := by
  induction l with
  | nil => exact fun s _ => HostSide.told_nil _
  | cons e r ih =>
    intro s hu
    obtain ⟨a, ha⟩ := s.endPartition_host e.1
    have hh : ((s.endPartition e.1).linkNotice 2 e.1 n).host
      = HostSide.post { s.host with apertures := a } (noticeBytes 8 e.1 0 [(8, leBytes 1 2), (9, leBytes 1 n)]) := by
      rw [← ha]
      exact State.notice_host _ _ _ _ _
    have ht := ih ((s.endPartition e.1).linkNotice 2 e.1 n) (by rw [hh]; exact HostSide.post_used (by exact hu) _)
    rw [hh] at ht
    exact (ht.post (noticeBytes_length _ _ _ _) (by exact hu)).of_apertures

/-- What the notices tell leaves beside the host's side as it is. -/
theorem State.linkNotice_rest (s : State) (what part n : Nat) : ∃ h, s.linkNotice what part n = { s with host := h } :=
  s.notice_frame _ _ _ _

theorem State.lost_rest (n : Nat) (l : List (Nat × Partition)) : ∀ (s : State) (q : Nat),
    let t := l.foldl (fun t p => (t.endPartition p.1).linkNotice 2 p.1 n) s
    t.mem = s.mem ∧ t.pod = s.pod ∧ t.partitions.get q = if q ∈ l.map (·.1) then none else s.partitions.get q := by
  induction l with
  | nil => exact fun s q => ⟨rfl, rfl, rfl⟩
  | cons e r ih =>
    intro s q
    obtain ⟨h, he⟩ := (s.endPartition e.1).linkNotice_rest 2 e.1 n
    obtain ⟨hmem, hpod, hget⟩ := ih ((s.endPartition e.1).linkNotice 2 e.1 n) q
    obtain ⟨gmem, -, gpod⟩ := s.endPartition_rest e.1
    have gget := s.endPartition_get e.1 q
    refine ⟨hmem.trans (by rw [he]; exact gmem), hpod.trans (by rw [he]; exact gpod), hget.trans ?_⟩
    rw [show ((s.endPartition e.1).linkNotice 2 e.1 n).partitions = (s.endPartition e.1).partitions from by rw [he], gget]
    by_cases hq : q = e.1
    · simp [hq]
    · simp only [List.map_cons, List.mem_cons, hq, false_or, if_false]

/-- A failed port is noted and told of. -/
theorem portFailure_effects (s : State) (port : BitVec 4) : ∃ t, exec (.portFailure port) s = .next t
    ∧ t.pod.failedPorts = addTo s.pod.failedPorts port.toNat ∧ t.mem = s.mem ∧ t.partitions = s.partitions
    ∧ s.host.tells t.host [leBytes 2 8 ++ leBytes 2 0 ++ leBytes 4 0 ++ leBytes 1 0 ++ leBytes 1 port.toNat ++ leBytes 54 0] := by
  refine ⟨_, rfl, ?_⟩
  rw [← noticeBytes_link]
  generalize hu : ({ s with pod := { s.pod with failedPorts := addTo s.pod.failedPorts port.toNat } } : State) = u
  obtain ⟨h, he⟩ := u.linkNotice_rest 0 0 port.toNat
  have ht := u.notice_tells 8 0 0 [(8, leBytes 1 0), (9, leBytes 1 port.toNat)]
  rw [show s.host = u.host from by rw [← hu]]
  refine ⟨?_, ?_, ?_, ht⟩
  · rw [he, ← hu]
  · rw [he, ← hu]
  · rw [he, ← hu]

/-- A package that cannot be reached is told of, then each partition that spans it ends and is told of. -/
theorem packageUnreachable_told (s : State) (n : Nat) (l : List (Nat × Partition)) (u : State) (hu : u.host = s.host) :
    s.host.tells (l.foldl (fun t p => (t.endPartition p.1).linkNotice 2 p.1 n) (u.linkNotice 1 0 n)).host
      (noticeBytes 8 0 0 [(8, leBytes 1 1), (9, leBytes 1 n)]
        :: l.map fun p => noticeBytes 8 p.1 0 [(8, leBytes 1 2), (9, leBytes 1 n)]) := by
  refine HostSide.Told.tells (List.cons_ne_nil _ _) fun hused => ?_
  have hh : (u.linkNotice 1 0 n).host = s.host.post (noticeBytes 8 0 0 [(8, leBytes 1 1), (9, leBytes 1 n)]) := by
    rw [← hu]
    exact State.notice_host _ _ _ _ _
  have ht := State.lost_told n l (u.linkNotice 1 0 n) (by rw [hh]; exact HostSide.post_used hused _)
  rw [hh] at ht
  exact ht.post (noticeBytes_length _ _ _ _) hused

theorem packageUnreachable_effects (s : State) (pkg : BitVec 6) : ∃ t, exec (.packageUnreachable pkg) s = .next t
    ∧ t.pod.unreachable = addTo s.pod.unreachable pkg.toNat ∧ t.mem = s.mem
    ∧ (∀ p x, s.partitions.get p = some x → pkg.toNat ∈ x.spans → t.partitions.get p = none)
    ∧ s.host.tells t.host
      ((leBytes 2 8 ++ leBytes 2 0 ++ leBytes 4 0 ++ leBytes 1 1 ++ leBytes 1 pkg.toNat ++ leBytes 54 0)
        :: (s.partitions.filter fun p => p.2.spans.contains pkg.toNat).map fun p =>
          leBytes 2 8 ++ leBytes 2 p.1 ++ leBytes 4 0 ++ leBytes 1 2 ++ leBytes 1 pkg.toNat ++ leBytes 54 0) := by
  have hu : exec (.packageUnreachable pkg) s = .next ((s.partitions.filter fun p => p.2.spans.contains pkg.toNat).foldl
    (fun t p => (t.endPartition p.1).linkNotice 2 p.1 pkg.toNat)
    (State.linkNotice { s with pod := { s.pod with unreachable := addTo s.pod.unreachable pkg.toNat } } 1 0 pkg.toNat)) := rfl
  generalize hv : ({ s with pod := { s.pod with unreachable := addTo s.pod.unreachable pkg.toNat } } : State) = u at hu
  have ht := packageUnreachable_told s pkg.toNat (s.partitions.filter fun p => p.2.spans.contains pkg.toNat) u (by rw [← hv])
  have hrest := State.lost_rest pkg.toNat (s.partitions.filter fun p => p.2.spans.contains pkg.toNat) (u.linkNotice 1 0 pkg.toNat)
  obtain ⟨h, he⟩ := u.linkNotice_rest 1 0 pkg.toNat
  simp only [noticeBytes_link] at ht
  refine ⟨_, hu, ?_, ?_, fun p x hp hx => ?_, ht⟩
  · rw [(hrest 0).2.1, he, ← hv]
  · rw [(hrest 0).1, he, ← hv]
  · refine (hrest p).2.2.trans (if_pos ?_)
    exact List.mem_map.2 ⟨(p, x), List.mem_filter.2 ⟨Tab.get_mem hp, by simpa using hx⟩, rfl⟩

/-! ### Clock and power (R358, R381) -/

theorem State.die_modDie (s : State) (d : Nat) (f : Die → Die) : (s.modDie d f).die d = f (s.die d) := Tab.read_put_same _ _ _ _

/-- A thermal event's notice: what happened, and two free values (log 15). -/
theorem State.thermalNotice_tells (s : State) (d what : Nat) (hw : leBytes 8 what = leBytes 1 what ++ leBytes 7 0) :
    ∃ temp power, s.host.tells (s.thermalNotice d what).host
      [leBytes 2 9 ++ leBytes 2 0 ++ leBytes 4 (64 * d) ++ leBytes 8 what ++ leBytes 4 temp ++ leBytes 4 power ++ leBytes 40 0] := by
  refine ⟨(Config.freeValue s.fresh).toNat, (Config.freeValue (s.fresh + 1)).toNat, ?_⟩
  rw [hw, ← noticeBytes_thermal]
  exact s.notice_tells _ _ _ _

/-- A thermal event's notice leaves memory, the dies, the partitions and the controller. -/
theorem State.thermalNotice_kept (s : State) (d what : Nat) : let t := s.thermalNotice d what
    t.mem = s.mem ∧ (∀ k, t.die k = s.die k) ∧ (∀ p, t.partitions.get p = s.partitions.get p) ∧ t.mgmt = s.mgmt := by
  obtain ⟨h, he⟩ := s.notice_frame 9 0 (64 * d) [(8, leBytes 1 what), (16, leBytes 4 (Config.freeValue s.fresh).toNat),
    (20, leBytes 4 (Config.freeValue (s.fresh + 1)).toNat)]
  unfold State.thermalNotice
  rw [he]
  exact ⟨rfl, fun _ => rfl, fun _ => rfl, rfl⟩

/-- Vector 2 and READY are no part of what notices tell. -/
theorem HostSide.tells.raised {h t : HostSide} {news : List (List Byte)} (ht : h.tells t news) (n : Nat) :
    h.tells { t.raise n with ready := false } news := fun hu => by
  obtain ⟨hslots, hnwr, hheld, hraised⟩ := ht hu
  obtain ⟨p, m, he⟩ := t.raise_frame n
  have hr := fun hl => HostSide.noticeRaised_raise (h := t) (hraised hl) n
  rw [he] at hr ⊢
  exact ⟨hslots, hnwr, hheld, hr⟩

/-- An overtemperature stop: READY falls, every partition is lost, and what follows its notice takes the power. -/
theorem overtempPowerOff_effects (s : State) (d : BitVec 3) : ∃ t, exec (.overtempPowerOff d) s = .next t
    ∧ t.mgmt.powered = false ∧ t.host.ready = false ∧ (∀ p, t.partitions.get p = none)
    ∧ t.mgmt.errorLog = s.mgmt.errorLog ++ [(0, d.toNat)]
    ∧ (∃ temp power, s.host.tells t.host [leBytes 2 9 ++ leBytes 2 0 ++ leBytes 4 (64 * d.toNat) ++ leBytes 8 2 ++ leBytes 4 temp
      ++ leBytes 4 power ++ leBytes 40 0])
    ∧ Sys2Proof.Machine.step { t with agenda := [] } = .fault .unpowered := by
  obtain ⟨a, ha⟩ := s.endParts_host fun _ _ => true
  obtain ⟨-, hmgmt⟩ := s.endParts_rest fun _ _ => true
  have hnone := s.endParts_all
  obtain ⟨-, -, hparts, hkept⟩ := (s.endParts fun _ _ => true).thermalNotice_kept d.toNat 2
  obtain ⟨temp, power, ht⟩ := (s.endParts fun _ _ => true).thermalNotice_tells d.toNat 2 rfl
  have he : exec (.overtempPowerOff d) s = execOvertempPowerOff d s := rfl
  unfold execOvertempPowerOff at he
  rw [ha] at ht
  rw [hmgmt] at hkept
  generalize (s.endParts fun _ _ => true).thermalNotice d.toNat 2 = v at he ht hparts hkept
  refine ⟨_, he, rfl, rfl, fun p => (hparts p).trans (hnone p), ?_, ⟨temp, power, ht.raised 2⟩, rfl⟩
  exact congrArg (fun c : Mgmt => c.errorLog ++ [(0, d.toNat)]) hkept

/-! ### Page moves (R168) -/

/-- No translation of the old place is kept. -/
theorem State.migrate_tlb (s : State) (entry new : Nat) :
    let old := bitsOf (s.readPhys entry) 51 16 * 2 ^ 16
    let size := s.leafSize entry
    (∀ x ∈ (s.migrate entry new).cores, ∀ n ∈ x.2.tlb, ¬ (old ≤ n.pa ∧ n.pa < old + size))
      ∧ ∀ x ∈ (s.migrate entry new).quads, ∀ n ∈ x.2.tlb, ¬ (old ≤ n.pa ∧ n.pa < old + size) := by
  intro old size
  have keep : ∀ (l : List TlbEntry), ∀ n ∈ l.filter (fun t => !(decide (old ≤ t.pa) && decide (t.pa < old + size))),
      ¬ (old ≤ n.pa ∧ n.pa < old + size) := fun l n hn => by
    rintro ⟨hlo, hhi⟩
    have hk := (List.mem_filter.1 hn).2
    simp [hlo, hhi] at hk
  refine ⟨fun x hx => ?_, fun x hx => ?_⟩
  · obtain ⟨y, -, rfl⟩ := List.mem_map.1 hx
    exact keep _
  · obtain ⟨y, -, rfl⟩ := List.mem_map.1 hx
    exact keep _

/-! ### Sensors (R380; log 53) -/

/-- A reading answers the value, and changes no sensor. -/
theorem pldmSensorRead_reads {s : State} {d : BitVec 3} {d8 : BitVec 8} {x : X64} (h : s.sensor d.toNat d8.toNat = x) :
    ∃ t, exec (.pldmSensorRead d d8) s = .next t ∧ t.mgmt.replies = s.mgmt.replies ++ [leBytes 8 x.toNat]
      ∧ t.dies = s.dies ∧ t.sites = s.sites := by
  subst h
  exact ⟨_, rfl, rfl, rfl, rfl⟩

/-- The sensors of a site, by the number's upper half. -/
theorem State.sensor_site (s : State) (d n : Nat) : let st := s.site (n % 16)
    (n / 16 = 1 → s.sensor d n = st.hits) ∧ (n / 16 = 2 → s.sensor d n = st.misses) ∧ (n / 16 = 3 → s.sensor d n = st.flushes)
      ∧ (n / 16 = 4 → s.sensor d n = st.pierCmds) ∧ (n / 16 = 5 → s.sensor d n = st.dramCor) := by
  refine ⟨fun h => ?_, fun h => ?_, fun h => ?_, fun h => ?_, fun h => ?_⟩
  all_goals
    unfold State.sensor
    rw [h]
    rfl

/-- Settles O56: replies and counts as the controller gives them, and notices told one after another. -/
theorem managementEvents : Obligations.ManagementEvents := by
  unfold Obligations.ManagementEvents
  intro s e d8 idx d which img nonce mw port site pkg entry new m sha gives h used tells link thermal
  obtain ⟨h1, h2, h3, h4, h5⟩ := s.sensor_site d.toNat d8.toNat
  refine ⟨rfl, rfl, ⟨fun hd => ?die, fun hd => ?stretch, fun hd => pldmSensorRead_reads (h1 hd), fun hd => pldmSensorRead_reads (h2 hd),
    fun hd => pldmSensorRead_reads (h3 hd), fun hd => pldmSensorRead_reads (h4 hd), fun hd => pldmSensorRead_reads (h5 hd)⟩,
    fun hw => ?firmware, rfl, rfl, rfl, rfl, rfl, fun hd => ?slot, rfl, rfl, rfl, rfl, ?challenge, rfl, rfl, fun hlo hhi => ?limit,
    fun ho => ?nolimit, fun hs => ?begin, fun hs => ?ends, ?off, rfl, ?port, ?unreachable, ?flush, fun hm hn => ?move, fun hm => ?stay,
    fun a b r hr => ?moved, fun hn => ?none⟩
  case die =>
    subst hd
    exact pldmSensorRead_reads rfl
  case stretch =>
    subst hd
    exact pldmSensorRead_reads rfl
  case firmware =>
    have hk : which.toNat < 3 := by bv_omega
    refine ⟨_, congrArg Host.Outcome.next (if_neg hw), ?_, ?_, rfl⟩
    · exact Vector.getElem?_setIfInBounds_self_of_lt hk
    · exact Vector.getElem?_setIfInBounds_self_of_lt hk
  case slot => exact congrArg (fun b => Host.Outcome.next (s.mgmtReply b)) (if_neg hd)
  case challenge =>
    refine congrArg (fun b => Host.Outcome.next (s.mgmtReply (Config.sign b))) ?_
    simp [countFrom, State.measurement, digest, sha, m]
  case limit => exact congrArg Host.Outcome.next (if_pos ⟨hlo, hhi⟩)
  case nolimit => exact congrArg Host.Outcome.next (if_neg (by omega))
  case begin =>
    let u := s.modDie d.toNat fun v => { v with stretching := true }
    obtain ⟨hmem, hdie, -, -⟩ := u.thermalNotice_kept d.toNat 0
    exact ⟨u.thermalNotice d.toNat 0, congrArg Host.Outcome.next (if_neg (by simp [hs])), hmem, (hdie _).trans (State.die_modDie _ _ _),
      u.thermalNotice_tells d.toNat 0 rfl⟩
  case ends =>
    let u := State.modDie { s with fresh := s.fresh + 1 } d.toNat fun v =>
      { v with stretching := false, stretch := v.stretch + Config.freeValue s.fresh }
    obtain ⟨hmem, hdie, -, -⟩ := u.thermalNotice_kept d.toNat 1
    exact ⟨u.thermalNotice d.toNat 1, Config.freeValue s.fresh, congrArg Host.Outcome.next (if_pos hs), hmem,
      (hdie _).trans (State.die_modDie _ _ _), u.thermalNotice_tells d.toNat 1 rfl⟩
  case off => exact overtempPowerOff_effects s d
  case port => exact portFailure_effects s port
  case unreachable => exact packageUnreachable_effects s pkg
  case flush =>
    refine ⟨_, rfl, rfl, ?_, ?_⟩
    · exact congrArg Site.flushes ((s.site_modSite _ _ _).trans (if_pos rfl))
    · rw [State.site_modSite, if_pos rfl]
      intro l hl
      obtain ⟨k, -, rfl⟩ := List.mem_map.1 hl
      rfl
  case move =>
    refine congrArg Host.Outcome.next (if_pos ?_)
    simp only [hm, Bool.true_and, Bool.not_eq_true', List.any_eq_false, beq_iff_eq]
    exact hn
  case stay => exact congrArg Host.Outcome.next (if_neg (by simp [hm]))
  case moved =>
    intro old size
    have ht := State.migrate_tlb { s with migrating := r } a b
    refine ⟨State.migrate { s with migrating := r } a b, ?_, rfl, ht⟩
    change execPageMigrationEnd s = _
    rw [execPageMigrationEnd, hr]
  case none =>
    change execPageMigrationEnd s = _
    rw [execPageMigrationEnd, hn]

end Sys2Proof.Machine
end

section
/-!
PROOFS. O59: what a global store or an atomic leaves beside the bytes it stores (R169, R170, R172, R173, R178, R180, R191).
-/
namespace Sys2Proof.Machine

/-! ### Stores and what is observed beside them -/

/-- Between two states only bytes at locations of a list have been stored, and of the contexts only the issuing one has
observed completion events. -/
def State.storesObserving (s t : State) (ls : List Nat) : Prop :=
  (t.issue.core = s.issue.core ∧ t.issue.ctx = s.issue.ctx ∧ t.issue.rrb = s.issue.rrb)
    ∧ (∀ l, l ∉ ls → Memory.read t.mem l = Memory.read s.mem l)
    ∧ (∀ c, (t.cs c).segs = (s.cs c).segs ∧ (t.cs c).sems = (s.cs c).sems) ∧ s.othersKept t ∧ ∃ l, t.cx = s.cx.observe l

theorem State.storesObserving.trans {s t u : State} {ls : List Nat} (h : s.storesObserving t ls) (k : t.storesObserving u ls) :
    s.storesObserving u ls := by
  obtain ⟨⟨h1, h2, h3⟩, h4, h5, h6, l, h7⟩ := h
  obtain ⟨⟨k1, k2, k3⟩, k4, k5, k6, m, k7⟩ := k
  refine ⟨⟨k1.trans h1, k2.trans h2, k3.trans h3⟩, fun a ha => (k4 a ha).trans (h4 a ha),
    fun c => ⟨(k5 c).1.trans (h5 c).1, (k5 c).2.trans (h5 c).2⟩, fun c j hcj => ?_, l ++ m, ?_⟩
  · exact (k6 c j (by rw [h1, h2]; exact hcj)).trans (h6 c j hcj)
  · rw [k7, h7, Ctx.observe_observe]

/-- A read stores nothing. -/
theorem State.reads.storesObserving {s t : State} (h : s.reads t) (hk : s.issue.ctx < 4) (ls : List Nat) :
    s.storesObserving t ls := by
  obtain ⟨⟨h1, h2, h3⟩, ⟨hmem, -⟩, -, hcs, m, l, hccs⟩ := h
  have hcore : t.cs s.issue.core = { s.ccs.setCtx s.issue.ctx (s.cx.observe l) with mon := m } := by
    rw [← hccs, State.ccs, h1]
  refine ⟨⟨h1, h2, h3⟩, fun _ _ => by rw [hmem], fun c => ?_, fun c j hcj => ?_, l, ?_⟩
  · by_cases hc : c = s.issue.core
    · rw [hc, hcore]
      exact ⟨rfl, rfl⟩
    · rw [hcs c hc]
      exact ⟨rfl, rfl⟩
  · by_cases hc : c = s.issue.core
    · rw [State.ctx, hc, hcore]
      exact CoreState.ctx_setCtx_other _ (hcj.resolve_left fun h => h hc) _
    · rw [State.ctx, hcs c hc]
      rfl
  · change t.ccs.ctx t.issue.ctx = _
    rw [hccs, h2]
    exact CoreState.ctx_setCtx _ hk _

/-- A store changes no context. -/
theorem State.memStores.ctx {s t : State} {ls : List Nat} (h : s.memStores t ls) (c j : Nat) : t.ctx c j = s.ctx c j := by
  obtain ⟨m, hm⟩ := h.2.2 c
  rw [State.ctx, hm]
  rfl

theorem State.memStores.cx {s t : State} {ls : List Nat} (h : s.memStores t ls) : t.cx = s.cx := by
  change t.ctx t.issue.core t.issue.ctx = _
  rw [h.2.1]
  exact h.ctx _ _

/-- A store changes no segment and no semaphore. -/
theorem State.memStores.sets {s t : State} {ls : List Nat} (h : s.memStores t ls) (c : Nat) :
    (t.cs c).segs = (s.cs c).segs ∧ (t.cs c).sems = (s.cs c).sems := by
  obtain ⟨m, hm⟩ := h.2.2 c
  rw [hm]
  exact ⟨rfl, rfl⟩

/-- A store to some locations is a store to more of them. -/
theorem State.memStores.mono {s t : State} {ls ms : List Nat} (h : s.memStores t ls) (hs : ∀ l ∈ ls, l ∈ ms) :
    s.memStores t ms :=
  ⟨fun l hl => h.1 l fun hm => hl (hs l hm), h.2⟩

theorem State.memStores.storesObserving {s t : State} {ls : List Nat} (h : s.memStores t ls) : s.storesObserving t ls := by
  refine ⟨by rw [h.2.1]; exact ⟨rfl, rfl, rfl⟩, h.1, h.sets, fun c j _ => h.ctx c j, [], ?_⟩
  rw [Ctx.observe_nil]
  exact h.cx

/-- Pending results are no segment and no semaphore. -/
theorem Keeps.sets {s t : State} {regs : List Reg} (h : Keeps s t regs) (c : Nat) :
    (t.cs c).segs = (s.cs c).segs ∧ (t.cs c).sems = (s.cs c).sems := by
  obtain ⟨-, hother, hcore, -⟩ := h
  by_cases hc : c = s.issue.core
  · subst hc
    rw [State.cs, hcore]
    exact ⟨rfl, rfl⟩
  · rw [State.cs, hother c hc]
    exact ⟨rfl, rfl⟩

/-- Pending results, after events that the issuing context has observed, are all that a read changes of its context. -/
theorem State.storesObserving.onlyRead {s u t : State} {ls : List Nat} {regs : List Reg} (hk : s.issue.ctx < 4)
    (h : s.storesObserving u ls) (k : u.onlyRegs t regs) : s.onlyRead t regs := by
  obtain ⟨-, -, -, -, l, hl⟩ := h
  have hs : t.cx.stale = (s.cx.observe l).stale := by rw [k.1, ← hl]
  have hx : (s.modCx fun c => { c with stale := t.cx.stale }).cx = u.cx := by
    rw [cx_modCx s hk, hs, hl]
    rfl
  refine ⟨⟨l, hs⟩, ?_⟩
  unfold State.onlyRegs at k ⊢
  rwa [hx]

/-! ### The frame -/

/-- Only locations of `ls` were stored to, no segment changed, and of the issuing context only results of `regs` became pending
and completion events were observed: what the statement says of an atomic. -/
def State.exchanged (s t : State) (ls : List Nat) (regs : List Reg) : Prop :=
  (∀ l, l ∉ ls → Memory.read t.mem l = Memory.read s.mem l)
    ∧ (∀ c, (t.cs c).segs = (s.cs c).segs ∧ (t.cs c).sems = (s.cs c).sems) ∧ s.othersKept t ∧ s.onlyRead t regs

/-- A store, with what is observed, and then results of registers. -/
theorem State.storesObserving.exchanged {s u v : State} {ls : List Nat} {regs : List Reg} (hk : s.issue.ctx < 4)
    (h : s.storesObserving u ls) (k : Keeps u v regs) (n : Nat) : s.exchanged { v with nextId := n } ls regs := by
  have hread := h.onlyRead hk k.2.2.2.2.1
  have hsets := k.sets
  obtain ⟨⟨hcore, hctx, -⟩, hmem, hseg, hothers, -⟩ := h
  obtain ⟨hrest, -, -, kothers, -⟩ := k
  refine ⟨fun l hl => ?_, fun c => ⟨(hsets c).1.trans (hseg c).1, (hsets c).2.trans (hseg c).2⟩, fun c j hcj => ?_, hread⟩
  · change Memory.read v.mem l = _
    rw [show v.mem = u.mem by rw [← hrest]]
    exact hmem l hl
  · exact (kothers c j (by rw [hcore, hctx]; exact hcj)).trans (hothers c j hcj)

/-- A store, with what is observed, and then a read that owes results. -/
theorem State.storesObserving.loads {s u t : State} {ls : List Nat} {regs : List Reg} (hk : s.issue.ctx < 4)
    (h : s.storesObserving u ls) (k : u.readsOwing t regs) : s.exchanged t ls regs := by
  obtain ⟨v, w, n, hv, hw, rfl⟩ := k
  exact (h.trans (hv.storesObserving (by rw [h.1.2.1]; exact hk) ls)).exchanged hk hw n

/-- A store of a bundle that reads no memory leaves every context as it is. -/
theorem State.memStores.frame {s t : State} {ls : List Nat} (h : s.memStores t ls) : s.pushed t ls [] := by
  refine ⟨h.1, h.sets, fun c j _ => h.ctx c j, ?_⟩
  unfold State.onlyRegs
  rw [h.cx]
  exact (Keeps.refl s []).2.2.2.2.1

/-! ### The accesses -/

/-- What was checked has its locations. -/
theorem State.check_inv {s : State} {va n lane : Nat} {w : Bool} {ls : List Nat} (h : s.check va n lane w = .ok ls) :
    s.locs s.issue.core va n w = .ok ls := by
  unfold State.check State.accessTrap at h
  split at h
  · cases h
    assumption
  · cases h

/-- When the lanes' check answers, every lane has its locations (R176). -/
theorem State.checkLanes_inv {s : State} {addr : Nat → Nat} {w : Bool} {l : List Nat} {ps : List (Nat × List Nat)}
    (h : s.checkLanes addr w l = .ok ps) : ∀ i ∈ l, ∃ ls, s.locs s.issue.core (addr i) 4 w = .ok ls := by
  induction l generalizing ps with
  | nil => simp
  | cons a r ih =>
    obtain ⟨ls, ha, h⟩ := bind_inv h
    obtain ⟨rest, hr, -⟩ := bind_inv h
    exact List.forall_mem_cons.mpr ⟨⟨ls, State.check_inv ha⟩, ih hr⟩

/-- What an atomic reads enters for its destinations, whether its word is sound or an error is reported (R67, R175). -/
theorem State.loadOf_owing {s : State} (hk : s.issue.ctx < 4) {bad : Option Nat} {dests : List (Reg × RegVal)} {regs : List Reg}
    (hd : ∀ e ∈ dests, e.1 ∈ regs) (phys : Nat) (vas : List Nat) {ls : List Nat} (hb : bad = none ∨ bad = s.soiled ls) :
    s.readsOwing (s.loadOf bad dests phys vas ls) regs := by
  rcases hb with rfl | rfl
  · exact ((State.reads.refl s).observeWords hk ls).loadEnters hk .memory hd 0 phys false
  · exact (State.reads.refl s).globalLoad hk hd phys vas ls

/-- An atomic observes what its word announces, stores to the word only where it holds no error, and then enters what it has
read (R169, R172, R173, R175, R191). -/
theorem State.atomic_inv {s t : State} {va n : Nat} {d : BitVec 6} {f : Nat → Option Nat} (h : s.atomic va n d f = .ok t) :
    ∃ ls, s.locs s.issue.core va n true = .ok ls ∧ ∃ u w,
      let r := s.observeWords s.icore s.ictx ls
      (u = r.touchAll r.icore va n ls true ∨ s.soiled ls = none ∧ ∃ bs, u = r.storeAt va n ls bs)
        ∧ t = u.loadOf (s.soiled ls) (r.xDest d w) (r.physOf va) (countFrom va n) ls := by
  unfold State.atomic at h
  split at h
  · cases h
  · obtain ⟨ls, hls, h⟩ := bind_inv h
    cases h
    refine ⟨ls, State.check_inv hls, _, _, ?_, rfl⟩
    split
    · next v hv =>
      have hs : (s.soiled ls).isNone = true := (Option.filter_eq_some_iff.mp hv).2
      exact .inr ⟨Option.isNone_iff_eq_none.mp hs, _, rfl⟩
    · exact .inl rfl

section
variable {s t : State} (hq : s.quiet)
include hq

/-- A store leaves a quiet state. -/
theorem State.storeAt_quiet (va n : Nat) (ls : List Nat) (bs : List Byte) : (s.storeAt va n ls bs).quiet := by
  have ht := State.touchAll_quiet hq s.icore va n ls true
  unfold State.storeAt
  dsimp only
  split
  · exact State.gstore_keeps_quiet ht _ _
  · exact List.foldlRecOn _ _ ht fun _ hu _ _ => State.gstore_keeps_quiet hu _ _

/-- What a read observes leaves a quiet state. -/
theorem State.observeWords_quiet (ls : List Nat) : (s.observeWords s.icore s.ictx ls).quiet :=
  State.modCS_quiet hq _ _ (hq.core s.icore)

/-- A scatter stores to the locations of its lanes. -/
theorem State.scatter_memStores {q : VReg} {k : BitVec 64} {addr : Nat → Nat} (h : s.scatter q k addr = .ok t) :
    ∃ f : Nat → List Nat, (∀ l ∈ selected k, s.locs s.issue.core (addr l) 4 true = .ok (f l))
      ∧ s.memStores t ((selected k).flatMap f) := by
  obtain ⟨ps, hps, -⟩ := bind_inv h
  have hlanes : ∀ l, ∃ ls, l ∈ selected k → s.locs s.issue.core (addr l) 4 true = .ok ls := fun l =>
    if hl : l ∈ selected k then (State.checkLanes_inv hps l hl).imp fun _ h _ => h else ⟨[], fun h => absurd h hl⟩
  choose f hf using hlanes
  rw [State.scatter_ok q hf] at h
  cases h
  refine ⟨f, hf, (List.foldlRecOn (motive := fun u => u.quiet ∧ s.memStores u ((selected k).flatMap f)) (selected k) _
    ⟨hq, (State.noted.refl s s.icore).memStores _⟩ fun u hu l hl => ⟨?_, ?_⟩).2⟩
  · exact State.storeAt_quiet hu.1 _ _ _ _
  · exact hu.2.trans ((State.storeAt_memStores hu.1 (addr l) 4 (f l) (leBytes 4 (q.lane l).toNat)).mono fun a ha =>
      List.mem_flatMap.mpr ⟨l, hl, ha⟩)

/-- An atomic stores to the locations of its word, whose events it has observed (R172, R173, R191). -/
theorem State.atomic_exchanged (hk : s.issue.ctx < 4) {va n : Nat} {d : BitVec 6} {f : Nat → Option Nat}
    (h : s.atomic va n d f = .ok t) : ∃ ls, s.locs s.issue.core va n true = .ok ls ∧ s.exchanged t ls (destX s.issue.rrb d) := by
  obtain ⟨ls, hls, u, w, hu, rfl⟩ := State.atomic_inv h
  have hread := ((State.reads.refl s).observeWords hk ls).storesObserving hk ls
  have hstore : (s.observeWords s.icore s.ictx ls).memStores u ls := by
    rcases hu with rfl | ⟨-, bs, rfl⟩
    · exact (State.touchAll_noted _ _ _ _ _ _).memStores ls
    · exact State.storeAt_memStores (State.observeWords_quiet hq ls) va n ls bs
  have hsoil : s.soiled ls = none ∨ s.soiled ls = u.soiled ls := by
    rcases hu with rfl | ⟨hs, -⟩
    · exact .inr (by rw [State.soiled_touchAll]; rfl)
    · exact .inl hs
  have hdest := State.xDest_within (s := s.observeWords s.icore s.ictx ls) (d := d) (fun _ hr => hr) w
  have hall := hread.trans hstore.storesObserving
  exact ⟨ls, hls, hall.loads hk (State.loadOf_owing (by rw [hall.1.2.1]; exact hk) hdest _ _ hsoil)⟩

end

/-! ### The instructions -/

/-- Under a true guard a slot that ends without a halt did what its body does. -/
theorem slotOp_body {g : BitVec 4} {s t : State} {b : Except Halt State} (hg : s.readP g.toNat = .ok true)
    (h : slotOp g s b = .next t) (hv : t.issue.verdict = none) : b = .ok t := by
  rcases slotOp_inv h hv with ⟨hf, -⟩ | ⟨-, hb⟩
  · rw [hg] at hf
    cases hf
  · exact hb

section
variable {s t : State} {g : BitVec 4} (hq : s.quiet) (hg : s.readP g.toNat = .ok true) (hv : t.issue.verdict = none)
include hq hg hv

/-- ST (R170). -/
theorem st_pushed {d a i : BitVec 6} {z : BitVec 3} {x : X64} (hx : s.readX a = .ok x) (h : exec (.st g d a z i) s = .next t) :
    ∃ ls, s.locs s.issue.core (ldAddress x i (accessSize z)) (accessSize z) true = .ok ls ∧ s.pushed t ls [] := by
  have hb := bind_ok hx (slotOp_body hg h hv)
  obtain ⟨v, -, hb⟩ := bind_inv hb
  obtain ⟨ls, hls, hb⟩ := bind_inv hb
  cases hb
  exact ⟨ls, State.check_inv hls, (State.storeAt_memStores hq _ _ ls _).frame⟩

/-- A slot that scatters stores to the locations of the selected lanes (R178, R180). -/
theorem scatter_pushed {r : Except Halt VReg} {k : BitVec 64} {addr : Nat → Nat}
    (h : slotOp g s (r >>= fun q => s.scatter q k addr) = .next t) :
    ∃ f : Nat → List Nat, (∀ l ∈ selected k, s.locs s.issue.core (addr l) 4 true = .ok (f l))
      ∧ s.pushed t ((selected k).flatMap f) [] := by
  obtain ⟨q, -, hb⟩ := bind_inv (slotOp_body hg h hv)
  obtain ⟨f, hf, hs⟩ := State.scatter_memStores hq hb
  exact ⟨f, hf, hs.frame⟩

/-- A slot that reads its operands and then does an atomic (R172, R173). -/
theorem atomic_exchanged (hk : s.issue.ctx < 4) {r : Except Halt X64} {x : X64} {n : Nat} {d : BitVec 6}
    {f : X64 → Nat → Option Nat} (h : slotOp g s (r >>= fun v => s.atomic x.toNat n d (f v)) = .next t) :
    ∃ ls, s.locs s.issue.core x.toNat n true = .ok ls ∧ s.exchanged t ls (destX s.issue.rrb d) := by
  obtain ⟨v, -, hb⟩ := bind_inv (slotOp_body hg h hv)
  exact State.atomic_exchanged hq hk hb

/-- CAS and CAS4 read the value they compare with first (R173). -/
theorem compare_exchanged (hk : s.issue.ctx < 4) {e r : Except Halt X64} {a d : BitVec 6} {x : X64} {n : Nat}
    {f : X64 → X64 → Nat → Option Nat} (hx : s.readX a = .ok x)
    (h : slotOp g s (e >>= fun c => s.readX a >>= fun y => r >>= fun v => s.atomic y.toNat n d (f c v)) = .next t) :
    ∃ ls, s.locs s.issue.core x.toNat n true = .ok ls ∧ s.exchanged t ls (destX s.issue.rrb d) := by
  obtain ⟨c, -, hb⟩ := bind_inv (slotOp_body hg h hv)
  have hb := bind_ok hx hb
  obtain ⟨v, -, hb⟩ := bind_inv hb
  exact State.atomic_exchanged hq hk hb

end

/-- Settles O59: a store and a scatter by the frame of the bytes they store, an atomic by that frame between the read that
observes and the result that enters. -/
theorem storeFrame : Obligations.StoreFrame := by
  intro s t g d a b z o i v j m x idx k hq hk hg hx hj hm hv core size va lanes keeps one each
  refine ⟨fun h => st_pushed hq hg hv hx h, ?amo, ?amo4, ?cas, ?cas4, ?vstg, ?vscg⟩
  case amo => exact fun h => atomic_exchanged hq hg hv hk ((slotOp_read hx _).symm.trans h)
  case amo4 => exact fun h => atomic_exchanged hq hg hv hk ((slotOp_read hx _).symm.trans h)
  case cas => exact fun h => compare_exchanged hq hg hv hk hx h
  case cas4 => exact fun h => compare_exchanged hq hg hv hk hx h
  case vstg => exact fun h => scatter_pushed hq hg hv ((slotOp_read hx _).symm.trans ((slotOp_read hm _).symm.trans h))
  case vscg =>
    exact fun h => scatter_pushed hq hg hv
      ((slotOp_read hj _).symm.trans ((slotOp_read hx _).symm.trans ((slotOp_read hm _).symm.trans h)))

end Sys2Proof.Machine
end
